-- ==== Sys2Proof/Word.lean ====
section
/-! DEFINITION. The word types of the B400 and their plainest arithmetic. -/

namespace Sys2Proof

/-- A 64-bit register, vector lane or uniform (R73). -/
abbrev Word := BitVec 64

/-- One byte of memory. -/
abbrev Byte := BitVec 8

/-- A lane mask of a crew, bit l for lane l (R23); 1024 lanes are the widest crew. -/
abbrev Mask := BitVec 1024

/-- The 128 bytes of a line, byte 0 lowest (R97). -/
abbrev LineData := BitVec 1024

/-- A tile shape record of 256 bits (R106). -/
abbrev Shape := BitVec 256

end Sys2Proof
end

