-- ==== Sys2Proof/Config.lean ====
section
/-! DEFINITION. What an implementation fixes and the manual leaves open: the free values, each an opaque
constant of which nothing can be proved. -/

namespace Sys2Proof.Config

/-- The estimate that an implementation gives for a form of Table 11-4 (slot, type code, input bits); it is
used only where it keeps the bound of that table (DESIGN CHOICE, log 6). -/
opaque estimate (slot type input : Nat) : Nat

/-- A lease granted after a line's first (R116): a free number, taken modulo the permitted range (DESIGN CHOICE, log 7). -/
opaque freeLease (draw : Nat) : Nat

/-- The home's choice among outcomes that the manual leaves unordered (DESIGN CHOICE, log 4). -/
opaque freeChoice (draw : Nat) : Nat

/-- Contents that the manual says are undefined or not stated (DESIGN CHOICE, log 4). -/
opaque freeWord (draw : Nat) : Word

/-- SHAKE256 of some bytes (R302, R342, R343): the manual names the function and does not define it (DESIGN CHOICE,
log 76). -/
opaque digest (bytes : List Byte) : Nat

/-- The ML-DSA-65 signature of the module's identity key over a report's items (R343, DESIGN CHOICE, log 76). -/
opaque sign (items : List Nat) : Nat

/-- The measurements of the images that ran before the state after reset (R342, DESIGN CHOICE, log 76). -/
opaque bootMeasures : List Nat

end Sys2Proof.Config
end

