-- ==== Sys2Proof/Syntax.lean ====
section
/-! DEFINITION. The syntax: the fields of an instruction word, the clause header, and `Instr`, one
constructor for each row of the opcode table. -/

namespace Sys2Proof

/-- Bits 95:64 of the 96-bit format (Table 08-3, R164). -/
structure Ext96 where
  srcc : BitVec 10
  uni : BitVec 10
  uv : Bool
  luc : Bool
  kpc : Bool
  ty2 : BitVec 5
  var2 : BitVec 4
  deriving DecidableEq, Repr

/-- Bits 127:64 of the memory form (Table 08-4, R166). -/
structure MemExt where
  mshp : BitVec 4
  mten : Bool
  mau : Bool
  mcrd : BitVec 10
  mcnt : BitVec 3
  mscp : BitVec 4
  mhnt : BitVec 3
  moff : BitVec 32
  deriving DecidableEq, Repr

/-- What follows the first 64 bits: nothing, the 96-bit extension, the immediate form (R165) or the
memory form (R166). (DESIGN CHOICE, log 59) -/
inductive Ext where
  | short
  | wide (e : Ext96)
  | imm (v : Word)
  | mem (m : MemExt)
  deriving DecidableEq, Repr

/-- The fields of an instruction word (Table 08-2, R162) without the opcode slot, which names the
constructor of `Instr`. -/
structure Fields where
  dst : BitVec 10
  srca : BitVec 10
  srcb : BitVec 10
  pred : BitVec 4
  pneg : Bool
  lua : Bool
  lub : Bool
  kpa : Bool
  kpb : Bool
  ty : BitVec 5
  rnd : BitVec 3
  sat : Bool
  var : BitVec 4
  ext : Ext
  deriving DecidableEq, Repr

/-- A clause header (Table 08-1, R159). -/
structure Header where
  wait : BitVec 12
  flga : BitVec 4
  flgb : BitVec 4
  clen : BitVec 6
  yld : Bool
  deriving DecidableEq, Repr

/-- An access that an agent outside the compute cores makes (R130, R325, R335, R441). -/
inductive ExtOp where
  | load (size : Nat)
  | store (data : List Byte)
  /-- an atomic of Table 12-3: operation, type and operand -/
  | atom (op ty : Nat) (value : Word)
  /-- a compare-and-swap of a type -/
  | cas (ty : Nat) (expected value : Word)
  /-- a load or a store of a managed page by an application core (R121) -/
  | managedLoad (size : Nat)
  | managedStore (data : List Byte)
  /-- `cbo.clean`, `cbo.inval`, `cbo.flush` -/
  | clean
  | inval
  | flush
  /-- a CXL.io read of range 0 by a drive or another PCIe function (R325) -/
  | ioLoad (size : Nat)
  /-- a read of the boot status word: over the management interface, or by an application core (R450) -/
  | bootStatus
  deriving DecidableEq, Repr

/-- The mode in which a hart of an application core accesses memory (R326, R335, R336): M and HS modes give device
physical addresses, VS and VU modes addresses of the tables that the guest shares with a context. -/
inductive AppMode where
  | machine
  | hypervisor
  | guest (ctx : Nat) (user : Bool)
  deriving DecidableEq, Repr

/-- The hart of an application core that accesses memory, in its mode (R335). -/
structure AppHart where
  core : Nat
  mode : AppMode
  deriving DecidableEq, Repr

/-- Where a peer's request comes from: the module, and the adit at which it arrives (R321, R441). -/
structure PeerPort where
  adit : Nat
  peer : Nat
  deriving DecidableEq, Repr

/-- What a hoist has done beyond the row that completes: rows below `begun` have begun, and the
elements listed (row, element) of begun rows have been written (R264). -/
structure Ahead where
  begun : Nat
  elems : List (Nat × Nat)
  deriving DecidableEq, Repr

/-- One copy of an image in flash (R449): its bytes, the digest in its signed manifest, whether the manifest's
signature verifies, and its security version. -/
structure ImageCopy where
  bytes : List Byte
  manifest : Nat
  signed : Bool
  version : BitVec 32
  deriving DecidableEq, Repr

/-- The two copies of an image (R449). -/
structure Image where
  a : ImageCopy
  b : ImageCopy
  deriving DecidableEq, Repr

/-- What the boot finds in flash, in the fuses and in the hardware (R342, R449 to R451). -/
structure BootInput where
  /-- the boot firmware, the I/O-core firmware and the hypervisor -/
  boot : Image
  io : Image
  hyp : Image
  /-- the minimum version fused in the chiplet -/
  fused : BitVec 32
  /-- pseudo-channels that do not train, and routers that do not start -/
  fenced : List Nat
  routers : List Nat
  keyOk : Bool
  deriving DecidableEq, Repr

/-- The instruction exceptions of Table 22-1. -/
inductive Exc where
  | rslot | rfield | rlen | rfetch | rclause | rreg | rtype | ropnd | ralign | rxlate | rperm
  | rstash | rtarget | rsplit | rlamp | rgang | rremote | rnest
  deriving DecidableEq, Repr

/-- The code of an exception (Table 22-1). -/
def Exc.code : Exc → Nat
  | .rslot => 1 | .rfield => 2 | .rlen => 3 | .rfetch => 4 | .rclause => 5 | .rreg => 6
  | .rtype => 7 | .ropnd => 8 | .ralign => 9 | .rxlate => 10 | .rperm => 11 | .rstash => 12
  | .rtarget => 13 | .rsplit => 14 | .rlamp => 15 | .rgang => 16 | .rremote => 17 | .rnest => 18

/-- One constructor for each row of the opcode table: instructions with their fields, assayer forms
with their registers, events with what the outside world chooses in them. The events that only the outside world
asks for stand last. -/
inductive Instr where
  /-- `nop`, R177. -/
  | nop (f : Fields)
  /-- `brk`, R178. -/
  | brk (f : Fields)
  /-- `br`, R179. -/
  | br (f : Fields)
  /-- `br.div`, R180. -/
  | brDiv (f : Fields)
  /-- `join`, R181. -/
  | join (f : Fields)
  /-- `call`, R182. -/
  | call (f : Fields)
  /-- `ret`, R182. -/
  | ret (f : Fields)
  /-- `exit`, R183. -/
  | exit (f : Fields)
  /-- DRAIN_END, R183. -/
  | drainEnd (crew : Nat)
  /-- `yield.cont`, R64. -/
  | yieldCont (f : Fields)
  /-- `flg.rd`, R185. -/
  | flgRd (f : Fields)
  /-- `flg.clr`, R185. -/
  | flgClr (f : Fields)
  /-- `lamp.join`, R187. -/
  | lampJoin (f : Fields)
  /-- `lamp.take`, R188. -/
  | lampTake (f : Fields)
  /-- `lamp.pass`, R188. -/
  | lampPass (f : Fields)
  /-- `csrr`, R192. -/
  | csrr (f : Fields)
  /-- `csrw`, R192. -/
  | csrw (f : Fields)
  /-- `uint.post`, R193. -/
  | uintPost (f : Fields)
  /-- `uint.ret`, R194. -/
  | uintRet (f : Fields)
  /-- `svc`, R195. -/
  | svc (f : Fields)
  /-- `waitc`, R186. -/
  | waitc (f : Fields)
  /-- `spawn`, R189. -/
  | spawn (f : Fields)
  /-- `nsig`, R190. -/
  | nsig (f : Fields)
  /-- `npub`, R191. -/
  | npub (f : Fields)
  /-- CLAUSE_HEADER, R160. -/
  | clauseHeader (h : Header)
  /-- `sadd`, R202. -/
  | sadd (f : Fields)
  /-- `ssub`, R202. -/
  | ssub (f : Fields)
  /-- `smul`, R202. -/
  | smul (f : Fields)
  /-- `smulh`, R202. -/
  | smulh (f : Fields)
  /-- `smad`, R202. -/
  | smad (f : Fields)
  /-- `sdivs`, R204. -/
  | sdivs (f : Fields)
  /-- `sand`, R202. -/
  | sand (f : Fields)
  /-- `sor`, R202. -/
  | sor (f : Fields)
  /-- `sxor`, R202. -/
  | sxor (f : Fields)
  /-- `sandn`, R202. -/
  | sandn (f : Fields)
  /-- `sshl`, R203. -/
  | sshl (f : Fields)
  /-- `sshr`, R203. -/
  | sshr (f : Fields)
  /-- `srol`, R203. -/
  | srol (f : Fields)
  /-- `sror`, R203. -/
  | sror (f : Fields)
  /-- `smov`, R202. -/
  | smov (f : Fields)
  /-- `scmp`, R206. -/
  | scmp (f : Fields)
  /-- `sbfx`, R205. -/
  | sbfx (f : Fields)
  /-- `sbfi`, R205. -/
  | sbfi (f : Fields)
  /-- `spopc`, R205. -/
  | spopc (f : Fields)
  /-- `sclz`, R205. -/
  | sclz (f : Fields)
  /-- `sctz`, R205. -/
  | sctz (f : Fields)
  /-- `sbrev`, R205. -/
  | sbrev (f : Fields)
  /-- `smin`, R205. -/
  | smin (f : Fields)
  /-- `smax`, R205. -/
  | smax (f : Fields)
  /-- `sabs`, R205. -/
  | sabs (f : Fields)
  /-- `ssel`, R205. -/
  | ssel (f : Fields)
  /-- `vadd`, R202. -/
  | vadd (f : Fields)
  /-- `vsub`, R202. -/
  | vsub (f : Fields)
  /-- `vmul`, R202. -/
  | vmul (f : Fields)
  /-- `vmulh`, R202. -/
  | vmulh (f : Fields)
  /-- `vmad`, R202. -/
  | vmad (f : Fields)
  /-- `vdivs`, R204. -/
  | vdivs (f : Fields)
  /-- `vand`, R202. -/
  | vand (f : Fields)
  /-- `vor`, R202. -/
  | vor (f : Fields)
  /-- `vxor`, R202. -/
  | vxor (f : Fields)
  /-- `vandn`, R202. -/
  | vandn (f : Fields)
  /-- `vshl`, R203. -/
  | vshl (f : Fields)
  /-- `vshr`, R203. -/
  | vshr (f : Fields)
  /-- `vrol`, R203. -/
  | vrol (f : Fields)
  /-- `vror`, R203. -/
  | vror (f : Fields)
  /-- `vmov`, R202. -/
  | vmov (f : Fields)
  /-- `vbfx`, R205. -/
  | vbfx (f : Fields)
  /-- `vbfi`, R205. -/
  | vbfi (f : Fields)
  /-- `vpopc`, R205. -/
  | vpopc (f : Fields)
  /-- `vclz`, R205. -/
  | vclz (f : Fields)
  /-- `vctz`, R205. -/
  | vctz (f : Fields)
  /-- `vbrev`, R205. -/
  | vbrev (f : Fields)
  /-- `vmin`, R205. -/
  | vmin (f : Fields)
  /-- `vmax`, R205. -/
  | vmax (f : Fields)
  /-- `vabs`, R205. -/
  | vabs (f : Fields)
  /-- `vsel`, R206. -/
  | vsel (f : Fields)
  /-- `vcmp`, R206. -/
  | vcmp (f : Fields)
  /-- `vplog`, R207. -/
  | vplog (f : Fields)
  /-- `vpadd`, R208. -/
  | vpadd (f : Fields)
  /-- `vpsub`, R208. -/
  | vpsub (f : Fields)
  /-- `vpmul`, R208. -/
  | vpmul (f : Fields)
  /-- `vpmin`, R208. -/
  | vpmin (f : Fields)
  /-- `vpmax`, R208. -/
  | vpmax (f : Fields)
  /-- `vpavg`, R208. -/
  | vpavg (f : Fields)
  /-- `vpabd`, R208. -/
  | vpabd (f : Fields)
  /-- `vpshl`, R208. -/
  | vpshl (f : Fields)
  /-- `vpshr`, R208. -/
  | vpshr (f : Fields)
  /-- `vpdot`, R208. -/
  | vpdot (f : Fields)
  /-- `vpack`, R208. -/
  | vpack (f : Fields)
  /-- `vunpk`, R208. -/
  | vunpk (f : Fields)
  /-- `sadrt`, R210. -/
  | sadrt (f : Fields)
  /-- `sshpr`, R209. -/
  | sshpr (f : Fields)
  /-- `sshpw`, R209. -/
  | sshpw (f : Fields)
  /-- `sshpb`, R209. -/
  | sshpb (f : Fields)
  /-- `vadrt`, R210. -/
  | vadrt (f : Fields)
  /-- `vinrt`, R209. -/
  | vinrt (f : Fields)
  /-- `vfadd`, R218. -/
  | vfadd (f : Fields)
  /-- `vfsub`, R218. -/
  | vfsub (f : Fields)
  /-- `vfmul`, R218. -/
  | vfmul (f : Fields)
  /-- `vfma`, R218. -/
  | vfma (f : Fields)
  /-- `vfms`, R218. -/
  | vfms (f : Fields)
  /-- `vfnma`, R218. -/
  | vfnma (f : Fields)
  /-- `vfnms`, R218. -/
  | vfnms (f : Fields)
  /-- `vfmin`, R219. -/
  | vfmin (f : Fields)
  /-- `vfmax`, R219. -/
  | vfmax (f : Fields)
  /-- `vfneg`, R220. -/
  | vfneg (f : Fields)
  /-- `vfabs`, R220. -/
  | vfabs (f : Fields)
  /-- `vfcsgn`, R220. -/
  | vfcsgn (f : Fields)
  /-- `vfdot2`, R222. -/
  | vfdot2 (f : Fields)
  /-- `vfrnd`, R221. -/
  | vfrnd (f : Fields)
  /-- `sfadd`, R218. -/
  | sfadd (f : Fields)
  /-- `sfsub`, R218. -/
  | sfsub (f : Fields)
  /-- `sfmul`, R218. -/
  | sfmul (f : Fields)
  /-- `sfma`, R218. -/
  | sfma (f : Fields)
  /-- `sfmin`, R219. -/
  | sfmin (f : Fields)
  /-- `sfmax`, R219. -/
  | sfmax (f : Fields)
  /-- `vfcmp`, R223. -/
  | vfcmp (f : Fields)
  /-- `sfcmp`, R223. -/
  | sfcmp (f : Fields)
  /-- `vfcmpm`, R224. -/
  | vfcmpm (f : Fields)
  /-- `vfclass`, R225. -/
  | vfclass (f : Fields)
  /-- `vfrcpe`, R226. -/
  | vfrcpe (f : Fields)
  /-- `vfrsqe`, R226. -/
  | vfrsqe (f : Fields)
  /-- `vfrcps`, R226. -/
  | vfrcps (f : Fields)
  /-- `vfrsqs`, R226. -/
  | vfrsqs (f : Fields)
  /-- `vfex2`, R226. -/
  | vfex2 (f : Fields)
  /-- `vflg2`, R226. -/
  | vflg2 (f : Fields)
  /-- `vfsinpi`, R226. -/
  | vfsinpi (f : Fields)
  /-- `vfcospi`, R226. -/
  | vfcospi (f : Fields)
  /-- `vftanh`, R226. -/
  | vftanh (f : Fields)
  /-- `vcvt`, R228. -/
  | vcvt (f : Fields)
  /-- `scvt`, R228. -/
  | scvt (f : Fields)
  /-- `vperm`, R232. -/
  | vperm (f : Fields)
  /-- `vmatch`, R233. -/
  | vmatch (f : Fields)
  /-- `vvote`, R234. -/
  | vvote (f : Fields)
  /-- `vred`, R235. -/
  | vred (f : Fields)
  /-- `vscan`, R236. -/
  | vscan (f : Fields)
  /-- `vrdl`, R237. -/
  | vrdl (f : Fields)
  /-- `ld`, R243. -/
  | ld (f : Fields)
  /-- `st`, R243. -/
  | st (f : Fields)
  /-- `lds`, R243. -/
  | lds (f : Fields)
  /-- `sts`, R243. -/
  | sts (f : Fields)
  /-- `sld`, R243. -/
  | sld (f : Fields)
  /-- `sst`, R243. -/
  | sst (f : Fields)
  /-- `slds`, R243. -/
  | slds (f : Fields)
  /-- `ssts`, R243. -/
  | ssts (f : Fields)
  /-- `smap`, R103. -/
  | smap (f : Fields)
  /-- `sunmap`, R247. -/
  | sunmap (f : Fields)
  /-- `sflush`, R247. -/
  | sflush (f : Fields)
  /-- STASH_WRITEBACK_DONE, R247. -/
  | stashWritebackDone (core index : Nat)
  /-- `cwb`, R122. -/
  | cwb (f : Fields)
  /-- `cinv`, R122. -/
  | cinv (f : Fields)
  /-- `atom`, R249. -/
  | atom (f : Fields)
  /-- `atom.cas`, R250. -/
  | atomCas (f : Fields)
  /-- `satom`, R249. -/
  | satom (f : Fields)
  /-- `satom.cas`, R250. -/
  | satomCas (f : Fields)
  /-- `red`, R251. -/
  | red (f : Fields)
  /-- `sred`, R251. -/
  | sred (f : Fields)
  /-- `fence`, R252. -/
  | fence (f : Fields)
  /-- `amsg`, R253. -/
  | amsg (f : Fields)
  /-- AMSG_REPLY, R253. -/
  | amsgReply (request : Nat)
  /-- `gbar.arr`, R254. -/
  | gbarArr (f : Fields)
  /-- `gbar.wait`, R254. -/
  | gbarWait (f : Fields)
  /-- `coll.ag`, R255. -/
  | collAg (f : Fields)
  /-- `coll.rs`, R255. -/
  | collRs (f : Fields)
  /-- `coll.a2a`, R255. -/
  | collA2a (f : Fields)
  /-- `coll.bar`, R256. -/
  | collBar (f : Fields)
  /-- `hcp`, R260. -/
  | hcp (f : Fields)
  /-- `hgth`, R262. -/
  | hgth (f : Fields)
  /-- `hsct`, R262. -/
  | hsct (f : Fields)
  /-- `hcmp`, R266. -/
  | hcmp (f : Fields)
  /-- `hpub`, R267. -/
  | hpub (f : Fields)
  /-- HPUB_EXCHANGE, R127. -/
  | hpubExchange (core entry : Nat)
  /-- `cwait`, R268. -/
  | cwait (f : Fields)
  /-- HOIST_ROW_DONE, R264. -/
  | hoistRowDone (core slot : Nat) (ahead : Ahead)
  /-- HOIST_WATCHDOG_EXPIRE, R424. -/
  | hoistWatchdogExpire (core slot : Nat)
  /-- `mld`, R270. -/
  | mld (f : Fields)
  /-- `mmul`, R271. -/
  | mmul (f : Fields)
  /-- `mzero`, R272. -/
  | mzero (f : Fields)
  /-- `mrd`, R273. -/
  | mrd (f : Fields)
  /-- `mred`, R274. -/
  | mred (f : Fields)
  /-- `mwait`, R275. -/
  | mwait (f : Fields)
  /-- `mkw`, R276. -/
  | mkw (f : Fields)
  /-- `mkr`, R276. -/
  | mkr (f : Fields)
  /-- `bsel.topk`, R277. -/
  | bselTopk (f : Fields)
  /-- MMUL_ROW_COMMIT, R279. -/
  | mmulRowCommit (core : Nat)
  /-- ENGINE_INSN_DONE, R275. -/
  | engineInsnDone (core : Nat)
  /-- `lode.bind`, R281. -/
  | lodeBind (f : Fields)
  /-- `lode.free`, R283. -/
  | lodeFree (f : Fields)
  /-- `ladd`, R288. -/
  | ladd (f : Fields)
  /-- `lsub`, R288. -/
  | lsub (f : Fields)
  /-- `lneg`, R289. -/
  | lneg (f : Fields)
  /-- `lshl`, R290. -/
  | lshl (f : Fields)
  /-- `lshr`, R290. -/
  | lshr (f : Fields)
  /-- `lcmp`, R291. -/
  | lcmp (f : Fields)
  /-- `lclz`, R291. -/
  | lclz (f : Fields)
  /-- `lmulw`, R292. -/
  | lmulw (f : Fields)
  /-- `lmacw`, R292. -/
  | lmacw (f : Fields)
  /-- `lacc`, R293. -/
  | lacc (f : Fields)
  /-- `lround`, R294. -/
  | lround (f : Fields)
  /-- `as.evt`, R313. -/
  | asEvt (rd : BitVec 5)
  /-- `as.ld`, R308. -/
  | asLd (rd rs1 : BitVec 5)
  /-- `as.st`, R308. -/
  | asSt (rs1 rs2 : BitVec 5)
  /-- `as.cas`, R308. -/
  | asCas (rd rs1 rs2 rs3 : BitVec 5)
  /-- `as.pf`, R309. -/
  | asPf (rs1 rs2 : BitVec 5)
  /-- `as.wake`, R310. -/
  | asWake (rs1 : BitVec 5)
  /-- `as.msg`, R311. -/
  | asMsg (rd rs1 : BitVec 5)
  /-- `as.tlb`, R312. -/
  | asTlb (rd rs1 : BitVec 5)
  /-- `as.left`, R313. -/
  | asLeft (rd : BitVec 5)
  /-- `as.done`, R313. -/
  | asDone
  /-- HANDLER_DISPATCH, R304. -/
  | handlerDispatch (slice : Nat)
  /-- HANDLER_BUDGET_EXPIRE, R432. -/
  | handlerBudgetExpire (slice : Nat)
  /-- ACCEPT_LAUNCH, R53. -/
  | acceptLaunch (ring : Nat)
  /-- CLAIM_CREWS, R55. -/
  | claimCrews (die count : Nat)
  /-- PLACE_CREW, R56. -/
  | placeCrew (crew : Nat)
  /-- PLACE_CLOSURE, R58. -/
  | placeClosure (die : Nat)
  /-- WARM_WAIT_EXPIRE, R56. -/
  | warmWaitExpire (crew : Nat)
  /-- RESERVATION_START, R59. -/
  | reservationStart (crew : Nat)
  /-- BIN_TIMER_EXPIRE, R39. -/
  | binTimerExpire (ctx node die : Nat)
  /-- BIN_STALL_TIMER, R398. -/
  | binStallTimer (crew : Nat)
  /-- SWAP_OUT, R67. -/
  | swapOut (crew : Nat)
  /-- SWAP_IN, R67. -/
  | swapIn (crew : Nat)
  /-- MONITOR_RECHECK, R66. -/
  | monitorRecheck (crew entry : Nat)
  /-- MONITOR_AUDIT, R416. -/
  | monitorAudit (slice : Nat)
  /-- WAITC_REPLY, R65. -/
  | waitcReply (crew entry : Nat)
  /-- STOCKPILE_REFRESH_END, R110. -/
  | stockpileRefreshEnd (die group : Nat)
  /-- CREW_HALT, R50. -/
  | crewHalt (ctx : Nat)
  /-- CREW_SAVE, R70. -/
  | crewSave (core ctx : Nat)
  /-- SAVE_DELAY_TIMER, R399. -/
  | saveDelayTimer (crew : Nat)
  /-- CREW_RESTORE, R51. -/
  | crewRestore (ctx : Nat)
  /-- CREW_WATCHDOG_EXPIRE, R391. -/
  | crewWatchdogExpire (crew : Nat)
  /-- KICK, R329. -/
  | kick (ring : Nat)
  /-- COMPLETION_RECORD, R332. -/
  | completionRecord (ring : Nat)
  /-- NO_OPERATION, R330. -/
  | noOperation (ring : Nat)
  /-- SEAL, R109. -/
  | seal (ring : Nat)
  /-- UNSEAL, R109. -/
  | unseal (ring : Nat)
  /-- PREEMPT, R70. -/
  | preempt (ring : Nat)
  /-- RESUME, R51. -/
  | resume (ring : Nat)
  /-- INVALIDATE_TRANSLATIONS, R94. -/
  | invalidateTranslations (ring : Nat)
  /-- INSTALL_ASSAYERS, R302. -/
  | installAssayers (ring : Nat)
  /-- REMOVE_ASSAYERS, R303. -/
  | removeAssayers (ring : Nat)
  /-- DEBUG_RESUME, R378. -/
  | debugResume (ring : Nat)
  /-- JOIN_MODULE_GANG, R322. -/
  | joinModuleGang (ring : Nat)
  /-- POWER_EVALUATION, R17. -/
  | powerEvaluation (die : Nat) (duties : List (Nat × Nat × Nat))
  /-- COLLECTIVE_COMPLETE, R256. -/
  | collectiveComplete (launch gang : Nat)
  /-- MACRO_SELF_TEST, R429. -/
  | macroSelfTest (core : Nat) (failing : Option (Nat × Nat))
  /-- LOAD_RETURN, R63. -/
  | loadReturn (request : Nat) (data : List Byte) (bad : Bool)
  /-- PAGE_WALK_DONE, R94. -/
  | pageWalkDone (die ctx : Nat) (va : Word) (write : Bool)
  /-- REMOTE_ERROR_RESPONSE, R374. -/
  | remoteErrorResponse (request reason : Nat)
  /-- CONTEXT_INVALIDATE, R334. -/
  | contextInvalidate (ctx : Nat)
  /-- SUPERVISOR_TAKE, R337. -/
  | supervisorTake (ctx : Nat) (debug : Bool) (index : Nat)
  /-- SUPERVISOR_DONE, R337. -/
  | supervisorDone (ctx : Nat) (debug : Bool) (index : Nat) (reply : Word)
  /-- ISLAND_CEILING_WRITE, R341. -/
  | islandCeilingWrite (island ceil : Nat)
  /-- HOUSEKEEPING_WRITE, R326. -/
  | housekeepingWrite (addr : Nat) (value : Word)
  /-- HOST_ACCESS, R130. -/
  | hostAccess (port : Nat) (addr : Nat) (op : ExtOp)
  /-- PEER_REQUEST, R441. -/
  | peerRequest (source : PeerPort) (number : Nat) (addr : Nat) (op : ExtOp)
  /-- IO_DEVICE_WRITE, R325. -/
  | ioDeviceWrite (port : Nat) (addr : Nat) (data : List Byte)
  /-- CXL_COMPLETION_TIMEOUT, R404. -/
  | cxlCompletionTimeout (request : Nat)
  /-- CXL_PORT_DOWN, R446. -/
  | cxlPortDown (port : Nat)
  /-- ROUTER_FAIL, R436. -/
  | routerFail (router : Nat)
  /-- MESH_RESEND, R438. -/
  | meshResend (router : Nat)
  /-- UCIE_LINK_DOWN, R440. -/
  | ucieLinkDown (link : Nat)
  /-- ADIT_RESEND, R441. -/
  | aditResend (request : Nat)
  /-- ADIT_PORT_DOWN, R441. -/
  | aditPortDown (port : Nat)
  /-- IO_CORE_FAIL, R445. -/
  | ioCoreFail (ioCore : Nat)
  /-- STOCKPILE_SCRUB, R368. -/
  | stockpileScrub (die group : Nat) (found : List (Nat × Bool))
  /-- HBM_PATROL_SCRUB, R368. -/
  | hbmPatrolScrub (found : List (Nat × Bool))
  /-- POWER_UP, R342. -/
  | powerUp (boot : BootInput)
  /-- ATTESTATION_REQUEST, R343. -/
  | attestationRequest (ctx : Nat) (nonce : List Byte)
  /-- WRITE_ACKNOWLEDGEMENT, R131. -/
  | writeAcknowledgement (request : Nat)
  /-- PROGRAM_TIMESTAMP_ADVANCE, R116. -/
  | programTimestampAdvance (crew : Nat)
  /-- MANAGED_COPY_EVICTION, R121. -/
  | managedCopyEviction (core line : Nat)
  /-- LINE_FILL, R299. -/
  | lineFill (line : Nat) (victim : Option Nat)
  /-- ENGINE_WATCHDOG_EXPIRE, R427. -/
  | engineWatchdogExpire (core : Nat)
  /-- CXL_PORT_UP, R446. -/
  | cxlPortUp (port : Nat)
  /-- POWER_LOSS, R342. -/
  | powerLoss
  /-- APPLICATION_CORE_ACCESS, R335. -/
  | applicationCoreAccess (appCore : AppHart) (addr : Nat) (op : ExtOp)
  deriving DecidableEq, Repr

end Sys2Proof
end

