-- ==== Sys2Proof/Machine/Forms.lean ====
section
/-! DEFINITION. The opcode map (Table 08-5) as a list of rows, one for each assigned slot: its
constructor and what its entry says of its fields, from Tables 09-1, 10-1 to 10-4, 11-1 and 11-4,
12-1, 13-1 and 14-2. -/

namespace Sys2Proof

/-- What an operand field of a form names. -/
inductive Role where
  /-- unused: the field and its marks must be zero (R162) -/
  | zero
  /-- vector source: v0 to v767 or a special source (R76) -/
  | vec
  /-- vector source B: as `vec`, or a uniform register through UNI, or IMM (R165, R199) -/
  | vecB
  /-- vector register v0 to v767, no special source -/
  | vreg
  /-- coordinate run in vector registers, no mark (R209) -/
  | vcoord
  /-- uniform source: s0 to s767 or a special source (R76) -/
  | uni
  /-- uniform source B: as `uni`, or through UNI, or IMM -/
  | uniB
  /-- uniform source of lode.bind: s0 to s767, a constant, or IMM (Table 14-2) -/
  | uniI
  /-- uniform register s0 to s767, no special source -/
  | ureg
  /-- coordinate run in uniform registers, no mark (R209) -/
  | ucoord
  /-- uniform register by its number, 0 to 1023 (R284) -/
  | unum
  /-- first uniform register of a hoist control block (R259) -/
  | ublock
  /-- memory address register, whose class MAU gives (R166, R240) -/
  | addr
  /-- uniform index: a constant, a uniform register through UNI, or IMM (R234, R237) -/
  | index
  /-- predicate, tile mask, shape register or accumulator by its number -/
  | pnum | knum | tnum | anum
  /-- a number that is the operand itself: node index, or the constant of brk -/
  | number
  /-- vector destination v0 to v767, uniform destination s0 to s1023 -/
  | vdst | udst
  deriving DecidableEq, Repr

/-- What a slot's entry says of the form's lengths and fields. Sets of codes are bit masks. -/
structure Form where
  l64 : Bool := false
  l96 : Bool := false
  l128 : Bool := false
  /-- issues on the uniform side (R174) -/
  uniform : Bool := false
  /-- PRED and PNEG predicate the form, or carry its condition or selector -/
  pred : Bool := false
  dst : Role := .zero
  a : Role := .zero
  b : Role := .zero
  c : Role := .zero
  /-- permitted TYPE codes; 0: TYPE is unused -/
  types : Nat := 0
  types2 : Nat := 0
  rnd : Nat := 0
  sat : Bool := false
  /-- permitted VAR codes -/
  vars : Nat := 1
  /-- permitted VAR2 codes -/
  var2 : Nat := 1
  /-- takes a view through VAR2 (R198) -/
  view : Bool := false
  /-- the 128-bit format is the memory form -/
  mem : Bool := false
  /-- flag-setting (R160) -/
  flagSet : Bool := false
  /-- engine instruction: only the lamp holder issues it (R258) -/
  engine : Bool := false
  deriving DecidableEq, Repr

/-- One assigned slot. -/
structure Row where
  slot : Nat
  make : Fields → Instr
  form : Form

/-- The forms of Table 09-1. The comparand of `waitc`, the count of `npub` and the value of `csrw` take every special
source that R76 gives a source field, though R186, R191 and R192 name only a constant (DESIGN CHOICE, log 63). -/
def rowsControl : List Row := [
  ⟨0x000, .nop,
    { l64 := true, l96 := true, l128 := true, uniform := true }⟩,
  ⟨0x007, .brk,
    { l64 := true, uniform := true, a := .number }⟩,
  ⟨0x008, .br,
    { l128 := true, uniform := true, pred := true, a := .uni, vars := 0xf }⟩,
  ⟨0x009, .brDiv,
    { l128 := true, pred := true }⟩,
  ⟨0x00A, .join,
    { l64 := true, uniform := true }⟩,
  ⟨0x00B, .call,
    { l128 := true, uniform := true, dst := .udst }⟩,
  ⟨0x00C, .ret,
    { l64 := true, uniform := true, a := .uni }⟩,
  ⟨0x00D, .exit,
    { l64 := true, pred := true }⟩,
  ⟨0x00E, .yieldCont,
    { l128 := true, uniform := true, vars := 0xfff }⟩,
  ⟨0x020, .flgRd,
    { l64 := true, uniform := true, dst := .udst }⟩,
  ⟨0x021, .flgClr,
    { l64 := true, uniform := true, vars := 0xfff }⟩,
  ⟨0x030, .lampJoin,
    { l64 := true, uniform := true }⟩,
  ⟨0x031, .lampTake,
    { l64 := true, uniform := true }⟩,
  ⟨0x032, .lampPass,
    { l64 := true, uniform := true }⟩,
  ⟨0x040, .csrr,
    { l64 := true, uniform := true, dst := .udst, vars := 0xf }⟩,
  ⟨0x041, .csrw,
    { l64 := true, uniform := true, a := .uni, vars := 0x7 }⟩,
  ⟨0x042, .uintPost,
    { l64 := true, uniform := true, dst := .udst, a := .uni, vars := 0x3 }⟩,
  ⟨0x043, .uintRet,
    { l64 := true, uniform := true }⟩,
  ⟨0x044, .svc,
    { l64 := true, uniform := true, a := .uni, b := .uni, flagSet := true }⟩,
  ⟨0x368, .waitc,
    { l128 := true, uniform := true, dst := .udst, a := .addr, b := .uni, types := 0xc0, vars := 0xff, mem := true }⟩,
  ⟨0x3D0, .spawn,
    { l64 := true, pred := true, dst := .number, a := .vreg }⟩,
  ⟨0x3D1, .nsig,
    { l64 := true, l128 := true, pred := true, a := .addr, mem := true }⟩,
  ⟨0x3D2, .npub,
    { l96 := true, pred := true, dst := .number, a := .vreg, b := .vecB, c := .vreg }⟩]

def rowsUniform : List Row := [
  ⟨0x080, .sadd,
    { l64 := true, l96 := true, l128 := true, uniform := true, pred := true, dst := .udst, a := .uni, b := .uniB, types := 0xff, sat := true, var2 := 0xff01, view := true }⟩,
  ⟨0x081, .ssub,
    { l64 := true, l96 := true, l128 := true, uniform := true, pred := true, dst := .udst, a := .uni, b := .uniB, types := 0xff, sat := true, var2 := 0xff01, view := true }⟩,
  ⟨0x082, .smul,
    { l64 := true, l96 := true, l128 := true, uniform := true, pred := true, dst := .udst, a := .uni, b := .uniB, types := 0xff, sat := true, var2 := 0xff01, view := true }⟩,
  ⟨0x083, .smulh,
    { l64 := true, l96 := true, l128 := true, uniform := true, pred := true, dst := .udst, a := .uni, b := .uniB, types := 0xff, var2 := 0xff01, view := true }⟩,
  ⟨0x084, .smad,
    { l96 := true, uniform := true, pred := true, dst := .udst, a := .uni, b := .uniB, c := .uni, types := 0xff, sat := true, var2 := 0xff01, view := true }⟩,
  ⟨0x085, .sdivs,
    { l64 := true, l96 := true, l128 := true, uniform := true, pred := true, dst := .udst, a := .uni, b := .uniB, types := 0x20, vars := 0xffff, var2 := 0xff01, view := true }⟩,
  ⟨0x086, .sand,
    { l64 := true, l96 := true, l128 := true, uniform := true, pred := true, dst := .udst, a := .uni, b := .uniB, types := 0xff, var2 := 0xff01, view := true }⟩,
  ⟨0x087, .sor,
    { l64 := true, l96 := true, l128 := true, uniform := true, pred := true, dst := .udst, a := .uni, b := .uniB, types := 0xff, var2 := 0xff01, view := true }⟩,
  ⟨0x088, .sxor,
    { l64 := true, l96 := true, l128 := true, uniform := true, pred := true, dst := .udst, a := .uni, b := .uniB, types := 0xff, var2 := 0xff01, view := true }⟩,
  ⟨0x089, .sandn,
    { l64 := true, l96 := true, l128 := true, uniform := true, pred := true, dst := .udst, a := .uni, b := .uniB, types := 0xff, var2 := 0xff01, view := true }⟩,
  ⟨0x08A, .sshl,
    { l64 := true, l96 := true, l128 := true, uniform := true, pred := true, dst := .udst, a := .uni, b := .uniB, types := 0xff, sat := true, var2 := 0xff01, view := true }⟩,
  ⟨0x08B, .sshr,
    { l64 := true, l96 := true, l128 := true, uniform := true, pred := true, dst := .udst, a := .uni, b := .uniB, types := 0xff, var2 := 0xff01, view := true }⟩,
  ⟨0x08C, .srol,
    { l64 := true, l96 := true, l128 := true, uniform := true, pred := true, dst := .udst, a := .uni, b := .uniB, types := 0xff, var2 := 0xff01, view := true }⟩,
  ⟨0x08D, .sror,
    { l64 := true, l96 := true, l128 := true, uniform := true, pred := true, dst := .udst, a := .uni, b := .uniB, types := 0xff, var2 := 0xff01, view := true }⟩,
  ⟨0x08E, .smov,
    { l64 := true, l96 := true, l128 := true, uniform := true, pred := true, dst := .udst, b := .uniB, types := 0xff, var2 := 0xff01, view := true }⟩,
  ⟨0x090, .scmp,
    { l64 := true, l96 := true, l128 := true, uniform := true, pred := true, dst := .udst, a := .uni, b := .uniB, types := 0xff, vars := 0xff, var2 := 0xff01, view := true }⟩,
  ⟨0x0C0, .sbfx,
    { l64 := true, l96 := true, l128 := true, uniform := true, pred := true, dst := .udst, a := .uni, b := .uniB, types := 0xff, var2 := 0xff01, view := true }⟩,
  ⟨0x0C1, .sbfi,
    { l96 := true, uniform := true, pred := true, dst := .udst, a := .uni, b := .uniB, c := .uni, types := 0xff, var2 := 0xff01, view := true }⟩,
  ⟨0x0C2, .spopc,
    { l64 := true, l96 := true, uniform := true, pred := true, dst := .udst, a := .uni, types := 0xff, var2 := 0xff01, view := true }⟩,
  ⟨0x0C3, .sclz,
    { l64 := true, l96 := true, uniform := true, pred := true, dst := .udst, a := .uni, types := 0xff, var2 := 0xff01, view := true }⟩,
  ⟨0x0C4, .sctz,
    { l64 := true, l96 := true, uniform := true, pred := true, dst := .udst, a := .uni, types := 0xff, var2 := 0xff01, view := true }⟩,
  ⟨0x0C5, .sbrev,
    { l64 := true, l96 := true, uniform := true, pred := true, dst := .udst, a := .uni, types := 0xff, var2 := 0xff01, view := true }⟩,
  ⟨0x0C6, .smin,
    { l64 := true, l96 := true, l128 := true, uniform := true, pred := true, dst := .udst, a := .uni, b := .uniB, types := 0xff, var2 := 0xff01, view := true }⟩,
  ⟨0x0C7, .smax,
    { l64 := true, l96 := true, l128 := true, uniform := true, pred := true, dst := .udst, a := .uni, b := .uniB, types := 0xff, var2 := 0xff01, view := true }⟩,
  ⟨0x0C8, .sabs,
    { l64 := true, l96 := true, uniform := true, pred := true, dst := .udst, a := .uni, types := 0xff, sat := true, var2 := 0xff01, view := true }⟩,
  ⟨0x0C9, .ssel,
    { l96 := true, uniform := true, pred := true, dst := .udst, a := .uni, b := .uniB, c := .uni, types := 0xff, var2 := 0xff01, view := true }⟩]

def rowsVector : List Row := [
  ⟨0x100, .vadd,
    { l64 := true, l96 := true, l128 := true, pred := true, dst := .vdst, a := .vec, b := .vecB, types := 0xff, sat := true, var2 := 0xff01, view := true }⟩,
  ⟨0x101, .vsub,
    { l64 := true, l96 := true, l128 := true, pred := true, dst := .vdst, a := .vec, b := .vecB, types := 0xff, sat := true, var2 := 0xff01, view := true }⟩,
  ⟨0x102, .vmul,
    { l64 := true, l96 := true, l128 := true, pred := true, dst := .vdst, a := .vec, b := .vecB, types := 0xff, sat := true, var2 := 0xff01, view := true }⟩,
  ⟨0x103, .vmulh,
    { l64 := true, l96 := true, l128 := true, pred := true, dst := .vdst, a := .vec, b := .vecB, types := 0xff, var2 := 0xff01, view := true }⟩,
  ⟨0x104, .vmad,
    { l96 := true, pred := true, dst := .vdst, a := .vec, b := .vecB, c := .vec, types := 0xff, sat := true, var2 := 0xff01, view := true }⟩,
  ⟨0x105, .vdivs,
    { l64 := true, l96 := true, l128 := true, pred := true, dst := .vdst, a := .vec, b := .vecB, types := 0x20, vars := 0xffff, var2 := 0xff01, view := true }⟩,
  ⟨0x106, .vand,
    { l64 := true, l96 := true, l128 := true, pred := true, dst := .vdst, a := .vec, b := .vecB, types := 0xff, var2 := 0xff01, view := true }⟩,
  ⟨0x107, .vor,
    { l64 := true, l96 := true, l128 := true, pred := true, dst := .vdst, a := .vec, b := .vecB, types := 0xff, var2 := 0xff01, view := true }⟩,
  ⟨0x108, .vxor,
    { l64 := true, l96 := true, l128 := true, pred := true, dst := .vdst, a := .vec, b := .vecB, types := 0xff, var2 := 0xff01, view := true }⟩,
  ⟨0x109, .vandn,
    { l64 := true, l96 := true, l128 := true, pred := true, dst := .vdst, a := .vec, b := .vecB, types := 0xff, var2 := 0xff01, view := true }⟩,
  ⟨0x10A, .vshl,
    { l64 := true, l96 := true, l128 := true, pred := true, dst := .vdst, a := .vec, b := .vecB, types := 0xff, sat := true, var2 := 0xff01, view := true }⟩,
  ⟨0x10B, .vshr,
    { l64 := true, l96 := true, l128 := true, pred := true, dst := .vdst, a := .vec, b := .vecB, types := 0xff, var2 := 0xff01, view := true }⟩,
  ⟨0x10C, .vrol,
    { l64 := true, l96 := true, l128 := true, pred := true, dst := .vdst, a := .vec, b := .vecB, types := 0xff, var2 := 0xff01, view := true }⟩,
  ⟨0x10D, .vror,
    { l64 := true, l96 := true, l128 := true, pred := true, dst := .vdst, a := .vec, b := .vecB, types := 0xff, var2 := 0xff01, view := true }⟩,
  ⟨0x10E, .vmov,
    { l64 := true, l96 := true, l128 := true, pred := true, dst := .vdst, b := .vecB, types := 0xff, var2 := 0xff01, view := true }⟩,
  ⟨0x140, .vbfx,
    { l64 := true, l96 := true, l128 := true, pred := true, dst := .vdst, a := .vec, b := .vecB, types := 0xff, var2 := 0xff01, view := true }⟩,
  ⟨0x141, .vbfi,
    { l96 := true, pred := true, dst := .vdst, a := .vec, b := .vecB, c := .vec, types := 0xff, var2 := 0xff01, view := true }⟩,
  ⟨0x142, .vpopc,
    { l64 := true, l96 := true, pred := true, dst := .vdst, a := .vec, types := 0xff, var2 := 0xff01, view := true }⟩,
  ⟨0x143, .vclz,
    { l64 := true, l96 := true, pred := true, dst := .vdst, a := .vec, types := 0xff, var2 := 0xff01, view := true }⟩,
  ⟨0x144, .vctz,
    { l64 := true, l96 := true, pred := true, dst := .vdst, a := .vec, types := 0xff, var2 := 0xff01, view := true }⟩,
  ⟨0x145, .vbrev,
    { l64 := true, l96 := true, pred := true, dst := .vdst, a := .vec, types := 0xff, var2 := 0xff01, view := true }⟩,
  ⟨0x146, .vmin,
    { l64 := true, l96 := true, l128 := true, pred := true, dst := .vdst, a := .vec, b := .vecB, types := 0xff, var2 := 0xff01, view := true }⟩,
  ⟨0x147, .vmax,
    { l64 := true, l96 := true, l128 := true, pred := true, dst := .vdst, a := .vec, b := .vecB, types := 0xff, var2 := 0xff01, view := true }⟩,
  ⟨0x148, .vabs,
    { l64 := true, l96 := true, pred := true, dst := .vdst, a := .vec, types := 0xff, sat := true, var2 := 0xff01, view := true }⟩,
  ⟨0x149, .vsel,
    { l64 := true, l96 := true, l128 := true, pred := true, dst := .vdst, a := .vec, b := .vecB, types := 0xff, var2 := 0xff01, view := true }⟩,
  ⟨0x150, .vcmp,
    { l64 := true, l96 := true, l128 := true, pred := true, dst := .pnum, a := .vec, b := .vecB, types := 0xff, vars := 0xff, var2 := 0xff01, view := true }⟩,
  ⟨0x151, .vplog,
    { l64 := true, pred := true, dst := .pnum, a := .pnum, b := .pnum, types := 0x80, vars := 0x1f }⟩]

def rowsPacked : List Row := [
  ⟨0x170, .vpadd,
    { l64 := true, l96 := true, l128 := true, pred := true, dst := .vdst, a := .vec, b := .vecB, types := 0x3f, sat := true }⟩,
  ⟨0x171, .vpsub,
    { l64 := true, l96 := true, l128 := true, pred := true, dst := .vdst, a := .vec, b := .vecB, types := 0x3f, sat := true }⟩,
  ⟨0x172, .vpmul,
    { l64 := true, l96 := true, l128 := true, pred := true, dst := .vdst, a := .vec, b := .vecB, types := 0x3f, sat := true }⟩,
  ⟨0x173, .vpmin,
    { l64 := true, l96 := true, l128 := true, pred := true, dst := .vdst, a := .vec, b := .vecB, types := 0x3f }⟩,
  ⟨0x174, .vpmax,
    { l64 := true, l96 := true, l128 := true, pred := true, dst := .vdst, a := .vec, b := .vecB, types := 0x3f }⟩,
  ⟨0x175, .vpavg,
    { l64 := true, l96 := true, l128 := true, pred := true, dst := .vdst, a := .vec, b := .vecB, types := 0x3f }⟩,
  ⟨0x176, .vpabd,
    { l64 := true, l96 := true, l128 := true, pred := true, dst := .vdst, a := .vec, b := .vecB, types := 0x3f }⟩,
  ⟨0x177, .vpshl,
    { l64 := true, l96 := true, l128 := true, pred := true, dst := .vdst, a := .vec, b := .vecB, types := 0x3f, sat := true }⟩,
  ⟨0x178, .vpshr,
    { l64 := true, l96 := true, l128 := true, pred := true, dst := .vdst, a := .vec, b := .vecB, types := 0x3f }⟩,
  ⟨0x179, .vpdot,
    { l96 := true, pred := true, dst := .vdst, a := .vec, b := .vecB, c := .vec, types := 0x3, sat := true }⟩,
  ⟨0x17A, .vpack,
    { l64 := true, l96 := true, l128 := true, pred := true, dst := .vdst, a := .vec, b := .vecB, types := 0x3f, sat := true }⟩,
  ⟨0x17B, .vunpk,
    { l64 := true, l96 := true, pred := true, dst := .vdst, a := .vec, types := 0x3f, vars := 0x3 }⟩,
  ⟨0x0E0, .sadrt,
    { l64 := true, uniform := true, pred := true, dst := .udst, a := .ucoord, b := .tnum, types := 0x80, vars := 0xfe }⟩,
  ⟨0x0E1, .sshpr,
    { l64 := true, uniform := true, pred := true, dst := .udst, b := .tnum, types := 0x80, vars := 0xf }⟩,
  ⟨0x0E2, .sshpw,
    { l64 := true, uniform := true, pred := true, dst := .tnum, a := .uni, types := 0x80, vars := 0xf }⟩,
  ⟨0x0E3, .sshpb,
    { l64 := true, uniform := true, pred := true, dst := .tnum, a := .uni, types := 0x80 }⟩,
  ⟨0x190, .vadrt,
    { l64 := true, pred := true, dst := .vdst, a := .vcoord, b := .tnum, types := 0x80, vars := 0xfe }⟩,
  ⟨0x191, .vinrt,
    { l64 := true, pred := true, dst := .pnum, a := .vcoord, b := .tnum, types := 0x80, vars := 0xfe }⟩]

def rowsFloat : List Row := [
  ⟨0x1C0, .vfadd,
    { l64 := true, l96 := true, l128 := true, pred := true, dst := .vdst, a := .vec, b := .vecB, types := 0xf00, rnd := 4, var2 := 0xff01, view := true }⟩,
  ⟨0x260, .sfadd,
    { l64 := true, l96 := true, l128 := true, uniform := true, pred := true, dst := .udst, a := .uni, b := .uniB, types := 0xf00, rnd := 4, var2 := 0xff01, view := true }⟩,
  ⟨0x1C1, .vfsub,
    { l64 := true, l96 := true, l128 := true, pred := true, dst := .vdst, a := .vec, b := .vecB, types := 0xf00, rnd := 4, var2 := 0xff01, view := true }⟩,
  ⟨0x261, .sfsub,
    { l64 := true, l96 := true, l128 := true, uniform := true, pred := true, dst := .udst, a := .uni, b := .uniB, types := 0xf00, rnd := 4, var2 := 0xff01, view := true }⟩,
  ⟨0x1C2, .vfmul,
    { l64 := true, l96 := true, l128 := true, pred := true, dst := .vdst, a := .vec, b := .vecB, types := 0xf00, rnd := 4, var2 := 0xff01, view := true }⟩,
  ⟨0x262, .sfmul,
    { l64 := true, l96 := true, l128 := true, uniform := true, pred := true, dst := .udst, a := .uni, b := .uniB, types := 0xf00, rnd := 4, var2 := 0xff01, view := true }⟩,
  ⟨0x1C4, .vfma,
    { l96 := true, pred := true, dst := .vdst, a := .vec, b := .vecB, c := .vec, types := 0xf00, rnd := 4, var2 := 0xff01, view := true }⟩,
  ⟨0x263, .sfma,
    { l96 := true, uniform := true, pred := true, dst := .udst, a := .uni, b := .uniB, c := .uni, types := 0xf00, rnd := 4, var2 := 0xff01, view := true }⟩,
  ⟨0x1C5, .vfms,
    { l96 := true, pred := true, dst := .vdst, a := .vec, b := .vecB, c := .vec, types := 0xf00, rnd := 4, var2 := 0xff01, view := true }⟩,
  ⟨0x1C6, .vfnma,
    { l96 := true, pred := true, dst := .vdst, a := .vec, b := .vecB, c := .vec, types := 0xf00, rnd := 4, var2 := 0xff01, view := true }⟩,
  ⟨0x1C7, .vfnms,
    { l96 := true, pred := true, dst := .vdst, a := .vec, b := .vecB, c := .vec, types := 0xf00, rnd := 4, var2 := 0xff01, view := true }⟩,
  ⟨0x1C8, .vfmin,
    { l64 := true, l96 := true, l128 := true, pred := true, dst := .vdst, a := .vec, b := .vecB, types := 0xf00, vars := 0x3, var2 := 0xff01, view := true }⟩,
  ⟨0x264, .sfmin,
    { l64 := true, l96 := true, l128 := true, uniform := true, pred := true, dst := .udst, a := .uni, b := .uniB, types := 0xf00, vars := 0x3, var2 := 0xff01, view := true }⟩,
  ⟨0x1C9, .vfmax,
    { l64 := true, l96 := true, l128 := true, pred := true, dst := .vdst, a := .vec, b := .vecB, types := 0xf00, vars := 0x3, var2 := 0xff01, view := true }⟩,
  ⟨0x265, .sfmax,
    { l64 := true, l96 := true, l128 := true, uniform := true, pred := true, dst := .udst, a := .uni, b := .uniB, types := 0xf00, vars := 0x3, var2 := 0xff01, view := true }⟩,
  ⟨0x1CA, .vfneg,
    { l64 := true, l96 := true, pred := true, dst := .vdst, a := .vec, types := 0xf00, var2 := 0xff01, view := true }⟩,
  ⟨0x1CB, .vfabs,
    { l64 := true, l96 := true, pred := true, dst := .vdst, a := .vec, types := 0xf00, var2 := 0xff01, view := true }⟩,
  ⟨0x1CC, .vfcsgn,
    { l64 := true, l96 := true, l128 := true, pred := true, dst := .vdst, a := .vec, b := .vecB, types := 0xf00, var2 := 0xff01, view := true }⟩,
  ⟨0x1CD, .vfdot2,
    { l96 := true, pred := true, dst := .vdst, a := .vec, b := .vecB, c := .vec, types := 0x200, types2 := 0xc00, rnd := 4 }⟩,
  ⟨0x1CE, .vfrnd,
    { l64 := true, l96 := true, pred := true, dst := .vdst, a := .vec, types := 0xf00, rnd := 4, var2 := 0xff01, view := true }⟩,
  ⟨0x200, .vfcmp,
    { l64 := true, l96 := true, l128 := true, pred := true, dst := .pnum, a := .vec, b := .vecB, types := 0xf00, vars := 0xff, var2 := 0xff01, view := true }⟩,
  ⟨0x266, .sfcmp,
    { l64 := true, l96 := true, l128 := true, uniform := true, pred := true, dst := .udst, a := .uni, b := .uniB, types := 0xf00, vars := 0xff, var2 := 0xff01, view := true }⟩,
  ⟨0x201, .vfcmpm,
    { l64 := true, l96 := true, l128 := true, pred := true, dst := .vdst, a := .vec, b := .vecB, types := 0xf00, vars := 0xff, var2 := 0xff01, view := true }⟩,
  ⟨0x202, .vfclass,
    { l64 := true, l96 := true, pred := true, dst := .vdst, a := .vec, types := 0xf00, var2 := 0xff01, view := true }⟩,
  ⟨0x220, .vfrcpe,
    { l64 := true, l96 := true, pred := true, dst := .vdst, a := .vec, types := 0xf00, var2 := 0xff01, view := true }⟩,
  ⟨0x221, .vfrsqe,
    { l64 := true, l96 := true, pred := true, dst := .vdst, a := .vec, types := 0xf00, var2 := 0xff01, view := true }⟩,
  ⟨0x222, .vfrcps,
    { l64 := true, l96 := true, l128 := true, pred := true, dst := .vdst, a := .vec, b := .vecB, types := 0xf00, rnd := 4, var2 := 0xff01, view := true }⟩,
  ⟨0x223, .vfrsqs,
    { l64 := true, l96 := true, l128 := true, pred := true, dst := .vdst, a := .vec, b := .vecB, types := 0xf00, rnd := 4, var2 := 0xff01, view := true }⟩,
  ⟨0x224, .vfex2,
    { l64 := true, l96 := true, pred := true, dst := .vdst, a := .vec, types := 0xe00, var2 := 0xff01, view := true }⟩,
  ⟨0x225, .vflg2,
    { l64 := true, l96 := true, pred := true, dst := .vdst, a := .vec, types := 0xe00, var2 := 0xff01, view := true }⟩,
  ⟨0x226, .vfsinpi,
    { l64 := true, l96 := true, pred := true, dst := .vdst, a := .vec, types := 0xe00, var2 := 0xff01, view := true }⟩,
  ⟨0x227, .vfcospi,
    { l64 := true, l96 := true, pred := true, dst := .vdst, a := .vec, types := 0xe00, var2 := 0xff01, view := true }⟩,
  ⟨0x228, .vftanh,
    { l64 := true, l96 := true, pred := true, dst := .vdst, a := .vec, types := 0xe00, var2 := 0xff01, view := true }⟩,
  ⟨0x240, .vcvt,
    { l96 := true, pred := true, dst := .vdst, a := .vec, b := .vecB, c := .vec, types := 0x1ffff, types2 := 0x1ffff, rnd := 5, sat := true, vars := 0xffff, var2 := 0x3 }⟩,
  ⟨0x267, .scvt,
    { l96 := true, uniform := true, pred := true, dst := .udst, a := .uni, b := .uniB, c := .uni, types := 0x1ffff, types2 := 0x1ffff, rnd := 5, sat := true, vars := 0xffff, var2 := 0x3 }⟩,
  ⟨0x280, .vperm,
    { l64 := true, l96 := true, l128 := true, pred := true, dst := .vdst, a := .vec, b := .vecB, types := 0xfff, vars := 0xffff, var2 := 0xff01, view := true }⟩,
  ⟨0x281, .vmatch,
    { l64 := true, l96 := true, pred := true, dst := .vdst, a := .vec, types := 0xfff, var2 := 0xff01, view := true }⟩,
  ⟨0x282, .vvote,
    { l64 := true, l96 := true, l128 := true, pred := true, dst := .udst, a := .pnum, b := .index, types := 0x80, vars := 0xf }⟩,
  ⟨0x283, .vred,
    { l64 := true, l96 := true, pred := true, dst := .udst, a := .vec, types := 0xfff, rnd := 4, vars := 0x3f }⟩,
  ⟨0x284, .vscan,
    { l64 := true, l96 := true, pred := true, dst := .vdst, a := .vec, types := 0xfff, rnd := 4, vars := 0x3f3f }⟩,
  ⟨0x285, .vrdl,
    { l64 := true, l96 := true, l128 := true, dst := .udst, a := .vec, b := .index, types := 0x80 }⟩]

def rowsMemory : List Row := [
  ⟨0x300, .ld,
    { l64 := true, l128 := true, pred := true, dst := .vdst, a := .addr, types := 0xff, vars := 0x3, mem := true }⟩,
  ⟨0x301, .st,
    { l64 := true, l128 := true, pred := true, a := .addr, b := .vec, types := 0xff, vars := 0x3, mem := true }⟩,
  ⟨0x302, .lds,
    { l64 := true, l128 := true, pred := true, dst := .vdst, a := .addr, types := 0xff, vars := 0x3, mem := true }⟩,
  ⟨0x303, .sts,
    { l64 := true, l128 := true, pred := true, a := .addr, b := .vec, types := 0xff, vars := 0x3, mem := true }⟩,
  ⟨0x304, .sld,
    { l64 := true, l128 := true, uniform := true, pred := true, dst := .udst, a := .addr, types := 0xff, vars := 0x3, mem := true }⟩,
  ⟨0x305, .sst,
    { l64 := true, l128 := true, uniform := true, pred := true, a := .addr, b := .uni, types := 0xff, vars := 0x3, mem := true }⟩,
  ⟨0x306, .slds,
    { l64 := true, l128 := true, uniform := true, pred := true, dst := .udst, a := .addr, types := 0xff, vars := 0x3, mem := true }⟩,
  ⟨0x307, .ssts,
    { l64 := true, l128 := true, uniform := true, pred := true, a := .addr, b := .uni, types := 0xff, vars := 0x3, mem := true }⟩,
  ⟨0x320, .smap,
    { l64 := true, l128 := true, uniform := true, pred := true, dst := .udst, a := .addr, mem := true }⟩,
  ⟨0x321, .sunmap,
    { l64 := true, uniform := true, pred := true, a := .uni, flagSet := true }⟩,
  ⟨0x322, .sflush,
    { l64 := true, uniform := true, pred := true, a := .uni, flagSet := true }⟩,
  ⟨0x323, .cwb,
    { l64 := true, l128 := true, uniform := true, pred := true, a := .addr, b := .uni, vars := 0x7ff, mem := true }⟩,
  ⟨0x324, .cinv,
    { l64 := true, l128 := true, uniform := true, pred := true, a := .addr, b := .uni, vars := 0x7ff, mem := true }⟩,
  ⟨0x330, .atom,
    { l128 := true, pred := true, dst := .vdst, a := .addr, b := .vec, types := 0xff0, vars := 0x1ff, mem := true }⟩,
  ⟨0x331, .atomCas,
    { l96 := true, pred := true, dst := .vdst, a := .vreg, b := .vec, c := .vec, types := 0xf0, vars := 0x7ff }⟩,
  ⟨0x332, .satom,
    { l128 := true, uniform := true, pred := true, dst := .udst, a := .addr, b := .uni, types := 0xff0, vars := 0x1ff, mem := true }⟩,
  ⟨0x333, .satomCas,
    { l96 := true, uniform := true, pred := true, dst := .udst, a := .ureg, b := .uni, c := .uni, types := 0xf0, vars := 0x7ff }⟩,
  ⟨0x350, .red,
    { l128 := true, pred := true, a := .addr, b := .vec, types := 0xff0, vars := 0x3f, mem := true }⟩,
  ⟨0x351, .sred,
    { l128 := true, uniform := true, pred := true, a := .addr, b := .uni, types := 0xff0, vars := 0x3f, mem := true }⟩,
  ⟨0x360, .fence,
    { l64 := true, uniform := true, pred := true, vars := 0x7ff }⟩,
  ⟨0x364, .amsg,
    { l64 := true, l128 := true, uniform := true, pred := true, dst := .udst, a := .addr, b := .uni, mem := true, flagSet := true }⟩,
  ⟨0x3C0, .gbarArr,
    { l64 := true, uniform := true, pred := true, vars := 0xf }⟩,
  ⟨0x3C1, .gbarWait,
    { l64 := true, uniform := true, pred := true, dst := .udst, vars := 0xf }⟩,
  ⟨0x3C8, .collAg,
    { l96 := true, uniform := true, pred := true, a := .uni, b := .uni, c := .uni, types := 0x1, vars := 0x108, var2 := 0xfff }⟩,
  ⟨0x3C9, .collRs,
    { l96 := true, uniform := true, pred := true, a := .uni, b := .uni, c := .uni, types := 0xff0, vars := 0x108, var2 := 0xfff }⟩,
  ⟨0x3CA, .collA2a,
    { l96 := true, uniform := true, pred := true, a := .uni, b := .uni, c := .uni, types := 0x1, vars := 0x108, var2 := 0xfff }⟩,
  ⟨0x3CB, .collBar,
    { l96 := true, uniform := true, pred := true, types := 0x1, vars := 0x108, var2 := 0xfff }⟩]

def rowsEngine : List Row := [
  ⟨0x380, .hcp,
    { l64 := true, uniform := true, pred := true, dst := .tnum, a := .ublock, b := .tnum, flagSet := true }⟩,
  ⟨0x381, .hgth,
    { l64 := true, pred := true, dst := .tnum, a := .ublock, b := .tnum, flagSet := true }⟩,
  ⟨0x382, .hsct,
    { l64 := true, pred := true, dst := .tnum, a := .ublock, b := .tnum, flagSet := true }⟩,
  ⟨0x383, .hcmp,
    { l96 := true, uniform := true, pred := true, a := .uni, b := .tnum, c := .uni, flagSet := true }⟩,
  ⟨0x384, .hpub,
    { l64 := true, uniform := true, pred := true, a := .uni, flagSet := true }⟩,
  ⟨0x385, .cwait,
    { l64 := true, uniform := true, pred := true, b := .uni, vars := 0xff }⟩,
  ⟨0x390, .mld,
    { l64 := true, uniform := true, pred := true, a := .tnum, b := .tnum, types := 0x13801, vars := 0xff, flagSet := true, engine := true }⟩,
  ⟨0x391, .mmul,
    { l96 := true, uniform := true, pred := true, dst := .anum, a := .tnum, b := .knum, c := .tnum, types := 0x1f801, vars := 0x3, flagSet := true, engine := true }⟩,
  ⟨0x392, .mzero,
    { l64 := true, uniform := true, pred := true, dst := .anum, vars := 0xffff, flagSet := true, engine := true }⟩,
  ⟨0x393, .mrd,
    { l96 := true, uniform := true, pred := true, dst := .tnum, a := .anum, types := 0x1ffff, rnd := 4, sat := true, var2 := 0x3, flagSet := true, engine := true }⟩,
  ⟨0x394, .mred,
    { l64 := true, uniform := true, pred := true, dst := .tnum, a := .anum, vars := 0x7ff, flagSet := true, engine := true }⟩,
  ⟨0x395, .mwait,
    { l64 := true, uniform := true, pred := true }⟩,
  ⟨0x396, .mkw,
    { l64 := true, uniform := true, pred := true, dst := .knum, a := .uni }⟩,
  ⟨0x397, .mkr,
    { l64 := true, uniform := true, pred := true, dst := .udst, a := .knum }⟩,
  ⟨0x3A0, .bselTopk,
    { l64 := true, dst := .knum, a := .uni, b := .uni, types := 0xe00 }⟩]

def rowsLode : List Row := [
  ⟨0x2C0, .lodeBind,
    { l64 := true, l128 := true, uniform := true, dst := .udst, b := .uniI }⟩,
  ⟨0x2C1, .lodeFree,
    { l64 := true, uniform := true }⟩,
  ⟨0x2C2, .ladd,
    { l96 := true, dst := .vdst, a := .vreg, b := .vreg, c := .unum, vars := 0x77 }⟩,
  ⟨0x2C3, .lsub,
    { l96 := true, dst := .vdst, a := .vreg, b := .vreg, c := .unum, vars := 0x77 }⟩,
  ⟨0x2C4, .lneg,
    { l96 := true, dst := .vdst, a := .vreg }⟩,
  ⟨0x2C5, .lshl,
    { l96 := true, dst := .vdst, a := .vreg, c := .unum }⟩,
  ⟨0x2C6, .lshr,
    { l96 := true, dst := .vdst, a := .vreg, c := .unum, vars := 0x3 }⟩,
  ⟨0x2C7, .lcmp,
    { l96 := true, dst := .udst, a := .vreg, b := .vreg, vars := 0x3 }⟩,
  ⟨0x2C8, .lclz,
    { l96 := true, dst := .udst, a := .vreg }⟩,
  ⟨0x2C9, .lmulw,
    { l96 := true, dst := .vdst, a := .vreg, c := .unum }⟩,
  ⟨0x2CA, .lmacw,
    { l96 := true, dst := .vdst, a := .vreg, b := .vreg, c := .unum }⟩,
  ⟨0x2CB, .lacc,
    { l96 := true, dst := .vdst, a := .vreg, b := .vreg, types := 0x300 }⟩,
  ⟨0x2CC, .lround,
    { l96 := true, dst := .udst, a := .vreg, types := 0x300, rnd := 4, sat := true }⟩]

/-- Every assigned slot. -/
def rows : List Row :=
  rowsControl ++ (rowsUniform ++ (rowsVector ++ (rowsPacked ++ (rowsFloat ++ (rowsMemory ++
    (rowsEngine ++ rowsLode))))))

/-- The row of a slot; none for a reserved slot (R381). -/
def rowOf (slot : Nat) : Option Row := rows.find? (fun r => r.slot == slot)

/-- The slot and the fields of a crew instruction; none for a clause header, an assayer form and an
event, which have no slot. -/
def Instr.word : Instr → Option (Nat × Fields)
  | .nop f => some (0x000, f)
  | .brk f => some (0x007, f)
  | .br f => some (0x008, f)
  | .brDiv f => some (0x009, f)
  | .join f => some (0x00A, f)
  | .call f => some (0x00B, f)
  | .ret f => some (0x00C, f)
  | .exit f => some (0x00D, f)
  | .drainEnd _ => none
  | .yieldCont f => some (0x00E, f)
  | .flgRd f => some (0x020, f)
  | .flgClr f => some (0x021, f)
  | .lampJoin f => some (0x030, f)
  | .lampTake f => some (0x031, f)
  | .lampPass f => some (0x032, f)
  | .csrr f => some (0x040, f)
  | .csrw f => some (0x041, f)
  | .uintPost f => some (0x042, f)
  | .uintRet f => some (0x043, f)
  | .svc f => some (0x044, f)
  | .waitc f => some (0x368, f)
  | .spawn f => some (0x3D0, f)
  | .nsig f => some (0x3D1, f)
  | .npub f => some (0x3D2, f)
  | .clauseHeader _ => none
  | .sadd f => some (0x080, f)
  | .ssub f => some (0x081, f)
  | .smul f => some (0x082, f)
  | .smulh f => some (0x083, f)
  | .smad f => some (0x084, f)
  | .sdivs f => some (0x085, f)
  | .sand f => some (0x086, f)
  | .sor f => some (0x087, f)
  | .sxor f => some (0x088, f)
  | .sandn f => some (0x089, f)
  | .sshl f => some (0x08A, f)
  | .sshr f => some (0x08B, f)
  | .srol f => some (0x08C, f)
  | .sror f => some (0x08D, f)
  | .smov f => some (0x08E, f)
  | .scmp f => some (0x090, f)
  | .sbfx f => some (0x0C0, f)
  | .sbfi f => some (0x0C1, f)
  | .spopc f => some (0x0C2, f)
  | .sclz f => some (0x0C3, f)
  | .sctz f => some (0x0C4, f)
  | .sbrev f => some (0x0C5, f)
  | .smin f => some (0x0C6, f)
  | .smax f => some (0x0C7, f)
  | .sabs f => some (0x0C8, f)
  | .ssel f => some (0x0C9, f)
  | .vadd f => some (0x100, f)
  | .vsub f => some (0x101, f)
  | .vmul f => some (0x102, f)
  | .vmulh f => some (0x103, f)
  | .vmad f => some (0x104, f)
  | .vdivs f => some (0x105, f)
  | .vand f => some (0x106, f)
  | .vor f => some (0x107, f)
  | .vxor f => some (0x108, f)
  | .vandn f => some (0x109, f)
  | .vshl f => some (0x10A, f)
  | .vshr f => some (0x10B, f)
  | .vrol f => some (0x10C, f)
  | .vror f => some (0x10D, f)
  | .vmov f => some (0x10E, f)
  | .vbfx f => some (0x140, f)
  | .vbfi f => some (0x141, f)
  | .vpopc f => some (0x142, f)
  | .vclz f => some (0x143, f)
  | .vctz f => some (0x144, f)
  | .vbrev f => some (0x145, f)
  | .vmin f => some (0x146, f)
  | .vmax f => some (0x147, f)
  | .vabs f => some (0x148, f)
  | .vsel f => some (0x149, f)
  | .vcmp f => some (0x150, f)
  | .vplog f => some (0x151, f)
  | .vpadd f => some (0x170, f)
  | .vpsub f => some (0x171, f)
  | .vpmul f => some (0x172, f)
  | .vpmin f => some (0x173, f)
  | .vpmax f => some (0x174, f)
  | .vpavg f => some (0x175, f)
  | .vpabd f => some (0x176, f)
  | .vpshl f => some (0x177, f)
  | .vpshr f => some (0x178, f)
  | .vpdot f => some (0x179, f)
  | .vpack f => some (0x17A, f)
  | .vunpk f => some (0x17B, f)
  | .sadrt f => some (0x0E0, f)
  | .sshpr f => some (0x0E1, f)
  | .sshpw f => some (0x0E2, f)
  | .sshpb f => some (0x0E3, f)
  | .vadrt f => some (0x190, f)
  | .vinrt f => some (0x191, f)
  | .vfadd f => some (0x1C0, f)
  | .vfsub f => some (0x1C1, f)
  | .vfmul f => some (0x1C2, f)
  | .vfma f => some (0x1C4, f)
  | .vfms f => some (0x1C5, f)
  | .vfnma f => some (0x1C6, f)
  | .vfnms f => some (0x1C7, f)
  | .vfmin f => some (0x1C8, f)
  | .vfmax f => some (0x1C9, f)
  | .vfneg f => some (0x1CA, f)
  | .vfabs f => some (0x1CB, f)
  | .vfcsgn f => some (0x1CC, f)
  | .vfdot2 f => some (0x1CD, f)
  | .vfrnd f => some (0x1CE, f)
  | .sfadd f => some (0x260, f)
  | .sfsub f => some (0x261, f)
  | .sfmul f => some (0x262, f)
  | .sfma f => some (0x263, f)
  | .sfmin f => some (0x264, f)
  | .sfmax f => some (0x265, f)
  | .vfcmp f => some (0x200, f)
  | .sfcmp f => some (0x266, f)
  | .vfcmpm f => some (0x201, f)
  | .vfclass f => some (0x202, f)
  | .vfrcpe f => some (0x220, f)
  | .vfrsqe f => some (0x221, f)
  | .vfrcps f => some (0x222, f)
  | .vfrsqs f => some (0x223, f)
  | .vfex2 f => some (0x224, f)
  | .vflg2 f => some (0x225, f)
  | .vfsinpi f => some (0x226, f)
  | .vfcospi f => some (0x227, f)
  | .vftanh f => some (0x228, f)
  | .vcvt f => some (0x240, f)
  | .scvt f => some (0x267, f)
  | .vperm f => some (0x280, f)
  | .vmatch f => some (0x281, f)
  | .vvote f => some (0x282, f)
  | .vred f => some (0x283, f)
  | .vscan f => some (0x284, f)
  | .vrdl f => some (0x285, f)
  | .ld f => some (0x300, f)
  | .st f => some (0x301, f)
  | .lds f => some (0x302, f)
  | .sts f => some (0x303, f)
  | .sld f => some (0x304, f)
  | .sst f => some (0x305, f)
  | .slds f => some (0x306, f)
  | .ssts f => some (0x307, f)
  | .smap f => some (0x320, f)
  | .sunmap f => some (0x321, f)
  | .sflush f => some (0x322, f)
  | .stashWritebackDone _ _ => none
  | .cwb f => some (0x323, f)
  | .cinv f => some (0x324, f)
  | .atom f => some (0x330, f)
  | .atomCas f => some (0x331, f)
  | .satom f => some (0x332, f)
  | .satomCas f => some (0x333, f)
  | .red f => some (0x350, f)
  | .sred f => some (0x351, f)
  | .fence f => some (0x360, f)
  | .amsg f => some (0x364, f)
  | .amsgReply _ => none
  | .gbarArr f => some (0x3C0, f)
  | .gbarWait f => some (0x3C1, f)
  | .collAg f => some (0x3C8, f)
  | .collRs f => some (0x3C9, f)
  | .collA2a f => some (0x3CA, f)
  | .collBar f => some (0x3CB, f)
  | .hcp f => some (0x380, f)
  | .hgth f => some (0x381, f)
  | .hsct f => some (0x382, f)
  | .hcmp f => some (0x383, f)
  | .hpub f => some (0x384, f)
  | .hpubExchange _ _ => none
  | .cwait f => some (0x385, f)
  | .hoistRowDone _ _ _ => none
  | .hoistWatchdogExpire _ _ => none
  | .mld f => some (0x390, f)
  | .mmul f => some (0x391, f)
  | .mzero f => some (0x392, f)
  | .mrd f => some (0x393, f)
  | .mred f => some (0x394, f)
  | .mwait f => some (0x395, f)
  | .mkw f => some (0x396, f)
  | .mkr f => some (0x397, f)
  | .bselTopk f => some (0x3A0, f)
  | .mmulRowCommit _ => none
  | .engineInsnDone _ => none
  | .macroSelfTest _ _ => none
  | .lodeBind f => some (0x2C0, f)
  | .lodeFree f => some (0x2C1, f)
  | .ladd f => some (0x2C2, f)
  | .lsub f => some (0x2C3, f)
  | .lneg f => some (0x2C4, f)
  | .lshl f => some (0x2C5, f)
  | .lshr f => some (0x2C6, f)
  | .lcmp f => some (0x2C7, f)
  | .lclz f => some (0x2C8, f)
  | .lmulw f => some (0x2C9, f)
  | .lmacw f => some (0x2CA, f)
  | .lacc f => some (0x2CB, f)
  | .lround f => some (0x2CC, f)
  | .asEvt _ => none
  | .asLd _ _ => none
  | .asSt _ _ => none
  | .asCas _ _ _ _ => none
  | .asPf _ _ => none
  | .asWake _ => none
  | .asMsg _ _ => none
  | .asTlb _ _ => none
  | .asLeft _ => none
  | .asDone => none
  | .handlerDispatch _ => none
  | .handlerBudgetExpire _ => none
  | .acceptLaunch _ => none
  | .claimCrews _ _ => none
  | .placeCrew _ => none
  | .placeClosure _ => none
  | .warmWaitExpire _ => none
  | .reservationStart _ => none
  | .binTimerExpire _ _ _ => none
  | .binStallTimer _ => none
  | .swapOut _ => none
  | .swapIn _ => none
  | .monitorRecheck _ _ => none
  | .monitorAudit _ => none
  | .waitcReply _ _ => none
  | .loadReturn _ _ _ => none
  | .pageWalkDone _ _ _ _ => none
  | .remoteErrorResponse _ _ => none
  | .stockpileRefreshEnd _ _ => none
  | .powerEvaluation _ _ => none
  | .crewHalt _ => none
  | .crewSave _ _ => none
  | .saveDelayTimer _ => none
  | .crewRestore _ => none
  | .crewWatchdogExpire _ => none
  | .contextInvalidate _ => none
  | .kick _ => none
  | .completionRecord _ => none
  | .noOperation _ => none
  | .seal _ => none
  | .unseal _ => none
  | .preempt _ => none
  | .resume _ => none
  | .invalidateTranslations _ => none
  | .installAssayers _ => none
  | .removeAssayers _ => none
  | .debugResume _ => none
  | .joinModuleGang _ => none
  | .supervisorTake _ _ _ => none
  | .supervisorDone _ _ _ _ => none
  | .islandCeilingWrite _ _ => none
  | .housekeepingWrite _ _ => none
  | .hostAccess _ _ _ => none
  | .peerRequest _ _ _ _ => none
  | .ioDeviceWrite _ _ _ => none
  | .cxlCompletionTimeout _ => none
  | .cxlPortDown _ => none
  | .routerFail _ => none
  | .meshResend _ => none
  | .ucieLinkDown _ => none
  | .aditResend _ => none
  | .aditPortDown _ => none
  | .ioCoreFail _ => none
  | .stockpileScrub _ _ _ => none
  | .hbmPatrolScrub _ => none
  | .powerUp _ => none
  | .attestationRequest _ _ => none
  | .collectiveComplete _ _ => none
  | .writeAcknowledgement _ => none
  | .programTimestampAdvance _ => none
  | .managedCopyEviction _ _ => none
  | .lineFill _ _ => none
  | .engineWatchdogExpire _ => none
  | .cxlPortUp _ => none
  | .powerLoss => none
  | .applicationCoreAccess _ _ _ => none

/-- The form of a crew instruction. -/
def Instr.form (i : Instr) : Form :=
  match i.word with
  | some (slot, _) => ((rowOf slot).map Row.form).getD {}
  | none => {}

end Sys2Proof
end

