-- ==== Sys2Proof/Machine/Check.lean ====
section
/-! DEFINITION. The element types (Table 07-1) and the checks of an encoding that need no state: codes
`RLEN`, `RFIELD`, `RTYPE` and, for a header, `RCLAUSE` (R375, R381, Tables 22-5 to 22-10). -/

namespace Sys2Proof

/-- Bits of an element of a type code (Table 07-1); reserved codes count as 64. -/
def typeBits (t : Nat) : Nat :=
  match t with
  | 0 | 1 => 8
  | 2 | 3 => 16
  | 4 | 5 => 32
  | 6 | 7 => 64
  | 8 => 64
  | 9 => 32
  | 10 | 11 => 16
  | 12 | 13 => 8
  | 14 | 15 => 4
  | 16 | 17 => 8
  | _ => 64

/-- A signed integer type (Table 07-1). -/
def typeSigned (t : Nat) : Bool := t == 0 || t == 2 || t == 4 || t == 6

/-- An integer type (Table 07-1). -/
def typeIsInt (t : Nat) : Bool := t < 8

/-- The storage code `FMT` of a type (Table 07-1). -/
def typeFmt (t : Nat) : Nat := if t == 16 then 0 else if t == 17 then 1 else t

/-- The types that a scale may go with: `.e4m3` to `.mxi8` (R229). -/
def typeScaled (t : Nat) : Bool := 12 ≤ t && t ≤ 16

/-- The memory form's extension, if the word carries one. -/
def Ext.memExt : Ext → Option MemExt
  | .mem m => some m
  | _ => none

/-- The 96-bit format's extension, if the word carries one. -/
def Ext.wideExt : Ext → Option Ext96
  | .wide e => some e
  | _ => none

/-- The immediate, if the word carries one (R165). -/
def Ext.immVal : Ext → Option Word
  | .imm v => some v
  | _ => none

/-- The slots whose 128-bit format is the memory form (R166). -/
def memSlot (slot : Nat) : Bool := 0x300 ≤ slot && slot ≤ 0x3DF

/-- The uniform operand is present (R164). -/
def Fields.uv (f : Fields) : Bool :=
  match f.ext with
  | .wide e => e.uv
  | _ => false

/-- The second variant, 0 where the format has none. -/
def Fields.var2 (f : Fields) : Nat :=
  match f.ext with
  | .wide e => e.var2.toNat
  | _ => 0

/-- The second type code, 0 where the format has none. -/
def Fields.ty2 (f : Fields) : Nat :=
  match f.ext with
  | .wide e => e.ty2.toNat
  | _ => 0

/-- The memory operand is a tensor address (R166). -/
def Fields.mten (f : Fields) : Bool :=
  match f.ext with
  | .mem m => m.mten
  | _ => false

def Fields.noA (f : Fields) : Bool := f.srca == 0 && !f.lua && !f.kpa

def Fields.noB (f : Fields) : Bool := f.srcb == 0 && !f.lub && !f.kpb

def Ext96.noC (e : Ext96) : Bool := e.srcc == 0 && !e.luc && !e.kpc

/-- A length that the form's entry gives (R381). -/
def Form.lenOk (fm : Form) (slot : Nat) (x : Ext) : Bool :=
  match x with
  | .short => fm.l64
  | .wide _ => fm.l96
  | .imm _ => fm.l128 && !memSlot slot
  | .mem _ => fm.l128 && memSlot slot

/-- Source B may be a uniform operand through `UNI` (R199, R234, R237). -/
def Role.takesUni (r : Role) : Bool :=
  match r with
  | .vecB | .uniB | .index => true
  | _ => false

/-- A lode form of the 96-bit format (R284). -/
def lodeSlot (slot : Nat) : Bool := 0x2C2 ≤ slot && slot ≤ 0x2CC

/-- The slot of `mrd` takes its scale through `UNI` under `.sc` (Table 13-1). -/
def mrdSlot : Nat := 0x393

/-- The fields of the 96-bit extension (R164, R198, R199, R284). -/
def Form.wideOk (fm : Form) (slot : Nat) (f : Fields) (e : Ext96) : Bool :=
  (fm.c != .zero || e.noC) &&
  (e.uv || e.uni == 0) &&
  (if lodeSlot slot then e.uv
   else if slot == mrdSlot then e.uv == e.var2.getLsbD 0
   else !e.uv || fm.b.takesUni) &&
  (fm.types2 != 0 || e.ty2 == 0) &&
  fm.var2.testBit e.var2.toNat &&
  (!fm.view || !e.var2.getLsbD 3 ||
    (typeBits f.ty.toNat < 64 && e.var2.toNat % 8 < 64 / typeBits f.ty.toNat))

/-- The forms that take only a linear address, only a uniform one, no scope, or no hint
(Tables 09-1 and 12-1). -/
def memLimits (slot : Nat) : Bool × Bool × Bool × Bool :=
  -- (MTEN 0, MAU 1, MSCP 0, MHNT 0)
  match slot with
  | 0x300 | 0x301 => (false, false, true, false)
  | 0x302 | 0x303 => (true, false, true, false)
  | 0x304 | 0x305 => (false, true, true, false)
  | 0x306 | 0x307 => (true, true, true, false)
  | 0x320 => (true, true, true, false)
  | 0x323 | 0x324 => (true, true, false, false)
  | 0x332 | 0x351 => (false, true, false, false)
  | 0x364 => (true, true, true, false)
  | 0x368 => (true, true, true, true)
  | 0x3D1 => (true, false, true, true)
  | _ => (false, false, false, false)

/-- The fields of the memory form (R166, R381, Table 22-9). -/
def memOk (slot : Nat) (f : Fields) (m : MemExt) : Bool :=
  let lim := memLimits slot
  (if m.mten then m.mcnt != 0 && f.noA else m.mshp == 0 && m.mcrd == 0 && m.mcnt == 0) &&
  m.mhnt.toNat ≤ 3 && m.mscp.toNat ≤ 10 &&
  (!lim.1 || !m.mten) && (!lim.2.1 || m.mau) &&
  (!lim.2.2.1 || m.mscp == 0) && (!lim.2.2.2 || m.mhnt == 0)

/-- What a form's entry asks of its fields beyond its row (Tables 22-6 to 22-10). -/
def extraFieldOk (i : Instr) (f : Fields) : Bool :=
  match i with
  | .brk _ => 960 ≤ f.srca.toNat
  | .br _ => 2 ≤ f.var.toNat || f.noA
  | .uintPost _ => f.var == 0 || f.noA
  | .vred _ | .vscan _ => f.rnd == 0 || (f.var.toNat % 8 == 0 && 8 ≤ f.ty.toNat)
  | .vplog _ => f.var.toNat != 4 || f.noB
  | .vvote _ => f.var.toNat == 3 || (f.noB && !f.uv)
  | .sadrt _ | .vadrt _ | .vinrt _ => !f.lua && !f.kpa
  | .cwb _ | .cinv _ => f.ext.memExt.isNone || f.var == 0
  | .ld _ | .st _ | .lds _ | .sts _ | .sld _ | .sst _ | .slds _ | .ssts _ =>
      !f.var.getLsbD 0 || typeBits f.ty.toNat == 64 || 8 ≤ f.ty.toNat
  | .vcvt _ | .scvt _ =>
      let wd := typeBits f.ty.toNat
      let ws := typeBits f.ty2
      let g := f.var.toNat
      let sc := f.var2.testBit 0
      (17 ≤ f.ty.toNat || 17 ≤ f.ty2 ||
        (g < (if wd < ws then ws / wd else wd / ws) &&
          (!sc || typeScaled f.ty.toNat != typeScaled f.ty2))) &&
      (sc || (f.noB && !f.uv)) &&
      (f.rnd == 5 || (match f.ext with | .wide e => e.noC | _ => true))
  | .mld _ => f.var.getLsbD 2 || f.noB
  | .mmul _ => f.var.getLsbD 0 || (match f.ext with | .wide e => e.noC | _ => true)
  | .mrd _ => !f.var2.testBit 0 || 12 ≤ f.ty.toNat
  | _ => true

/-- An immediate form whose operation takes no source B has a length that its entry does not give (R381):
only `.bal` of `vvote` takes source B (R234). -/
def extraLenOk (i : Instr) (f : Fields) : Bool :=
  match i with
  | .vvote _ => f.var.toNat == 3 || f.ext.immVal.isNone
  | _ => true

/-- `RFIELD` (R162 to R166, R174, R381): every field, mark, modifier code and predicate is one that the
form permits. -/
def fieldOk (i : Instr) (slot : Nat) (fm : Form) (f : Fields) : Bool :=
  (fm.pred || (f.pred == 15 && !f.pneg)) &&
  (fm.dst != .zero || f.dst == 0) &&
  ((fm.a != .zero && !f.mten) || f.noA) &&
  ((fm.b != .zero && !(f.uv && fm.b.takesUni) && f.ext.immVal.isNone) || f.noB) &&
  (match f.ext with
    | .wide e => fm.wideOk slot f e
    | .mem m => memOk slot f m
    | _ => true) &&
  f.rnd.toNat ≤ fm.rnd &&
  (fm.sat || !f.sat) &&
  (fm.types != 0 || f.ty == 0) &&
  fm.vars.testBit f.var.toNat &&
  extraFieldOk i f

/-- Types of the operations of Table 12-3. -/
def atomTypes (op : Nat) : Nat :=
  match op with
  | 0 | 1 | 2 => 0xFF0
  | 3 | 4 | 5 => 0x0F0
  | 6 => 0x3F0
  | 7 | 8 => 0x0A0
  | _ => 0

/-- `RTYPE` (R385 to R388): the type codes are ones that the form accepts. -/
def typeOk (i : Instr) (fm : Form) (f : Fields) : Bool :=
  (fm.types == 0 || fm.types.testBit f.ty.toNat) &&
  (fm.types2 == 0 || fm.types2.testBit f.ty2) &&
  (match i with
    | .atom _ | .satom _ | .red _ | .sred _ => (atomTypes f.var.toNat).testBit f.ty.toNat
    | .vred _ | .vscan _ => f.var.toNat % 8 < 3 || f.ty.toNat < 8
    | .collAg _ | .collA2a _ | .collBar _ => f.var2 < 4
    | _ => true)

/-- The fields that an instruction reads: `nop` ignores every bit above bit 63 (R177). -/
def seenFields (slot : Nat) (f : Fields) : Fields := if slot == 0 then { f with ext := .short } else f

/-- The first check of the encoding that an instruction fails (R375 step 2 without the slot, which has no
constructor, and without the registers). `nop` ignores every bit above bit 63 (R177). -/
def checkWord (i : Instr) : Option Exc :=
  match i.word with
  | none =>
    match i with
    | .clauseHeader h => if 2 ≤ h.clen.toNat then none else some .rclause
    | _ => none
  | some (slot, f) =>
    match rowOf slot with
    | none => some .rslot
    | some r =>
      if !(r.form.lenOk slot f.ext && extraLenOk i f) then some .rlen
      else
        let f' := seenFields slot f
        if !fieldOk i slot r.form f' then some .rfield
        else if !typeOk i r.form f' then some .rtype
        else none

end Sys2Proof
end

