-- ==== Sys2Proof/Machine/Arith.lean ====
section
/-! DEFINITION. Elements of a 64-bit value and the integer operations on them (R75, R79, R135, R196 to
R208), as exact integers narrowed once. -/

namespace Sys2Proof

/-- Element `i` of width `n`, as an unsigned number (R75). -/
def elemAt (n i : Nat) (w : Word) : Nat := w.toNat / 2 ^ (n * i) % 2 ^ n

/-- Replaces element `i` of width `n`, and keeps every other bit (R75). -/
def setElem (n i : Nat) (w : Word) (v : Nat) : Word :=
  let lo := w.toNat % 2 ^ (n * i)
  let hi := w.toNat / 2 ^ (n * (i + 1))
  BitVec.ofNat 64 (lo + 2 ^ (n * i) * (v % 2 ^ n) + 2 ^ (n * (i + 1)) * hi)

/-- The reading of an `n`-bit pattern (R135). -/
def readInt (signed : Bool) (n v : Nat) : Int :=
  if signed && 2 ^ (n - 1) ≤ v then (v : Int) - 2 ^ n else v

/-- The `n`-bit pattern of an integer: its low bits (R135). -/
def wrapInt (n : Nat) (x : Int) : Nat := (x % 2 ^ n).toNat

/-- Least and largest value of an integer type (R135). -/
def minInt (signed : Bool) (n : Nat) : Int := if signed then -(2 ^ (n - 1)) else 0
def maxInt (signed : Bool) (n : Nat) : Int := if signed then 2 ^ (n - 1) - 1 else 2 ^ n - 1

/-- `sat(x, T)` (R135). -/
def satInt (signed : Bool) (n : Nat) (x : Int) : Int := min (max x (minInt signed n)) (maxInt signed n)

/-- An `n`-bit result written to a whole register: extended by the type (R197). -/
def extendTo64 (signed : Bool) (n v : Nat) : Word :=
  if n ≥ 64 then BitVec.ofNat 64 v else BitVec.ofInt 64 (readInt signed n (v % 2 ^ n))

/-- Set bits of the low `n` bits. -/
def popCount (n v : Nat) : Nat := (List.range n).foldl (fun k i => if v.testBit i then k + 1 else k) 0

/-- Bits needed for a value: one more than the place of its highest set bit, 0 for 0. -/
def bitLen (v : Nat) : Nat := if v == 0 then 0 else Nat.log2 v + 1

/-- Trailing zeros of the low `n` bits, `n` when there is none set. -/
def trailZeros (n v : Nat) : Nat :=
  match n with
  | 0 => 0
  | n + 1 => if v % 2 == 1 then 0 else 1 + trailZeros n (v / 2)

/-- The low `n` bits in reverse order. -/
def revBits (n v : Nat) : Nat :=
  (List.range n).foldl (fun k i => if v.testBit i then k + 2 ^ (n - 1 - i) else k) 0

/-- Operands of an integer operation: the `n`-bit patterns, and source B and C as whole values for shift
amounts and bit-field controls (R203, R205). -/
structure IntArgs where
  signed : Bool
  n : Nat
  a : Nat
  b : Nat
  c : Nat
  rawB : Nat
  rawC : Nat

def IntArgs.ia (x : IntArgs) : Int := readInt x.signed x.n x.a
def IntArgs.ib (x : IntArgs) : Int := readInt x.signed x.n x.b
def IntArgs.ic (x : IntArgs) : Int := readInt x.signed x.n x.c

/-- `mulh`: the upper `n` bits of the exact product (Table 10-1). -/
def intMulh (x : IntArgs) : Int := (x.ia * x.ib) / 2 ^ x.n

def intAndn (x : IntArgs) : Int := ((x.a &&& (2 ^ x.n - 1 - x.b)) : Nat)

/-- `shl`: a × 2^s, for amounts of at least `n` zero without `.sat`; the exact value for `.sat` is any value
beyond the range on the side of a's sign (R203). -/
def intShl (x : IntArgs) : Int :=
  let s := min x.rawB (2 * x.n)
  x.ia * 2 ^ s

/-- `shr`: ⌊a / 2^s⌋ (R203). -/
def intShr (x : IntArgs) : Int := x.ia / 2 ^ (min x.rawB x.n)

def intRol (x : IntArgs) : Int :=
  let s := x.rawB % x.n
  ((x.a * 2 ^ s % 2 ^ x.n + x.a / 2 ^ (x.n - s)) : Nat)

def intRor (x : IntArgs) : Int :=
  let s := x.rawB % x.n
  ((x.a / 2 ^ s + x.a * 2 ^ (x.n - s) % 2 ^ x.n) : Nat)

/-- `bfx`: bits p + ℓ − 1 : p of the extended operand, extended from bit ℓ − 1 (R205). -/
def intBfx (x : IntArgs) : Int :=
  let p := x.rawB % 64
  let l := x.rawB / 256 % 64 + 1
  let fieldBits := ((x.ia / 2 ^ p) % 2 ^ l).toNat
  readInt x.signed l fieldBits

/-- `bfi`: bits p to p + ℓ − 1 of a that lie below `n` replaced by the low bits of b (R205). -/
def intBfi (x : IntArgs) : Int :=
  let p := x.rawC % 64
  let l := x.rawC / 256 % 64 + 1
  let mask := (2 ^ l - 1) * 2 ^ p % 2 ^ x.n
  let ins := x.b * 2 ^ p % 2 ^ x.n
  (((x.a &&& (2 ^ x.n - 1 - mask)) ||| (ins &&& mask)) : Nat)

def intClz (x : IntArgs) : Int := ((x.n - bitLen x.a) : Nat)

/-- The comparisons of Table 09-5 on `n`-bit operands. -/
def compareInt (op : Nat) (x : IntArgs) : Bool :=
  match op with
  | 0 => x.a == x.b
  | 1 => x.a != x.b
  | 2 => x.ia < x.ib
  | 3 => x.ia ≤ x.ib
  | 4 => x.ib < x.ia
  | 5 => x.ib ≤ x.ia
  | 6 => (x.a &&& x.b) != 0
  | _ => (x.a &&& x.b) == 0

/-- One step of restoring division (R204): remainder and quotient. -/
def divStep (d : Nat) (rq : Nat × Nat) : Nat × Nat :=
  let t := 2 * rq.1 + rq.2 / 2 ^ 31
  let q := 2 * rq.2 % 2 ^ 32
  if d ≤ t then ((t - d) % 2 ^ 32, q + 1) else (t % 2 ^ 32, q)

/-- `divs` with K steps (R204). -/
def divSteps (k d : Nat) (a : Word) : Word :=
  let rq := k.fold (fun _ _ rq => divStep d rq) (a.toNat / 2 ^ 32, a.toNat % 2 ^ 32)
  BitVec.ofNat 64 (rq.1 * 2 ^ 32 + rq.2)

/-- An exact integer narrowed to an `n`-bit pattern, with the saturated flag (R135, R200). -/
def narrow (sat signed : Bool) (n : Nat) (x : Int) : Nat × Bool :=
  if sat then (wrapInt n (satInt signed n x), satInt signed n x != x) else (wrapInt n x, false)

/-- `dividing` an exact sum by two for `vpavg` (Table 10-3). -/
def avgInt (a b : Int) : Int := (a + b + 1) / 2

/-- Applies an operation to each of the 64 ÷ n elements (R208): patterns in, exact integers out. -/
def packedMap (sat signed : Bool) (n : Nat) (op : Int → Int → Int) (a b : Word) : Word × Bool :=
  (List.range (64 / n)).foldl (fun r i =>
    let x := op (readInt signed n (elemAt n i a)) (readInt signed n (elemAt n i b))
    let y := narrow sat signed n x
    (setElem n i r.1 y.1, r.2 || y.2)) (0, false)

/-- `vpshl` and `vpshr` take the amount as unsigned (Table 10-3). -/
def packedShift (left sat signed : Bool) (n : Nat) (a b : Word) : Word × Bool :=
  (List.range (64 / n)).foldl (fun r i =>
    let x : IntArgs := ⟨signed, n, elemAt n i a, 0, 0, elemAt n i b, 0⟩
    let y := narrow sat signed n (if left then intShl x else intShr x)
    (setElem n i r.1 y.1, r.2 || y.2)) (0, false)

/-- `vpabd`: the absolute difference as an unsigned element (Table 10-3). -/
def packedAbd (signed : Bool) (n : Nat) (a b : Word) : Word × Bool :=
  packedMap false signed n (fun x y => Int.ofNat (x - y).natAbs) a b

/-- `vpdot` (Table 10-3): four products and an addend for each 32-bit half. -/
def packedDot (sat signed : Bool) (a b c : Word) : Word × Bool :=
  (List.range 2).foldl (fun r j =>
    let x := (List.range 4).foldl (fun acc k =>
      acc + readInt signed 8 (elemAt 8 (4 * j + k) a) * readInt signed 8 (elemAt 8 (4 * j + k) b))
      (readInt signed 32 (elemAt 32 j c))
    let y := narrow sat signed 32 x
    (setElem 32 j r.1 y.1, r.2 || y.2)) (0, false)

/-- `vpack` (Table 10-3): signed elements of width 2n narrowed to n bits, low half from a, high from b. -/
def packedPack (sat signed : Bool) (n : Nat) (a b : Word) : Word × Bool :=
  (List.range (64 / n)).foldl (fun r i =>
    let h := 32 / n
    let v := if i < h then elemAt (2 * n) i a else elemAt (2 * n) (i - h) b
    let y := narrow sat signed n (readInt true (2 * n) v)
    (setElem n i r.1 y.1, r.2 || y.2)) (0, false)

/-- `vunpk` (Table 10-3): the low or the high half widened to 2n bits. -/
def packedUnpack (signed : Bool) (n half : Nat) (a : Word) : Word :=
  (List.range (32 / n)).foldl (fun r i =>
    setElem (2 * n) i r (wrapInt (2 * n) (readInt signed n (elemAt n (32 / n * half + i) a)))) 0

/-- A value's low `n` bits in every element (R79, R169). -/
def replicate64 (n v : Nat) : Word :=
  (List.range (64 / n)).foldl (fun r i => setElem n i r v) 0

end Sys2Proof
end

