-- ==== Sys2Proof/Machine/Float.lean ====
section
/-! DEFINITION. The floating formats, rounding and flags (R136 to R147), exact floating operations and the
conversions. A finite value is a sign, a natural and a power of two, so every result is exact before its one
rounding. -/

namespace Sys2Proof

/-- Sticky flags as bits of Table 07-7. -/
abbrev Flags := BitVec 32

def flagNV : Flags := 0x1
def flagDZ : Flags := 0x2
def flagOF : Flags := 0x4
def flagUF : Flags := 0x8
def flagNX : Flags := 0x10
def flagSAT : Flags := 0x20
def flagLOV : Flags := 0x40
def flagDEAD : Flags := 0x80
def flagDERR : Flags := 0x100

/-- A flag when a condition holds. -/
def flagIf (c : Bool) (f : Flags) : Flags := if c then f else 0

/-- What an all-ones exponent means (Table 07-2). -/
inductive FSpecial where
  | ieee
  | nanOnly
  | none
  deriving DecidableEq, Repr

/-- A floating format (Table 07-2): the largest finite value is `maxM` × 2^`maxE`. -/
structure FFmt where
  width : Nat
  mbits : Nat
  bias : Int
  maxM : Nat
  maxE : Int
  special : FSpecial
  canonNaN : Nat
  deriving DecidableEq, Repr

def fF64 : FFmt := ⟨64, 52, 1023, 2 ^ 53 - 1, 971, .ieee, 0x7FF8000000000000⟩
def fF32 : FFmt := ⟨32, 23, 127, 2 ^ 24 - 1, 104, .ieee, 0x7FC00000⟩
def fF16 : FFmt := ⟨16, 10, 15, 2047, 5, .ieee, 0x7E00⟩
def fBF16 : FFmt := ⟨16, 7, 127, 255, 120, .ieee, 0x7FC0⟩
def fE4M3 : FFmt := ⟨8, 3, 7, 14, 5, .nanOnly, 0x7F⟩
def fE5M2 : FFmt := ⟨8, 2, 15, 7, 13, .ieee, 0x7E⟩
def fE2M1 : FFmt := ⟨4, 1, 1, 3, 1, .none, 0⟩

/-- The format of a floating type code (Table 07-1). -/
def ffmt (t : Nat) : FFmt :=
  match t with
  | 8 => fF64
  | 10 => fF16
  | 11 => fBF16
  | 12 => fE4M3
  | 13 => fE5M2
  | 14 => fE2M1
  | _ => fF32

/-- A floating value: a NaN (signalling or not), an infinity, or (−1)^neg × m × 2^e. -/
inductive FVal where
  | nan (signalling : Bool)
  | inf (neg : Bool)
  | fin (neg : Bool) (m : Nat) (e : Int)
  deriving DecidableEq, Repr

def FVal.isNan : FVal → Bool
  | .nan _ => true
  | _ => false

def FVal.isSnan : FVal → Bool
  | .nan s => s
  | _ => false

def FVal.isZero : FVal → Bool
  | .fin _ m _ => m == 0
  | _ => false

def FVal.neg : FVal → FVal
  | .nan s => .nan s
  | .inf n => .inf (!n)
  | .fin n m e => .fin (!n) m e

/-- Exponent field of a pattern. -/
def FFmt.expField (f : FFmt) (v : Nat) : Nat := v / 2 ^ f.mbits % 2 ^ (f.width - 1 - f.mbits)

/-- Mantissa field of a pattern. -/
def FFmt.manField (f : FFmt) (v : Nat) : Nat := v % 2 ^ f.mbits

/-- Sign of a pattern. -/
def FFmt.signOf (f : FFmt) (v : Nat) : Bool := v.testBit (f.width - 1)

/-- Largest exponent field. -/
def FFmt.expMax (f : FFmt) : Nat := 2 ^ (f.width - 1 - f.mbits) - 1

/-- The pattern is a nonzero subnormal. -/
def FFmt.isSubnormal (f : FFmt) (v : Nat) : Bool := f.expField v == 0 && f.manField v != 0

/-- The value of a pattern (R136, R137). -/
def FFmt.decode (f : FFmt) (v : Nat) : FVal :=
  let s := f.signOf v
  let e := f.expField v
  let m := f.manField v
  if f.special == .ieee && e == f.expMax then
    if m == 0 then .inf s
    -- every NaN of e5m2 is quiet
    else .nan (f.width > 8 && !m.testBit (f.mbits - 1))
  else if f.special == .nanOnly && e == f.expMax && m == 2 ^ f.mbits - 1 then .nan false
  else if e == 0 then .fin s m (1 - f.bias - f.mbits)
  else .fin s (2 ^ f.mbits + m) ((e : Int) - f.bias - f.mbits)

/-- The sign bit of a pattern. -/
def FFmt.signBits (f : FFmt) (neg : Bool) : Nat := if neg then 2 ^ (f.width - 1) else 0

/-- The largest finite pattern with a sign. -/
def FFmt.maxFinite (f : FFmt) (neg : Bool) : Nat :=
  f.signBits neg +
    (match f.special with
      | .ieee => f.expMax * 2 ^ f.mbits - 1
      | .nanOnly => 2 ^ (f.width - 1) - 2
      | .none => 2 ^ (f.width - 1) - 1)

/-- Infinity, or what stands for it in a format without one (R140, Table 07-5). -/
def FFmt.infOr (f : FFmt) (neg : Bool) : Nat :=
  match f.special with
  | .ieee => f.signBits neg + f.expMax * 2 ^ f.mbits
  | .nanOnly => f.canonNaN
  | .none => f.maxFinite neg

/-- The greatest quotient not above m × 2^e on the grid 2^q, and whether a remainder is left, and how it
stands to one half: 0 none, 1 below, 2 equal, 3 above. -/
def gridOf (m : Nat) (e q : Int) : Nat × Nat :=
  if q ≤ e then (m * 2 ^ (e - q).toNat, 0)
  else
    let d := (q - e).toNat
    -- a remainder wider than the value leaves the quotient 0
    if Nat.log2 m + 2 < d then (0, if m == 0 then 0 else 1)
    else
      let rem := m % 2 ^ d
      let half := 2 ^ (d - 1)
      (m / 2 ^ d, if rem == 0 then 0 else if rem < half then 1 else if rem == half then 2 else 3)

/-- `.rsr` (R141): t := ⌊(|x| − |lo|) / (|hi| − |lo|) × 2^k⌋. -/
def rsrT (m : Nat) (e q : Int) (k : Nat) : Nat :=
  if q ≤ e then 0
  else (m % 2 ^ (q - e).toNat) * 2 ^ k / 2 ^ (q - e).toNat

/-- The random bits of one result element: `k` bits of value `r` (R141); unused by other modes. -/
structure RBits where
  k : Nat
  r : Nat

def noRBits : RBits := ⟨0, 0⟩

/-- The quotient on grid 2^q by a mode (Table 07-3). -/
def roundGrid (mode : Nat) (rb : RBits) (neg : Bool) (m : Nat) (e q : Int) : Nat × Bool :=
  let g := gridOf m e q
  let up : Bool :=
    match mode with
    | 0 => g.2 == 3 || (g.2 == 2 && g.1 % 2 == 1)
    | 1 => false
    | 2 => g.2 != 0 && neg
    | 3 => g.2 != 0 && !neg
    | 4 => g.2 == 2 || g.2 == 3
    | _ => g.2 != 0 && rb.r < rsrT m e q rb.k
  (if up then g.1 + 1 else g.1, g.2 != 0)

/-- n × 2^a exceeds m × 2^b. -/
def gtScaled (n : Nat) (a : Int) (m : Nat) (b : Int) : Bool :=
  if a ≤ b then n > m * 2 ^ (b - a).toNat else n * 2 ^ (a - b).toNat > m

/-- ⌊log2⌋ of m × 2^e, for m ≠ 0. -/
def ilog2 (m : Nat) (e : Int) : Int := (Nat.log2 m : Int) + e

/-- Whether overflow gives the largest finite value rather than infinity (Table 07-3). -/
def overflowToMax (mode : Nat) (neg : Bool) : Bool :=
  match mode with
  | 1 => true
  | 2 => !neg
  | 3 => neg
  | _ => false

/-- `round(x, F, mode, rb)` of a finite x with its flags (R140, R141, R144, R147). Under `.sat` an overflow of every
format is clamped to the largest finite value with `SAT` and `NX`, also one of `.f64` (`lround.f64.sat`), which
Table 07-5 does not list (DESIGN CHOICE, log 74). -/
def roundFin (f : FFmt) (mode : Nat) (sat : Bool) (rb : RBits) (neg : Bool) (m : Nat) (e : Int) :
    Nat × Flags :=
  if m == 0 then (f.signBits neg, 0)
  else
    let emin := 1 - f.bias
    let lg := ilog2 m e
    let q := max lg emin - f.mbits
    let r := roundGrid mode rb neg m e q
    -- the result rounded with unbounded exponent, for the underflow flag
    let tiny : Bool :=
      if lg < emin then
        let z := roundGrid mode rb neg m e (lg - f.mbits)
        gtScaled 1 emin z.1 (lg - f.mbits) && z.1 != 0
      else false
    if gtScaled r.1 q f.maxM f.maxE then
      if sat || f.special == .none then (f.maxFinite neg, flagSAT ||| flagNX)
      else (if overflowToMax mode neg then f.maxFinite neg else f.infOr neg, flagOF ||| flagNX)
    else
      -- exponent field − 1 above the mantissa field: a carry moves into the exponent by itself
      let ef := (q + f.mbits + f.bias - 1).toNat
      (f.signBits neg + (ef * 2 ^ f.mbits + r.1), flagIf r.2 flagNX ||| flagIf (r.2 && tiny) flagUF)

/-- `round` of any value: a NaN gives the canonical NaN (R137); an infinity passes where the format holds it,
and otherwise follows Table 07-5. -/
def roundVal (f : FFmt) (mode : Nat) (sat : Bool) (rb : RBits) (x : FVal) : Nat × Flags :=
  match x with
  | .nan s =>
    match f.special with
    | .none => (0, flagNV)
    | _ => (f.canonNaN, flagIf s flagNV)
  | .inf n =>
    match f.special with
    | .none => (f.maxFinite n, flagSAT ||| flagNX)
    | .nanOnly => if sat then (f.maxFinite n, flagSAT ||| flagNX) else (f.canonNaN, flagNV)
    | .ieee => if sat && f.width < 64 then (f.maxFinite n, flagSAT ||| flagNX) else (f.infOr n, 0)
  | .fin n m e => roundFin f mode sat rb n m e

/-- Flush-to-zero and denormals-are-zero apply to a type (R142): bits of `FPCTL`. -/
def ftzOf (fpctl : BitVec 32) (t : Nat) : Bool :=
  match t with
  | 8 | 9 => fpctl.getLsbD 0
  | 10 | 11 => fpctl.getLsbD 2
  | _ => false

def dazOf (fpctl : BitVec 32) (t : Nat) : Bool :=
  match t with
  | 8 | 9 => fpctl.getLsbD 1
  | 10 | 11 => fpctl.getLsbD 3
  | _ => false

/-- An operand's pattern after denormals-are-zero (R142). -/
def dazed (fpctl : BitVec 32) (t v : Nat) : Nat :=
  let f := ffmt t
  if dazOf fpctl t && f.isSubnormal v then f.signBits (f.signOf v) else v

/-- A result after flush-to-zero (R142). -/
def flushed (fpctl : BitVec 32) (t : Nat) (r : Nat × Flags) : Nat × Flags :=
  let f := ffmt t
  if ftzOf fpctl t && f.isSubnormal r.1 then
    (f.signBits (f.signOf r.1), r.2 ||| flagUF ||| flagNX)
  else r

/-- Signed sum of two finite values, exact; an exact zero sum of opposite signs is +0, or −0 under `.rdn`
(R140). -/
def addFin (mode : Nat) (n1 : Bool) (m1 : Nat) (e1 : Int) (n2 : Bool) (m2 : Nat) (e2 : Int) : FVal :=
  if m1 == 0 && m2 == 0 then .fin (if n1 == n2 then n1 else mode == 2) 0 0
  else if m1 == 0 then .fin n2 m2 e2
  else if m2 == 0 then .fin n1 m1 e1
  else
    let e := min e1 e2
    let a := m1 * 2 ^ (e1 - e).toNat
    let b := m2 * 2 ^ (e2 - e).toNat
    if n1 == n2 then .fin n1 (a + b) e
    else if a == b then .fin (mode == 2) 0 0
    else if b < a then .fin n1 (a - b) e
    else .fin n2 (b - a) e

/-- Exact sum; ∞ − ∞ is invalid (R218). -/
def addVal (mode : Nat) (x y : FVal) : FVal × Flags :=
  let sn := flagIf (x.isSnan || y.isSnan) flagNV
  match x, y with
  | .nan _, _ => (.nan false, sn)
  | _, .nan _ => (.nan false, sn)
  | .inf a, .inf b => if a == b then (.inf a, 0) else (.nan false, flagNV)
  | .inf a, .fin _ _ _ => (.inf a, 0)
  | .fin _ _ _, .inf b => (.inf b, 0)
  | .fin a m e, .fin b m' e' => (addFin mode a m e b m' e', 0)

/-- Exact product; 0 × ∞ is invalid (R218). -/
def mulVal (x y : FVal) : FVal × Flags :=
  let sn := flagIf (x.isSnan || y.isSnan) flagNV
  match x, y with
  | .nan _, _ => (.nan false, sn)
  | _, .nan _ => (.nan false, sn)
  | .inf a, .inf b => (.inf (a != b), 0)
  | .inf a, .fin b m _ => if m == 0 then (.nan false, flagNV) else (.inf (a != b), 0)
  | .fin a m _, .inf b => if m == 0 then (.nan false, flagNV) else (.inf (a != b), 0)
  | .fin a m e, .fin b m' e' => (.fin (a != b) (m * m') (e + e'), 0)

/-- a × b + c exactly (R218): the flags of the product hold whatever c is. -/
def fmaVal (mode : Nat) (a b c : FVal) : FVal × Flags :=
  let p := mulVal a b
  let s := addVal mode p.1 c
  (s.1, p.2 ||| s.2)

/-- Halves a finite value exactly. -/
def halfVal : FVal → FVal
  | .fin n m e => .fin n m (e - 1)
  | x => x

/-- A small integer as a value. -/
def intVal (x : Int) : FVal := .fin (x < 0) x.natAbs 0

/-- Order of two values that are not NaNs: −1, 0 or 1; −0 equals +0. -/
def cmpVal (x y : FVal) : Int :=
  let key : FVal → FVal → Int := fun x y =>
    match x, y with
    | .fin a m e, .fin b m' e' =>
      let k := min e e'
      let p : Int := (m * 2 ^ (e - k).toNat : Nat)
      let q : Int := (m' * 2 ^ (e' - k).toNat : Nat)
      (if a then -p else p) - (if b then -q else q)
    | .inf a, .inf b => if a == b then 0 else if a then -1 else 1
    | .inf a, _ => if a then -1 else 1
    | _, .inf b => if b then 1 else -1
    | _, _ => 0
  (key x y).sign

/-- A comparison of Table 11-2, with its flag. -/
def compareVal (op : Nat) (x y : FVal) : Bool × Flags :=
  let un := x.isNan || y.isNan
  let sn := x.isSnan || y.isSnan
  let c := cmpVal x y
  match op with
  | 0 => (!un && c == 0, flagIf sn flagNV)
  | 1 => (un || c != 0, flagIf sn flagNV)
  | 2 => (!un && c < 0, flagIf un flagNV)
  | 3 => (!un && c ≤ 0, flagIf un flagNV)
  | 4 => (!un && 0 < c, flagIf un flagNV)
  | 5 => (!un && 0 ≤ c, flagIf un flagNV)
  | 6 => (un, flagIf sn flagNV)
  | _ => (!un, flagIf sn flagNV)

/-- `fmin` or `fmax` on patterns (R219): one of the operands, never rounded. -/
def minMaxBits (f : FFmt) (wantMax propagate : Bool) (a b : Nat) : Nat × Flags :=
  let x := f.decode a
  let y := f.decode b
  let fl := flagIf (x.isSnan || y.isSnan) flagNV
  if x.isNan && y.isNan then (f.canonNaN, fl)
  else if x.isNan then (if propagate then f.canonNaN else b, fl)
  else if y.isNan then (if propagate then f.canonNaN else a, fl)
  else
    let c := cmpVal x y
    -- −0 is less than +0
    let aLess : Bool := if c == 0 then f.signOf a && !f.signOf b else c < 0
    let aGreater : Bool := if c == 0 then f.signOf b && !f.signOf a else 0 < c
    (if wantMax then (if aGreater then a else b) else (if aLess then a else b), fl)

/-- The class mask of a pattern (Table 11-3). -/
def classMask (f : FFmt) (v : Nat) : Nat :=
  match f.decode v with
  | .nan s => if s then 2 ^ 8 else 2 ^ 9
  | .inf n => if n then 2 ^ 0 else 2 ^ 7
  | .fin n m _ =>
    if m == 0 then (if n then 2 ^ 3 else 2 ^ 4)
    else if f.expField v == 0 then (if n then 2 ^ 2 else 2 ^ 5)
    else (if n then 2 ^ 1 else 2 ^ 6)

/-- A finite value rounded to an integer by a mode, and whether it changed (R143, R221). -/
def roundToInt (mode : Nat) (rb : RBits) (neg : Bool) (m : Nat) (e : Int) : Int × Bool :=
  let r := roundGrid mode rb neg m e 0
  (if neg then -(r.1 : Int) else r.1, r.2)

/-- `frnd` on a pattern (R221). -/
def rndBits (f : FFmt) (mode : Nat) (v : Nat) : Nat × Flags :=
  match f.decode v with
  | .nan s => (f.canonNaN, flagIf s flagNV)
  | .inf _ => (v, 0)
  | .fin n m e =>
    if m == 0 then (v, 0)
    else
      let r := roundToInt mode noRBits n m e
      ((roundFin f 0 false noRBits n r.1.natAbs 0).1, flagIf r.2 flagNX)

/-- A value converted to an integer type's pattern (R143): the range is that of the type, or of the element
for a block type. -/
def toIntBits (signed : Bool) (n : Nat) (mode : Nat) (sat : Bool) (rb : RBits) (x : FVal) : Nat × Flags :=
  let lim : Bool → Nat × Flags := fun neg =>
    (wrapInt n (if neg then minInt signed n else maxInt signed n),
      if sat then flagSAT ||| flagNX else flagNV)
  match x with
  | .nan _ => (0, flagNV)
  | .inf neg => lim neg
  | .fin neg m e =>
    -- a magnitude of 2^70 or more lies beyond every type
    if m != 0 && 70 < ilog2 m e then lim neg
    else
      let r := roundToInt mode rb neg m e
      if r.1 < minInt signed n then lim true
      else if maxInt signed n < r.1 then lim false
      else (wrapInt n r.1, flagIf r.2 flagNX)

/-- Multiplies a value by 2^k exactly. -/
def scaleVal (k : Int) : FVal → FVal
  | .fin n m e => .fin n m (e + k)
  | x => x

/-- The value that an element of a source type holds before any scale (R136, R139, R229). -/
def sourceVal (fpctl : BitVec 32) (t v : Nat) : FVal :=
  if t < 8 then intVal (readInt (typeSigned t) (typeBits t) v)
  else if t == 16 then .fin (v.testBit 7) (readInt true 8 v).natAbs (-6)
  else if t == 15 then .fin (v.testBit 3) (readInt true 4 v).natAbs 0
  else (ffmt t).decode (dazed fpctl t v)

/-- One element converted (R143 to R146, R229): `scale` is the `.e8m0` byte and whether it goes to the
destination. (DEDUCED, log 44) -/
def convertElem (fpctl : BitVec 32) (d s mode : Nat) (sat : Bool) (rb : RBits)
    (scale : Option (Nat × Bool)) (v : Nat) : Nat × Flags :=
  if d < 8 && s < 8 then
    narrow sat (typeSigned d) (typeBits d) (readInt (typeSigned s) (typeBits s) v) |>.map id
      (fun b => flagIf b flagSAT)
  else
    let x := sourceVal fpctl s v
    let x : FVal :=
      match scale with
      | none => x
      | some (sc, toDst) =>
        if sc == 255 then
          match x with
          | .nan sg => .nan sg
          | _ => .nan false
        else scaleVal (if toDst then 127 - (sc : Int) else (sc : Int) - 127) x
    if d < 8 then
      -- a signalling NaN sets the same flag as any NaN here
      toIntBits (typeSigned d) (typeBits d) mode sat rb x
    else if d == 16 then toIntBits true 8 mode sat rb (scaleVal 6 x)
    else if d == 15 then toIntBits true 4 mode sat rb x
    else flushed fpctl d (roundVal (ffmt d) mode sat rb x)

/-- The exact rounding of an `.f32` operation to nearest even (R124, R152): no flags are kept here. -/
def rneF32 (x : FVal) : Nat := (roundVal fF32 0 false noRBits x).1

/-- Rounding to nearest even with flags, without flush. -/
def rneVal (f : FFmt) (x : FVal) : Nat × Flags := roundVal f 0 false noRBits x

end Sys2Proof
end

