-- ==== Sys2Proof/Machine/Atomic.lean ====
section
/-! DEFINITION. The update operations of Table 12-3 on bit patterns (R123, R124, R249): floating steps round
to nearest even, honour subnormals, give the canonical NaN and set no flag. -/

namespace Sys2Proof

/-- A floating addition of patterns rounded to nearest even. -/
def faddBits (f : FFmt) (a b : Nat) : Nat :=
  (roundVal f 0 false noRBits (addVal 0 (f.decode a) (f.decode b)).1).1

/-- One element's update: `old op b` for an element of type `ty` (Table 12-3). -/
def updateElem (op ty old b : Nat) : Nat :=
  let n := typeBits ty
  if 8 ≤ ty then
    let f := ffmt ty
    match op with
    | 0 => faddBits f old b
    | 1 => (minMaxBits f false false old b).1
    | 2 => (minMaxBits f true false old b).1
    | _ => b
  else
    let sg := typeSigned ty
    match op with
    | 0 => (old + b) % 2 ^ n
    | 1 => if readInt sg n old ≤ readInt sg n b then old else b
    | 2 => if readInt sg n old ≤ readInt sg n b then b else old
    | 3 => old &&& b
    | 4 => old ||| b
    | 5 => old ^^^ b
    | 6 => b
    | 7 => if b ≤ old then 0 else old + 1
    | _ => if old == 0 || b < old then b else old - 1

/-- Bytes of the operand of an `atom` or `red` of a type: a paired type takes one 4-byte word (R249). -/
def atomSize (ty : Nat) : Nat := if ty == 10 || ty == 11 then 4 else typeBits ty / 8

/-- The update of a whole operand: both halves of a paired type (R249). -/
def updateWord (op ty old b : Nat) : Nat :=
  if ty == 10 || ty == 11 then
    updateElem op ty (old % 2 ^ 16) (b % 2 ^ 16) +
      2 ^ 16 * updateElem op ty (old / 2 ^ 16 % 2 ^ 16) (b / 2 ^ 16 % 2 ^ 16)
  else updateElem op ty old b

end Sys2Proof
end

