-- ==== Sys2Proof/WellFormed.lean ====
section
/-! DEFINITION. Well-formed instructions: those whose encoding the B400 accepts at decode. -/

namespace Sys2Proof

/-- The encoding passes every check that needs no state (R375 step 2 without `RREG`, and for a header
`RCLAUSE` on its length field). Events and assayer forms have no field that could be ill-formed. -/
def Instr.WellFormed (i : Instr) : Prop := checkWord i = none

/-- The same as a test. -/
def Instr.wellFormed (i : Instr) : Bool := (checkWord i).isNone

end Sys2Proof
end

