-- ==== Sys2Proof/Decode.lean ====
section
/-! DEFINITION. The decoder, total on any bits, rejecting by exception code (R156 to R167, R307, R380,
R381), and the encoder. -/

namespace Sys2Proof

/-- Field of `n` bits at bit `lo` of a word. -/
def fieldAt (n lo w : Nat) : BitVec n := BitVec.ofNat n (w / 2 ^ lo)

/-- Bit `lo` of a word. -/
def flagAt (lo w : Nat) : Bool := w / 2 ^ lo % 2 == 1

/-- The units of a length code (R156): a header counts as 2. -/
def unitsOf (lenCode : Nat) : Nat :=
  match lenCode with
  | 0 | 1 => 2
  | 2 => 3
  | _ => 4

/-- Bits 95:64 of the 96-bit format, from the word shifted down by 64 (Table 08-3). -/
def decodeExt96 (w : Nat) : Ext96 :=
  { srcc := fieldAt 10 0 w, uni := fieldAt 10 10 w, uv := flagAt 20 w, luc := flagAt 21 w,
    kpc := flagAt 22 w, ty2 := fieldAt 5 23 w, var2 := fieldAt 4 28 w }

/-- Bits 127:64 of the memory form, from the word shifted down by 64 (Table 08-4). -/
def decodeMem (w : Nat) : MemExt :=
  { mshp := fieldAt 4 0 w, mten := flagAt 4 w, mau := flagAt 5 w, mcrd := fieldAt 10 6 w,
    mcnt := fieldAt 3 16 w, mscp := fieldAt 4 19 w, mhnt := fieldAt 3 23 w, moff := fieldAt 32 32 w }

/-- The reserved bits 95:90 of the memory form. -/
def memReserved (w : Nat) : BitVec 6 := fieldAt 6 26 w

/-- The part of an instruction above bit 63, by its length code and slot (R164 to R166). -/
def decodeExt (lenCode slot w : Nat) : Ext :=
  match lenCode with
  | 2 => .wide (decodeExt96 w)
  | 3 => if memSlot slot then .mem (decodeMem w) else .imm (fieldAt 64 0 w)
  | _ => .short

/-- The fields of Table 08-2 and what follows them. -/
def decodeFields (lenCode slot w : Nat) : Fields :=
  { dst := fieldAt 10 12 w, srca := fieldAt 10 22 w, srcb := fieldAt 10 32 w, pred := fieldAt 4 42 w,
    pneg := flagAt 46 w, lua := flagAt 47 w, lub := flagAt 48 w, kpa := flagAt 49 w,
    kpb := flagAt 50 w, ty := fieldAt 5 51 w, rnd := fieldAt 3 56 w, sat := flagAt 59 w,
    var := fieldAt 4 60 w, ext := decodeExt lenCode slot (w / 2 ^ 64) }

/-- A clause header (Table 08-1). -/
def decodeHeader (w : Nat) : Header :=
  { wait := fieldAt 12 2 w, flga := fieldAt 4 14 w, flgb := fieldAt 4 18 w, clen := fieldAt 6 22 w,
    yld := flagAt 28 w }

/-- A header's checks: `RCLAUSE` on the length, then `RFIELD` on the reserved bits (R375, R380, R381). -/
def decodeHeaderWord (w : Nat) : Except Exc Instr :=
  let h := decodeHeader w
  match checkWord (.clauseHeader h) with
  | some e => .error e
  | none => if (fieldAt 35 29 w) == 0 then .ok (.clauseHeader h) else .error .rfield

/-- The reserved bits of the memory form raise `RFIELD` after a length or slot error and before a type
error (R375, Table 22-9). -/
def memReservedBad (lenCode slot w : Nat) : Bool :=
  lenCode == 3 && memSlot slot && memReserved (w / 2 ^ 64) != 0

/-- The instruction that a word of a crew's code stands for, the word's units laid from bit 0 upward. -/
def decodeCrewWord (w : Nat) : Except Exc Instr :=
  let lenCode := w % 4
  if lenCode == 0 then decodeHeaderWord w
  else
    let slot := (fieldAt 10 2 w).toNat
    match rowOf slot with
    | none => .error .rslot
    | some r =>
      let i := r.make (decodeFields lenCode slot w)
      match checkWord i with
      | some .rlen => .error .rlen
      | some .rfield => .error .rfield
      | some e => if memReservedBad lenCode slot w then .error .rfield else .error e
      | none => if memReservedBad lenCode slot w then .error .rfield else .ok i

/-- A custom word of an assayer handler (R307, Table 15-4); none for any other word. -/
def decodeAssayerWord (w : Nat) : Option Instr :=
  let rd := fieldAt 5 7 w
  let f3 := (fieldAt 3 12 w).toNat
  let a := fieldAt 5 15 w
  let b := fieldAt 5 20 w
  let f7 := (fieldAt 7 25 w).toNat
  if (fieldAt 7 0 w).toNat != 0x0B || 2 ^ 32 ≤ w then none
  else
    match f3 with
    | 0 => if f7 == 0 && b == 0 && a == 0 then some (.asEvt rd) else none
    | 1 => if f7 == 0 && b == 0 then some (.asLd rd a) else none
    | 2 => if f7 == 0 && rd == 0 then some (.asSt a b) else none
    | 3 => if f7 % 4 == 0 then some (.asCas rd a b (fieldAt 5 27 w)) else none
    | 4 => if f7 == 0 && rd == 0 then some (.asPf a b) else none
    | 5 => if f7 == 0 && b == 0 && rd == 0 then some (.asWake a) else none
    | 6 => if f7 == 0 && b == 0 then some (.asMsg rd a) else none
    | _ =>
      if f7 == 0 then (if b == 0 then some (.asTlb rd a) else none)
      else if f7 == 1 then (if b == 0 && a == 0 then some (.asLeft rd) else none)
      else if f7 == 2 then (if b == 0 && a == 0 && rd == 0 then some .asDone else none)
      else none

/-- Little-endian value of a list of bytes (R156). -/
def leNat : List Byte → Nat
  | [] => 0
  | b :: bs => b.toNat + 256 * leNat bs

/-- The low `n` bytes of a value, lowest first. -/
def leBytes : Nat → Nat → List Byte
  | 0, _ => []
  | n + 1, v => BitVec.ofNat 8 v :: leBytes n (v / 256)

/-- Decodes the bytes at a program counter of a crew: the instruction and the bytes it takes. Too few
bytes cross the fetch block (R157, R380). -/
def decodeBytes (bs : List Byte) : Except Exc (Instr × Nat) :=
  let n := 4 * unitsOf (leNat (bs.take 1) % 4)
  if bs.length < n then .error .rfetch
  else
    match decodeCrewWord (leNat (bs.take n)) with
    | .ok i => .ok (i, n)
    | .error e => .error e

/-- A word of `nbits` bits. -/
structure Code where
  nbits : Nat
  w : Nat
  deriving DecidableEq, Repr

/-- A bit as a number. -/
def bitNat (b : Bool) : Nat := if b then 1 else 0

/-- Bits 95:64 (Table 08-3), as a number from bit 0. -/
def encodeExt96 (e : Ext96) : Nat :=
  e.srcc.toNat + 2 ^ 10 * e.uni.toNat + 2 ^ 20 * bitNat e.uv + 2 ^ 21 * bitNat e.luc +
    2 ^ 22 * bitNat e.kpc + 2 ^ 23 * e.ty2.toNat + 2 ^ 28 * e.var2.toNat

/-- Bits 127:64 of the memory form (Table 08-4), as a number from bit 0. -/
def encodeMem (m : MemExt) : Nat :=
  m.mshp.toNat + 2 ^ 4 * bitNat m.mten + 2 ^ 5 * bitNat m.mau + 2 ^ 6 * m.mcrd.toNat +
    2 ^ 16 * m.mcnt.toNat + 2 ^ 19 * m.mscp.toNat + 2 ^ 23 * m.mhnt.toNat + 2 ^ 32 * m.moff.toNat

/-- The length code of an instruction with this extension (R156). -/
def Ext.lenCode : Ext → Nat
  | .short => 1
  | .wide _ => 2
  | .imm _ => 3
  | .mem _ => 3

/-- What stands above bit 63, as a number from bit 0. -/
def Ext.bits : Ext → Nat
  | .short => 0
  | .wide e => encodeExt96 e
  | .imm v => v.toNat
  | .mem m => encodeMem m

/-- The word of an instruction in a slot (Table 08-2). -/
def encodeFields (slot : Nat) (f : Fields) : Nat :=
  f.ext.lenCode + 2 ^ 2 * slot + 2 ^ 12 * f.dst.toNat + 2 ^ 22 * f.srca.toNat + 2 ^ 32 * f.srcb.toNat +
    2 ^ 42 * f.pred.toNat + 2 ^ 46 * bitNat f.pneg + 2 ^ 47 * bitNat f.lua + 2 ^ 48 * bitNat f.lub +
    2 ^ 49 * bitNat f.kpa + 2 ^ 50 * bitNat f.kpb + 2 ^ 51 * f.ty.toNat + 2 ^ 56 * f.rnd.toNat +
    2 ^ 59 * bitNat f.sat + 2 ^ 60 * f.var.toNat + 2 ^ 64 * f.ext.bits

/-- The word of a clause header (Table 08-1). -/
def encodeHeader (h : Header) : Nat :=
  2 ^ 2 * h.wait.toNat + 2 ^ 14 * h.flga.toNat + 2 ^ 18 * h.flgb.toNat + 2 ^ 22 * h.clen.toNat +
    2 ^ 28 * bitNat h.yld

/-- The words of a well-formed instruction; none for an event, which has no encoding. (DEDUCED, log 60) -/
def encode (i : Instr) : Option Code :=
  match i.word with
  | some (slot, f) => some ⟨32 * unitsOf f.ext.lenCode, encodeFields slot f⟩
  | none =>
    match i with
    | .clauseHeader h => some ⟨64, encodeHeader h⟩
    | .asEvt rd => some ⟨32, 0x0000000B + 2 ^ 7 * rd.toNat⟩
    | .asLd rd a => some ⟨32, 0x0000100B + 2 ^ 7 * rd.toNat + 2 ^ 15 * a.toNat⟩
    | .asSt a b => some ⟨32, 0x0000200B + 2 ^ 15 * a.toNat + 2 ^ 20 * b.toNat⟩
    | .asCas rd a b e =>
        some ⟨32, 0x0000300B + 2 ^ 7 * rd.toNat + 2 ^ 15 * a.toNat + 2 ^ 20 * b.toNat + 2 ^ 27 * e.toNat⟩
    | .asPf a b => some ⟨32, 0x0000400B + 2 ^ 15 * a.toNat + 2 ^ 20 * b.toNat⟩
    | .asWake a => some ⟨32, 0x0000500B + 2 ^ 15 * a.toNat⟩
    | .asMsg rd a => some ⟨32, 0x0000600B + 2 ^ 7 * rd.toNat + 2 ^ 15 * a.toNat⟩
    | .asTlb rd a => some ⟨32, 0x0000700B + 2 ^ 7 * rd.toNat + 2 ^ 15 * a.toNat⟩
    | .asLeft rd => some ⟨32, 0x0200700B + 2 ^ 7 * rd.toNat⟩
    | .asDone => some ⟨32, 0x0400700B⟩
    | _ => none

/-- What a code word stands for: 32 bits are an assayer's word, more are a crew's. -/
def decodeCode (c : Code) : Option Instr :=
  if c.nbits ≤ 32 then decodeAssayerWord c.w
  else
    match decodeCrewWord c.w with
    | .ok i => if (encode i).map Code.nbits == some c.nbits then some i else none
    | .error _ => none

/-- The host's question: the instruction read from an instruction whose bits are `w`. A crew's instruction
is as long as its length code says; bits above `nbits` are 0. -/
def decodeTableWord (nbits w : Nat) : Option Instr :=
  if nbits ≤ 32 then decodeAssayerWord w
  else
    match decodeBytes (leBytes 16 w) with
    | .ok (i, _) => some i
    | .error _ => none

end Sys2Proof
end

