-- ==== Sys2Proof/Machine/State.lean ====
section
/-! DEFINITION. The state of a B400 module as plain data: every register, memory, queue and table that the
manual gives it, the reasons a step can stop, and the state after reset. Timestamps and counts that the
manual says never wrap are naturals. -/

namespace Sys2Proof.Machine

/-- A sparse table: pairs with strictly rising keys. -/
abbrev Tab (α : Type) := List (Nat × α)

/-- Memory bytes: cells at strictly rising addresses, none holding the value 0 that an unlisted address
reads as (DESIGN CHOICE, log 2). -/
abbrev Mem := List Host.Cell

/-- The content of a vector register's lane or of a uniform register: a value, or dead since its last use
(R80, R383); or a granule whose bits are lost, perhaps not found yet (R364, R366). -/
inductive RegVal where
  | live (w : Word)
  | dead
  | bad (latent : Bool)
  deriving DecidableEq, Repr

/-- The states of a split, in the order of Table 03-3 (R61, R86). -/
inductive SplitState where
  | ready | issuing | stalled | refuge | joinWait | gangWait | lampWait | monitorWait | contWait
  | binWait | ended
  deriving DecidableEq, Repr

/-- The states of a crew (Table 03-2). -/
inductive CrewState where
  | pending | resident | draining | swappedOut | halted | saved | retired
  deriving DecidableEq, Repr

/-- The clause in which a split stands: its header, the address after its last unit, its flags, and whether
the next instruction is the first after the header. -/
structure Clause where
  base : Nat
  stop : Nat
  flga : Nat
  flgb : Nat
  first : Bool
  deriving DecidableEq, Repr

/-- What a split in Monitor wait waits for (R65, R66, R186). -/
structure Wait where
  va : Nat
  pa : Nat
  /-- the page's class (R299) -/
  cls : Nat
  cmp : Nat
  signed : Bool
  comparand : Word
  dst : Nat
  /-- the check has been sent and not yet answered -/
  inFlight : Bool
  /-- re-check form -/
  recheck : Bool
  /-- the clock of the last check -/
  checkedAt : Nat
  /-- uniform registers that the `waitc` ends when it completes (R80) -/
  ends : List Nat
  deriving DecidableEq, Repr

/-- A read beyond the module that an agent waits for: its address, its size, its data with the poison once the
completion has come, and the reason of Table 24-1 where it failed (R325, R404). -/
structure Away where
  pa : Nat
  size : Nat
  data : Option (List Byte × Bool)
  reason : Nat
  deriving DecidableEq, Repr

/-- An entry of a crew's split table (R27, R85). -/
structure Split where
  pc : Nat
  mask : Mask
  state : SplitState
  innermost : Option Nat
  clause : Option Clause
  /-- flag awaited in Continuation wait -/
  awaitFlag : Nat
  wait : Option Wait
  /-- gang name of Gang wait -/
  gang : Nat
  /-- cycle at which it last entered Ready afresh (R62) -/
  age : Nat
  /-- cycles of its core's island in Ready or Issuing without a pass: from 128 on it is boosted (R62) -/
  waited : Nat
  /-- passes that remain of the instruction it has issued last, in Issuing (R24, R62) -/
  left : Nat
  /-- reads beyond the module of code and of descriptors, for the instruction at which it stands (R325) -/
  away : List Away
  /-- bank groups of the stockpile whose reads that instruction has made outside their refresh windows (R110) -/
  groups : List Nat
  deriving DecidableEq, Repr

/-- A divergence record (R27, R30, R460, Table 04-5). -/
structure Divergence where
  joinPc : Nat
  enclosing : Option Nat
  serial : Bool
  /-- address at which the held fall-through lanes resume while they have not run -/
  resume : Option Nat
  /-- lanes held that await their turn, and lanes held that have reached the join -/
  waiting : Mask
  arrived : Mask
  deriving DecidableEq, Repr

/-- A gang as a crew names it (R34, R36): its table index, the crew's phase, an arrival not yet waited for, that
a `coll.bar` in progress made it (R256), and the collectives completed. -/
structure GangName where
  table : Nat
  rank : Nat
  phase : Nat
  arrived : Bool
  bar : Bool
  colls : Nat
  deriving DecidableEq, Repr

/-- Why a crew is held Saved by itself (R178, R376), or Halted until its swap-out can be saved (R67, R399). -/
inductive HoldKind where
  | none | brk | fault | leave
  deriving DecidableEq, Repr

/-- The fields of a kernel header (Table 04-4). -/
structure Kernel where
  kobj : Nat
  width : Nat
  vregs : Nat
  sregs : Nat
  accs : Nat
  lamp : Nat
  gangs : Nat
  rowctr : BitVec 8
  stash : Nat
  wdog : Nat
  affin : Nat
  codeoff : Nat
  codelen : Nat
  deriving DecidableEq, Repr

/-- An `svc` request in a service queue, or waiting at its core for room (R195, R337). -/
structure SvcReq where
  ctx : Nat
  crew : Nat
  flga : Nat
  flgb : Nat
  taken : Bool
  deriving DecidableEq, Repr

/-- A record for a service or debug queue (Table 17-6): the low 193 bits without `QSEQ`. -/
structure QRecord where
  kind : Nat
  split : Nat
  crewIndex : Nat
  code : Nat
  slot : Nat
  addr : Nat
  /-- the `svc` request behind it -/
  svc : Option SvcReq
  deriving DecidableEq, Repr

/-- The wake of a monitor for a crew that is swapped out, applied when it returns (R66, R67): the split's entry, the
value with the timestamp of its write, and whether the word was poisoned. -/
structure Wake where
  entry : Nat
  value : Word
  wts : Nat
  bad : Bool
  deriving DecidableEq, Repr

/-- A crew (Tables 03-2, 04-1, 04-6). -/
structure Crew where
  ctx : Nat
  /-- crew index within its launch; 0 for a crew of a bin -/
  index : Nat
  launch : Option Nat
  /-- node and chiplet of the bin that created it -/
  bin : Option (Nat × Nat)
  /-- the records that a bin crew begins with -/
  records : List (List Byte)
  kernel : Kernel
  core : Nat
  part : Nat
  state : CrewState
  prio : Nat
  v : Tab RegVal
  s : Tab RegVal
  p : Tab Mask
  k : Tab Word
  t : Tab Shape
  /-- 8-byte granules of the predicate, mask and shape registers whose bits are lost, and whether a read has still to
  find it: granule g of p(n) at 16 n + g, k(n) at 256 + n, granule g of t(n) at 512 + 4 n + g (R364, R366) -/
  lost : Tab Bool
  /-- physical tiles bound to acc0, acc1, …, and that others use them while the crew is out (R67, R74) -/
  acc : List Nat
  tilesLent : Bool
  flags : BitVec 12
  obl : Tab Nat
  fpctl : BitVec 32
  sticky : BitVec 32
  uintEn : Bool
  uintPend : Bool
  uintRun : Bool
  /-- the split that runs the handler and its innermost divergence at delivery -/
  handler : Option (Nat × Option Nat)
  pts : Nat
  /-- largest timestamp of completed engine work of the crew (R120, R126) -/
  engTs : Nat
  /-- largest timestamp at which a reduction of the crew has been performed (R120, R124) -/
  redTs : Nat
  splits : Tab Split
  divs : Tab Divergence
  gangs : List GangName
  /-- log2 W and Q of a bound lode -/
  lode : Option (Nat × Nat)
  slot : Option Nat
  wdogCount : Nat
  hold : HoldKind
  /-- break records to post once the crew is saved (R376, R399) -/
  pendBrk : List QRecord
  /-- a swapped-out crew whose split has been woken (R67) -/
  woken : Bool
  wakes : List Wake
  stranded : Bool
  /-- the scheduler cycle of the claim and of the placement (R59, R62) -/
  claimedAt : Nat
  placedAt : Nat
  /-- the wait for a warm core has ended (R56) -/
  warmDone : Bool
  /-- the record of R398 for a crew of a bin left unplaced has been written -/
  stallNoted : Bool
  /-- reserved core and partition (R59) -/
  reserve : Option (Nat × Nat)
  /-- `svc` requests not yet completed (R183) -/
  svcOut : Nat
  /-- the condition of R67 has held for so many cycles of the core's island -/
  idleFor : Option Nat
  /-- the crew drains (R183) -/
  drain : Bool
  deriving DecidableEq, Repr

/-- Where an outstanding load, `atom` or check of an outside target delivers. -/
inductive ExtKind where
  | vload | uload | store | vatom | uatom | check
  /-- a read or a write of a hoist command or of the matrix engine; `lane` is its slot, 16 for the engine (R325) -/
  | unitRead | unitWrite
  /-- a read of code or of a descriptor by a split, and a read by a slice's handler, whose number is `core` (R325) -/
  | fetch | handler
  /-- a posted write by a slice's handler -/
  | handlerWrite
  /-- an access of the application core `core` (R325, R335) -/
  | appRead | appWrite
  /-- a read by the module's schedulers (R325) -/
  | sched
  deriving DecidableEq, Repr

/-- A request outstanding at a CXL station or an adit (R131, R404). -/
structure Ext where
  kind : ExtKind
  crew : Nat
  split : Nat
  lane : Nat
  core : Nat
  ctx : Nat
  va : Nat
  pa : Nat
  size : Nat
  /-- destination register, and the type that extends the data -/
  dst : Nat
  ty : Nat
  x2 : Bool
  /-- operation of an atomic -/
  op : Nat
  /-- data of a write, or the operand of an atomic -/
  data : List Byte
  pc : Nat
  slot : Nat
  sentAt : Nat
  /-- Cunik sends made (R441) -/
  sends : Nat
  /-- its scope covers the target: the split makes no later access before it is performed (R124, R249) -/
  hold : Bool
  /-- the exception of its instruction has been taken (R375) -/
  told : Bool
  deriving DecidableEq, Repr

/-- An `amsg` not yet answered (R253). -/
structure Amsg where
  crew : Nat
  split : Nat
  ctx : Nat
  dst : Nat
  flga : Nat
  flgb : Nat
  slice : Nat
  /-- physical address of the message -/
  pa : Nat
  /-- the slice has accepted the event -/
  accepted : Bool
  /-- the reply, once deposited, and whether it comes with `DERR` -/
  reply : Option (Word × Bool)
  /-- the program timestamp of the handler at its reply (R129) -/
  pts : Nat
  deriving DecidableEq, Repr

/-- A line held in a mapping's stash (R101, R413, R464). -/
structure MLine where
  pa : Nat
  w : Bool
  wts : Nat
  rts : Nat
  dirty : BitVec 128
  cmode : Nat
  /-- the stash holds the line's bytes; a line that was given up or never fetched keeps its `w` (R463, R464) -/
  filled : Bool
  /-- the line and its marks as the home holds them beneath what the stash has and has not written back (R413) -/
  under : LineData
  underBad : BitVec 4
  /-- bytes whose field a store has covered whole since the fill: not poisoned whatever their granule at the home (R408) -/
  fresh : BitVec 128
  deriving DecidableEq, Repr

/-- The mapping descriptor (Table 05-5). -/
structure MapDesc where
  gbase : Nat
  sbase : Nat
  any : Bool
  slen : Nat
  estride : Nat
  foff : Nat
  fsize : Nat
  ecount : Nat
  mode : Nat
  deriving DecidableEq, Repr

/-- A mapping entry of a core (R100 to R104, R462). -/
structure Mapping where
  desc : MapDesc
  ctx : Nat
  base : Nat
  adopters : List Nat
  affin : Nat
  used : Nat
  /-- lines by global line number for whole mappings, by packed line for field-selected ones -/
  lines : Tab MLine
  /-- for a field-selected stash line: the least rts of the lines packed in it -/
  packed : Tab Nat
  /-- the upper physical half of a double mapping is visible -/
  upper : Bool
  deriving DecidableEq, Repr

/-- A copy of a line in a core (R115, R121). -/
structure Copy where
  data : LineData
  wts : Nat
  rts : Nat
  managed : Bool
  dirty : BitVec 128
  poison : BitVec 4
  /-- granules with an uncorrectable error that nothing has read yet (R364) -/
  flaw : BitVec 4
  deriving DecidableEq, Repr

/-- A row counter's holder and value (R77). -/
structure RowCtr where
  launch : Nat
  value : BitVec 32
  /-- the largest timestamp of the rows counted (R126, R268) -/
  ts : Nat
  deriving DecidableEq, Repr

/-- How a parked command stands (Table 25-2). -/
structure Park where
  side : Bool
  exc : Nat
  row : Nat
  elem : Nat
  va : Nat
  retry : Bool
  deriving DecidableEq, Repr

/-- A hoist command in flight (R259 to R264, R266). -/
structure HoistCmd where
  crew : Nat
  ctx : Nat
  opc : Nat
  src : Shape
  dst : Shape
  block : List Word
  /-- buffer address and capacity of `hcmp` -/
  buf : Nat
  cap : Nat
  index : List (BitVec 32)
  skip : Mask
  pc : Nat
  ps : Nat
  flga : Nat
  flgb : Nat
  released : Bool
  park : Option Park
  /-- the lowest parking case met by a row that has begun above `pc` (R421, R430) -/
  ahead : Option Park
  /-- `hcmp`: blocks written so far -/
  blocks : Nat
  /-- order of posting -/
  seq : Nat
  /-- cycles without progress (class 12) -/
  idle : Nat
  /-- `IDX` 10: the indices of rows that have begun, and whether they were poisoned (R262) -/
  kept : Tab (Nat × Bool)
  /-- `hcmp`: the bits of the bitmap's last byte written so far, which the next row group shares (R266) -/
  carry : Nat
  /-- reads beyond the module for the row that has begun (R325), and the bank groups of the stockpile that it has
  accessed outside their refresh windows (R110) -/
  away : List Away
  groups : List Nat
  deriving DecidableEq, Repr

/-- An issued matrix-engine instruction (R275, Table 13-9). -/
structure EngCmd where
  crew : Nat
  ctx : Nat
  insn : Nat
  shp1 : Shape
  shp2 : Shape
  mask : Word
  scale : Nat
  /-- physical tiles of the issuer's region -/
  tiles : List Nat
  /-- arrangement and B type that the last `mld` issued before it names (R271) -/
  arr : Nat
  btype : Nat
  pos : Nat
  flga : Nat
  flgb : Nat
  released : Bool
  derr : Bool
  recorded : Bool
  idle : Nat
  /-- reads beyond the module for its next step, and writes not yet acknowledged (R274, R325) -/
  away : List Away
  groups : List Nat
  acks : List Nat
  deriving DecidableEq, Repr

/-- The compute-in-memory macros of a core (R269 to R271, R429). -/
structure Macros where
  cells : Tab (BitVec 8)
  /-- signed exponent of block j, column c of macro m, at 512 m + 128 j + c -/
  exps : Tab Int
  btype : Nat
  arr : Nat
  loaded : Option Nat
  /-- blocks 4 m + j marked poisoned (`MPSN`) -/
  poison : List Nat
  /-- blocks in whose cells bits are lost that no product has read yet (R364) -/
  lost : List Nat
  /-- arrangement and type of the last `mld` issued -/
  issuedArr : Nat
  issuedType : Nat
  /-- fenced sub-arrays (macro, sub-array), and macros whose spare serves (R429) -/
  fenced : List (Nat × Nat)
  spareUsed : List Nat
  /-- since the last passing self-test of each: the physical tiles fed by each macro and serving sub-array, and by the
  crew of each `mrd` and `mred` the macros and sub-arrays that fed what it read (R429) -/
  fed : List (Nat × Nat × Nat)
  outs : List (Nat × List (Nat × Nat))
  harvested : Bool
  deriving DecidableEq, Repr

/-- A request on a mapping: a `sunmap`, `sflush` or `hpub` whose split is Stalled at it while engine work on the
stash range is under way, or a write-back that has been captured (R247, R267, R418). -/
structure StashReq where
  /-- 0 `sunmap`, 1 `sflush`, 2 `hpub`, 3 `smap` -/
  kind : Nat
  crew : Nat
  /-- the split's entry, the form's address and length, and the uniform registers that end with it -/
  split : Nat
  pc : Nat
  len : Nat
  ends : List Nat
  entry : Nat
  flga : Nat
  flgb : Nat
  /-- the write-back has been captured -/
  captured : Bool
  /-- hoist commands posted before it (R127) -/
  before : Nat
  deriving DecidableEq, Repr

/-- A split whose hoist form waits for a command slot (R259). -/
structure SlotWait where
  crew : Nat
  entry : Nat
  pc : Nat
  deriving DecidableEq, Repr

/-- A compute core. -/
structure Core where
  stash : Mem
  stashPoison : List Nat
  maps : Tab Mapping
  copies : Tab Copy
  ring : List Nat
  holder : Option Nat
  ctrs : Tab RowCtr
  hoist : Tab HoistCmd
  hoistSeq : Nat
  /-- crews and split entries whose hoist form found no slot, with the form's address (R259, R402) -/
  hoistWait : List SlotWait
  eng : List EngCmd
  macros : Macros
  /-- FP32 elements at 4096 × tile + e -/
  acc : Tab (BitVec 32)
  accCtx : Tab Nat
  accPoison : List Nat
  /-- pairs of elements whose bits are lost, at 2048 × tile + pair, and whether a read has still to find it (R364) -/
  accLost : Tab Bool
  reqs : List StashReq
  deriving DecidableEq, Repr

/-- An update held for a line (R124). -/
structure Partial where
  die : Nat
  off : Nat
  size : Nat
  op : Nat
  ty : Nat
  value : Nat
  /-- the largest program timestamp at which a reduction joined it (R120), and the crews that issued them -/
  pts : Nat
  crews : List Nat
  /-- half of a paired update that has left its core and may join later than the other half: the issuing crew
  (R125, R344) -/
  late : Option Nat
  deriving DecidableEq, Repr

/-- The owner core of a private page, and the translation by which it was fixed: the context, the page and log2 of its
size (R405). -/
structure PrivPage where
  owner : Nat
  ctx : Nat
  page : Nat
  log : Nat
  deriving DecidableEq, Repr

/-- What the directory holds of an HBM line (R97, R114, R117, R299, R405). -/
structure Line where
  wts : Nat
  rts : Nat
  leased : Bool
  /-- owning stash: core and mapping entry -/
  owner : Option (Nat × Nat)
  held : Bool
  /-- context, class and virtual line address recorded at the fill -/
  record : Option (Nat × Nat × Nat)
  partials : List Partial
  /-- at a private page's first line: its owner core -/
  priv : Option PrivPage
  /-- the host may cache the line (R130) -/
  hostCached : Bool
  /-- granules that HBM does not hold yet (R415, R438) -/
  dirty : BitVec 4
  /-- the last access to it was to a managed page (R121, R132) -/
  managed : Bool
  deriving DecidableEq, Repr

/-- An armed condition monitor (R65). -/
structure Monitor where
  crew : Nat
  entry : Nat
  ctx : Nat
  pa : Nat
  cmp : Nat
  signed : Bool
  comparand : Word
  deriving DecidableEq, Repr

/-- An assayer event (R299, R300). -/
structure AsEvent where
  kind : Nat
  cls : Nat
  origin : Nat
  dirty : Bool
  va : Nat
  arg : Word
  crewIndex : Nat
  core : Nat
  time : Nat
  /-- request of a msg event -/
  request : Option Nat
  deriving DecidableEq, Repr

/-- A context installed on an assayer (R296, R301 to R304, R433). -/
structure Install where
  codebase : Nat
  codelen : Nat
  share : Nat
  /-- `ENTRY` at 4 × class + kind -/
  entries : Tab Nat
  data : Mem
  dataPoison : List Nat
  pts : Nat
  queue : List AsEvent
  waiting : List AsEvent
  disc : Nat
  /-- consecutive overruns of an entry, by 4 × class + kind -/
  overruns : Tab Nat
  disabled : List Nat
  used : Nat
  removing : Bool
  /-- the measurement of its table, code range and data image (R302) -/
  measure : Nat
  deriving DecidableEq, Repr

/-- The running handler of an assayer (R298, R305, R306). -/
structure Handler where
  ctx : Nat
  ev : AsEvent
  entry : Nat
  regs : Tab Word
  pc : Nat
  lastPc : Nat
  /-- cycles of the event that its budget has counted (R305) -/
  cycles : Nat
  /-- of these, cycles that an instruction has been charged and the clock has not yet passed -/
  ahead : Nat
  replied : Bool
  lock : Option Nat
  /-- the destination of an ordinary load just issued (Table 15-6) -/
  loadDst : Nat
  /-- reads beyond the module for the instruction at which it stands (R325) -/
  away : List Away
  deriving DecidableEq, Repr

/-- An L2 slice with its assayer. -/
structure Slice where
  mts : Nat
  smax : Nat
  monitors : List Monitor
  substitute : Option Nat
  installs : Tab Install
  handler : Option Handler
  rotation : Nat
  /-- class 11: the next re-evaluation of its monitors is dropped (R368, R416) -/
  dropEval : Bool
  /-- lines of prefetch in flight, with the prefetching context, the page's class and the virtual address -/
  prefetch : List (Nat × (Nat × Nat × Nat))
  deriving DecidableEq, Repr

/-- A node table entry (Table 02-4) with its kernel. -/
structure Node where
  entry : Nat
  rsize : Nat
  coal : Nat
  prio : Nat
  timer : Nat
  cap : Nat
  ring : Nat
  high : Nat
  low : Nat
  kernel : Kernel
  deriving DecidableEq, Repr

/-- A bin of a node on one chiplet (R38 to R44). -/
structure Bin where
  records : List (List Byte)
  /-- of `records`, the oldest ones taken by launches -/
  taken : Nat
  /-- the clock at which the timer expires -/
  timer : Option Nat
  /-- the depth reached `HIGH` and has not fallen below `LOW` -/
  raised : Bool
  /-- physical addresses of the slots whose fire is held, with the pieces of their records (address, bytes) -/
  heldFires : List (Nat × List (Nat × Nat))
  deriving DecidableEq, Repr

/-- How far a pre-emption has come (R70). -/
inductive Preempt where
  | no | asked | halted | saved
  deriving DecidableEq, Repr

/-- The run-time part of a context (R18, R118, R337). -/
structure Ctx where
  active : Bool
  timestamp : Nat
  nodes : List Node
  failed : List Nat
  bins : Tab Bin
  preempt : Preempt
  preemptAt : Nat
  /-- crews that R399 has reported late -/
  reported : List Nat
  resume : Bool
  slots : List Nat
  svcSeq : Nat
  dbgSeq : Nat
  svcWait : List QRecord
  dbgWait : List QRecord
  /-- requests behind the service queue's records, by record number -/
  svcReqs : Tab SvcReq
  /-- engine records in the context's engine save areas and their posters: at 32 × core + slot, hoist
  slots 0 to 15, engine records 16 to 19, and 31 for a saved core itself (R89) -/
  engSaved : Tab Nat
  /-- the order of posting of the hoist commands saved there, at 32 times the core with the slot (R265) -/
  hoistOrder : Tab Nat
  deriving DecidableEq, Repr

/-- A gang table entry (Table 02-3). -/
structure GangEntry where
  first : Nat
  count : Nat
  stride : Nat
  res : Bool
  compact : Bool
  deriving DecidableEq, Repr

/-- A collective that a member has issued (R255, R394). -/
structure CollIssue where
  crew : Nat
  rank : Nat
  k : Nat
  form : Nat
  op : Nat
  ty : Nat
  chunk : Nat
  scope : Nat
  src : Nat
  dst : Nat
  /-- uniform registers that end with it (R80) -/
  ends : List Nat
  deriving DecidableEq, Repr

/-- The run-time part of a gang (R36, R322, R393). -/
structure Gang where
  broken : Bool
  issues : List CollIssue
  /-- modules and counts of a module gang -/
  joined : List (Nat × Nat)
  /-- by the parity of a phase: the largest timestamp of its arrivals (R36, R254) -/
  pts : Tab Nat
  deriving DecidableEq, Repr

/-- An accepted launch (R20, R53 to R58). -/
structure Launch where
  ring : Nat
  /-- the binding of its ring under which it came (R330) -/
  epoch : Nat
  seq : Nat
  ctx : Nat
  ctag : Nat
  die : Nat
  prio : Nat
  place : Nat
  diemask : Nat
  ncrew : Nat
  pblk : Nat
  psize : Nat
  kernel : Kernel
  gtab : List GangEntry
  gangs : Tab Gang
  next : Nat
  /-- crew indices claimed early by a closure -/
  early : List Nat
  retired : List Nat
  ended : Nat
  /-- by chiplet: the core that took its previous crew -/
  lastCore : Tab Nat
  done : Bool
  /-- since when its next crew waits (R59) -/
  headSince : Nat
  /-- the clock of the last claim, and the chiplet that made it (R55) -/
  claimed : Nat × Nat
  /-- by chiplet: the core and partition that its next crew has reserved (R59) -/
  reserve : Tab (Nat × Nat)
  deriving DecidableEq, Repr

/-- A ring as its I/O core serves it (R327 to R332, R442 to R445). -/
structure Ring where
  head : Nat
  cnext : Nat
  lost : Nat
  anom : Nat
  /-- completions held for room: `PSEQ`, `CTAG`, `STATUS`, `PTYPE`, `REASON`, and `%clock` at the completion -/
  held : List (Nat × Nat × Nat × Nat × Nat × Nat)
  /-- how many bindings the ring has had: completions of an earlier one are not among `open_` -/
  epoch : Nat
  /-- the packet forwarded and not yet accepted, or the command in progress: its `SEQ` and 1024 bits -/
  launch : Option (Nat × Nat)
  command : Option (Nat × Nat)
  /-- packets of the ring not yet completed, for commands that wait for them -/
  open_ : Nat
  backward : Bool
  cdoneBad : Bool
  /-- the `TAIL` that a slot's `SEQ` word has shown, while it is ahead of `HEAD` (R443) -/
  seen : Nat
  /-- the condition monitor of its I/O core on the kick line or on the `SEQ` word of slot `HEAD` has fired (R329) -/
  woken : Bool
  deriving DecidableEq, Repr

/-- A TLB's holder (R94, R296). -/
inductive TlbAt where
  | core (c : Nat)
  | die (d : Nat)
  | assayer (slice : Nat)
  deriving DecidableEq, Repr

/-- A TLB entry: the combined result of the two stages (R94, R334). -/
structure TlbEntry where
  place : TlbAt
  ctx : Nat
  /-- virtual page number in pages of 2^`log` bytes -/
  page : Nat
  log : Nat
  pa : Nat
  r : Bool
  w : Bool
  x : Bool
  u : Bool
  dirty : Bool
  aclass : Nat
  cmode : Nat
  pbmt : Nat
  /-- owner core of a private page, once the home has refused a core -/
  owner : Option Nat
  deriving DecidableEq, Repr

/-- A context descriptor (Table 17-5). -/
structure Desc where
  valid : Bool
  dbg : Bool
  sandbox : Nat
  rootppn : Nat
  grootppn : Nat
  savebase : Nat
  saveslot : Nat
  savecnt : Nat
  wdogdef : Nat
  esave : Nat
  svcq : Nat
  dbgq : Nat
  svcid : Nat
  svchart : Nat
  deriving DecidableEq, Repr

/-- A ring binding (Table 17-4). -/
structure Binding where
  valid : Bool
  priv : Bool
  iocore : Nat
  ctx : Nat
  deriving DecidableEq, Repr

/-- A peer window entry (Table 16-1). -/
structure Window where
  valid : Bool
  die : Nat
  ports : BitVec 4
  peer : Nat
  deriving DecidableEq, Repr

/-- An island's written ceiling, the step that the last evaluation granted it, and the step in force, the lower of
the granted step and the ceiling then (R15, R17, R341, Table 17-7). -/
structure Island where
  ceil : Nat
  grant : Nat
  step : Nat
  deriving DecidableEq, Repr

/-- The boot status word (Table 26-4). -/
structure Boot where
  step : Nat
  fail : Nat
  bcopy : Bool
  icopy : Bool
  hcopy : Bool
  nfence : Nat
  deriving DecidableEq, Repr

/-- What an agent outside the cores receives from its access (R365, Table 21-1, R371). -/
inductive ExtReply where
  | data (bytes : List Byte) (poison : Bool)
  | done
  | error
  /-- the access has left the module, and its completion is still to come (R325) -/
  | sent
  deriving DecidableEq, Repr

/-- A request of a peer that has been performed, with its reply (R441). -/
structure PeerDone where
  source : Nat
  number : Nat
  reply : ExtReply
  at_ : Nat
  deriving DecidableEq, Repr

/-- A fault that arises in one unit (R364, R368). -/
inductive HwFault where
  /-- a fault of a class is masked, and counts at a chiplet -/
  | masked (die cls : Nat)
  /-- class 1: 8 bytes of a crew's vector register in a lane, or of a uniform register -/
  | vreg (crew n lane : Nat)
  | sreg (crew n : Nat)
  /-- class 1: 8 bytes of a crew's predicate, mask or shape registers (numbered as `Crew.lost`), a pair of elements of a
  physical accumulator tile, a block of the macros' cells -/
  | otherReg (crew granule : Nat)
  | accPair (core tile pair : Nat)
  | macroBlock (core block : Nat)
  /-- class 1: a granule of a core's stash, of a line that an L2 slice holds, or of an assayer's data memory -/
  | stash (core granule : Nat)
  | l2 (pa : Nat)
  | assayerData (slice ctx granule : Nat)
  /-- class 2: a result of the instruction that a split issues next fails its check twice, in one word -/
  | datapath (crew entry word : Nat)
  /-- class 2: the next step of the matrix engine fails its check twice -/
  | engine (core : Nat)
  /-- class 11: a hoist command, or the matrix engine's head, is dropped at its receiver -/
  | hoistDropped (core slot : Nat)
  /-- class 1: an armed monitor of a slice, a queued event of an assayer, a partial of a line, the timestamps of a line
  with or without its data (R414, R416, R417, R435) -/
  | monitor (slice index : Nat)
  | queueEntry (slice ctx index : Nat)
  | partialLost (pa index : Nat)
  | directory (pa : Nat) (data : Bool)
  /-- class 11: the command path of a pseudo-channel (R409) -/
  | channel (pc : Nat)
  | engineDropped (core : Nat)
  /-- class 11: the next load, store, atomic or reduction that a split issues is dropped at its receiver -/
  | accessDropped (crew entry : Nat)
  /-- class 11: the next re-evaluation of a slice's monitors is dropped (R416) -/
  | reevalDropped (slice : Nat)
  /-- class 17: a granule of a line in an application core's caches -/
  | appCache (appCore line granule : Nat)
  /-- a bank group of a stockpile fails and is fenced (R372) -/
  | bankGroup (die group : Nat)
  deriving DecidableEq, Repr

/-- Who moves next (DESIGN CHOICE, log 1). -/
inductive Turn where
  /-- a split of a crew issues -/
  | split (crew entry : Nat)
  /-- the handler of a slice's assayer issues, after a stall of some cycles -/
  | handler (slice stall : Nat)
  /-- reference cycles pass -/
  | time (n : Nat)
  /-- an event of the opcode table happens -/
  | event (i : Instr)
  /-- a granule of HBM or of the stockpile comes to hold an error that its ECC cannot correct (R364) -/
  | flaw (pa : Nat)
  /-- a fault arises in another unit (R364, R368) -/
  | hw (f : HwFault)
  deriving DecidableEq, Repr

/-- An attestation report, or its refusal (R343, R451): the measurements of the boot firmware, the I/O-core firmware and
the hypervisor, those of the context's handler tables, the requester's nonce and the signature. -/
structure Report where
  ctx : Nat
  accepted : Bool
  measures : List Nat
  handlers : List Nat
  nonce : Nat
  signature : Nat
  deriving DecidableEq, Repr

/-- Who finds an error by a read, as its record says (Tables 21-4, 24-3): the `PATH`, the crew and split, and the
virtual address of the read. -/
structure Finder where
  path : Nat
  crew : Option Nat
  split : Nat
  va : Option Nat
  deriving DecidableEq, Repr

/-- An error found by a read, whose record is still to be written: the first granule's address and the granules of
its line (R369). -/
structure Find where
  pa : Nat
  gmask : Nat
  by_ : Finder
  deriving DecidableEq, Repr

/-- What a fault's record says (Table 21-4), with the split and save slot for its notice (R370). -/
structure ErrRec where
  cls : Nat
  sev : Nat
  addr : Option Nat
  vaddr : Option Nat
  /-- context and crew index -/
  who : Option (Nat × Nat)
  ukind : Nat
  unit : Nat
  info : Nat
  split : Nat
  slot : Option Nat
  deriving DecidableEq, Repr

/-- The agent whose instruction is being executed (DESIGN CHOICE, log 1). -/
inductive Actor where
  | none
  | split (crew entry : Nat)
  | handler (slice : Nat)
  deriving DecidableEq, Repr

/-- The state of a module. -/
structure State where
  clock : Nat
  mem : Mem
  poison : List Nat
  /-- granules with an uncorrectable error that nothing has read yet (R364, R368) -/
  latent : List Nat
  /-- errors that the current step found -/
  finds : List Find
  /-- the model's own: reads of the current step that are detections themselves, so that class 15 does not count
  them (R368) -/
  caught : Nat
  /-- the model's own: what the current step has still to write into error windows: counts, at 32 × chiplet + class, and
  records, with their chiplets -/
  counts : Tab Nat
  errs : List (Nat × ErrRec)
  lines : Tab Line
  /-- sealed regions, 2048 × chiplet + region (R109) -/
  sealed : List Nat
  hstn : BitVec 32
  mymod : BitVec 16
  windows : Tab Window
  bindings : Tab Binding
  descs : Tab Desc
  islands : Tab Island
  /-- the period of 100 µs in which each chiplet's power controller last evaluated (R17) -/
  evals : Tab Nat
  tlb : List TlbEntry
  cores : Tab Core
  slices : Tab Slice
  crews : Tab Crew
  ctxs : Tab Ctx
  launches : Tab Launch
  rings : Tab Ring
  exts : Tab Ext
  amsgs : Tab Amsg
  routersDown : List Nat
  coresDown : List Nat
  linksDown : List Nat
  aditsDown : List Nat
  cxlDown : List Nat
  ioDown : List Nat
  fencedPc : List Nat
  /-- bank groups fenced, 32 × chiplet + group (R372) -/
  fencedGroups : List Nat
  /-- times of uncorrectable detections, by pseudo-channel -/
  pcHits : Tab (List Nat)
  peerDone : List PeerDone
  powered : Bool
  boot : Boot
  /-- what the boot under way finds at its next steps (R342) -/
  booting : Option BootInput
  keyOk : Bool
  /-- measurements of the boot firmware, the I/O-core firmware and the hypervisor (R342, R343) -/
  measured : List Nat
  /-- what installations measured: context, table, code range, image (R302) -/
  attest : List (Nat × Nat × Nat × Nat)
  /-- the reports given and refused (R343, R451) -/
  reports : List Report
  /-- General Media Event records: device physical addresses (R371) -/
  gmEvents : List Nat
  /-- interrupts raised: hart and identity (R337, R369) -/
  irqs : List (Nat × Nat)
  /-- the program timestamp of the device's own units (R114), and those of the agents outside the cores: CXL
  station p at p, adit a at 16 + a, application core n at 32 + n, I/O core i at 48 + i (Table 06-1) -/
  unitPts : Nat
  outerPts : Tab Nat
  /-- copies of managed lines in the caches of the application cores (R121), at 2^40 × application core + line -/
  outerCopies : Tab Copy
  /-- reads beyond the module that the module's schedulers wait for (R325) -/
  away : List Away
  /-- what the last outside access received (DESIGN CHOICE, log 36) -/
  reply : ExtReply
  agenda : List Turn
  /-- turns that a line's lock or a refresh window holds back, in order of arrival (R110, R306) -/
  held : List Turn
  actor : Actor
  free : Nat
  nextId : Nat
  deriving DecidableEq, Repr

/-- Why a step can stop with a fault. -/
inductive Fault where
  /-- `exec` of a crew's or a handler's instruction while no such agent acts: raised by the meanings when
  called outside a step, never by `step`, which sets the acting agent first. Safe: the machine stops. -/
  | noActor
  /-- the module has no power and its agenda is empty, so nothing is to come (R342): raised by `step`; a turn of an
  agenda that asks for something other than power is dropped. Safe: the machine stops. (DESIGN CHOICE, log 32) -/
  | noPower
  deriving DecidableEq, Repr

/-- Why an instruction is not given a meaning. -/
inductive Refusal where
  /-- the instruction has no meaning yet: raised by an arm of `exec` that rejects it by name; no arm does now.
  Safe: the machine stops. -/
  | notModelled (mnemonic : String)
  deriving DecidableEq, Repr

/-- A descriptor after power-up (Table 17-5). -/
def Desc.reset : Desc :=
  { valid := false, dbg := false, sandbox := 0, rootppn := 0, grootppn := 0, savebase := 0,
    saveslot := 0, savecnt := 0, wdogdef := 0, esave := 0, svcq := 0, dbgq := 0, svcid := 0, svchart := 0 }

/-- A binding after power-up (Table 17-4). -/
def Binding.reset : Binding := { valid := false, priv := false, iocore := 0, ctx := 0 }

/-- A window entry after power-up (Table 16-1). -/
def Window.reset : Window := { valid := false, die := 0, ports := 0, peer := 0 }

/-- An island after power-up (Table 17-7). -/
def Island.reset : Island := { ceil := 13, grant := 13, step := 13 }

/-- The macros after power-up: an 8-bit type in `.k128` (R271), cells 0 (DESIGN CHOICE, log 5). -/
def Macros.reset : Macros :=
  { cells := [], exps := [], btype := 0, arr := 0, loaded := none, poison := [], lost := [], issuedArr := 0,
    issuedType := 0, fenced := [], spareUsed := [], fed := [], outs := [],
    harvested := false }

/-- A core after power-up: its stash zero (R342), nothing mapped, nothing in flight. -/
def Core.reset : Core :=
  { stash := [], stashPoison := [], maps := [], copies := [], ring := [], holder := none, ctrs := [],
    hoist := [], hoistSeq := 0, hoistWait := [], eng := [], macros := Macros.reset, acc := [], accCtx := [],
    accPoison := [], accLost := [], reqs := [] }

/-- A slice after power-up (R117). -/
def Slice.reset : Slice :=
  { mts := 0, smax := 0, monitors := [], substitute := none, installs := [], handler := none,
    rotation := 0, dropEval := false, prefetch := [] }

/-- A context after power-up. -/
def Ctx.reset : Ctx :=
  { active := false, timestamp := 0, nodes := [], failed := [], bins := [], preempt := .no,
    preemptAt := 0, reported := [], resume := false, slots := [], svcSeq := 0, dbgSeq := 0,
    svcWait := [], dbgWait := [], svcReqs := [], engSaved := [], hoistOrder := [] }

/-- A ring when it is bound: its counters at 0 (R327). -/
def Ring.reset : Ring :=
  { head := 0, cnext := 0, lost := 0, anom := 0, held := [], launch := none, command := none,
    epoch := 0, open_ := 0, backward := false, cdoneBad := false, seen := 0, woken := false }

/-- An empty bin. -/
def Bin.reset : Bin := { records := [], taken := 0, timer := none, raised := false, heldFires := [] }

/-- The machine right after power-up and boot: HBM and stashes zero, every region loading, the clock 0, every
ring unbound and every context invalid (R342), boot at its last step (DESIGN CHOICE, log 3). -/
def State.reset : State :=
  { clock := 0, mem := [], poison := [], latent := [], finds := [], caught := 0, counts := [], errs := [], lines := [], sealed := [], hstn := 0,
    mymod := 0, windows := [],
    bindings := [], descs := [], islands := [], evals := [], tlb := [], cores := [], slices := [], crews := [],
    ctxs := [], launches := [], rings := [], exts := [], amsgs := [], routersDown := [], coresDown := [],
    linksDown := [], aditsDown := [], cxlDown := [], ioDown := [], fencedPc := [], fencedGroups := [], pcHits := [],
    peerDone := [], powered := true,
    boot := { step := 6, fail := 0, bcopy := false, icopy := false, hcopy := false, nfence := 0 }, booting := none,
    keyOk := true, measured := Config.bootMeasures, attest := [], reports := [], gmEvents := [], irqs := [], unitPts := 0, outerPts := [],
    outerCopies := [], away := [], reply := .done, agenda := [], held := [],
    actor := .none, free := 0, nextId := 0 }

end Sys2Proof.Machine
end

