-- ==== Sys2Proof/Machine/Base.lean ====
section
/-! DEFINITION. Sparse tables, memory as bytes, the parts of the state by their numbers, and the physical
address map with homes and interleave (R95, R97, R98). -/

namespace Sys2Proof.Machine

/-- The value at a key. -/
def tabGet {α : Type} (t : Tab α) (k : Nat) : Option α :=
  match t with
  | [] => none
  | (i, a) :: r => if i == k then some a else tabGet r k

/-- Puts a value at a key, keeping the keys rising. -/
def tabPut {α : Type} (t : Tab α) (k : Nat) (a : α) : Tab α :=
  match t with
  | [] => [(k, a)]
  | (i, b) :: r =>
    if k < i then (k, a) :: (i, b) :: r
    else if k == i then (k, a) :: r
    else (i, b) :: tabPut r k a

/-- Removes a key. -/
def tabDel {α : Type} (t : Tab α) (k : Nat) : Tab α :=
  match t with
  | [] => []
  | (i, b) :: r => if i == k then r else (i, b) :: tabDel r k

/-- The lowest key from 0 below `n` that a table does not list. -/
def tabFree {α : Type} (t : Tab α) (n : Nat) : Option Nat :=
  (List.range n).find? (fun k => (tabGet t k).isNone)

/-- Adds an element to a sorted list without repeats. -/
def setAdd (l : List Nat) (x : Nat) : List Nat :=
  match l with
  | [] => [x]
  | y :: r => if x < y then x :: y :: r else if x == y then y :: r else y :: setAdd r x

def setDel (l : List Nat) (x : Nat) : List Nat := l.filter (fun y => y != x)

/-- The byte at an address; an unlisted one is 0 (R342 for HBM and stashes; DESIGN CHOICE log 2 for the stockpile). -/
def memGet (m : Mem) (a : Nat) : Byte :=
  match m with
  | [] => 0
  | (i, b) :: r => if i == a then b else memGet r a

/-- Writes one byte, keeping the canonical form: rising addresses and no byte 0 listed. -/
def memPut (m : Mem) (a : Nat) (b : Byte) : Mem :=
  match m with
  | [] => if b == 0 then [] else [(a, b)]
  | (i, c) :: r =>
    if a < i then (if b == 0 then (i, c) :: r else (a, b) :: (i, c) :: r)
    else if a == i then (if b == 0 then r else (a, b) :: r)
    else (i, c) :: memPut r a b

/-- Every listed address lies above `lo` (none for the first) and in rising order, and no byte is 0. -/
def memWfFrom (lo : Option Nat) (m : Mem) : Bool :=
  match m with
  | [] => true
  | (i, b) :: r =>
    (match lo with
      | none => true
      | some l => l < i) && b != 0 && memWfFrom (some i) r

/-- The canonical form of a memory. -/
def Memory.wf (m : Mem) : Bool := memWfFrom none m

/-- `n` bytes from an address upward. -/
def memRead (m : Mem) (a n : Nat) : List Byte := (List.range n).map (fun i => memGet m (a + i))

/-- Writes bytes from an address upward. -/
def memWrite (m : Mem) (a : Nat) (bs : List Byte) : Mem :=
  match bs with
  | [] => m
  | b :: r => memWrite (memPut m a b) (a + 1) r

/-- Removes every byte from `a` to `a + n − 1`. -/
def memClear (m : Mem) (a n : Nat) : Mem := m.filter (fun c => !(a ≤ c.1 && c.1 < a + n))

/-- A field of a number: bits hi to lo. -/
def bitsOf (x hi lo : Nat) : Nat := x / 2 ^ lo % 2 ^ (hi + 1 - lo)

/-- Sign extension of an `n`-bit number. -/
def signExt (n x : Nat) : Int := if x.testBit (n - 1) then (x : Int) - 2 ^ n else x

/-- The island number of a core; cores are numbered by 128, islands by 256 (Table 01-3). -/
def coreIsland (core : Nat) : Nat := 256 * (core / 128) + core % 128
def sliceIsland (l : Nat) : Nat := 256 * (l / 64) + 128 + l % 64

/-- Chiplet of a core, a slice, a router. -/
def dieOfCore (c : Nat) : Nat := c / 128
def dieOfSlice (l : Nat) : Nat := l / 64

def State.core (s : State) (c : Nat) : Core := (tabGet s.cores c).getD Core.reset
def State.setCore (s : State) (c : Nat) (x : Core) : State := { s with cores := tabPut s.cores c x }
def State.slice (s : State) (l : Nat) : Slice := (tabGet s.slices l).getD Slice.reset
def State.setSlice (s : State) (l : Nat) (x : Slice) : State := { s with slices := tabPut s.slices l x }
def State.ctx (s : State) (c : Nat) : Ctx := (tabGet s.ctxs c).getD Ctx.reset
def State.setCtx (s : State) (c : Nat) (x : Ctx) : State := { s with ctxs := tabPut s.ctxs c x }
def State.ring (s : State) (r : Nat) : Ring := (tabGet s.rings r).getD Ring.reset
def State.setRing (s : State) (r : Nat) (x : Ring) : State := { s with rings := tabPut s.rings r x }
def State.desc (s : State) (c : Nat) : Desc := (tabGet s.descs c).getD Desc.reset
def State.binding (s : State) (r : Nat) : Binding := (tabGet s.bindings r).getD Binding.reset
def State.window (s : State) (i : Nat) : Window := (tabGet s.windows i).getD Window.reset
def State.island (s : State) (i : Nat) : Island := (tabGet s.islands i).getD Island.reset
def State.crew (s : State) (c : Nat) : Option Crew := tabGet s.crews c
def State.setCrew (s : State) (c : Nat) (x : Crew) : State := { s with crews := tabPut s.crews c x }
def State.modCrew (s : State) (c : Nat) (f : Crew → Crew) : State :=
  match s.crew c with
  | some x => s.setCrew c (f x)
  | none => s
def State.modCore (s : State) (c : Nat) (f : Core → Core) : State := s.setCore c (f (s.core c))
def State.modCtx (s : State) (c : Nat) (f : Ctx → Ctx) : State := s.setCtx c (f (s.ctx c))
def State.modSlice (s : State) (c : Nat) (f : Slice → Slice) : State := s.setSlice c (f (s.slice c))
def State.modRing (s : State) (c : Nat) (f : Ring → Ring) : State := s.setRing c (f (s.ring c))
def State.launch (s : State) (l : Nat) : Option Launch := tabGet s.launches l
def State.modLaunch (s : State) (l : Nat) (f : Launch → Launch) : State :=
  match s.launch l with
  | some x => { s with launches := tabPut s.launches l (f x) }
  | none => s

/-- A draw: a number that names the next free value (DESIGN CHOICE, log 4). -/
def State.draw (s : State) : Nat × State := (s.free, { s with free := s.free + 1 })

/-- A fresh name for a crew or a request (DESIGN CHOICE, log 1). -/
def State.fresh (s : State) : Nat × State := (s.nextId, { s with nextId := s.nextId + 1 })

/-- Lanes and words of a crew (R23). -/
def Crew.lanes (c : Crew) : Nat := 32 * 2 ^ c.kernel.width
def Crew.words (c : Crew) : Nat := 2 ^ c.kernel.width

/-- The mask of the lowest `n` lanes. -/
def lowMask (n : Nat) : Mask := BitVec.ofNat 1024 (2 ^ n - 1)

/-- The lanes of a mask in ascending order, below `n`. -/
def lanesOf (n : Nat) (m : Mask) : List Nat := (List.range n).filter (fun l => m.getLsbD l)

/-- Ranges of Table 05-3. -/
def hbmSize : Nat := 0xC000000000
def dieHbm : Nat := 0x3000000000
def isHbm (pa : Nat) : Bool := pa < hbmSize
def isStockpile (pa : Nat) : Bool := 0x10000000000 ≤ pa && pa < 0x10400000000
def isAlias (pa : Nat) : Bool := 0x11000000000 ≤ pa && pa < 0x11100000000
def isPeer (pa : Nat) : Bool := 0x1000000000000 ≤ pa && pa < 0x8000000000000
def isHost (pa : Nat) : Bool := 0x8000000000000 ≤ pa && pa < 0x10000000000000

/-- The absolute address of a stockpile byte that chiplet `d` names (R108). -/
def stockPa (d pa : Nat) : Nat := if isAlias pa then pa - 0x11000000000 + 0x10000000000 + d * 0x100000000 else pa

/-- `fold` (R97): the low six bits of each of six chunks. -/
def fold (x : Nat) : Nat :=
  (List.range 6).foldl (fun a i => a ^^^ (x / 2 ^ (6 * i) % 64)) 0

/-- `owner(pa)` and `local(pa)` (R97). -/
def ownerDie (pa : Nat) : Nat := pa / dieHbm
def localPa (pa : Nat) : Nat := pa % dieHbm

/-- Peer window of an address (R320). -/
def windowOf (pa : Nat) : Nat := (pa - 0x1000000000000) / 0x400000000000

/-- `d_station(pa)` (R97, R320, R326). -/
def dStation (s : State) (pa : Nat) : Nat :=
  if isHost pa then s.hstn.toNat / 2 ^ (2 * (pa / 2 ^ 47 % 16)) % 4
  else (s.window (windowOf pa)).die

/-- The substitute of a harvested slice, or the slice itself (R415). -/
def liveSlice (s : State) (l : Nat) : Nat := ((s.slice l).substitute).getD l

/-- The slice that R97 names as the home of a physical address; none for the stockpile. -/
def namedHome (s : State) (pa : Nat) : Option Nat :=
  if isHbm pa then some (64 * ownerDie pa + fold (localPa pa / 128))
  else if isHost pa || isPeer pa then some (64 * dStation s pa + fold (pa / 128))
  else none

/-- `home(addr)` of a physical address (R97), with the substitute of a harvested slice (R415). -/
def home (s : State) (pa : Nat) : Option Nat := (namedHome s pa).map (liveSlice s)

/-- Ring r's place in the command window, and the slot of a `SEQ` in it (R327). -/
def ringBase (r : Nat) : Nat := 0x2FFFF00000 + 16384 * r
def slotBase (r seq : Nat) : Nat := ringBase r + 128 * (seq % 112)

/-- The links of a chiplet, in the order D0–D1, D1–D3, D3–D2, D2–D0 (Table 21-4). -/
def linksOf (die : Nat) : List Nat :=
  match die with
  | 0 => [0, 3]
  | 1 => [0, 1]
  | 2 => [2, 3]
  | _ => [1, 2]

/-- No live link reaches a chiplet (R440). -/
def cutOff (s : State) (die : Nat) : Bool := (linksOf die).all (fun k => s.linksDown.contains k)

/-- The `INFO` of Table 24-3. -/
def info24 (path gmask : Nat) (home : Option Nat) (reason : Nat) : Nat :=
  path + 2 ^ 6 * gmask + 2 ^ 16 * home.getD 0xFF + 2 ^ 24 * reason

/-- Base of a chiplet's error window (R369). -/
def errBase (d : Nat) : Nat := d * dieHbm + 0x2FFFE00000

/-- Package pseudo-channel 64 × stack + channel (R98, Table 21-4). -/
def pseudoChannel (pa : Nat) : Nat :=
  let c := localPa pa / 256
  let g := c / 192
  192 * ownerDie pa + (c % 192 + 37 * (g % 192)) % 192

/-- Package bank group 32 d + g of a stockpile byte (R110, Table 21-4). -/
def bankGroup (pa : Nat) : Nat := (pa - 0x10000000000) / 0x8000000

/-- The chiplet whose HBM or stockpile holds an address. -/
def dieOfPa (pa : Nat) : Nat := if isStockpile pa then bankGroup pa / 32 else ownerDie pa

/-- The pseudo-channel or the bank group of an address is fenced (R372, R409). -/
def unitFenced (s : State) (pa : Nat) : Bool :=
  (isHbm pa && s.fencedPc.contains (pseudoChannel pa)) || (isStockpile pa && s.fencedGroups.contains (bankGroup pa))

/-- A stash owns the line of an address, so that accesses to it are the stash's (R114). -/
def stashOwned (s : State) (pa : Nat) : Bool :=
  match tabGet s.lines (pa / 128) with
  | some l => l.owner.isSome
  | none => false

/-- An access to an address meets a fenced unit. -/
def fencedAt (s : State) (pa : Nat) : Bool := unitFenced s pa && !stashOwned s pa

/-- A granule of 32 bytes reads as poisoned: marked, or in a fenced unit (R366, R372, R409). -/
def granuleBad (s : State) (pa : Nat) : Bool :=
  s.poison.contains (pa / 32) || s.latent.contains (pa / 32) || fencedAt s pa

/-- The granules of the line at `a` that a range touches, as `GMASK` numbers them (Table 24-3). -/
def lineGranules (a pa n : Nat) : Nat :=
  (List.range 4).foldl (fun m g => if pa < a + 32 * g + 32 && a + 32 * g < pa + n then m + 2 ^ g else m) 0

/-- The granules of its first line that a range touches. -/
def granulesOf (pa n : Nat) : Nat := lineGranules (pa / 128 * 128) pa n

/-- The same, as a line holds its dirty granules (R438). -/
def dirtyOf (pa n : Nat) : BitVec 4 := BitVec.ofNat 4 (granulesOf pa n)

/-- The current step counts faults of a class at a chiplet; the count reaches the error window when the step ends
(R368, R369). -/
def State.count (s : State) (d cls n : Nat) : State :=
  if n == 0 then s
  else { s with counts := tabPut s.counts (32 * d + cls) ((tabGet s.counts (32 * d + cls)).getD 0 + n) }

/-- Marks the granules of a range poisoned. -/
def poisonRange (s : State) (pa n : Nat) : State :=
  if n == 0 then s
  else
    let gs := List.range ((pa + n - 1) / 32 - pa / 32 + 1)
    let p := gs.foldl (fun p i => setAdd p (pa / 32 + i)) s.poison
    let l := s.latent.filter (fun g => !gs.any (fun i => g == pa / 32 + i))
    { s with poison := p, latent := l }

/-- The virtual address at a physical one, from that of a range's start. -/
def Finder.vaAt (f : Finder) (start pa : Nat) : Option Nat := f.va.map (fun v => v + (max pa start - start))

/-- A read of a range finds the errors in it (R364, R366, R368): each line's damaged granules are poisoned, with one
record to write. Errors among the `used` bytes are what the reader itself meets. (DEDUCED, log 21) -/
def detectIn (s : State) (pa n lo len : Nat) (f : Finder) : State :=
  let inside : Nat → Nat → Nat → Bool := fun a k g => decide (a < 32 * g + 32) && decide (32 * g < a + k)
  let gs := s.latent.filter (inside pa n)
  if gs.isEmpty then s
  else
    let lns := gs.foldl (fun acc g => setAdd acc (g / 4)) []
    let new : List Find := lns.map (fun l =>
      let mine := gs.filter (fun g => g / 4 == l)
      let first := mine.foldl min (mine.headD 0)
      { pa := 32 * first, gmask := mine.foldl (fun m g => m + 2 ^ (g % 4)) 0,
        by_ := { f with va := f.vaAt pa (32 * first) } })
    let p := gs.foldl setAdd s.poison
    let l := s.latent.filter (fun g => !inside pa n g)
    let c := if gs.any (inside lo len) then s.caught + 1 else s.caught
    { s with poison := p, latent := l, finds := s.finds ++ new, caught := c }

/-- A read of a range by its user. -/
def detect (s : State) (pa n : Nat) (f : Finder) : State :=
  if s.latent.isEmpty || n == 0 then s else detectIn s pa n pa n f

/-- A fetch of the whole line of a read; `va` is that of the read. -/
def detectLine (s : State) (pa n : Nat) (f : Finder) : State :=
  if s.latent.isEmpty || n == 0 then s
  else detectIn s (pa / 128 * 128) 128 pa n { f with va := f.va.map (fun v => v / 128 * 128) }

/-- Bytes of memory as an agent reads them: zeros for poisoned granules, and whether one was met (R366). -/
def readBytes (s : State) (pa n : Nat) : List Byte × Bool :=
  let bad := (List.range n).any (fun i => granuleBad s (pa + i))
  if bad then ((List.range n).map (fun i => if granuleBad s (pa + i) then 0 else memGet s.mem (pa + i)), true)
  else (memRead s.mem pa n, false)

/-- The granules that a set of written byte ranges covers whole become clean (R366, R406). -/
def clearCovered (s : State) (ranges : List (Nat × Nat)) : State :=
  if s.poison.isEmpty && s.latent.isEmpty then s
  else
    let hit : Nat → Bool := fun a => ranges.any (fun r => decide (r.1 ≤ a) && decide (a < r.1 + r.2))
    let covered : Nat → Bool := fun g => (List.range 32).all (fun i => hit (32 * g + i))
    let p := s.poison.filter (fun g => !covered g)
    let l := s.latent.filter (fun g => !covered g)
    { s with poison := p, latent := l }

/-- Little-endian number of bytes as a 64-bit word. -/
def leWord (bs : List Byte) : Word := BitVec.ofNat 64 (leNat bs)

/-- The eight bytes of a word. -/
def wordBytes (w : Word) : List Byte := leBytes 8 w.toNat

/-- Reads a little-endian number of memory without regard to order or poison: for tables that the device's own
units read. -/
def rawNat (s : State) (pa n : Nat) : Nat := leNat (memRead s.mem pa n)

end Sys2Proof.Machine
end

