-- ==== Sys2Proof/Machine/Coherence.lean ====
section
/-! DEFINITION. Accesses at a line's home or owner: leases and timestamps (R114 to R117), partials and their
merge (R124), condition monitors (R65), and the assayer events that an access raises (R299 to R301). The data
of a line that a stash owns is held once, in `mem` at the line's address: every access is served by the owner
(R114), so one copy is enough (DESIGN CHOICE, log 61). -/

namespace Sys2Proof.Machine

/-- What an access that reaches a home carries for the assayers (R299, R300): the context, the page's class,
the virtual address, the origin code and the requester's core; and for a record of an error that it finds, its path
and its crew and split (Table 24-3). -/
structure Who where
  ctx : Nat
  cls : Nat
  va : Nat
  origin : Nat
  core : Nat
  path : Nat := 0
  crew : Option Nat := none
  split : Nat := 0
  deriving DecidableEq, Repr

/-- How a record names the finder of an error. -/
def Who.finder (w : Who) : Finder := { path := w.path, crew := w.crew, split := w.split, va := some w.va }

/-- The same where a crew's access fetches the whole line for a copy or a mirror; a unit's keeps its own path. -/
def Who.lineFinder (w : Who) : Finder := { w.finder with path := if w.path < 2 then 2 else w.path }

/-- An access finds errors in what it reads. -/
def detectBy (s : State) (pa n : Nat) (w : Option Who) : State :=
  match w with
  | some w => detect s pa n w.finder
  | none => s

/-- The memory timestamp of the slice that serves a line (R117); that of a harvested slice holds the timestamp at
which its lines were adopted (R415). -/
def memTs (s : State) (pa : Nat) : Nat :=
  match namedHome s pa with
  | some l => max (s.slice l).mts (s.slice (liveSlice s l)).mts
  | none => 0

/-- A line as its home holds it; a line not held in the slice has the timestamps of the slice (R117). -/
def lineOf (s : State) (pa : Nat) : Line :=
  let mts := memTs s pa
  match tabGet s.lines (pa / 128) with
  | some x => if x.held || x.owner.isSome then x else { x with wts := mts, rts := mts }
  | none =>
    { wts := mts, rts := mts, leased := false, owner := none, held := false, record := none,
      partials := [], priv := none, hostCached := false, dirty := 0, managed := false }

def setLine (s : State) (pa : Nat) (x : Line) : State := { s with lines := tabPut s.lines (pa / 128) x }

/-- `smax` of a slice grows with every read timestamp held or granted (R414). -/
def noteRts (s : State) (pa rts : Nat) : State :=
  match home s pa with
  | some l => s.modSlice l (fun x => { x with smax := max x.smax rts })
  | none => s

/-- An event enters its context's queue: advice is discarded at 16 entries; a message waits at 24 (R301). -/
def raiseEvent (s : State) (slice ctx : Nat) (e : AsEvent) : State :=
  let sl := s.slice slice
  match tabGet sl.installs ctx with
  | none => s
  | some i =>
    let key := 4 * e.cls + e.kind
    if (tabGet i.entries key).getD 0 == 0 || i.disabled.contains key || i.removing then s
    else
      let i' :=
        if e.kind == 3 then
          if i.queue.length < 24 && i.waiting.isEmpty then { i with queue := i.queue ++ [e] }
          else { i with waiting := i.waiting ++ [e] }
        else if i.queue.length < 16 then { i with queue := i.queue ++ [e] }
        else { i with disc := min (i.disc + 1) (2 ^ 64 - 1) }
      s.setSlice slice { sl with installs := tabPut sl.installs ctx i' }

/-- A miss, fill or evict event of an access (R299, R300). -/
def adviceEvent (s : State) (kind : Nat) (w : Who) (dirty : Bool) : AsEvent :=
  { kind := kind, cls := w.cls, origin := w.origin, dirty := dirty, va := w.va / 128 * 128,
    arg := if kind == 0 then BitVec.ofNat 64 (w.va % 128) else 0, crewIndex := 0, core := w.core,
    time := s.clock, request := none }

/-- The home holds the line: a line not held is filled from HBM, with a miss and a fill event for an access
of a context (R117, R299). Lines that a stash owns, and lines outside HBM, are not filled. -/
def fillHome (s : State) (pa : Nat) (w : Option Who) : State :=
  let l := lineOf s pa
  if l.held || l.owner.isSome || !isHbm pa then s
  else
    match home s pa with
    | none => s
    | some sl =>
      match w with
      | none => setLine s pa { l with held := true, record := none }
      | some w =>
        if w.cls == 0 then setLine s pa { l with held := true, record := none }
        else
          let s := raiseEvent s sl w.ctx (adviceEvent s 0 w false)
          let s := setLine s pa { l with held := true, record := some (w.ctx, w.cls, w.va / 128 * 128) }
          raiseEvent s sl w.ctx (adviceEvent s 1 w false)

/-- An access of a context reaches the home of a line of host memory or of a peer window, which never holds it: a
miss (R96, R97, R299). -/
def missBeyond (s : State) (pa : Nat) (w : Option Who) : State :=
  match home s pa, w with
  | some sl, some w => if isHbm pa || w.cls == 0 then s else raiseEvent s sl w.ctx (adviceEvent s 0 w false)
  | _, _ => s

/-- A comparison of Table 09-5 on 64-bit values. -/
def compareWord (cmp : Nat) (signed : Bool) (v c : Word) : Bool :=
  compareInt cmp ⟨signed, 64, v.toNat, c.toNat, 0, 0, 0⟩

/-- Writes a uniform register; a register beyond the table's use is the caller's concern (R73). -/
def Crew.writeS (c : Crew) (n : Nat) (w : Word) : Crew := { c with s := tabPut c.s n (.live w) }

def Crew.orSticky (c : Crew) (f : Flags) : Crew := { c with sticky := c.sticky ||| f }

def Crew.split (c : Crew) (e : Nat) : Option Split := tabGet c.splits e
def Crew.setSplit (c : Crew) (e : Nat) (x : Split) : Crew := { c with splits := tabPut c.splits e x }
def Crew.modSplit (c : Crew) (e : Nat) (f : Split → Split) : Crew :=
  match c.split e with
  | some x => c.setSplit e (f x)
  | none => c

/-- A split enters Ready afresh (R62). -/
def Split.freshReady (x : Split) (clock : Nat) : Split := { x with state := .ready, age := clock, waited := 0 }

/-- A crew on its partition that may change registers by itself. -/
def Crew.onCore (c : Crew) : Bool :=
  match c.state with
  | .resident | .draining | .halted => true
  | _ => false

/-- A split of a crew stands at an address of its code, held back there or about to look at it again. -/
def waitsAt (s : State) (crew entry pc : Nat) : Bool :=
  match s.crew crew with
  | none => false
  | some c =>
    c.onCore && c.splits.any (fun x => x.1 == entry && x.2.pc == pc &&
      (x.2.state == .stalled || x.2.state == .ready || x.2.state == .refuge))

/-- A request counts while its split waits at it, or once it has been captured. -/
def StashReq.live (r : StashReq) (s : State) : Bool := r.captured || waitsAt s r.crew r.split r.pc

/-- The wait of a split completes with a value at a timestamp (R65, R186): the destination receives the value
and the split goes on after its `waitc`. The wake of a crew that is swapped out is delivered to it and applied when
it returns (R66, R67). -/
def completeWait (s : State) (crew entry : Nat) (v : Word) (wts : Nat) (bad : Bool) : State :=
  match s.crew crew with
  | none => s
  | some c =>
    match c.split entry with
    | none => s
    | some x =>
      match x.state, x.wait with
      | .monitorWait, some w =>
        if c.state == .resident || (c.state == .halted && c.hold != .leave) then
          let c := w.ends.foldl (fun (c : Crew) n => { c with s := tabPut c.s n .dead }) c
          let c := c.writeS w.dst v
          let c := { c with pts := max c.pts wts, idleFor := none }
          let c := if bad then c.orSticky flagDERR else c
          let cl := x.clause.map (fun k => { k with first := false })
          let y := x.freshReady s.clock
          s.setCrew crew (c.setSplit entry { y with pc := x.pc + 16, wait := none, clause := cl })
        else if c.state == .swappedOut || c.state == .halted then
          if c.wakes.any (fun k => k.entry == entry) then s
          else s.setCrew crew { c with woken := true, idleFor := none, wakes := c.wakes ++ [⟨entry, v, wts, bad⟩] }
        else s
      | _, _ => s

/-- The 64-bit word that holds an address, as a check reads it (R65, Table 24-2). -/
def wordAt (s : State) (pa : Nat) : Word × Bool :=
  let r := readBytes s (pa / 8 * 8) 8
  (leWord r.1, r.2)

/-- A completed wait is a load of its line at its crew's timestamp (R65, R115). -/
def observeLine (s : State) (crew pa : Nat) : State :=
  match s.crew crew with
  | none => s
  | some c =>
    let l := lineOf s pa
    if isHbm pa && l.rts < c.pts then noteRts (setLine s pa { l with rts := c.pts }) pa c.pts else s

/-- A crew that completes its wait with a poisoned word consumes it: class 15 counts at its chiplet, unless this
evaluation has found the error (R368). -/
def countWait (s : State) (crew : Nat) (counts : Bool) : State :=
  match s.crew crew with
  | some c => s.count (dieOfCore c.core) 15 (if counts then 1 else 0)
  | none => s

/-- Completes and frees the monitors on a word whose comparison holds (R65); the evaluation reads the word, and may be
the read that finds an error in it (R368, Table 24-3). -/
def fireMonitors (s : State) (l pa : Nat) (first : Monitor) : State :=
  let found := detect s (pa / 8 * 8) 8 ⟨7, some first.crew, first.entry, none⟩
  let fresh := s.caught < found.caught
  let s := { found with caught := s.caught }
  let sl := s.slice l
  let v := wordAt s pa
  let hit : Monitor → Bool := fun m => m.pa / 8 == pa / 8 && compareWord m.cmp m.signed v.1 m.comparand
  if sl.monitors.any hit then
    let s1 := s.setSlice l { sl with monitors := sl.monitors.filter (fun m => !hit m) }
    let ts := (lineOf s pa).wts
    (sl.monitors.filter hit).foldl (fun s m =>
      countWait (observeLine (completeWait s m.crew m.entry v.1 ts v.2) m.crew pa) m.crew (v.2 && !fresh)) s1
  else s

/-- Re-evaluates the monitors armed on a word (R65). A re-evaluation that a class 11 fault drops is recorded (R368,
R416). -/
def evalMonitors (s : State) (pa : Nat) : State :=
  match home s pa with
  | none => s
  | some l =>
    match (s.slice l).monitors.find? (fun m => m.pa / 8 == pa / 8) with
    | none => s
    | some m =>
      if (s.slice l).dropEval then
        let r : ErrRec :=
          { cls := 11, sev := 0, addr := some (pa / 8 * 8), vaddr := none, who := none, ukind := 1, unit := l, info := 0,
            split := 0, slot := none }
        { s.modSlice l (fun x => { x with dropEval := false }) with errs := s.errs ++ [(dieOfSlice l, r)] }
      else fireMonitors s l pa m

/-- A write reaches the kick line of a ring, or the `SEQ` word of the slot at its `HEAD`: the monitor of the I/O core
fires, for the line's `TAIL` or `CDONE`, or where the word holds `HEAD` (R65, R329, R444). -/
def wakeRing (s : State) (pa n r : Nat) : State :=
  let x := s.ring r
  let hit : Nat → Bool := fun a => pa < a + 8 && a < pa + n
  let kick := hit (ringBase r + 0x3800)
  let seq := hit (slotBase r x.head + 120) && rawNat s (slotBase r x.head + 124) 4 == x.head
  if kick || seq then s.setRing r { x with woken := true } else s

def wakeRings (s : State) (pa n : Nat) : State :=
  if 0x2FFFF00000 < pa + n && pa < 0x3000000000 then s.rings.foldl (fun s r => wakeRing s pa n r.1) s else s

/-- Re-evaluates the monitors on every word of a range. -/
def evalRange (s : State) (pa n : Nat) : State :=
  let s := wakeRings s pa n
  if n == 0 || s.slices.all (fun x => x.2.monitors.isEmpty) then s
  else (List.range ((pa + n - 1) / 8 - pa / 8 + 1)).foldl (fun s i => evalMonitors s ((pa / 8 + i) * 8)) s

/-- A monitor is armed on a line. -/
def monitored (s : State) (pa : Nat) : Bool :=
  match home s pa with
  | none => false
  | some l => (s.slice l).monitors.any (fun m => m.pa / 128 == pa / 128)

/-- Takes an element out of a list by its place. -/
def pick {α : Type} (l : List α) (k : Nat) : Option (α × List α) :=
  match l[k]? with
  | some a => some (a, l.eraseIdx k)
  | none => none

/-- Applies partials in an order that the manual leaves open: each next one is chosen freely (R124, DESIGN CHOICE log 4). A
poisoned target granule discards the partial's bytes and stays poisoned (R417). -/
def applyPartials (fuel : Nat) (s : State) (base : Nat) (ps : List Partial) : State :=
  match fuel with
  | 0 => s
  | fuel + 1 =>
    if ps.isEmpty then s
    else
      let d := s.draw
      match pick ps (Config.freeChoice d.1 % ps.length) with
      | none => s
      | some (p, rest) =>
        let a := base + p.off
        let s := d.2
        let s :=
          if granuleBad s a then s
          else
            let old := rawNat s a p.size
            { s with mem := memWrite s.mem a (leBytes p.size (updateElem p.op p.ty old p.value)) }
        applyPartials fuel s base rest

/-- The back-invalidation of the host's copy before a store to a coherent line (R130); the station does not
back-invalidate a managed one (R121). -/
def backInvalidate (l : Line) : Line := if l.managed then l else { l with hostCached := false }

/-- An access under a coherence mode reaches a line. A line that becomes coherent again takes the slice's timestamp
(R132). -/
def asMode (s : State) (pa cmode : Nat) : State :=
  let l := lineOf s pa
  if cmode == 1 then (if l.managed then s else setLine s pa { l with managed := true })
  else if l.managed then setLine s pa { l with wts := memTs s pa, rts := memTs s pa, leased := false, managed := false }
  else s

/-- The partials that a merge applies and those it leaves. Half of a paired update may join after the merge of the
other half, once (R125, DESIGN CHOICE log 67); a merge for a monitor to be armed leaves none (R65, R124). -/
def dueNow (s : State) (ps : List Partial) (whole : Bool) : List Partial × List Partial × State :=
  ps.foldl (fun (a : List Partial × List Partial × State) p =>
    if whole || p.late.isNone then (a.1 ++ [p], a.2)
    else
      let d := a.2.2.draw
      if Config.freeChoice d.1 % 2 == 0 then (a.1 ++ [p], a.2.1, d.2)
      else (a.1, a.2.1 ++ [{ p with late := none }], d.2)) ([], [], s)

/-- The updates of a crew that have left its core join their line: an access to the line by the crew is ordered after
them (R124). -/
def joinLine (s : State) (pa crew : Nat) : State :=
  let l := lineOf s pa
  if l.partials.any (fun p => p.late == some crew) then
    setLine s pa { l with partials := l.partials.map (fun p => if p.late == some crew then { p with late := none } else p) }
  else s

/-- The same for the access of an agent that a record describes. -/
def joinBy (s : State) (pa : Nat) (w : Option Who) : State :=
  match w.bind Who.crew with
  | some crew => joinLine s pa crew
  | none => s

/-- Every update of a crew joins its line, and the crew's timestamp covers them: at a fence, at a save and at the crew's
end (R55, R120, R124). A partial takes a timestamp above every lease of its line. -/
def joinAll (s : State) (crew : Nat) : State :=
  let mine := s.lines.filter (fun e => e.2.partials.any (fun p => p.crews.contains crew))
  let ts := mine.foldl (fun t e => max t ((lineOf s (128 * e.1)).rts + 1)) 0
  let s := mine.foldl (fun s e => joinLine s (128 * e.1) crew) s
  s.modCrew crew (fun c => { c with pts := max c.pts (max c.redTs ts) })

/-- Reductions of some crews have been performed at a timestamp (R120). -/
def noteReds (s : State) (crews : List Nat) (ts : Nat) : State :=
  crews.foldl (fun s k => s.modCrew k (fun c => { c with redTs := max c.redTs ts })) s

/-- A line's timestamps after a store of the device's own units (R115): they act as one agent, so their stores
stand in the order made. -/
def unitLine (s : State) (a pa n : Nat) : State :=
  let l := backInvalidate (lineOf s a)
  let ts := max s.unitPts (l.rts + 1)
  noteRts { setLine s a { l with wts := ts, rts := ts, dirty := l.dirty ||| BitVec.ofNat 4 (lineGranules a pa n) } with
    unitPts := ts } a ts

/-- `merge(line)` (R124): every partial that has joined is applied and discarded, at a timestamp taken as a store's
by the agent whose access merges them (R115), and no lower than the timestamps at which their reductions were issued
(R120). A partial that a poisoned granule discards counts in class 15 (R417); the words that it writes are looked at by
their monitors (R65). -/
def mergeLine (s : State) (pa : Nat) (pts : Nat := 0) (whole : Bool := false) : State :=
  let l := lineOf s pa
  if l.partials.isEmpty then s
  else
    let base := pa / 128 * 128
    let r := dueNow s l.partials whole
    let s := r.1.foldl (fun s p => detect s (base + p.off) p.size ⟨5, none, 0, none⟩) r.2.2
    let lost := r.1.countP (fun p => granuleBad s (base + p.off))
    let s := applyPartials r.1.length s base r.1
    let ts := r.1.foldl (fun t p => max t p.pts) (max pts (l.rts + 1))
    let s := r.1.foldl (fun s p => noteReds s p.crews ts) s
    let d := r.1.foldl (fun d p => d ||| dirtyOf (base + p.off) p.size) l.dirty
    let s := noteRts (setLine s pa { backInvalidate l with partials := r.2.1, wts := ts, rts := ts, dirty := d }) pa ts
    r.1.foldl (fun s p => evalRange s (base + p.off) p.size) (s.count (ownerDie pa) 15 lost)

/-- The line is locked by a running message handler (R299, R306). -/
def lineLocked (s : State) (line : Nat) : Bool :=
  s.slices.any (fun x =>
    match x.2.handler with
    | some h => h.lock == some line
    | none => false)

/-- A line leaves its slice for HBM (R117, R124, R299): its partials merge, an evict event is raised for the class
recorded, and the slice's memory timestamp covers it. The event's origin and core are not stated, but that an origin
beyond the cores has none (DESIGN CHOICE, log 4). A write-back into a fenced pseudo-channel is dropped and counted
(R409). -/
def evictLine (s : State) (line : Nat) : State :=
  let pa := 128 * line
  let x := lineOf s pa
  if !x.held || x.owner.isSome || lineLocked s line then s
  else
    let s := mergeLine s pa
    let x := lineOf s pa
    match home s pa with
    | none => s
    | some l =>
      let s := match x.record with
        | some (ctx, cls, va) =>
          let d := s.draw
          let n := Config.freeChoice d.1
          let w : Who :=
            { ctx := ctx, cls := cls, va := va, origin := n % 7, core := if n % 7 < 4 then n / 7 % 512 else 0x3FF }
          raiseEvent d.2 l ctx (adviceEvent d.2 2 w (x.dirty != 0))
        | none => s
      let s := s.count (ownerDie pa) 5 (if x.dirty != 0 && fencedAt s pa then 1 else 0)
      let s := s.modSlice l (fun y => { y with mts := max y.mts x.rts })
      setLine s pa { x with held := false, leased := false, record := none, dirty := 0 }

/-- Lines of an L2 slice (Table 01-1). -/
def sliceLines : Nat := 2 * 2 ^ 20 / 128

/-- The slice that serves an address holds as many lines as it can. -/
def sliceFull (s : State) (pa : Nat) : Bool :=
  sliceLines ≤ s.lines.length &&
    sliceLines ≤ (s.lines.filter (fun e => e.2.held && home s (128 * e.1) == home s pa)).length

/-- A line of a full slice leaves it for another one (R12, R117). Which one does the manual leaves open (DESIGN CHOICE,
log 4). -/
def makeLineRoom (s : State) (pa : Nat) : State :=
  if !sliceFull s pa then s
  else
    let may := ((s.lines.filter (fun e => e.2.held && e.2.owner.isNone && home s (128 * e.1) == home s pa)).map Prod.fst).filter
      (fun n => !lineLocked s n)
    let d := s.draw
    match pick may (Config.freeChoice d.1 % max 1 may.length) with
    | some (n, _) => evictLine d.2 n
    | none => s

/-- An access reaches a home, which makes room for a line that it does not hold, and fills it. -/
def touchHome (s : State) (pa : Nat) (w : Option Who) : State :=
  let l := lineOf s pa
  if l.held || l.owner.isSome then s
  else if isHbm pa then fillHome (makeLineRoom s pa) pa w
  else missBeyond s pa w

/-- The lease that the owner grants: 256 at first, later a free length from 16 to 1024 (R116, DESIGN CHOICE log 7). -/
def grantLease (s : State) (l : Line) : Nat × State :=
  if l.leased then
    let d := s.draw
    (16 + Config.freeLease d.1 % 1009, d.2)
  else (256, s)

/-- A load at the owner of a coherent line (R115): the data, and the line's timestamps with the lease. -/
def ownerLoad (s : State) (pts pa n : Nat) (w : Option Who) : (List Byte × Bool) × Nat × Nat × State :=
  let s := touchHome s pa w
  let s := mergeLine (joinBy s pa w) pa pts
  let l := lineOf s pa
  let g := grantLease s l
  let rts := max l.rts (pts + g.1)
  let s := noteRts (setLine g.2 pa { l with rts := rts, leased := true }) pa rts
  let s := detectBy s pa n w
  (readBytes s pa n, l.wts, rts, s)

/-- A store at the owner of a coherent line (R115), which re-evaluates the monitors on its words (R65). The
granules that it covers by itself become clean; an instruction's cover is the caller's (R406). -/
def ownerStore (s : State) (pts pa : Nat) (bs : List Byte) (w : Option Who) : Nat × State :=
  let s := touchHome s pa w
  let s := mergeLine (joinBy s pa w) pa pts
  let l := lineOf s pa
  let ts := max pts (l.rts + 1)
  let l := backInvalidate l
  let s := setLine s pa { l with wts := ts, rts := ts, dirty := l.dirty ||| dirtyOf pa bs.length }
  let s := noteRts s pa ts
  let s := { s with mem := memWrite s.mem pa bs }
  (ts, evalRange s pa bs.length)

/-- A read at the home that takes no lease: an access to a managed page, a walker's, the host's or a unit's own
(R121, R130). -/
def homeRead (s : State) (pa n : Nat) (w : Option Who) : (List Byte × Bool) × State :=
  let s := detectBy (mergeLine (joinBy (touchHome s pa w) pa w) pa) pa n w
  (readBytes s pa n, s)

/-- What a write of `n` bytes by one of the device's own units does beyond the bytes: granules become clean, lines
take a store's timestamp, monitors are looked at (R369, R332, R337, R85). With `held`, lines outside their
slices keep the slice's timestamp: the areas that a save writes, which hold no copy. -/
def unitNote (s : State) (pa n : Nat) (held : Bool := false) : State :=
  let s := clearCovered s [(pa, n)]
  if n == 0 || !isHbm pa then s
  else
    let lns := List.range ((pa + n - 1) / 128 - pa / 128 + 1)
    let s := lns.foldl (fun s i =>
      let a := (pa / 128 + i) * 128
      if held && (tabGet s.lines (a / 128)).isNone then s else unitLine (mergeLine (touchHome s a none) a) a pa n) s
    evalRange s pa n

/-- Bytes that one of the device's own units writes: those in a fenced unit are refused, with a record of their first
address (R409). The recorder's own writes into an error window leave none (DESIGN CHOICE, log 78). -/
def unitBytes (s : State) (pa : Nat) (bs : List Byte) : State :=
  match (List.range bs.length).find? (fun i => fencedAt s (pa + i)) with
  | none => { s with mem := memWrite s.mem pa bs }
  | some i =>
    let a := pa + i
    let m := bs.zipIdx.foldl (fun m b => if fencedAt s (pa + b.2) then m else memPut m (pa + b.2) b.1) s.mem
    let r : ErrRec :=
      { cls := 14, sev := 1, addr := some a, vaddr := none, who := none, ukind := 1, unit := (home s a).getD 0,
        info := info24 6 (granulesOf a 1) (home s a) 5, split := 0, slot := none }
    let window := isHbm a && 0x2FFFE00000 ≤ localPa a && localPa a < 0x2FFFF00000
    { s with mem := m, errs := if window then s.errs else s.errs ++ [(dieOfPa a, r)] }

/-- Memory takes what one of the device's own units has written to a range of a new memory `m`. -/
def unitMem (s : State) (pa n : Nat) (m : Mem) : State :=
  if s.fencedPc.isEmpty && s.fencedGroups.isEmpty then { s with mem := m } else unitBytes s pa (memRead m pa n)

/-- A write by one of the device's own units, of any length, as stores at the homes. -/
def unitWrite (s : State) (pa : Nat) (bs : List Byte) : State :=
  let lns := if bs.isEmpty || !isHbm pa then [] else List.range ((pa + bs.length - 1) / 128 - pa / 128 + 1)
  let s := lns.foldl (fun s i => mergeLine s ((pa / 128 + i) * 128)) s
  unitNote (unitBytes s pa bs) pa bs.length

/-- An atomic step at the owner (R123, Table 24-2): the old pattern, whether its granule was poisoned, the
timestamp and the state. The new pattern is written when `f` gives one and no granule is poisoned. -/
def ownerAtomic (s : State) (pts pa n : Nat) (f : Nat → Option Nat) (w : Option Who) :
    (Nat × Bool) × Nat × State :=
  let s := touchHome s pa w
  let s := mergeLine (joinBy s pa w) pa pts
  let l := lineOf s pa
  let ts := max pts (l.rts + 1)
  let l := backInvalidate l
  let s := setLine s pa { l with wts := ts, rts := ts, dirty := l.dirty ||| dirtyOf pa n }
  let s := detectBy (noteRts s pa ts) pa n (w.map (fun w => { w with path := max 1 w.path }))
  let r := readBytes s pa n
  if r.2 then ((0, true), ts, s)
  else
    let old := leNat r.1
    match f old with
    | none => ((old, false), ts, s)
    | some v => ((old, false), ts, evalRange { s with mem := memWrite s.mem pa (leBytes n v) } pa n)

/-- The partial that a chiplet holds on some bytes overlaps an update of another operation or type (R124). -/
def clashes (p : Partial) (die off size op ty : Nat) : Bool :=
  p.die == die && p.off < off + size && off < p.off + p.size &&
    !(p.off == off && p.size == size && p.op == op && p.ty == ty)

/-- One reduction issued on a chiplet (R124): held as a partial, or performed at the home. `late` is its crew where it
may join its partial after the other half of its operand. -/
def redAt (s : State) (die pts pa size op ty v : Nat) (w : Option Who) (late : Option Nat := none) : State :=
  let l := lineOf s pa
  let off := pa % 128
  let crews := (w.bind Who.crew).toList
  let direct : State → State := fun s =>
    let r := ownerAtomic s pts pa size (fun old => some (updateElem op ty old v)) w
    noteReds r.2.2 crews r.2.1
  if l.owner.isSome || !isHbm pa || monitored s pa then direct s
  else if l.partials.any (fun p => clashes p die off size op ty) then direct (mergeLine s pa pts)
  else
    let same : Partial → Bool := fun p => p.die == die && p.off == off && p.size == size && p.late == late
    let ps :=
      if l.partials.any same then
        l.partials.map (fun p =>
          if same p then
            { p with value := updateElem op ty p.value v, pts := max p.pts pts, crews := crews.foldl setAdd p.crews }
          else p)
      else
        l.partials ++ [{ die := die, off := off, size := size, op := op, ty := ty, value := v, pts := pts, crews := crews,
                         late := late }]
    setLine s pa { l with partials := ps }

/-- A reduction of a whole operand: a paired type is two independent 16-bit updates, of which either may join after
the other (R125, DESIGN CHOICE log 67), but not after the split's later accesses where its scope covers the target
(R124, R251). -/
def redWord (s : State) (die pts pa op ty v : Nat) (w : Option Who) (inScope : Bool) : State :=
  if inScope && (ty == 10 || ty == 11) then
    redAt (redAt s die pts pa 2 op ty (v % 2 ^ 16) w) die pts (pa + 2) 2 op ty (v / 2 ^ 16 % 2 ^ 16) w
  else if ty == 10 || ty == 11 then
    let d := s.draw
    let k := Config.freeChoice d.1 % 3
    let late : Nat → Option Nat := fun i => if k == i then w.bind Who.crew else none
    redAt (redAt d.2 die pts pa 2 op ty (v % 2 ^ 16) w (late 1)) die pts (pa + 2) 2 op ty (v / 2 ^ 16 % 2 ^ 16) w (late 2)
  else redAt s die pts pa (typeBits ty / 8) op ty v w

end Sys2Proof.Machine
end

