-- ==== Sys2Proof/Machine/Records.lean ====
section
/-! DEFINITION. Error counters and records (R369), the service and debug queues (R337, R370), and the
obligations and registers of a crew wherever it stands (R89, R90, R367). -/

namespace Sys2Proof.Machine

/-- Fields of a save slot's header that the device itself reads or writes outside a save (Table 04-6), as
byte offsets. -/
def offFlags : Nat := 13
def offSticky : Nat := 24
def offFobl (n : Nat) : Nat := 96 + 2 * n
def offSvalid : Nat := 121

/-- Address of a save slot (R90). -/
def slotAddr (s : State) (ctx slot : Nat) : Nat :=
  (s.desc ctx).savebase + 256 * (s.desc ctx).saveslot * slot

/-- The crew stands in its save area (R89). -/
def Crew.out (c : Crew) : Bool := c.state == .saved || c.state == .swappedOut

/-- The device's own write into an area it owns. -/
def pokeNat (s : State) (pa n v : Nat) : State := unitWrite s pa (leBytes n v)

/-- Adds flags to a crew's `STICKY`, in its registers or in its save area (R147, R367, R373). -/
def orSticky (s : State) (crew : Nat) (f : Flags) : State :=
  match s.crew crew with
  | none => s
  | some c =>
    if c.state == .retired then s
    else if c.out then
      match c.slot with
      | some sl =>
        let a := slotAddr s c.ctx sl + offSticky
        pokeNat s a 4 (rawNat s a 4 ||| f.toNat)
      | none => s
    else s.setCrew crew (c.orSticky f)

/-- Sets a flag: the splits that await it are Ready (R64, R160), which ends the condition of R67. -/
def Crew.flagSetNow (c : Crew) (n clock : Nat) : Crew :=
  let sp := c.splits.map (fun e =>
    if e.2.state == .contWait && e.2.awaitFlag == n then (e.1, e.2.freshReady clock) else e)
  -- a split that goes on has observed the completion (R120)
  let seen := c.splits.any (fun e => e.2.state == .contWait && e.2.awaitFlag == n)
  { c with flags := c.flags ||| BitVec.ofNat 12 (2 ^ n), splits := sp, pts := if seen then max c.pts c.engTs else c.pts
           idleFor := if seen then none else c.idleFor }

/-- Adds an obligation to a flag (R160). -/
def Crew.oblige (c : Crew) (n : Nat) : Crew :=
  { c with obl := tabPut c.obl n ((tabGet c.obl n).getD 0 + 1) }

/-- Discharges one obligation of a flag; at zero the flag sets (R160). For a crew in its save area the count
and the flag stand there (R89). -/
def discharge (s : State) (crew n : Nat) : State :=
  if 12 ≤ n then s
  else
    match s.crew crew with
    | none => s
    | some c =>
      if c.state == .retired then s
      else if c.out then
        match c.slot with
        | none => s
        | some sl =>
          let a := slotAddr s c.ctx sl
          let k := rawNat s (a + offFobl n) 2
          if k == 0 then s
          else
            let s := pokeNat s (a + offFobl n) 2 (k - 1)
            if k == 1 then
              let h := rawNat s (a + offFlags) 2
              let s := pokeNat s (a + offFlags) 2 (h ||| 2 ^ (4 + n))
              -- a swapped-out split that awaits the flag is woken (R67)
              if c.state == .swappedOut &&
                  c.splits.any (fun e => e.2.state == .contWait && e.2.awaitFlag == n) then
                s.setCrew crew { c with woken := true, idleFor := none }
              else s
            else s
      else
        let k := (tabGet c.obl n).getD 0
        if k ≤ 1 then s.setCrew crew ({ c with obl := tabDel c.obl n }.flagSetNow n s.clock)
        else s.setCrew crew { c with obl := tabPut c.obl n (k - 1) }

/-- Writes a uniform register of a crew, wherever it stands (R253, R50). -/
def pokeUniform (s : State) (crew n : Nat) (w : Word) : State :=
  match s.crew crew with
  | none => s
  | some c =>
    if c.out then
      match c.slot with
      | some sl => unitWrite s (slotAddr s c.ctx sl + 256 + 8 * n) (wordBytes w)
      | none => s
    else s.setCrew crew (c.writeS n w)

/-- Modulus of `EPROD` and `ECONS` (Table 21-3). -/
def errModulus : Nat := 0xFF000000

/-- Adds to the counter of a class; counters stick (R369). Before step 4 of a boot there is no window (R452). -/
def errCounts (s : State) (d cls n : Nat) : State :=
  let a := errBase d + 0x100 + 8 * cls
  if s.boot.step < 4 then s else pokeNat s a 8 (min (rawNat s a 8 + n) (2 ^ 64 - 1))

/-- Adds 1 to the counter of a class. -/
def errCount (s : State) (d cls : Nat) : State := errCounts s d cls 1

/-- Places a number at a bit. -/
def atBit (lo v : Nat) : Nat := 2 ^ lo * v

/-- The 512 bits of Table 21-4. (DEDUCED, log 48) -/
def errImage (seq clock : Nat) (r : ErrRec) : Nat :=
  seq + atBit 32 r.cls + atBit 40 r.sev + atBit 43 (bitNat r.addr.isSome) +
    atBit 44 (bitNat r.vaddr.isSome) + atBit 45 (bitNat r.who.isSome) +
    atBit 48 ((r.who.map Prod.fst).getD 0) + atBit 60 r.ukind + atBit 64 r.unit +
    atBit 96 ((r.who.map Prod.snd).getD 0) + atBit 128 (r.addr.getD 0) +
    atBit 192 (r.vaddr.getD 0) + atBit 256 (clock % 2 ^ 64) + atBit 320 r.info

/-- A queue record of Table 17-6 with `STATE` 0. -/
def queueImage (ctx seq : Nat) (q : QRecord) : Nat :=
  seq % 2 ^ 32 + atBit 32 q.kind + atBit 36 q.split + atBit 40 ctx + atBit 64 (q.crewIndex % 2 ^ 32) +
    atBit 96 q.code + atBit 112 q.slot + atBit 128 (q.addr % 2 ^ 64)

/-- Base of a context's service or debug queue. -/
def queueBase (s : State) (ctx : Nat) (debug : Bool) : Nat :=
  if debug then (s.desc ctx).dbgq else (s.desc ctx).svcq

/-- `STATE` of queue record k. -/
def queueState (s : State) (ctx : Nat) (debug : Bool) (k : Nat) : Nat :=
  rawNat s (queueBase s ctx debug + 32 * (k % 128) + 24) 1 % 4

/-- Record k may be written: record k − 128 reads `STATE` 2 (R337). -/
def queueRoom (s : State) (ctx : Nat) (debug : Bool) (k : Nat) : Bool :=
  k < 128 || queueState s ctx debug k == 2

/-- Writes the next record of a queue and raises `SVCID` on `SVCHART` (R337). -/
def queuePut (s : State) (ctx : Nat) (debug : Bool) (q : QRecord) : State :=
  let x := s.ctx ctx
  let k := if debug then x.dbgSeq else x.svcSeq
  let s := unitWrite s (queueBase s ctx debug + 32 * (k % 128)) (leBytes 32 (queueImage ctx k q))
  let x :=
    if debug then { x with dbgSeq := k + 1 }
    else
      match q.svc with
      | some r => { x with svcSeq := k + 1, svcReqs := tabPut x.svcReqs k r }
      | none => { x with svcSeq := k + 1 }
  let d := s.desc ctx
  { s.setCtx ctx x with irqs := s.irqs ++ [(d.svchart, d.svcid)] }

/-- A request or break record enters its queue, or waits at its core for room, in order (R337). A break record of a
context whose debug queue's base is 0 is not written: R370 and R376 say so of a notice and of an exception, and for
`brk` the manual says nothing (DESIGN CHOICE, log 68). -/
def queuePost (s : State) (ctx : Nat) (debug : Bool) (q : QRecord) : State :=
  let x := s.ctx ctx
  let k := if debug then x.dbgSeq else x.svcSeq
  let held := if debug then x.dbgWait else x.svcWait
  if debug && (s.desc ctx).dbgq == 0 then s
  else if held.isEmpty && queueRoom s ctx debug k then queuePut s ctx debug q
  else if debug then s.setCtx ctx { x with dbgWait := x.dbgWait ++ [q] }
  else s.setCtx ctx { x with svcWait := x.svcWait ++ [q] }

/-- Records waiting for room enter their queue while there is room (R337). -/
def queueDrain (fuel : Nat) (s : State) (ctx : Nat) (debug : Bool) : State :=
  match fuel with
  | 0 => s
  | fuel + 1 =>
    let x := s.ctx ctx
    let k := if debug then x.dbgSeq else x.svcSeq
    match (if debug then x.dbgWait else x.svcWait) with
    | [] => s
    | q :: rest =>
      if queueRoom s ctx debug k then
        let x := if debug then { x with dbgWait := rest } else { x with svcWait := rest }
        queueDrain fuel (queuePut (s.setCtx ctx x) ctx debug q) ctx debug
      else s

/-- A crew whose last work was an `svc` request ends its Draining elsewhere; here the count falls (R183). -/
def Crew.svcLess (c : Crew) : Crew := { c with svcOut := c.svcOut - 1 }

/-- Offset of `PTS` in a save slot's header (Table 04-6). -/
def offPts : Nat := 16

/-- The timestamp that completed work leaves with a crew, in its registers or in its save area (R88, R120): a split that
observes the completion takes it. -/
def raiseEngTs (s : State) (crew ts : Nat) : State :=
  match s.crew crew with
  | none => s
  | some c =>
    if c.state == .retired then s
    else if c.out then
      match c.slot with
      | some sl =>
        let a := slotAddr s c.ctx sl + offPts
        if rawNat s a 8 < ts then pokeNat s a 8 ts else s
      | none => s
    else s.setCrew crew { c with engTs := max c.engTs ts }

/-- The same for a timestamp that a crew takes at once (R188). -/
def raisePts (s : State) (crew ts : Nat) : State :=
  match s.crew crew with
  | none => s
  | some c => if c.out then raiseEngTs s crew ts else s.setCrew crew { c with pts := max c.pts ts }

/-- The largest timestamp of the application cores, one of which has written a reply (R111, R114). -/
def appPts (s : State) : Nat :=
  s.outerPts.foldl (fun m e => if 32 ≤ e.1 && e.1 < 48 then max m e.2 else m) 0

/-- The obligations of one `svc` request follow its record's `STATE` (R195, R337): 1 or more discharges the release in
`FLGB`, 2 the completion in `FLGA` (R160). The reply is observed with the completion (R120). -/
def svcProgress (s : State) (ctx k : Nat) : State :=
  let x := s.ctx ctx
  match tabGet x.svcReqs k with
  | none => s
  | some r =>
    let st := queueState s ctx false k
    let s :=
      if 1 ≤ st && !r.taken then
        let r := { r with taken := true }
        discharge (s.setCtx ctx { x with svcReqs := tabPut x.svcReqs k r }) r.crew r.flgb
      else s
    if st == 2 then
      let s := s.modCtx ctx (fun x => { x with svcReqs := tabDel x.svcReqs k })
      (discharge (raiseEngTs s r.crew (appPts s)) r.crew r.flga).modCrew r.crew Crew.svcLess
    else s

/-- After a store by system software into a queue: obligations are discharged and waiting records enter
(R337). -/
def queueScan (s : State) (ctx : Nat) : State :=
  let ks := (s.ctx ctx).svcReqs.map Prod.fst
  let s := ks.foldl (fun s k => svcProgress s ctx k) s
  let s := queueDrain ((s.ctx ctx).svcWait.length) s ctx false
  queueDrain ((s.ctx ctx).dbgWait.length) s ctx true

/-- The contexts one of whose queues overlaps a written range are looked at again (R337). -/
def queueHook (s : State) (pa n : Nat) : State :=
  let hit : Nat → Bool := fun b => b != 0 && pa < b + 4096 && b < pa + n
  s.descs.foldl (fun s d => if hit d.2.svcq || hit d.2.dbgq then queueScan s d.1 else s) s

/-- A notice to the charged context's debug queue, or dropped (R370). -/
def notice (s : State) (r : ErrRec) : State :=
  match r.who with
  | none => s
  | some (ctx, crew) =>
    if (s.desc ctx).dbgq == 0 then s
    else
      let x := s.ctx ctx
      if x.dbgWait.isEmpty && queueRoom s ctx true x.dbgSeq then
        queuePut s ctx true
          { kind := 2, split := r.split, crewIndex := crew, code := r.cls + 256 * r.sev,
            slot := r.slot.getD 0xFFFF, addr := r.vaddr.getD 0, svc := none }
      else s

/-- Ranges 0 and 1 of the CXL device (R323). -/
def inRange01 (pa : Nat) : Bool := isHbm pa || isStockpile pa

/-- A detected fault or a violation in the window of chiplet `d` (R369, R370, R371); in a boot before step 4 it is not
recorded (R452). -/
def errRecord (s : State) (d : Nat) (r : ErrRec) : State :=
  if s.boot.step < 4 then s else
  let s := errCount s d r.cls
  let b := errBase d
  let prod := rawNat s b 4
  let s :=
    if (prod + errModulus - rawNat s (b + 0x80) 4) % errModulus == 16320 then
      pokeNat s (b + 4) 4 ((rawNat s (b + 4) 4 + 1) % 2 ^ 32)
    else
      let s := unitWrite s (b + 0x1000 + 64 * (prod % 16320)) (leBytes 64 (errImage prod s.clock r))
      let s := pokeNat s b 4 ((prod + 1) % errModulus)
      let c := rawNat s (b + 0x80) 8
      let eid := bitsOf c 43 32
      if eid == 0 then s else { s with irqs := s.irqs ++ [(bitsOf c 47 44, eid)] }
  let s :=
    match r.addr with
    | some a =>
      if (r.cls == 4 || r.cls == 5 || r.cls == 14 || r.cls == 15) && inRange01 a then
        { s with gmEvents := s.gmEvents ++ [a] }
      else s
    | none => s
  notice s r

/-- A read of data already poisoned counts in class 15 at the reader's chiplet; one that has just found the error
does not (R368). (DEDUCED, log 24) -/
def countPoisonRead (s : State) (d : Nat) (bad : Bool) : State :=
  if !bad then s
  else if 0 < s.caught then { s with caught := s.caught - 1 }
  else errCount s d 15

/-- A read meets an error that has been counted already: `countPoisonRead` passes it over. -/
def State.caughtIf (s : State) (b : Bool) : State := if b then { s with caught := s.caught + 1 } else s

/-- A crew's record: its core, context and index. -/
def crewRec (c : Crew) (cls sev info : Nat) (addr vaddr : Option Nat) (split : Nat) : ErrRec :=
  { cls := cls, sev := sev, addr := addr, vaddr := vaddr, who := some (c.ctx, c.index), ukind := 0,
    unit := c.core, info := info, split := split, slot := c.slot }

end Sys2Proof.Machine
end

