-- ==== Sys2Proof/Machine/Translate.lean ====
section
/-! DEFINITION. Translation: the two-stage walk (R91 to R94, R334, R461), the TLBs, the map's permissions and
coherence modes (R93, R95, R96, R108, R109) and private owners (R405). -/

namespace Sys2Proof.Machine

/-- What an access needs of a page (R93). -/
structure Need where
  r : Bool
  w : Bool
  x : Bool
  deriving DecidableEq, Repr

def needR : Need := ⟨true, false, false⟩
def needW : Need := ⟨false, true, false⟩
def needRW : Need := ⟨true, true, false⟩
def needX : Need := ⟨true, false, true⟩

/-- A failed translation: the code, the physical address where one was formed, and whether the walk met a
poisoned entry (R403, R411). -/
structure XFail where
  exc : Exc
  pa : Option Nat
  poison : Option Nat
  /-- the entries that the walk read -/
  upd : List (Nat × Nat)
  deriving DecidableEq, Repr

/-- What a walk does to page table entries: address and bits to set, no bits for a mere read (R94). -/
abbrev Upd := List (Nat × Nat)

/-- A failure with a code alone. -/
def xfail (e : Exc) (upd : Upd := []) : XFail := ⟨e, none, none, upd⟩

/-- A leaf reached by one stage: address, entry, log2 of the page size, bits to set. -/
structure Leaf where
  pa : Nat
  pte : Nat
  log : Nat
  upd : Upd
  deriving DecidableEq, Repr

/-- The value of an entry, partials merged; the load of its line follows with the walk's effects (R94, R124,
`noteXlate`). A table outside HBM and a poisoned entry end the walk (PRESUMED, log 10, R403). -/
def readPte (s : State) (ea : Nat) (upd : Upd) : Except XFail Nat :=
  if !isHbm ea then .error (xfail .rxlate upd)
  else
    let s := mergeLine s ea
    let r := readBytes s ea 8
    if r.2 then .error ⟨.rxlate, none, some ea, upd ++ [(ea, 0)]⟩ else .ok (leNat r.1)

/-- A pointer: valid with `X`, `W` and `R` all 0 (R461). -/
def ptePointer (p : Nat) : Bool := bitsOf p 3 1 == 0

/-- Which rules of a leaf a walk applies: a B400 agent's, or a guest's of an application core, for which `PBMT` is as
Svpbmt defines it and a supervisor's access needs no `U` (R92, R335). -/
inductive WalkFor where
  | agent
  | guest (user : Bool)
  deriving DecidableEq, Repr

/-- A leaf whose `U` bit the access may use, and whose `PBMT` it knows. -/
def WalkFor.takes (k : WalkFor) (p : Nat) : Bool :=
  match k with
  | .agent => p.testBit 4 && bitsOf p 62 61 == 0
  | .guest user => (!user || p.testBit 4) && bitsOf p 62 61 != 3

/-- The same at the second stage, where every access is a user's (R334). -/
def WalkFor.second (k : WalkFor) : WalkFor :=
  match k with
  | .agent => .agent
  | .guest _ => .guest true

/-- A leaf at a level that breaks no rule of R91, R92 and R461; `W` without `R` is reserved in Sv57. -/
def leafOk (lvl p : Nat) (k : WalkFor := .agent) : Bool :=
  lvl != 4 && k.takes p && !p.testBit 54 && bitsOf p 53 50 == 0 &&
    (p.testBit 1 || !p.testBit 2) &&
    (if p.testBit 63 then lvl == 0 && bitsOf p 13 10 == 8
     else bitsOf p 49 10 % 2 ^ (9 * lvl) == 0)

/-- The bits that an access adds to a leaf (R94). -/
def adBits (p : Nat) (w : Bool) : Nat :=
  (if p.testBit 6 then 0 else 0x40) + (if w && !p.testBit 7 then 0x80 else 0)

/-- One stage from the table at `table`, `n` levels left. `tr` gives the device physical address of an
entry; the root of Sv57x4 has 2048 entries. -/
def walkStage (s : State) (tr : Nat → Except XFail (Nat × Upd)) (x4 w : Bool) (k : WalkFor) (n table addr : Nat)
    (upd : Upd) : Except XFail Leaf :=
  match n with
  | 0 => .error (xfail .rxlate upd)
  | lvl + 1 =>
    let idx := addr / 2 ^ (12 + 9 * lvl) % (if x4 && lvl == 4 then 2048 else 512)
    match tr (table + 8 * idx) with
    | .error e => .error { e with upd := upd ++ e.upd }
    | .ok (ea, u) =>
      match readPte s ea (upd ++ u) with
      | .error e => .error e
      | .ok p =>
        let upd := upd ++ u ++ [(ea, 0)]
        if !p.testBit 0 then .error (xfail .rxlate upd)
        else if ptePointer p then
          if lvl == 0 || bitsOf p 63 54 != 0 || bitsOf p 53 50 != 0 then .error (xfail .rxlate upd)
          else walkStage s tr x4 w k lvl (2 ^ 12 * bitsOf p 49 10) addr upd
        else if !leafOk lvl p k then .error (xfail .rxlate upd)
        else
          let log := if p.testBit 63 then 16 else 12 + 9 * lvl
          let base := if p.testBit 63 then 2 ^ 12 * (bitsOf p 49 10 / 16 * 16) else 2 ^ 12 * bitsOf p 49 10
          let b := adBits p w
          .ok ⟨base + addr % 2 ^ log, p, log, if b == 0 then upd else upd ++ [(ea, b)]⟩

/-- The second stage (Sv57x4, R334). -/
def walkG (s : State) (groot : Nat) (w : Bool) (k : WalkFor) (gpa : Nat) : Except XFail Leaf :=
  walkStage s (fun a => .ok (a, [])) true w k.second 5 groot gpa []

/-- The device physical address of a first-stage entry (PRESUMED, log 10). -/
def tableAddr (s : State) (groot : Nat) (k : WalkFor) (gpa : Nat) : Except XFail (Nat × Upd) :=
  match walkG s groot false k gpa with
  | .error e => .error e
  | .ok l => if l.pte.testBit 1 then .ok (l.pa, l.upd) else .error (xfail .rperm l.upd)

/-- Bits 63:57 equal bit 56 (R91). -/
def canonical (va : Nat) : Bool := va / 2 ^ 56 == 0 || va / 2 ^ 56 == 0xFF

/-- The whole walk: the entry that a TLB would hold, and what it does to the tables (R94, R334). Of the two stages'
leaves the first stage's gives `ACLASS` and `CMODE`, which R92 and R334 leave open (DESIGN CHOICE, log 65); a guest's
memory type is the first stage's where that has one, else the second's, as Svpbmt says (PRESUMED, log 79). -/
def walk (s : State) (ctx va : Nat) (w : Bool) (k : WalkFor := .agent) : Except XFail (TlbEntry × Upd) :=
  if !canonical va then .error (xfail .rxlate)
  else
    let d := s.desc ctx
    let groot := 2 ^ 12 * d.grootppn
    match walkStage s (tableAddr s groot k) false w k 5 (2 ^ 12 * d.rootppn) va [] with
    | .error e => .error e
    | .ok l1 =>
      match walkG s groot w k l1.pa with
      | .error e => .error { e with upd := l1.upd ++ e.upd }
      | .ok l2 =>
        let log := min l1.log l2.log
        let both : Nat → Bool := fun b => l1.pte.testBit b && l2.pte.testBit b
        .ok ({ place := .core 0, ctx := ctx, page := va / 2 ^ log, log := log,
               pa := l2.pa / 2 ^ log * 2 ^ log, r := both 1, w := both 2, x := both 3, u := both 4,
               dirty := w || both 7, aclass := bitsOf l1.pte 58 55, cmode := bitsOf l1.pte 60 59,
               pbmt := if bitsOf l1.pte 62 61 == 0 then bitsOf l2.pte 62 61 else bitsOf l1.pte 62 61, owner := none }, l1.upd ++ l2.upd)

/-- The entry that a TLB holds for a page. -/
def tlbFind (s : State) (at_ : TlbAt) (ctx va : Nat) : Option TlbEntry :=
  s.tlb.find? (fun e => e.place == at_ && e.ctx == ctx && e.page == va / 2 ^ e.log)

/-- Entries of a TLB (R94, R296). -/
def TlbAt.size (t : TlbAt) : Nat :=
  match t with
  | .core _ => 256
  | .die _ => 8192
  | .assayer _ => 64

/-- An entry takes a place in the TLB of a context: an assayer has one TLB for each context installed on it (R94,
R296). -/
def TlbAt.holds (at_ : TlbAt) (ctx : Nat) (x : TlbEntry) : Bool :=
  x.place == at_ &&
    (match at_ with
      | .assayer _ => x.ctx == ctx
      | _ => true)

/-- Room for one more entry of a context in a TLB: where it is full, an entry that the manual does not name leaves (R94,
R296, DESIGN CHOICE log 4). -/
def tlbRoom (s : State) (at_ : TlbAt) (ctx : Nat) : State :=
  let mine := s.tlb.filter (at_.holds ctx)
  if mine.length < at_.size then s
  else
    let d := s.draw
    match mine[Config.freeChoice d.1 % mine.length]? with
    | some x => { d.2 with tlb := s.tlb.erase x }
    | none => s

/-- Puts an entry into a TLB, in place of what it held for the page. -/
def tlbFill (s : State) (at_ : TlbAt) (e : TlbEntry) : State :=
  let va := e.page * 2 ^ e.log
  let rest := s.tlb.filter (fun x => !(x.place == at_ && x.ctx == e.ctx &&
    (x.page == va / 2 ^ x.log || e.page == x.page * 2 ^ x.log / 2 ^ e.log)))
  let s := tlbRoom { s with tlb := rest } at_ e.ctx
  { s with tlb := { e with place := at_ } :: s.tlb }

/-- Who asks for a translation: the TLBs it passes (R94, R296), the chiplet whose stockpile and counters it
sees, and the core that private pages belong to. -/
structure Asker where
  tlbs : List TlbAt
  die : Nat
  core : Option Nat
  deriving DecidableEq, Repr

def askCore (c : Nat) : Asker := ⟨[.core c, .die (dieOfCore c)], dieOfCore c, some c⟩
def askHoist (c : Nat) : Asker := ⟨[.die (dieOfCore c)], dieOfCore c, some c⟩
/-- A unit of a chiplet that is no core: its schedulers (R396). -/
def askDie (d : Nat) : Asker := ⟨[.die d], d, none⟩
def askSlice (l : Nat) : Asker := ⟨[.assayer l], dieOfSlice l, none⟩

/-- A translated address, and what its translation does to TLBs and tables. -/
structure Xlate where
  va : Nat
  pa : Nat
  e : TlbEntry
  upd : Upd
  deriving DecidableEq, Repr

/-- The first TLB on the way that holds a usable entry; a write needs its dirty bit set. -/
def tlbLook (s : State) (ask : Asker) (ctx va : Nat) (w : Bool) : Option TlbEntry :=
  ask.tlbs.findSome? (fun t =>
    match tlbFind s t ctx va with
    | some e => if w && !e.dirty && e.w then none else some e
    | none => none)

/-- Sealed regions by chiplet and region (R109). -/
def regionOf (pa : Nat) : Nat := (pa - 0x10000000000) / 0x200000

/-- A stockpile address in a sealed region. -/
def isSealed (s : State) (pa : Nat) : Bool := s.sealed.contains (regionOf pa)

/-- A stockpile address on the local alias or in the reader's own range (R108). -/
def ownStock (die pa : Nat) : Bool :=
  isAlias pa || (isStockpile pa && (pa - 0x10000000000) / 0x100000000 == die)

/-- Permission, range, coherence mode, stockpile state and a noted private owner (R93, R95, R108, R109,
R405). `hoistWrite` is a hoist's write, which a loading region takes. A peer window's offset above 768 GiB translates
like any other and goes to the peer: R320 calls it reserved and says no more (DESIGN CHOICE, log 80). -/
def permitted (s : State) (ask : Asker) (e : TlbEntry) (pa : Nat) (need : Need) (hoistWrite : Bool) : Bool :=
  (!need.r || e.r) && (!need.w || e.w) && (!need.x || e.x) &&
  (match e.cmode with
    | 0 => isHbm pa
    | 1 => isHbm pa || isPeer pa || isHost pa
    | 2 => isHbm pa && ask.core.isSome && (e.owner.isNone || e.owner == ask.core)
    | _ =>
      -- only cores, hoists and the matrix engine read a stockpile (R108)
      ask.core.isSome && ownStock ask.die pa &&
        (if need.w then hoistWrite && !isSealed s (stockPa ask.die pa)
         else isSealed s (stockPa ask.die pa)))

/-- Translates an address for an access (R94, R375 step 5: `RXLATE`, then `RPERM`). -/
def translate (s : State) (ask : Asker) (ctx va : Nat) (need : Need) (hoistWrite : Bool := false) :
    Except XFail Xlate :=
  let found : Except XFail (TlbEntry × Upd) :=
    if !canonical va then .error (xfail .rxlate)
    else
      match tlbLook s ask ctx va need.w with
      | some e => .ok (e, [])
      | none => walk s ctx va need.w
  match found with
  | .error e => .error e
  | .ok (e, u) =>
    let pa := e.pa + va % 2 ^ e.log
    if permitted s ask e pa need hoistWrite then .ok ⟨va, pa, e, u⟩ else .error ⟨.rperm, some pa, none, u⟩

/-- What a walk does to the entries it reads: coherent loads of their lines, and bits set by atomic updates at their
homes (R94). The walkers act as the device's own unit (R114). -/
def noteWalk (s : State) (upd : Upd) : State :=
  upd.foldl (fun s u =>
    if u.2 == 0 then
      let r := ownerLoad s s.unitPts u.1 8 none
      { r.2.2.2 with unitPts := max r.2.2.2.unitPts r.2.1 }
    else
      let r := ownerAtomic s s.unitPts u.1 8 (fun old => some (old ||| u.2)) none
      { r.2.2 with unitPts := max r.2.2.unitPts r.2.1 }) s

/-- The effects of a translation that an access goes through: those of its walk, and the TLBs filled (R94). -/
def noteXlate (s : State) (ask : Asker) (x : Xlate) : State :=
  let s := noteWalk s x.upd
  ask.tlbs.foldl (fun s t =>
    if tlbFind s t x.e.ctx x.va == some { x.e with place := t } then s else tlbFill s t x.e) s

/-- A failed walk of an address that met poison counts at the asker's chiplet, unless it has just found the error:
then it writes a record (R411). -/
def walkPoison (s : State) (die : Nat) (crew : Option Nat) (split va : Nat) (pte : Option Nat) : State :=
  match pte with
  | none => s
  | some ea =>
    -- the record names the address walked
    let s := if s.latent.contains (ea / 32) then detect s (ea / 32 * 32) 32 ⟨4, crew, split, some va⟩ else s
    countPoisonRead s die true

/-- The effects of a failed translation. -/
def noteFail (s : State) (ask : Asker) (crew : Option Nat) (split va : Nat) (f : XFail) : State :=
  walkPoison (noteWalk s f.upd) ask.die crew split va f.poison

/-- The base line of a private page, where its owner core is held (R405). -/
def privBase (x : Xlate) : Nat := x.pa / 2 ^ x.e.log * 2 ^ x.e.log

/-- The owner core of a private page, if one is fixed. -/
def privOwner (s : State) (x : Xlate) : Option Nat := (lineOf s (privBase x)).priv.map PrivPage.owner

/-- Fixes a private page's owner at its first access. -/
def fixPriv (s : State) (x : Xlate) (core : Nat) : State :=
  let l := lineOf s (privBase x)
  if l.priv.isSome then s else setLine s (privBase x) { l with priv := some ⟨core, x.e.ctx, x.e.page, x.e.log⟩ }

/-- The owner core of the private page that holds a physical address, if one is fixed (R405, R413). -/
def privAt (s : State) (pa : Nat) : Option Nat :=
  s.lines.findSome? (fun l =>
    match l.2.priv with
    | some p => if 128 * l.1 ≤ pa && pa < 128 * l.1 + 2 ^ p.log then some p.owner else none
    | none => none)

/-- The chiplet's TLBs note the owner core after a refusal (R405). -/
def notePrivRefusal (s : State) (x : Xlate) (die owner : Nat) : State :=
  let here : TlbAt → Bool := fun p =>
    match p with
    | .core c => dieOfCore c == die
    | .die d => d == die
    | .assayer _ => false
  { s with tlb := s.tlb.map (fun e =>
      if here e.place && e.ctx == x.e.ctx && e.page == x.va / 2 ^ e.log then { e with owner := some owner }
      else e) }

/-- A TLB entry's page meets the range of an invalidation; no pages means the whole context (Table 17-2). -/
def pageHit (ectx page log ctx va pages : Nat) : Bool :=
  ectx == ctx && (pages == 0 ||
    (page * 2 ^ log < va / 4096 * 4096 + 4096 * pages && va / 4096 * 4096 < (page + 1) * 2 ^ log))

def tlbHit (e : TlbEntry) (ctx va pages : Nat) : Bool := pageHit e.ctx e.page e.log ctx va pages

/-- Invalidates translations; the owner cores of the private pages invalidated are forgotten (R94, R405). -/
def tlbInvalidate (s : State) (ctx va pages : Nat) : State :=
  let gone := s.tlb.filter (fun e => tlbHit e ctx va pages)
  let s := { s with tlb := s.tlb.filter (fun e => !tlbHit e ctx va pages) }
  let s := s.lines.foldl (fun s l =>
    match l.2.priv with
    | some p => if pageHit p.ctx p.page p.log ctx va pages then setLine s (128 * l.1) { l.2 with priv := none } else s
    | none => s) s
  gone.foldl (fun s e =>
    if e.cmode == 2 && isHbm e.pa then setLine s e.pa { lineOf s e.pa with priv := none } else s) s

/-- The pages of a range translate with a need: their translations, lowest first, or the first failure. -/
def translateAll (s : State) (ask : Asker) (ctx : Nat) (need : Need) (vas : List Nat) :
    Except XFail (List Xlate) :=
  match vas with
  | [] => .ok []
  | v :: r =>
    match translate s ask ctx v need with
    | .error e => .error e
    | .ok x =>
      match translateAll s ask ctx need r with
      | .error e => .error e
      | .ok xs => .ok (x :: xs)

/-- One address in each 4 KiB page of a range. -/
def pagesOf (va n : Nat) : List Nat :=
  if n == 0 then []
  else (List.range ((va + n - 1) / 4096 - va / 4096 + 1)).map (fun i => if i == 0 then va else (va / 4096 + i) * 4096)

/-- The physical addresses of the lines of a translated page that a range reads, lowest first. -/
def linesIn (pa n : Nat) : List Nat :=
  if n == 0 then [] else (List.range ((pa + n - 1) / 128 - pa / 128 + 1)).map (fun i => (pa / 128 + i) * 128)

/-- What a read of a virtual range does: the walks, the merge of each HBM line at the agent's timestamp (R124), and
the errors it finds. -/
def detectVirtual (s : State) (ask : Asker) (ctx va n : Nat) (need : Need) (f : Finder) (pts : Nat := 0) : State :=
  match translateAll s ask ctx need (pagesOf va n) with
  | .error e =>
    let bad := (pagesOf va n).find? (fun v =>
      match translate s ask ctx v need with
      | .error _ => true
      | .ok _ => false)
    noteFail s ask f.crew f.split (bad.getD va) e
  | .ok xs => xs.foldl (fun s x =>
      let s := noteXlate s ask x
      let k := min (va + n) ((x.va / 4096 + 1) * 4096) - x.va
      let pa := stockPa ask.die x.pa
      let s := (linesIn pa k).foldl (fun s a => if isHbm a then mergeLine (touchHome s a none) a pts else s) s
      detect s pa k { f with va := some x.va }) s

/-- The byte at an address among reads that have been answered, and whether it came poisoned. -/
def awayByte (l : List Away) (a : Nat) : Option (Byte × Bool) :=
  l.findSome? (fun w =>
    if w.pa ≤ a && a < w.pa + w.size then w.data.map (fun d => (d.1.getD (a - w.pa) 0, d.2)) else none)

/-- The pieces of a virtual range that lie beyond the module: virtual address, physical address and size (R325). -/
def piecesBeyond (s : State) (ask : Asker) (ctx va n : Nat) (need : Need) : List (Nat × Nat × Nat) :=
  match translateAll s ask ctx need (pagesOf va n) with
  | .error _ => []
  | .ok xs => (xs.filter (fun x => isHost x.pa || isPeer x.pa)).map (fun x =>
      (x.va, x.pa, min (va + n) ((x.va / 4096 + 1) * 4096) - x.va))

/-- Bytes at a virtual address read as a unit reads launch data: translated with a need, pages in turn, after
`detectVirtual`. None where a page fails; the flag says that poison was met (R396). Bytes of host memory and of peer
windows are those that a completion has brought (R325, R407). -/
def readVirtual (s : State) (ask : Asker) (ctx va n : Nat) (need : Need) : Option (List Byte × Bool) :=
  match translateAll s ask ctx need (pagesOf va n) with
  | .error _ => none
  | .ok xs =>
    let bs := (List.range n).map (fun i =>
      let a := va + i
      match xs.find? (fun x => x.va / 4096 == a / 4096) with
      | some x =>
        let pa := stockPa ask.die (x.pa / 4096 * 4096 + a % 4096)
        if isHost pa || isPeer pa then
          (match awayByte s.away pa with
            | some (b, bad) => if bad then (0, true) else (b, false)
            | none => (0, false))
        else if granuleBad s pa then ((0 : Byte), true) else (memGet s.mem pa, false)
      | none => (0, false))
    some (bs.map Prod.fst, bs.any Prod.snd)

end Sys2Proof.Machine
end

