-- ==== Sys2Proof/Machine/Access.lean ====
section
/-! DEFINITION. Accesses of a core to memory: copies (R115, R121), private pages (R405), stash mappings and
their lines (R99 to R104, R413, R463, R464), and requests to host memory and peer windows (R131). -/

namespace Sys2Proof.Machine

/-- What a load or an atomic step yields: bytes, whether poison was met, the agent's new timestamp, and the
state. -/
structure Got where
  bytes : List Byte
  bad : Bool
  pts : Nat
  st : State

/-- Bytes that one write covered, for the poison cover of its instruction (R366, R406): in memory, or in a
stash with its granule in bytes. -/
inductive Cover where
  | mem (pa n : Nat)
  | stash (a n granule : Nat)
  | copy (pa n : Nat)
  deriving DecidableEq, Repr

/-- What a store yields. -/
structure Put where
  cov : List Cover
  pts : Nat
  st : State

/-- The four poison marks of a line of memory. -/
def lineMarks (s : State) (pa : Nat) : BitVec 4 :=
  BitVec.ofNat 4 ((List.range 4).foldl (fun m g =>
    if granuleBad s (pa / 128 * 128 + 32 * g) then m + 2 ^ g else m) 0)

/-- A line of memory without regard to poison. -/
def lineRaw (s : State) (pa : Nat) : LineData := BitVec.ofNat 1024 (leNat (memRead s.mem (pa / 128 * 128) 128))

/-- A line of memory as a core copies it: zeros where it is poisoned. -/
def lineData (s : State) (pa : Nat) : LineData := BitVec.ofNat 1024 (leNat (readBytes s (pa / 128 * 128) 128).1)

/-- Bytes of a copy from an offset. -/
def copyBytes (c : Copy) (off n : Nat) : List Byte × Bool :=
  let marked : Nat → Bool := fun i => c.poison.getLsbD (i / 32)
  let bad := (List.range n).any (fun i => marked (off + i))
  ((List.range n).map (fun i => if marked (off + i) then 0 else c.data.extractLsb' (8 * (off + i)) 8), bad)

/-- Keeps a copy of a line. -/
def keepCopy (s : State) (core pa : Nat) (c : Copy) : State :=
  s.modCore core (fun x => { x with copies := tabPut x.copies (pa / 128) c })

/-- A load of a coherent line by an agent of a core (R115): from a copy whose lease holds, else at the owner,
where the core keeps a copy. -/
def loadCoherent (s : State) (core pts pa n : Nat) (w : Who) : Got :=
  let fetch : Got :=
    let s := detectLine s pa n w.lineFinder
    let r := ownerLoad s pts pa n (some w)
    let s := r.2.2.2
    let c : Copy := { data := lineData s pa, wts := r.2.1, rts := r.2.2.1, managed := false, dirty := 0,
                      poison := lineMarks s pa, flaw := 0 }
    ⟨r.1.1, r.1.2, max pts r.2.1, keepCopy s core pa c⟩
  match tabGet (s.core core).copies (pa / 128) with
  | some c =>
    if !c.managed && pts ≤ c.rts then
      let r := copyBytes c (pa % 128) n
      ⟨r.1, r.2, max pts c.wts, s⟩
    else fetch
  | none => fetch

/-- Writes bytes into a line's data. -/
def pokeLine (d : LineData) (off : Nat) (bs : List Byte) : LineData :=
  let n := bs.length
  let v := d.toNat
  let keepLow := v % 2 ^ (8 * off)
  let keepHigh := v / 2 ^ (8 * (off + n)) * 2 ^ (8 * (off + n))
  BitVec.ofNat 1024 (keepHigh + leNat bs * 2 ^ (8 * off) + keepLow)

/-- A mask of `n` bits from bit `lo`. -/
def maskAt (w lo n : Nat) : BitVec w := BitVec.ofNat w ((2 ^ n - 1) * 2 ^ lo)

/-- Stash bytes with their poison marks, kept for each 4 bytes (R366, R408). -/
def stashBytes (c : Core) (a n : Nat) : List Byte × Bool :=
  let bad := (List.range n).any (fun i => c.stashPoison.contains ((a + i) / 4))
  ((List.range n).map (fun i => if c.stashPoison.contains ((a + i) / 4) then 0 else memGet c.stash (a + i)), bad)

/-- Clears the marks of a stash range. -/
def clearMarks (p : List Nat) (a n : Nat) : List Nat := p.filter (fun u => !(a ≤ 4 * u && 4 * u < a + n))

/-- Marks a stash range poisoned. -/
def setMarks (p : List Nat) (a n : Nat) : List Nat :=
  if n == 0 then p
  else (List.range ((a + n - 1) / 4 - a / 4 + 1)).foldl (fun p i => setAdd p (a / 4 + i)) p

/-- Bytes of stash that a mapping takes (Table 05-6). -/
def Mapping.taken (m : Mapping) : Nat := if m.desc.mode == 2 then 2 * m.desc.slen else m.desc.slen

/-- Bytes of a field (Table 05-5); 0 for whole elements. -/
def MapDesc.field (d : MapDesc) : Nat := if d.fsize == 0 then 0 else 2 * 2 ^ d.fsize

/-- The poison granule of a mapping's stash bytes (R366, R408). -/
def Mapping.granule (m : Mapping) : Nat := if m.desc.fsize == 0 then 32 else m.desc.field

/-- Where the fields of a stash line lie that come from one global line: stash address, line offset, bytes. -/
def packedSpots (d : MapDesc) (base k line : Nat) : List (Nat × Nat × Nat) :=
  let per := 128 / d.field
  (List.range per).filterMap (fun i =>
    let e := k * per + i
    let va := d.gbase + e * d.estride + d.foff
    if e < d.ecount && va / 128 == line then some (base + e * d.field, va % 128, d.field) else none)

/-- Where a mapping's stash holds the bytes of the line of its table's key: stash address, line offset, bytes. -/
def Mapping.spots (m : Mapping) (key : Nat) : List (Nat × Nat × Nat) :=
  if m.desc.fsize == 0 then [(m.base + key * 128, 0, 128)]
  else (m.packed.map Prod.fst).flatMap (fun k => packedSpots m.desc m.base k key)

/-- The stash bytes in which a core's mirrors hold a managed line, each a copy of its core (R114, R121): stash
address, line offset, bytes, granule. -/
def mirrorSpots (c : Core) (pa : Nat) : List (Nat × Nat × Nat × Nat) :=
  c.maps.flatMap (fun e =>
    if e.2.desc.mode != 0 then []
    else
      (e.2.lines.filter (fun l => l.2.pa == pa / 128 * 128 && l.2.cmode == 1 && l.2.filled)).flatMap (fun l =>
        (e.2.spots l.1).map (fun t => (t.1, t.2.1, t.2.2, e.2.granule))))

/-- The mirrors' lines of a managed line take a timestamp. -/
def markMirrors (k : Core) (pa ts : Nat) : Core :=
  { k with maps := k.maps.map (fun e => (e.1, { e.2 with lines := e.2.lines.map (fun l =>
      if e.2.desc.mode == 0 && l.2.pa == pa / 128 * 128 && l.2.cmode == 1 then (l.1, { l.2 with wts := max l.2.wts ts })
      else l) })) }

/-- Writes bytes at an address into the mirrors of a core that hold the managed line, so that the copies of a core
agree (R121). -/
def pokeMirrors (s : State) (core pts pa : Nat) (bs : List Byte) : List Cover × State :=
  let lo := pa % 128
  let hi := lo + bs.length
  let spots := mirrorSpots (s.core core) pa
  let s := if spots.isEmpty then s else s.modCore core (fun c => markMirrors c pa pts)
  spots.foldl (fun (a : List Cover × State) t =>
    let x := max lo t.2.1
    let y := min hi (t.2.1 + t.2.2.1)
    if x < y then
      (a.1 ++ [.stash (t.1 + (x - t.2.1)) (y - x) t.2.2.2],
        a.2.modCore core (fun c => { c with stash := memWrite c.stash (t.1 + (x - t.2.1)) ((bs.drop (x - lo)).take (y - x)) }))
    else a) ([], s)

/-- A line's copy with what the core's mirrors hold of it. -/
def overMirrors (k : Core) (pa : Nat) (c : Copy) : Copy :=
  (mirrorSpots k pa).foldl (fun (c : Copy) t =>
    let r := stashBytes k t.1 t.2.2.1
    let marks := (List.range 4).foldl (fun m g =>
      let x := max t.2.1 (32 * g)
      let y := min (t.2.1 + t.2.2.1) (32 * g + 32)
      if x < y && (stashBytes k (t.1 + (x - t.2.1)) (y - x)).2 then m + 2 ^ g else m) 0
    { c with data := pokeLine c.data t.2.1 r.1, poison := c.poison ||| BitVec.ofNat 4 marks })
    { c with wts := k.maps.foldl (fun n e => e.2.lines.foldl (fun n l =>
        if l.2.pa == pa / 128 * 128 && l.2.cmode == 1 && l.2.filled then max n l.2.wts else n) n) c.wts }

/-- A core's copy of a managed line, made from its mirrors and the home when it holds none (R121). -/
def managedCopy (s : State) (core pa : Nat) (w : Who) : Copy × State :=
  match tabGet (s.core core).copies (pa / 128) with
  | some c => ({ c with managed := true }, s)
  | none =>
    let r := homeRead (detectLine s pa 1 w.lineFinder) pa 1 (some w)
    let c : Copy := { data := lineData r.2 pa, wts := (lineOf r.2 pa).wts, rts := 0, managed := true, dirty := 0,
                      poison := lineMarks r.2 pa, flaw := 0 }
    (overMirrors (r.2.core core) pa c, r.2)

/-- A load of a managed line. The timestamp of the copy's bytes joins the agent's, so that what a fence ordered before
the write-back that it reads is ordered before its later loads (R116, R120). -/
def loadManaged (s : State) (core pts pa n : Nat) (w : Who) : Got :=
  let c := managedCopy s core pa w
  let r := copyBytes c.1 (pa % 128) n
  ⟨r.1, r.2, max pts c.1.wts, keepCopy c.2 core pa c.1⟩

def storeManaged (s : State) (core pts pa : Nat) (bs : List Byte) (w : Who) : Put :=
  let c := managedCopy s core pa w
  let off := pa % 128
  let data := pokeLine c.1.data off bs
  let dirty := c.1.dirty ||| maskAt 128 off bs.length
  let copy : Copy := { c.1 with data := data, dirty := dirty, wts := max c.1.wts pts }
  let r := pokeMirrors (keepCopy c.2 core pa copy) core pts pa bs
  ⟨.copy pa bs.length :: r.1, pts, r.2⟩

/-- A load of a page in HBM by its coherence mode. Private lines are held in memory itself (DESIGN CHOICE, log 9). -/
def loadHbm (s : State) (core pts cmode pa n : Nat) (w : Who) : Got :=
  match cmode with
  | 0 => loadCoherent s core pts pa n w
  | 1 => loadManaged s core pts pa n w
  | _ =>
    let r := homeRead s pa n (some w)
    ⟨r.1.1, r.1.2, pts, r.2⟩

def storeHbm (s : State) (core pts cmode pa : Nat) (bs : List Byte) (w : Who) : Put :=
  match cmode with
  | 0 =>
    let r := ownerStore s pts pa bs (some w)
    ⟨[.mem pa bs.length], r.1, r.2⟩
  | 1 => storeManaged s core pts pa bs w
  | _ =>
    let s := mergeLine (joinBy (touchHome s pa (some w)) pa (some w)) pa
    let l := lineOf s pa
    let s := setLine s pa { l with dirty := l.dirty ||| dirtyOf pa bs.length }
    let s := { s with mem := memWrite s.mem pa bs }
    ⟨[.mem pa bs.length], pts, evalRange s pa bs.length⟩

/-- Live ports of a peer window (R321, R441); none while the entry is not in use. -/
def livePorts (s : State) (pa : Nat) : List Nat :=
  let w := s.window (windowOf pa)
  if !w.valid then []
  else ((List.range 4).filter (fun i => w.ports.getLsbD i)).map (fun i => 4 * w.die + i) |>.filter
    (fun p => !s.aditsDown.contains p)

/-- The reason for which a target beyond the module refuses every access at once: a CXL port that is down (R446), or a
peer window with no port left (R441). -/
def deadTarget (s : State) (pa : Nat) : Option Nat :=
  if isHost pa && s.cxlDown.contains (dStation s pa) then some 2
  else if isPeer pa && (livePorts s pa).isEmpty then some 4
  else none

/-- A refusal beyond the core (Table 24-1): another core's private page, a write to a fenced pseudo-channel (or bank
group), a CXL port that is down (R446), or a peer window with no port left (R441). -/
def refusal (s : State) (x : Xlate) (core : Nat) (write : Bool) : Option Nat :=
  if x.e.cmode == 2 && (privOwner s x).isSome && privOwner s x != some core then some 1
  else if write && fencedAt s (stockPa (dieOfCore core) x.pa) then some 5
  else deadTarget s x.pa

/-- An access reaches its line under its page's coherence mode; the first one fixes a private page's owner (R132,
R405). -/
def claimPriv (s : State) (x : Xlate) (core : Nat) : State :=
  if x.e.cmode == 2 then fixPriv s x core
  else if x.e.cmode ≤ 1 && isHbm x.pa then asMode s x.pa x.e.cmode
  else s

/-- The granules of a stash that an instruction's writes cover whole become clean (R406, R408). -/
def clearStash (p : List Nat) (cov : List Cover) : List Nat :=
  if p.isEmpty then p
  else
    let hit : Nat → Bool := fun a => cov.any (fun c =>
      match c with
      | .stash b n _ => decide (b ≤ a) && decide (a < b + n)
      | _ => false)
    cov.foldl (fun p c =>
      match c with
      | .stash b n g =>
        let first := b / g
        (List.range ((b + n - 1) / g - first + 1)).foldl (fun p i =>
          let q := (first + i) * g
          if (List.range g).all (fun j => hit (q + j)) then clearMarks p q g else p) p
      | _ => p) p

/-- The same for the copies of a core. -/
def clearCopies (t : Tab Copy) (cov : List Cover) : Tab Copy :=
  let hit : Nat → Bool := fun a => cov.any (fun c =>
    match c with
    | .copy b n => decide (b ≤ a) && decide (a < b + n)
    | _ => false)
  t.map (fun e =>
    if e.2.poison == 0 then e
    else
      let keep := (List.range 4).foldl (fun m g =>
        if (List.range 32).all (fun j => hit (128 * e.1 + 32 * g + j)) then m else m + 2 ^ g) 0
      (e.1, { e.2 with poison := e.2.poison &&& BitVec.ofNat 4 keep }))

/-- After an instruction's writes: what they cover whole becomes clean (R366, R406). -/
def settle (s0 : State) (core : Nat) (cov : List Cover) : State :=
  let ranges := cov.filterMap (fun c =>
    match c with
    | .mem pa n => some (pa, n)
    | _ => none)
  let s := clearCovered s0 ranges
  -- a clearing write re-evaluates the monitors (Table 24-2)
  let s := if s.poison.length < s0.poison.length then ranges.foldl (fun s r => evalRange s r.1 r.2) s else s
  let c := s.core core
  if c.stashPoison.isEmpty && c.copies.all (fun e => e.2.poison == 0) then s
  else s.setCore core { c with stashPoison := clearStash c.stashPoison cov, copies := clearCopies c.copies cov }

/-- The mapping of a context whose visible range holds a stash range (R241). -/
def findMap (s : State) (core ctx a n : Nat) : Option (Nat × Mapping) :=
  (s.core core).maps.find? (fun e => e.2.ctx == ctx && e.2.base ≤ a && a + n ≤ e.2.base + e.2.desc.slen)

/-- The mapping of a context with a stash base (R247). -/
def mapAt (s : State) (core ctx base : Nat) : Option (Nat × Mapping) :=
  (s.core core).maps.find? (fun e => e.2.ctx == ctx && e.2.base == base)

/-- The physical stash address of a visible byte (R462). -/
def Mapping.phys (m : Mapping) (a : Nat) : Nat := if m.desc.mode == 2 && m.upper then a + m.desc.slen else a

/-- The physical stash address of a byte of the hidden half (R127). -/
def Mapping.hiddenAt (m : Mapping) (a : Nat) : Nat := if m.upper then a else a + m.desc.slen

/-- A piece of a stash access: its stash bytes, and the global bytes they image. -/
structure Seg where
  sa : Nat
  n : Nat
  va : Option Nat
  deriving DecidableEq, Repr

/-- The pieces of a stash range of a field-selected mapping (R102). -/
def fieldSegs (fuel : Nat) (d : MapDesc) (base a n : Nat) : List Seg :=
  match fuel with
  | 0 => []
  | fuel + 1 =>
    if n == 0 then []
    else
      let off := a - base
      let fs := d.field
      let k := min n (fs - off % fs)
      let va := if off / fs < d.ecount then some (d.gbase + off / fs * d.estride + d.foff + off % fs) else none
      { sa := a, n := k, va := va } :: fieldSegs fuel d base (a + k) (n - k)

/-- The pieces of a stash range within a line. -/
def Mapping.segs (m : Mapping) (a n : Nat) : List Seg :=
  if m.desc.mode == 3 then [{ sa := a, n := n, va := none }]
  else if m.desc.fsize == 0 then [{ sa := a, n := n, va := some (m.desc.gbase + (a - m.base)) }]
  else fieldSegs n m.desc m.base a n

/-- The number of a line in a mapping's table: local for whole mappings, global for field-selected ones. -/
def Mapping.key (m : Mapping) (g : Seg) : Nat :=
  if m.desc.fsize == 0 then (g.sa - m.base) / 128 else (g.va.getD 0) / 128

/-- A line's owner is a pinned or double mapping, which keeps it (R463). -/
def pinnedOwner (s : State) (o : Option (Nat × Nat)) : Bool :=
  match o with
  | none => false
  | some (c, e) =>
    match tabGet (s.core c).maps e with
    | some m => m.desc.mode == 1 || m.desc.mode == 2
    | none => false

/-- Sets a mapping entry of a core. -/
def setMap (s : State) (core e : Nat) (m : Mapping) : State :=
  s.modCore core (fun c => { c with maps := tabPut c.maps e m })

/-- Global lines with a field packed in a stash line (R102), each as its lowest field address. -/
def packedVas (d : MapDesc) (k : Nat) : List Nat :=
  let per := 128 / d.field
  let vas := (List.range per).filterMap (fun i =>
    let e := k * per + i
    if e < d.ecount then some (d.gbase + e * d.estride + d.foff) else none)
  vas.foldl (fun acc v => if acc.any (fun a => a / 128 == v / 128) then acc else acc ++ [v]) []

/-- The addresses that an access to a piece must translate because its mirror line is not filled, or, for a
load, its lease has ended (Table 05-6, R102, R115). A line that a pinned or double mapping owns is not filled
(R463). -/
def fillVas (s : State) (core entry pts : Nat) (m : Mapping) (g : Seg) (write : Bool) : List Nat :=
  if m.desc.mode != 0 then []
  else
    let mine : MLine → Bool := fun l => (lineOf s l.pa).owner == some (core, entry)
    let away : MLine → Bool := fun l => l.cmode == 0 && pinnedOwner s (lineOf s l.pa).owner
    let empty : MLine → Bool := fun l => !l.filled && !mine l && !away l
    if m.desc.fsize == 0 then
      match g.va with
      | none => []
      | some va =>
        match tabGet m.lines (m.key g) with
        | none => [va]
        | some l => if empty l || (!write && l.cmode == 0 && !mine l && !away l && l.rts < pts) then [va] else []
    else
      -- a touch of any byte of a stash line fetches every line packed in it (R102)
      let k := (g.sa - m.base) / 128
      match tabGet m.packed k with
      | none => packedVas m.desc k
      | some r =>
        match g.va with
        | none => []
        | some va =>
          match tabGet m.lines (m.key g) with
          | none => [va]
          | some l =>
            if empty l then [va]
            else if !write && !mine l && r < pts && l.cmode == 0 then packedVas m.desc k else []

/-- The permission that the translation of such an address needs: that of the access itself where a store first
touches its line, which records `W`; later changes of `W` do not reach the mapping (R464). -/
def fillNeed (m : Mapping) (g : Seg) (write : Bool) (v : Nat) : Need :=
  let own := write && (g.va.map (fun a => a / 128)) == some (v / 128)
  if own && (tabGet m.lines (m.key g)).isNone then needW else needR

/-- A held line takes no write: its page lacked `W` (R464). -/
def lineNoW (m : Mapping) (g : Seg) : Bool :=
  match g.va, tabGet m.lines (m.key g) with
  | some _, some l => !l.w
  | _, _ => false

/-- Copies line bytes with their marks into stash bytes, but for the bytes that the stash has written: a field keeps
one mark (R102, R407, R408). -/
def intoStash (c : Core) (data : LineData) (marks : BitVec 4) (dirty : BitVec 128) (spots : List (Nat × Nat × Nat)) : Core :=
  spots.foldl (fun c t =>
    let clean := (List.range t.2.2).filter (fun i => !dirty.getLsbD (t.2.1 + i))
    if clean.length == t.2.2 then
      let bs := (List.range t.2.2).map (fun i => data.extractLsb' (8 * (t.2.1 + i)) 8)
      let p0 := clearMarks c.stashPoison t.1 t.2.2
      let bad := (List.range 4).filter (fun g => marks.getLsbD g)
      let p := bad.foldl (fun p g =>
        let lo := max t.2.1 (32 * g)
        let hi := min (t.2.1 + t.2.2) (32 * g + 32)
        if lo < hi then setMarks p (t.1 + lo - t.2.1) (hi - lo) else p) p0
      { c with stash := memWrite c.stash t.1 bs, stashPoison := p }
    else
      clean.foldl (fun c i =>
        let o := t.2.1 + i
        let p := if marks.getLsbD (o / 32) then setMarks c.stashPoison (t.1 + i) 1 else c.stashPoison
        { c with stash := memPut c.stash (t.1 + i) (data.extractLsb' (8 * o) 8), stashPoison := p }) c) c

/-- A stockpile read meets its group's refresh window (R110). -/
def refreshing (s : State) (pa : Nat) : Bool :=
  let o := pa - 0x10000000000
  isStockpile pa && (s.clock / 2500 + 8 * (o / 0x100000000)) % 32 == o % 0x100000000 / 0x8000000

/-- Fills a mirror line from its owner or home (R101, R115), a managed one from the core's copy where it holds one
(R121). The bytes of a line that this stash owns stay in memory; one that a pinned mapping owns is not filled
(R463). A line recorded before keeps its `W` (R464). -/
def fillLine (s : State) (core entry pts : Nat) (m : Mapping) (g : Seg) (x : Xlate) (w : Who) :
    Nat × Nat × State :=
  let base := x.pa / 128 * 128
  let spots :=
    if m.desc.fsize == 0 then [(m.base + m.key g * 128, 0, 128)]
    else packedSpots m.desc m.base ((g.sa - m.base) / 128) (x.va / 128)
  let key := if m.desc.fsize == 0 then m.key g else x.va / 128
  let old := tabGet m.lines key
  let wOk := (old.map MLine.w).getD (x.e.w && x.e.cmode != 3)
  let dirty := ((old.filter (fun l => l.pa == base)).map MLine.dirty).getD 0
  let line : Nat → Nat → Bool → MLine := fun wts rts f =>
    { pa := base, w := wOk, wts := wts, rts := rts, dirty := dirty, cmode := x.e.cmode, filled := f
      under := lineRaw s base, underBad := lineMarks s base, fresh := 0 }
  let keep : State → MLine → (Core → Core) → State := fun s l f =>
    let c := s.core core
    let m := (tabGet c.maps entry).getD m
    s.setCore core (f { c with maps := tabPut c.maps entry { m with lines := tabPut m.lines key l } })
  let put : State → LineData → BitVec 4 → Nat → Nat → State := fun s d marks wts rts =>
    keep s (line wts rts true) (fun c => intoStash c d marks dirty spots)
  let seen : State → Nat → State := fun s a => detectLine s a 128 { w.lineFinder with va := some x.va }
  match x.e.cmode with
  | 0 =>
    let o := (lineOf s base).owner
    let l := lineOf s base
    if o == some (core, entry) then (pts, l.rts, keep s (line l.wts l.rts true) id)
    else if pinnedOwner s o then (pts, l.rts, keep s (line l.wts l.rts false) id)
    else
      let r := ownerLoad (seen (asMode s base 0) base) pts base 128 (some w)
      let s := r.2.2.2
      (max pts r.2.1, r.2.2.1, put s (lineData s base) (lineMarks s base) r.2.1 r.2.2.1)
  | 3 =>
    let pa := stockPa (dieOfCore core) base
    let s := seen s pa
    (pts, 0, put s (lineData s pa) (lineMarks s pa) 0 0)
  | 1 =>
    let c := managedCopy (seen (asMode s base 1) base) core base w
    (max pts c.1.wts, 0, put c.2 c.1.data c.1.poison c.1.wts 0)
  | _ =>
    -- the first access to a private page fixes its owner core (R405)
    let s := (homeRead (seen (claimPriv s x core) base) base 1 (some w)).2
    (pts, 0, put s (lineData s base) (lineMarks s base) 0 0)

/-- Fills the lines that an access needs, from the translations made for it; for a field-selected stash line
also its least `rts` (R102). -/
def fillLines (s : State) (core entry pts : Nat) (g : Seg) (xs : List Xlate) (who : Xlate → Who) : Nat × State :=
  if xs.isEmpty then (pts, s)
  else
    let r := xs.foldl (fun (a : Nat × List Nat × State) x =>
      match tabGet (a.2.2.core core).maps entry with
      | none => a
      | some m =>
        let f := fillLine a.2.2 core entry a.1 m g x (who x)
        (f.1, if x.e.cmode == 0 then f.2.1 :: a.2.1 else a.2.1, f.2.2)) (pts, [], s)
    match tabGet (r.2.2.core core).maps entry with
    | none => (r.1, r.2.2)
    | some m =>
      if m.desc.fsize == 0 then (r.1, r.2.2)
      else
        let k := (g.sa - m.base) / 128
        let least := r.2.1.foldl min (r.2.1.headD (2 ^ 64 - 1))
        let least :=
          if xs.length < (packedVas m.desc k).length then min least ((tabGet m.packed k).getD (2 ^ 64 - 1)) else least
        (r.1, setMap r.2.2 core entry { m with packed := tabPut m.packed k least })

/-- Notes that a mapping was accessed, for the choice of eviction (R103). -/
def useMap (s : State) (core entry : Nat) : State :=
  match tabGet (s.core core).maps entry with
  | none => s
  | some m =>
    let n := s.fresh
    setMap n.2 core entry { m with used := n.1 }

/-- Bytes of an owned or private line read through its mapping: a field that a store has covered whole is not poisoned
(R408). -/
def overFresh (s : State) (l : MLine) (pa : Nat) (r : List Byte × Bool) : List Byte × Bool :=
  if !r.2 || l.fresh == 0 then r
  else
    let n := r.1.length
    let bad : Nat → Bool := fun i => granuleBad s (pa + i) && !l.fresh.getLsbD (pa % 128 + i)
    ((List.range n).map (fun i => if bad i then 0 else memGet s.mem (pa + i)), (List.range n).any bad)

/-- Reads a piece of a stash access whose line is filled (R101, R113, R244). -/
def readSeg (s : State) (core entry pts : Nat) (m : Mapping) (g : Seg) (w : Who) : Got :=
  let raw : Got :=
    let r := stashBytes (s.core core) (m.phys g.sa) g.n
    ⟨r.1, r.2, pts, s⟩
  match g.va, tabGet m.lines (m.key g) with
  | some va, some l =>
    let pa := l.pa + va % 128
    match l.cmode with
    | 0 =>
      let o := (lineOf s l.pa).owner
      if o == some (core, entry) then
        let r := ownerLoad s pts pa g.n none
        let b := overFresh r.2.2.2 l pa r.1
        ⟨b.1, b.2, max pts r.2.1, r.2.2.2⟩
      else if pinnedOwner s o then loadCoherent s core pts pa g.n w
      else { raw with pts := max pts l.wts }
    | 2 =>
      let r := loadHbm s core pts 2 pa g.n w
      let b := overFresh r.st l pa (r.bytes, r.bad)
      { r with bytes := b.1, bad := b.2 }
    | _ => { raw with pts := max pts l.wts }
  | _, _ => raw

/-- A stash gives up a line: another stash takes it, or its mapping ends. A mirror that loses it holds nothing
for it but its recorded `W` (R101, R463, R464). -/
def loseLine (s : State) (o : Option (Nat × Nat)) (pa : Nat) : State :=
  match o with
  | none => s
  | some (c, e) =>
    match tabGet (s.core c).maps e with
    | none => s
    | some m => setMap s c e { m with packed := [], lines := m.lines.map (fun l =>
        if l.2.pa == pa / 128 * 128 then (l.1, { l.2 with filled := false, dirty := 0 }) else l) }

/-- Writes a piece of a stash access whose line is filled. -/
def writeSeg (s : State) (core entry pts : Nat) (m : Mapping) (g : Seg) (bs : List Byte) (w : Who) : Put :=
  let raw : State → Put := fun s =>
    let a := m.phys g.sa
    ⟨[.stash a g.n m.granule], pts, s.modCore core (fun c => { c with stash := memWrite c.stash a bs })⟩
  match g.va, tabGet m.lines (m.key g) with
  | some va, some l =>
    let pa := l.pa + va % 128
    let field := m.desc.fsize != 0 && l.cmode != 1 && g.n == m.desc.field
    -- what the home holds stays known beneath the stash's bytes (R413)
    let takes := if l.cmode == 0 then (lineOf s l.pa).owner != some (core, entry) else l.dirty == 0
    let soiled :=
      { l with dirty := l.dirty ||| maskAt 128 (va % 128) g.n, wts := if l.cmode == 1 then max l.wts pts else l.wts
               fresh := if field then l.fresh ||| maskAt 128 (va % 128) g.n else l.fresh
               under := if takes then lineRaw s l.pa else l.under
               underBad := if takes then lineMarks s l.pa else l.underBad }
    let mark : State → State := fun s =>
      match tabGet (s.core core).maps entry with
      | some m => setMap s core entry { m with lines := tabPut m.lines (m.key g) soiled }
      | none => s
    match l.cmode with
    | 0 =>
      let o := (lineOf s l.pa).owner
      if o != some (core, entry) && pinnedOwner s o then storeHbm s core pts 0 pa bs w
      else
        let s := if o == some (core, entry) then s else loseLine s o l.pa
        let s := mergeLine (touchHome s pa (some w)) pa
        let s := setLine s l.pa { lineOf s l.pa with owner := some (core, entry) }
        let r := ownerStore s pts pa bs none
        ⟨[.mem pa g.n], r.1, mark r.2⟩
    | 2 =>
      let p := storeHbm s core pts 2 pa bs w
      { p with st := mark p.st }
    | 1 =>
      -- the core's copies of a managed line agree (R121)
      let r := pokeMirrors (mark s) core pts pa bs
      let s := match tabGet (r.2.core core).copies (pa / 128) with
        | some c => keepCopy r.2 core pa { c with data := pokeLine c.data (pa % 128) bs, wts := max c.wts pts }
        | none => r.2
      ⟨.copy pa g.n :: .stash (m.phys g.sa) g.n m.granule :: r.1, pts, s⟩
    | _ => raw (mark s)
  | _, _ => raw s

/-- A dirty run of a line: the offsets whose bit is set. -/
def dirtyOffs (d : BitVec 128) : List Nat := (List.range 128).filter (fun i => d.getLsbD i)

/-- A write-back that cannot be delivered (R413): counted and recorded with reason 6. -/
def refuseWriteBack (s : State) (core : Nat) (who : Option (Nat × Nat)) (pa va : Nat) (fenced : Bool)
    (dirty : BitVec 128) : State :=
  let gs := (List.range 4).foldl (fun m g =>
    if (List.range 32).any (fun i => dirty.getLsbD (32 * g + i)) then m + 2 ^ g else m) 0
  let s := if fenced then errCount s (dieOfCore core) 5 else s
  errRecord s (dieOfCore core)
    { cls := 14, sev := 1, addr := some (pa / 32 * 32), vaddr := some va, who := who, ukind := 0, unit := core,
      info := info24 6 (if gs == 0 then 15 else gs) (home s pa) 6, split := 0, slot := none }

/-- The line may not be written back: a fenced pseudo-channel, or a page now private to another core (R413). -/
def writeBackBarred (s : State) (core pa : Nat) : Bool :=
  unitFenced s pa ||
    (match privAt s pa with
      | some c => c != core
      | none => false)

/-- Writes back dirty bytes of a managed line to its home (R122, R407, R408): `src` gives each byte and its
mark. A field's mark keeps its bytes; a whole granule's mark travels. -/
def writeBackBytes (s : State) (pa wts : Nat) (dirty : BitVec 128) (src : Nat → Byte × Bool) (fields : Bool) : State :=
  let offs := dirtyOffs dirty
  let good := offs.filter (fun i => !(src i).2)
  let bad := offs.filter (fun i => (src i).2)
  let s := (homeRead s pa 1 none).2
  -- a later reader at the home takes the timestamp of the stores written back (R120)
  let l := lineOf s pa
  let ds := good.foldl (fun d i => d ||| dirtyOf (pa + i) 1) l.dirty
  let ts := max l.rts (max l.wts wts)
  let s := noteRts (setLine s pa { l with wts := max l.wts wts, rts := ts, dirty := ds }) pa ts
  let s := { s with mem := good.foldl (fun m i => memPut m (pa + i) (src i).1) s.mem }
  let s := clearCovered s (good.map (fun i => (pa + i, 1)))
  let s := if fields then s else bad.foldl (fun s i => poisonRange s (pa + i) 1) s
  evalRange s pa 128

/-- The stash byte of a line at an offset, with its mark; for a field, the field's own place. -/
def stashAtOff (s : State) (core : Nat) (m : Mapping) (key off : Nat) : Byte × Bool :=
  let place : Option Nat :=
    if m.desc.fsize == 0 then some (m.phys (m.base + key * 128 + off))
    else
      let va := key * 128 + off
      (List.range m.desc.ecount).findSome? (fun e =>
        let f := m.desc.gbase + e * m.desc.estride + m.desc.foff
        if f ≤ va && va < f + m.desc.field then some (m.base + e * m.desc.field + (va - f)) else none)
  match place with
  | none => (0, false)
  | some a =>
    let r := stashBytes (s.core core) a 1
    (r.1.headD 0, r.2)

/-- What a dropped write-back leaves at the home: the line as it stood beneath the stash's bytes; of a private line the
dirty bytes alone, since other stores of its core went to the home (R413). -/
def dropLine (s : State) (l : MLine) (owned : Bool) : State :=
  let offs := if owned then List.range 128 else dirtyOffs l.dirty
  let m := offs.foldl (fun m i => memPut m (l.pa + i) (l.under.extractLsb' (8 * i) 8)) s.mem
  let bad := offs.filter (fun i => l.underBad.getLsbD (i / 32))
  bad.foldl (fun s i => poisonRange s (l.pa + i) 1) { s with mem := m }

/-- Writes back the dirty bytes of one line of a mapping, or of a pinned or double one's every line when it ends
(Table 05-6). A coherent or private line's bytes stand in memory already, as its owner serves it; a barred line is dropped
and reported (R413). -/
def writeBackLine (s : State) (core entry key : Nat) (who : Option (Nat × Nat)) (ends : Bool) : State :=
  match tabGet (s.core core).maps entry with
  | none => s
  | some m =>
    match tabGet m.lines key with
    | none => s
    | some l =>
      let whole := ends && (m.desc.mode == 1 || m.desc.mode == 2)
      let owned := (lineOf s l.pa).owner == some (core, entry)
      let changed := l.dirty != 0 || (owned && lineRaw s l.pa != l.under)
      if !changed && !whole then s
      else
        let va := if m.desc.fsize == 0 then m.desc.gbase + key * 128 else key * 128
        let kept : MLine := { l with dirty := 0, fresh := 0, under := lineRaw s l.pa, underBad := lineMarks s l.pa }
        let clean := setMap s core entry { m with lines := tabPut m.lines key kept }
        if writeBackBarred s core l.pa then
          let s := if l.cmode == 0 && owned then dropLine clean l true
            else if l.cmode == 2 then dropLine clean l false
            else clean
          refuseWriteBack s core who l.pa va (unitFenced s l.pa) l.dirty
        else if l.cmode == 1 then
          writeBackBytes clean l.pa l.wts l.dirty (stashAtOff s core m key) (m.desc.fsize != 0)
        else clean

/-- The ownership of a mapping's line ends: its home holds it again (R463). -/
def releaseLine (s : State) (core entry : Nat) (l : MLine) : State :=
  let x := lineOf s l.pa
  if x.owner == some (core, entry) then setLine s l.pa { x with owner := none, held := true } else s

/-- Writes back the lines of a mapping, in order (R247). -/
def flushMap (s : State) (core entry : Nat) (who : Option (Nat × Nat)) (ends : Bool := false) : State :=
  match tabGet (s.core core).maps entry with
  | none => s
  | some m => m.lines.foldl (fun s e => writeBackLine s core entry e.1 who ends) s

/-- The stash that owns a line writes it back and gives it up (R103, R412). -/
def giveBack (s : State) (o : Option (Nat × Nat)) (pa : Nat) : State :=
  match o with
  | none => s
  | some (c, e) =>
    match tabGet (s.core c).maps e with
    | none => loseLine s o pa
    | some m =>
      let keys := (m.lines.filter (fun l => l.2.pa == pa / 128 * 128)).map Prod.fst
      loseLine (keys.foldl (fun s k => writeBackLine s c e k none false) s) o pa

/-- Ends a mapping as `sunmap` does (R103, R247): lines are written back and given up, its entry and stash
bytes are freed. -/
def endMap (s : State) (core entry : Nat) (who : Option (Nat × Nat)) : State :=
  match tabGet (s.core core).maps entry with
  | none => s
  | some m0 =>
    let s := flushMap s core entry who true
    let m := (tabGet (s.core core).maps entry).getD m0
    let s := m.lines.foldl (fun s e => releaseLine s core entry e.2) s
    s.modCore core (fun c => { c with
      maps := tabDel c.maps entry
      stash := memClear c.stash m.base m.taken
      stashPoison := clearMarks c.stashPoison m.base m.taken })

/-- A crew holds its mappings against eviction (R103). -/
def Crew.holdsMaps (c : Crew) : Bool :=
  match c.state with
  | .resident | .draining | .swappedOut | .halted | .saved => true
  | _ => false

/-- A mapping may be evicted: no crew that adopts it holds it, and no `hpub` waits on it (R103, R418). -/
def candidate (s : State) (core entry : Nat) (m : Mapping) : Bool :=
  !m.adopters.any (fun a =>
    match s.crew a with
    | some c => c.holdsMaps
    | none => false) &&
  !(s.core core).reqs.any (fun r => r.entry == entry && r.kind == 2 && r.live s)

/-- Puts an element into a list ordered by `le`, after those that are no greater. -/
def insertBy {α : Type} (le : α → α → Bool) (x : α) (l : List α) : List α :=
  match l with
  | [] => [x]
  | y :: r => if le y x then y :: insertBy le x r else x :: y :: r

/-- Candidates in the order of eviction: least recently accessed first, those of the served crew's affinity
tag last (R103). -/
def evictionOrder (s : State) (core affin : Nat) : List (Nat × Mapping) :=
  let cs := (s.core core).maps.filter (fun e => candidate s core e.1 e.2)
  let late : Nat × Mapping → Bool := fun e => affin != 0 && e.2.affin == affin
  let le : Nat × Mapping → Nat × Mapping → Bool := fun a b =>
    if late a == late b then decide (a.2.used ≤ b.2.used) else !late a
  cs.foldl (fun acc x => insertBy le x acc) []

/-- The lowest free 128-aligned stash range of a length among mappings (R103). -/
def lowestGap (maps : List Mapping) (n : Nat) : Option Nat :=
  let ok : Nat → Bool := fun b =>
    b + n ≤ 524288 && maps.all (fun m => m.base + m.taken ≤ b || b + n ≤ m.base)
  let starts := 0 :: maps.map (fun m => m.base + m.taken)
  (starts.filter ok).foldl (fun (a : Option Nat) b =>
    match a with
    | none => some b
    | some x => some (min x b)) none

/-- Candidates to evict until a choice of entry and stash base exists (R103 steps 2 and 3): the evicted
entries and the base, or none. -/
def chooseRoom (fuel : Nat) (maps gone : List (Nat × Mapping)) (rest : List (Nat × Mapping)) (fixed : Option Nat)
    (n : Nat) : Option (List Nat × Nat) :=
  let keep := maps.filter (fun e => !gone.any (fun g => g.1 == e.1))
  let base := match fixed with
    | some b => some b
    | none => lowestGap (keep.map Prod.snd) n
  let more : Option (List Nat × Nat) :=
    match fuel with
    | 0 => none
    | fuel + 1 =>
      match rest with
      | [] => none
      | r :: rest => chooseRoom fuel maps (gone ++ [r]) rest fixed n
  match base with
  | some b => if keep.length < 64 then some (gone.map Prod.fst, b) else more
  | none => more

/-- The descriptor of Table 05-5. -/
def decodeDesc (d : Nat) : MapDesc :=
  { gbase := bitsOf d 63 0, sbase := bitsOf d 82 64, any := d.testBit 83, slen := bitsOf d 115 96,
    estride := bitsOf d 159 128, foff := bitsOf d 175 160, fsize := bitsOf d 177 176,
    ecount := bitsOf d 223 192, mode := bitsOf d 226 224 }

/-- The descriptor breaks a limit of Table 22-9 (`ROPND`). -/
def descBad (n : Nat) : Bool :=
  let d := decodeDesc n
  bitsOf n 95 84 != 0 || bitsOf n 127 116 != 0 || bitsOf n 191 178 != 0 || bitsOf n 255 227 != 0 ||
  4 ≤ d.mode || d.slen % 128 != 0 || d.slen == 0 || 524288 < d.slen ||
  (!d.any && d.sbase % 128 != 0) ||
  (if d.fsize != 0 then
      d.mode != 0 || d.estride % d.field != 0 || (d.gbase + d.foff) % d.field != 0 || d.slen < d.ecount * d.field
    else d.mode != 3 && d.gbase % 128 != 0)

/-- Two descriptors are identical; with `ANY` the base is ignored (R103). -/
def sameDesc (a b : MapDesc) : Bool :=
  if a.any then { a with sbase := 0 } == { b with sbase := 0 } else a == b

/-- A warm mapping for a descriptor (R103 step 1). -/
def warmMap (s : State) (core ctx crew : Nat) (d : MapDesc) : Option (Nat × Mapping) :=
  (s.core core).maps.find? (fun e =>
    e.2.ctx == ctx && sameDesc d e.2.desc &&
    !(d.mode == 3 && e.2.adopters.any (fun a => a != crew &&
      (match s.crew a with
        | some c => c.holdsMaps
        | none => false))))

/-- The value of Table 12-2. -/
def smapResult (status entry base : Nat) : Word := BitVec.ofNat 64 (status + 4 * entry + 2 ^ 32 * base)

/-- The lines of a mapping's global range. -/
def rangeLines (d : MapDesc) : List Nat := (List.range (d.slen / 128)).map (fun i => d.gbase + 128 * i)

/-- Fetches a pinned or double mapping's lines and takes their ownership (R101, R246). -/
def pinLines (s : State) (core entry pts : Nat) (xs : List Xlate) (who : Xlate → Who) : Nat × State :=
  (List.range xs.length).foldl (fun (a : Nat × State) i =>
    match xs[i]? with
    | none => a
    | some x =>
      let s := a.2
      let base := x.pa / 128 * 128
      let o := (lineOf s base).owner
      let s := giveBack s o base
      let s := setLine s base { lineOf s base with owner := none }
      let s := detectLine s base 128 { (who x).finder with path := 3 }
      let s := if x.e.cmode == 2 then s else asMode s base 0
      let r := if x.e.cmode == 2 then
          let q := homeRead s base 128 (some (who x))
          (a.1, (0, 0), q.2)
        else
          let q := ownerLoad s a.1 base 128 (some (who x))
          (max a.1 q.2.1, (q.2.1, q.2.2.1), q.2.2.2)
      let s := setLine r.2.2 base { lineOf r.2.2 base with owner := some (core, entry) }
      let l : MLine :=
        { pa := base, w := x.e.w, wts := r.2.1.1, rts := r.2.1.2, dirty := 0, cmode := x.e.cmode, filled := true
          under := lineRaw s base, underBad := lineMarks s base, fresh := 0 }
      match tabGet (s.core core).maps entry with
      | none => (r.1, s)
      | some m => (r.1, setMap s core entry { m with lines := tabPut m.lines i l })) (pts, s)

/-- With `n` more bytes, the mappings that a crew adopts on its core stay within its `STASH`, beside those of an entry
(R104). -/
def withinStash (s : State) (core crew n : Nat) (beside : Option Nat) : Bool :=
  let own := ((s.core core).maps.filter (fun e => e.2.adopters.contains crew && some e.1 != beside)).foldl
    (fun k e => k + e.2.taken) 0
  match s.crew crew with
  | some c => own + n ≤ (c.kernel.stash + 127) / 128 * 128
  | none => true

/-- `smap` after its checks (R103, R246): the result, the crew's timestamp and the state. `xs` are the
translations of a pinned or double mapping's lines. A mapping that would take the crew beyond its `STASH` finds no stash
bytes: status 2 (DEDUCED, log 66). -/
def doSmap (s : State) (core ctx crew affin pts : Nat) (d : MapDesc) (xs : List Xlate) (who : Xlate → Who) :
    Word × Nat × State :=
  match warmMap s core ctx crew d with
  | some (e, m) =>
    if !withinStash s core crew m.taken (some e) then (smapResult 2 0 0, pts, s)
    else
      let s := setMap s core e { m with adopters := setAdd m.adopters crew }
      (smapResult 1 e m.base, pts, useMap s core e)
  | none =>
    if xs.any (fun x => pinnedOwner s (lineOf s x.pa).owner) then (smapResult 3 0 0, pts, s)
    else
      let n := if d.mode == 2 then 2 * d.slen else d.slen
      let maps := (s.core core).maps
      let order := evictionOrder s core affin
      let choice : Option (List Nat × Nat) :=
        if !withinStash s core crew n none then none
        else if d.any then chooseRoom order.length maps [] order none n
        else if 524288 < d.sbase + n then none
        else
          let inWay := maps.filter (fun e => e.2.base < d.sbase + n && d.sbase < e.2.base + e.2.taken)
          if inWay.all (fun e => candidate s core e.1 e.2) then
            chooseRoom order.length maps inWay (order.filter (fun e => !inWay.any (fun o => o.1 == e.1))) (some d.sbase) n
          else none
      match choice with
      | none => (smapResult 2 0 0, pts, s)
      | some (gone, base) =>
        let s := gone.foldl (fun s e => endMap s core e none) s
        match tabFree (s.core core).maps 64 with
        | none => (smapResult 2 0 0, pts, s)
        | some e =>
          let m : Mapping :=
            { desc := d, ctx := ctx, base := base, adopters := [crew], affin := affin, used := 0, lines := [],
              packed := [], upper := false }
          let s := s.modCore core (fun c => { c with
            maps := tabPut c.maps e m
            stash := memClear c.stash base n
            stashPoison := clearMarks c.stashPoison base n })
          let r := pinLines s core e pts xs who
          (smapResult 0 e base, r.1, useMap r.2 core e)

/-- Writes back the dirty bytes of one of a core's copies of a managed line (R122). -/
def writeBackCopy (s : State) (core line : Nat) : State :=
  match tabGet (s.core core).copies line with
  | none => s
  | some c =>
    if c.dirty == 0 then s
    else
      let pa := 128 * line
      let s := s.modCore core (fun x => { x with copies := tabPut x.copies line { c with dirty := 0 } })
      if writeBackBarred s core pa then refuseWriteBack s core none pa 0 (unitFenced s pa) c.dirty
      else writeBackBytes s pa c.wts c.dirty (fun i =>
        let r := copyBytes c i 1
        (r.1.headD 0, r.2)) false

/-- `cwb` and `cinv` on a set of line addresses of pages that are not coherent (R122, R248): mirror lines and copies, also
those left from another mode (R132). -/
def cleanLines (s : State) (core : Nat) (hit : Nat → Bool) (discard : Bool) : State :=
  let cs := (s.core core).copies.filter (fun e => hit (128 * e.1))
  let s := cs.foldl (fun s e =>
    let s := writeBackCopy s core e.1
    if discard then s.modCore core (fun x => { x with copies := tabDel x.copies e.1 }) else s) s
  (s.core core).maps.foldl (fun s e =>
    if e.2.desc.mode != 0 then s
    else
      (e.2.lines.filter (fun l => l.2.cmode != 0 && hit l.2.pa)).foldl (fun s l =>
        let s := writeBackLine s core e.1 l.1 none false
        if discard then
          match tabGet (s.core core).maps e.1 with
          | some m =>
            setMap s core e.1 { m with packed := [], lines := tabPut m.lines l.1 { l.2 with filled := false, dirty := 0 } }
          | none => s
        else s) s) s

/-- Sends a request to host memory or a peer window (R131), through the line's home, which does not hold it (R96,
R299). -/
def sendExt (s : State) (e : Ext) (w : Option Who := none) : State :=
  let n := (missBeyond s e.pa w).fresh
  { n.2 with exts := tabPut n.2.exts n.1 e }

/-- The crew of a request that no crew makes. -/
def noCrew : Nat := 2 ^ 64

/-- A request by an agent that is no crew: its kind and its core, slice or application core. -/
def otherExt (s : State) (kind : ExtKind) (core ctx va pa size : Nat) (data : List Byte) : Ext :=
  { kind := kind, crew := noCrew, split := 0, lane := 0, core := core, ctx := ctx, va := va, pa := pa, size := size,
    dst := 0, ty := 0, x2 := false, op := 0, data := data, pc := 0, slot := 0, sentAt := s.clock, sends := 1, hold := false,
    told := false }

/-- The record of an error response to a requester that is no crew: its chiplet and unit, the path, and the context with
the crew that it acts for (R404, R410). -/
def refuseOther (s : State) (die ukind unit path : Nat) (who : Option (Nat × Nat)) (pa : Nat) (va : Option Nat)
    (reason : Nat) : State :=
  errRecord s die
    { cls := 14, sev := 1, addr := some (pa / 32 * 32), vaddr := va, who := who, ukind := ukind, unit := unit,
      info := info24 path 0 (home s pa) reason, split := 0, slot := none }

/-- The answer to a read beyond the module that an agent waits for, if it has come. -/
def Away.answered (w : Away) : Bool := w.data.isSome || w.reason != 0

/-- The reads beyond the module of a scheduler's virtual range: those not yet sent are sent, and whether every one has
been answered (R325). -/
def pullVirtual (s : State) (ask : Asker) (ctx va n : Nat) (need : Need) : Bool × State :=
  (piecesBeyond s ask ctx va n need).foldl (fun (a : Bool × State) p =>
    match a.2.away.find? (fun w => w.pa == p.2.1 && w.size == p.2.2) with
    | some w => (a.1 && w.answered, a.2)
    | none =>
      match deadTarget a.2 p.2.1 with
      | some r =>
        (a.1, refuseOther { a.2 with away := a.2.away ++ [⟨p.2.1, p.2.2, none, r⟩] } ask.die 1 (64 * ask.die) 0 none p.2.1 (some p.1) r)
      | none =>
        let s := sendExt a.2 (otherExt a.2 .sched ask.die ctx p.1 p.2.1 p.2.2 [])
        (false, { s with away := s.away ++ [⟨p.2.1, p.2.2, none, 0⟩] })) (true, s)

/-- The read is over: its answers are used up. -/
def pulled (s : State) (ask : Asker) (ctx va n : Nat) (need : Need) : State :=
  let ps := piecesBeyond s ask ctx va n need
  { s with away := s.away.filter (fun w => !ps.any (fun p => w.pa == p.2.1 && w.size == p.2.2)) }

/-- A read of the range has been refused or has failed (R404). -/
def pullFailed (s : State) (ask : Asker) (ctx va n : Nat) (need : Need) : Bool :=
  (piecesBeyond s ask ctx va n need).any (fun p => s.away.any (fun w => w.pa == p.2.1 && w.reason != 0))

end Sys2Proof.Machine
end

