-- ==== Sys2Proof/Machine/Save.lean ====
section
/-! DEFINITION. Registers of a crew by number, and its save area: layout, save and restore (R85 to R90, Tables
04-5 and 04-6). -/

namespace Sys2Proof.Machine

/-- The pattern that a dead register reads as (R383). -/
def deadPattern : Word := 0x7FF87FF87FF87FF8

/-- Rounded register counts (R73). -/
def Kernel.vcount (k : Kernel) : Nat := (k.vregs + 7) / 8 * 8
def Kernel.scount (k : Kernel) : Nat := (k.sregs + 63) / 64 * 64

/-- Vector register `n` in a lane. -/
def Crew.vAt (c : Crew) (n lane : Nat) : RegVal := (tabGet c.v (1024 * n + lane)).getD (.live 0)
def Crew.setV (c : Crew) (n lane : Nat) (r : RegVal) : Crew := { c with v := tabPut c.v (1024 * n + lane) r }
/-- Uniform register `n`. -/
def Crew.sAt (c : Crew) (n : Nat) : RegVal := (tabGet c.s n).getD (.live 0)
def Crew.setS (c : Crew) (n : Nat) (r : RegVal) : Crew := { c with s := tabPut c.s n r }
/-- Predicate `n`; `p15` reads 1 in every lane and ignores writes (Table 04-1). -/
def Crew.pAt (c : Crew) (n : Nat) : Mask := if n == 15 then lowMask c.lanes else (tabGet c.p n).getD 0
def Crew.setP (c : Crew) (n : Nat) (m : Mask) : Crew := if n == 15 then c else { c with p := tabPut c.p n m }
def Crew.kAt (c : Crew) (n : Nat) : Word := (tabGet c.k n).getD 0
def Crew.tAt (c : Crew) (n : Nat) : Shape := (tabGet c.t n).getD 0

/-- The value that a register shows when it is saved (R86). -/
def RegVal.saved : RegVal → Word
  | .live w => w
  | .dead => deadPattern
  | .bad _ => 0

/-- A register granule whose bits are lost (R366). -/
def RegVal.lost : RegVal → Bool
  | .bad _ => true
  | _ => false

/-- Lanes that splits and serial divergences hold: the live lanes (R30, R86). -/
def Crew.live (c : Crew) : Mask :=
  let a := c.splits.foldl (fun m e => m ||| e.2.mask) (0 : Mask)
  c.divs.foldl (fun m e => m ||| e.2.waiting ||| e.2.arrived) a

/-- Offsets of Table 04-5 for a crew. -/
structure Layout where
  op : Nat
  ok : Nat
  ot : Nat
  om : Nat
  oe : Nat
  od : Nat
  ov : Nat
  oa : Nat
  size : Nat
  deriving DecidableEq, Repr

def saveLayout (k : Kernel) : Layout :=
  let w := 2 ^ k.width
  let op := 256 + 8 * k.scount
  let ok := op + 64 * w
  let ot := ok + 128
  let om := ot + 512
  let oe := om + 32 * w
  let od := oe + 512
  let ov := (om + 32 * w + 768 + 255) / 256 * 256
  let oa := ov + 256 * k.vcount * w
  { op := op, ok := ok, ot := ot, om := om, oe := oe, od := od, ov := ov, oa := oa, size := oa + 16384 * k.accs }

/-- Position of a crew in its core's lamp ring. -/
def lampPos (s : State) (core id : Nat) : Option Nat := (s.core core).ring.findIdx? (fun x => x == id)

/-- A list of numbers of `n` bits each, lowest first. -/
def packNat (n : Nat) (l : List Nat) : Nat := l.foldr (fun v acc => v + 2 ^ n * acc) 0

/-- The header of Table 04-6 with the field `ACCPSN` of R428. -/
def saveHeader (s : State) (id : Nat) (c : Crew) : Nat :=
  let co := s.core c.core
  let pos := lampPos s c.core id
  let launch := c.launch.bind (fun l => s.launch l)
  let rowc := packNat 32 ((List.range 8).map (fun i =>
    if c.kernel.rowctr.getLsbD i then ((tabGet co.ctrs i).map (fun r => r.value.toNat)).getD 0 else 0))
  let fobl := packNat 16 ((List.range 12).map (fun n => min ((tabGet c.obl n).getD 0) 0xFFFF))
  let gph := packNat 32 ((List.range 4).map (fun g => ((c.gangs[g]?).map GangName.phase).getD 0))
  let psn := (List.range c.acc.length).foldl (fun m j =>
    if co.accPoison.contains (c.acc.getD j 8) then m + 2 ^ j else m) 0
  c.kernel.kobj + atBit 64 c.index + atBit 96 c.kernel.width + atBit 108 c.flags.toNat +
    atBit 128 (c.pts % 2 ^ 64) + atBit 192 c.sticky.toNat + atBit 224 c.fpctl.toNat + atBit 256 gph +
    atBit 384 (pos.getD 0) + atBit 387 (bitNat (co.holder == some id && pos.isSome)) +
    atBit 388 (bitNat pos.isSome) + atBit 392 ((c.lode.map Prod.fst).getD 0) +
    atBit 396 (bitNat c.uintEn) + atBit 397 (bitNat c.uintPend) + atBit 398 (bitNat c.uintRun) +
    atBit 399 psn + atBit 512 rowc + atBit 768 fobl + atBit 960 c.core + atBit 969 c.part + atBit 972 1 +
    atBit 973 (bitNat (c.state == .draining || c.drain)) +
    atBit 976 ((launch.map Launch.ring).getD 0) + atBit 982 (bitNat c.bin.isSome) +
    atBit 983 ((c.lode.map (fun l => l.2 - 1)).getD 0) +
    atBit 992 (match c.bin with
      | some (n, _) => n
      | none => (launch.map Launch.seq).getD 0)

/-- The split map's byte of a lane (Table 04-5). -/
def splitMapByte (c : Crew) (l : Nat) : Byte :=
  match c.splits.find? (fun e => e.2.mask.getLsbD l) with
  | some e => BitVec.ofNat 8 (0x80 + e.1)
  | none =>
    match c.divs.find? (fun e => e.2.waiting.getLsbD l || e.2.arrived.getLsbD l) with
    | some e => BitVec.ofNat 8 (0xC0 + (if e.2.arrived.getLsbD l then 0x20 else 0) + e.1)
    | none => 0

/-- Code of a state when it is saved (R86). -/
def SplitState.savedCode : SplitState → Nat
  | .joinWait => 4
  | .contWait => 8
  | .ended => 10
  | _ => 0

/-- A split entry of Table 04-5; an entry that holds no split has code 10. -/
def splitEntryImage (x : Option Split) : Nat :=
  match x with
  | none => atBit 64 10 + atBit 72 0xFF
  | some x =>
    x.pc + atBit 64 x.state.savedCode + atBit 72 (x.innermost.getD 0xFF) +
      (if x.state == .contWait then atBit 80 x.awaitFlag else 0)

/-- A divergence record of Table 04-5; zero when it holds none. -/
def divImage (d : Option Divergence) : Nat :=
  match d with
  | none => 0
  | some d =>
    d.joinPc + atBit 64 (d.enclosing.getD 0xFF) + atBit 72 (bitNat d.serial) +
      (match d.resume with
        | some a => atBit 73 (bitsOf a 56 2)
        | none => 0)

/-- The bytes of an accumulator tile, in element order (R272). -/
def accCells (co : Core) (tile : Nat) : List (Nat × BitVec 32) :=
  (co.acc.filter (fun e => e.1 / 4096 == tile)).map (fun e => (e.1 % 4096, e.2))

/-- Where a save area holds the registers that a crew has lost, whose granules it marks (R366, R407). -/
def lostPlaces (c : Crew) (a : Nat) : List Nat :=
  let y := saveLayout c.kernel
  (c.s.filter (fun e => e.2.lost && e.1 < c.kernel.scount)).map (fun e => a + 256 + 8 * e.1) ++
    (c.v.filter (fun e => e.2.lost && e.1 / 1024 < c.kernel.vcount && e.1 % 1024 < c.lanes)).map
      (fun e => a + y.ov + (e.1 / 1024 * c.words + e.1 % 1024 / 32) * 256 + 8 * (e.1 % 32)) ++
    c.lost.map (fun e =>
      if e.1 < 256 then a + y.op + 4 * c.words * (e.1 / 16) + 8 * (e.1 % 16)
      else if e.1 < 512 then a + y.ok + 8 * (e.1 - 256)
      else a + y.ot + 8 * (e.1 - 512))

/-- The same for pairs of elements of its accumulators. -/
def lostPairs (co : Core) (c : Crew) (a : Nat) : List Nat :=
  (List.range c.acc.length).flatMap (fun j =>
    (co.accLost.filter (fun e => e.1 / 2048 == c.acc.getD j 8)).map (fun e =>
      a + (saveLayout c.kernel).oa + 16384 * j + 8 * (e.1 % 2048)))

/-- The accumulator tiles of a crew in its area, element by element (R88, R272). -/
def writeTiles (m : Mem) (co : Core) (c : Crew) (a : Nat) : Mem :=
  (List.range c.acc.length).foldl (fun m j =>
    (accCells co (c.acc.getD j 8)).foldl (fun m e =>
      memWrite m (a + (saveLayout c.kernel).oa + 16384 * j + 4 * e.1) (leBytes 4 e.2.toNat)) m) m

/-- Writes the regions of a save area at its address (R85, R88). -/
def writeSave (s : State) (id : Nat) (c : Crew) (a : Nat) : State :=
  let y := saveLayout c.kernel
  let w := c.words
  let co := s.core c.core
  let m := memClear s.mem a y.size
  let m := memWrite m a (leBytes 256 (saveHeader s id c))
  let m := c.s.foldl (fun m e => if e.1 < c.kernel.scount then memWrite m (a + 256 + 8 * e.1) (wordBytes e.2.saved) else m) m
  let m := (List.range 16).foldl (fun m i =>
    memWrite m (a + y.op + 4 * w * i) (leBytes (4 * w) (c.pAt i).toNat)) m
  let m := c.k.foldl (fun m e => memWrite m (a + y.ok + 8 * e.1) (wordBytes e.2)) m
  let m := c.t.foldl (fun m e => memWrite m (a + y.ot + 32 * e.1) (leBytes 32 e.2.toNat)) m
  let m := memWrite m (a + y.om) ((List.range c.lanes).map (splitMapByte c))
  let m := (List.range 16).foldl (fun m i =>
    memWrite m (a + y.oe + 32 * i) (leBytes 32 (splitEntryImage (tabGet c.splits i)))) m
  let m := (List.range 16).foldl (fun m i =>
    memWrite m (a + y.od + 16 * i) (leBytes 16 (divImage (tabGet c.divs i)))) m
  let m := c.v.foldl (fun m e =>
    let n := e.1 / 1024
    let l := e.1 % 1024
    if n < c.kernel.vcount && l < c.lanes then
      memWrite m (a + y.ov + (n * w + l / 32) * 256 + 8 * (l % 32)) (wordBytes e.2.saved)
    else m) m
  let m := writeTiles m co c a
  (lostPlaces c a ++ lostPairs co c a).foldl (fun s p => poisonRange s p 8)
    (unitNote (unitMem s a y.size m) a y.size true)

/-- The outcome of a search for a save slot (R90, R400). -/
inductive SlotRes where
  | slot (n : Nat)
  | noSlot
  | badArea
  deriving DecidableEq, Repr

/-- A slot of a crew's context lies in HBM and holds the crew (Table 23-6, 0x54). -/
def areaFits (s : State) (c : Crew) (n : Nat) : Bool :=
  let d := s.desc c.ctx
  let a := slotAddr s c.ctx n
  let z := (saveLayout c.kernel).size
  n < d.savecnt && z ≤ 256 * d.saveslot && isHbm a && isHbm (a + z - 1) && a % 256 == 0

/-- The slot that a crew saves into: its own, or the lowest free one (Table 23-6, 0x52 and 0x54). -/
def findSlot (s : State) (c : Crew) : SlotRes :=
  let d := s.desc c.ctx
  let used := (s.ctx c.ctx).slots
  let n := match c.slot with
    | some n => some n
    | none => (List.range d.savecnt).find? (fun k => !used.contains k)
  match n with
  | none => if d.savecnt == 0 then .badArea else .noSlot
  | some n => if areaFits s c n then .slot n else .badArea

/-- The context timestamp rises to a crew's (R118). -/
def raiseCtx (s : State) (ctx pts : Nat) : State :=
  s.modCtx ctx (fun x => { x with timestamp := max x.timestamp pts })

/-- The registers of a crew leave its partition: what a saved crew keeps is in its area (R88). -/
def Crew.emptied (c : Crew) : Crew := { c with v := [], s := [], p := [], k := [], t := [], lost := [], obl := [], flags := 0 }

/-- A split's entry as it waits in the save area: a waiting instruction is executed again (R86). -/
def Split.asSaved (x : Split) : Split :=
  match x.state with
  | .joinWait | .contWait => { x with clause := none }
  | .monitorWait | .binWait => { x with clause := none }
  | _ => { x with state := .ready, left := 0, clause := none, wait := none }

/-- A crew uses the tiles bound to it: on its partition, or held Saved by itself (R178, R376). One that is swapped out
or pre-empted keeps its tiles, but others use them until it returns (R67, R74, Table 03-4). (DEDUCED, log 51) -/
def Crew.usesTiles (c : Crew) : Bool := !c.tilesLent && (c.onCore || c.state == .saved)

/-- Saves a crew into a slot and takes it off its partition (R85, R90): its state afterwards is the caller's. -/
def saveInto (s : State) (id n : Nat) (c : Crew) (st : CrewState) : State :=
  -- nothing but the area keeps the timestamps of completed engine work and of reductions (R88, R116, R120)
  let s := joinAll s id
  let red := ((s.crew id).map Crew.pts).getD 0
  let c := { c with slot := some n, pts := max red (max c.pts c.engTs), engTs := 0, redTs := 0 }
  let s := s.modCtx c.ctx (fun x => { x with slots := setAdd x.slots n })
  -- a request that no write-back or exchange has answered is made anew when its form is executed again (R267)
  let s := s.modCore c.core (fun x => { x with reqs := x.reqs.filter (fun r => r.crew != id || r.captured) })
  let s := writeSave s id c (slotAddr s c.ctx n)
  let s := raiseCtx s c.ctx c.pts
  let c1 := { c.emptied with state := st, tilesLent := c.tilesLent || c.hold == .none || c.hold == .leave,
                             hold := if c.hold == .leave then .none else c.hold, drain := c.state == .draining || c.drain,
                             splits := c.splits.map (fun e => (e.1, e.2.asSaved)) }
  s.setCrew id c1

/-- Frees a crew's slot: `SVALID` becomes 0 (R90). -/
def freeSlot (s : State) (c : Crew) : State :=
  match c.slot with
  | none => s
  | some n =>
    let a := slotAddr s c.ctx n + offSvalid
    let s := pokeNat s a 1 (rawNat s a 1 &&& 0xEF)
    s.modCtx c.ctx (fun x => { x with slots := setDel x.slots n })

/-- A 57-bit address with bits 1:0 zero from a divergence record (Table 04-5). -/
def resumeOf (rec : Nat) : Nat :=
  let v := 4 * bitsOf rec 127 73
  if v.testBit 56 then v + (2 ^ 64 - 2 ^ 57) else v

/-- Splits and divergences from a save area (R86, R88); every split of a crew that comes back from a fault is Ready
(R378). -/
def restoreSplits (c : Crew) (mapB : List Nat) (ents recs : List Nat) (clock : Nat) (faulted : Bool) : Crew :=
  let lanesWith : (Nat → Bool) → Mask := fun p =>
    BitVec.ofNat 1024 ((List.range mapB.length).foldl (fun m l => if p (mapB.getD l 0) then m + 2 ^ l else m) 0)
  let divs : Tab Divergence := (List.range 16).filterMap (fun i =>
    let r := recs.getD i 0
    if r == 0 then none
    else
      let enc := bitsOf r 71 64
      let ser := r.testBit 72
      let waiting := lanesWith (fun b => b / 32 == 6 && b % 16 == i)
      let arrived := lanesWith (fun b => b / 32 == 7 && b % 16 == i)
      some (i, { joinPc := bitsOf r 63 0, enclosing := if enc < 16 then some enc else none, serial := ser,
                 resume := if ser && waiting != 0 then some (resumeOf r) else none,
                 waiting := waiting, arrived := arrived }))
  let splits : Tab Split := (List.range 16).filterMap (fun i =>
    let r := ents.getD i 0
    let code := bitsOf r 71 64
    let inn := bitsOf r 79 72
    let flag := bitsOf r 83 80
    let mask := lanesWith (fun b => b / 64 == 2 && b % 16 == i)
    if code == 10 || mask == 0 then none
    else
      let st : SplitState :=
        if faulted then .ready
        else if code == 4 then .joinWait
        else if code == 8 && !c.flags.getLsbD flag then .contWait
        else .ready
      some (i, { pc := bitsOf r 63 0, mask := mask, state := st,
                 innermost := if inn < 16 && (tabGet divs inn).isSome then some inn else none, clause := none,
                 awaitFlag := flag, wait := none, gang := 0, age := clock, waited := 0, left := 0, away := [], groups := [] }))
  { c with splits := splits, divs := divs }

/-- The launch that a saved header names: the crew's own, or another one of its context (Table 04-6). -/
def launchNamed (s : State) (c : Crew) (ring seq : Nat) : Option Nat :=
  let named : Nat × Launch → Bool := fun e => e.2.ring == ring && e.2.seq == seq && e.2.ctx == c.ctx
  match c.launch.bind (fun l => (s.launch l).map (fun x => (l, x))) with
  | some e => if named e then some e.1 else (s.launches.find? named).map Prod.fst
  | none => c.launch

/-- A crew read back from its save area (R88, R89): its names, registers, flags, splits and divergences from the
regions alone; `ROWC` is the core's (`restoreRows`), `CORE` and `PART` are read before the crew has its place (`placeNamed`).
(DEDUCED, log 42) -/
def readSave (s : State) (c : Crew) (a : Nat) : Crew :=
  let y := saveLayout c.kernel
  let w := c.words
  let h := rawNat s a 256
  let nat : Nat → Nat → Nat := fun o n => rawNat s (a + o) n
  let words : Nat → Nat → Tab RegVal := fun o n =>
    (List.range n).filterMap (fun i =>
      let v := nat (o + 8 * i) 8
      if v == 0 then none else some (i, .live (BitVec.ofNat 64 v)))
  let v : Tab RegVal := (List.range (c.kernel.vcount * w * 32)).filterMap (fun i =>
    let n := i / (32 * w)
    let l := i % (32 * w)
    let x := nat (y.ov + (n * w + l / 32) * 256 + 8 * (l % 32)) 8
    if x == 0 then none else some (1024 * n + l, .live (BitVec.ofNat 64 x)))
  let obl : Tab Nat := (List.range 12).filterMap (fun n =>
    let k := bitsOf h (783 + 16 * n) (768 + 16 * n)
    if k == 0 then none else some (n, k))
  let gangs := (List.range c.gangs.length).filterMap (fun g =>
    (c.gangs[g]?).map (fun x => { x with phase := bitsOf h (287 + 32 * g) (256 + 32 * g) }))
  let lode := bitsOf h 395 392
  let c := { c with
    kernel := { c.kernel with kobj := bitsOf h 63 0, width := bitsOf h 98 96 }
    index := bitsOf h 95 64
    launch := if h.testBit 982 then c.launch else launchNamed s c (bitsOf h 981 976) (bitsOf h 1023 992)
    bin := if h.testBit 982 then c.bin.map (fun b => (bitsOf h 999 992, b.2)) else c.bin
    s := words 256 c.kernel.scount
    p := (List.range 15).map (fun i => (i, BitVec.ofNat 1024 (nat (y.op + 4 * w * i) (4 * w))))
    k := (List.range 16).map (fun i => (i, BitVec.ofNat 64 (nat (y.ok + 8 * i) 8)))
    t := (List.range 16).map (fun i => (i, BitVec.ofNat 256 (nat (y.ot + 32 * i) 32)))
    v := v
    flags := BitVec.ofNat 12 (bitsOf h 119 108)
    obl := obl
    pts := bitsOf h 191 128
    sticky := BitVec.ofNat 32 (bitsOf h 223 192)
    fpctl := BitVec.ofNat 32 (bitsOf h 255 224)
    gangs := gangs
    lode := if lode == 0 then none else some (lode, bitsOf h 991 983 + 1)
    uintEn := h.testBit 396
    uintPend := h.testBit 397
    uintRun := h.testBit 398
    drain := h.testBit 973 }
  let bytes := (List.range c.lanes).map (fun l => nat (y.om + l) 1)
  let ents := (List.range 16).map (fun i => nat (y.oe + 32 * i) 32)
  let recs := (List.range 16).map (fun i => nat (y.od + 16 * i) 16)
  restoreSplits c bytes ents recs s.clock (c.hold == .fault)

/-- A crew that is out with the core and the partition that its area's header names (R90). -/
def placeNamed (s : State) (c : Crew) : Crew :=
  match c.out, c.slot with
  | true, some n =>
    let h := rawNat s (slotAddr s c.ctx n) 128
    { c with core := bitsOf h 968 960, part := bitsOf h 971 969 }
  | _, _ => c

/-- The row counters that a returning crew names take the values of its area, unless a crew of its launch or a hoist
command has stayed on the core and counted on (R77, R88). -/
def restoreRows (s : State) (id : Nat) (c : Crew) (a : Nat) : State :=
  let stays := (s.core c.core).hoist.any (fun h => ((s.crew h.2.crew).bind Crew.launch) == c.launch) ||
    s.crews.any (fun e => e.1 != id && e.2.launch == c.launch && e.2.core == c.core && (e.2.onCore || e.2.hold != .none))
  if stays || c.launch.isNone || c.hold != .none then s
  else
    s.modCore c.core (fun co => { co with ctrs := co.ctrs.map (fun r =>
      if c.kernel.rowctr.getLsbD r.1 && some r.2.launch == c.launch then
        (r.1, { r.2 with value := BitVec.ofNat 32 (rawNat s (a + 64 + 4 * r.1) 4) })
      else r) })

/-- The area of a crew holds a poisoned granule (0x53). -/
def saveAreaBad (s : State) (c : Crew) (a : Nat) : Bool :=
  !(s.poison.isEmpty && s.latent.isEmpty) && (List.range ((saveLayout c.kernel).size / 32)).any (fun i => granuleBad s (a + 32 * i))

/-- The read of a crew's area finds errors in it; its `PATH` is taken as that of a crew's load (DEDUCED, log 34). -/
def foundArea (s : State) (c : Crew) (a : Nat) : State := detect s a (saveLayout c.kernel).size ⟨0, none, 0, none⟩

/-- Free physical tiles of a core (R74). -/
def freeTiles (s : State) (core : Nat) : List Nat :=
  let used := s.crews.flatMap (fun e => if e.2.core == core && e.2.usesTiles then e.2.acc else [])
  (List.range 8).filter (fun t => !used.contains t)

/-- Tiles to bind at a placement: free ones, and first those that no crew that is out will return to. Which of them the
manual leaves open (DESIGN CHOICE, log 81). -/
def newTiles (s : State) (core n : Nat) : List Nat :=
  let kept := s.crews.flatMap (fun e => if e.2.core == core then e.2.acc else [])
  let free := freeTiles s core
  (free.filter (fun t => !kept.contains t) ++ free.filter (fun t => kept.contains t)).take n

/-- The tiles that a crew keeps are its own or free (R74). -/
def tilesBack (s : State) (c : Crew) : Bool :=
  c.usesTiles || c.acc.all (fun t => (freeTiles s c.core).contains t)

/-- An engine instruction of a crew held Saved has written its tiles: its area follows (R88, R376). -/
def syncTiles (s : State) (id : Nat) : State :=
  match s.crew id with
  | none => s
  | some c =>
    match c.state, c.slot with
    | .saved, some n =>
      let a := slotAddr s c.ctx n
      let z := 16384 * c.acc.length
      let o := (saveLayout c.kernel).oa
      let co := s.core c.core
      let psn := (List.range c.acc.length).foldl (fun m j =>
        if co.accPoison.contains (c.acc.getD j 8) then m + 2 ^ j else m) 0
      if z == 0 then s
      else
        let s := unitNote (unitMem s (a + o) z (writeTiles (memClear s.mem (a + o) z) co c a)) (a + o) z true
        let h := rawNat s (a + 49) 2
        pokeNat s (a + 49) 2 (h % 2 ^ 7 + 2 ^ 7 * psn + h / 2 ^ 15 * 2 ^ 15)
    | _, _ => s

/-- Loads a crew's accumulators into tiles, with their marks (R88, R428). -/
def loadTiles (s : State) (c : Crew) (a : Nat) (tiles : List Nat) : State :=
  let y := saveLayout c.kernel
  let psn := bitsOf (rawNat s a 64) 406 399
  let co := s.core c.core
  let keep := co.acc.filter (fun e => !tiles.contains (e.1 / 4096))
  let acc := (List.range tiles.length).foldl (fun t j =>
    (List.range 4096).foldl (fun t e =>
      let v := rawNat s (a + y.oa + 16384 * j + 4 * e) 4
      if v == 0 then t else tabPut t (4096 * tiles.getD j 0 + e) (BitVec.ofNat 32 v)) t) keep
  let marks := (List.range tiles.length).foldl (fun p j =>
    if psn.testBit j then setAdd p (tiles.getD j 0) else setDel p (tiles.getD j 0)) co.accPoison
  let own := tiles.foldl (fun t j => tabPut t j c.ctx) co.accCtx
  let lost := co.accLost.filter (fun e => !tiles.contains (e.1 / 2048))
  s.setCore c.core { co with acc := acc, accPoison := marks, accCtx := own, accLost := lost }

/-- The wakes that came while a crew was swapped out: each of its splits that waited goes on after its `waitc` with the
value (R66, R67). -/
def Crew.awoken (c old : Crew) (clock : Nat) : Crew :=
  old.wakes.foldl (fun (c : Crew) k =>
    match (old.split k.entry).bind Split.wait, c.split k.entry with
    | some w, some x =>
      let c := w.ends.foldl (fun (c : Crew) n => c.setS n .dead) c
      let c := c.writeS w.dst k.value
      let c := { c with pts := max c.pts k.wts }
      let c := if k.bad then c.orSticky flagDERR else c
      c.setSplit k.entry { x.freshReady clock with pc := x.pc + 16 }
    | _, _ => c) { c with wakes := [] }

/-- Restores a crew onto its partition (R51, R86, R88). The caller has found its partition free. -/
def restoreFrom (s : State) (id : Nat) (c : Crew) (n : Nat) : State :=
  let a := slotAddr s c.ctx n
  let c1 := readSave s c a
  let s := if c.acc.isEmpty then s else loadTiles s c a c.acc
  let s := restoreRows s id c a
  let st : CrewState := if c1.drain then .draining else .resident
  let c2 : Crew := { c1 with state := st, tilesLent := false, drain := false, hold := .none, woken := false, idleFor := none }
  s.setCrew id (c2.awoken c s.clock)

end Sys2Proof.Machine
end

