-- ==== Sys2Proof/Machine/Life.lean ====
section
/-! DEFINITION. The lives of crews, launches, bins, gangs and contexts: the lamp (R45, R46), row counters (R77),
bins and dependence slots (R38 to R44, R398), completion records (R332), retirement (R26), the end of a crew
(R390, R393) and a context reset (R401). -/

namespace Sys2Proof.Machine

/-- A split at an instruction that waits becomes Ready there, to execute it again (R51, R41). -/
def Split.wakeIf (x : Split) (p : Split → Bool) (clock : Nat) : Split :=
  if p x then x.freshReady clock else x

/-- Wakes splits of a crew. -/
def Crew.wake (c : Crew) (p : Split → Bool) (clock : Nat) : Crew :=
  { c with splits := c.splits.map (fun e => (e.1, e.2.wakeIf p clock))
           idleFor := if c.splits.any (fun e => p e.2) then none else c.idleFor }

/-- The crew becomes the holder: its splits in Lamp wait are Ready (Table 03-3). What the passer accessed before, up to a
timestamp, comes before its accesses (R188). -/
def giveLamp (s : State) (core id pts : Nat) : State :=
  let s := raisePts (s.modCore core (fun c => { c with holder := some id })) id pts
  s.modCrew id (fun c => c.wake (fun x => x.state == SplitState.lampWait) s.clock)

/-- Zeroes the macros, keeping type and arrangement (R271, R401 step 4, Table 23-8). -/
def Macros.zeroed (m : Macros) : Macros := { m with cells := [], exps := [], loaded := none }

/-- A crew joins its core's ring; the first to join an empty ring holds the lamp (R45). The macros are zeroed
when the ring passes to another context (Table 23-8). -/
def joinRing (s : State) (core id ctx : Nat) : State :=
  let c := s.core core
  if c.ring.contains id then s
  else
    let stale := match c.macros.loaded with
      | some o => o != ctx
      | none => false
    let m := if c.ring.isEmpty && stale then c.macros.zeroed else c.macros
    let s := s.setCore core { c with ring := c.ring ++ [id], macros := m }
    if c.ring.isEmpty then giveLamp s core id 0 else s

/-- The member after another in ring order (R46). -/
def ringNext (ring : List Nat) (id : Nat) : Nat :=
  match ring.findIdx? (fun x => x == id) with
  | some i => ring.getD ((i + 1) % ring.length) id
  | none => ring.headD id

/-- `lamp.pass` (R46): a sole member keeps the lamp. -/
def passLamp (s : State) (core : Nat) : State :=
  let c := s.core core
  match c.holder with
  | none => s
  | some h =>
    if c.ring.length ≤ 1 then s
    else giveLamp s core (ringNext c.ring h) (((s.crew h).map Crew.pts).getD 0)

/-- A member leaves the ring; a holder passes the lamp first (R45, R46). -/
def leaveRing (s : State) (core id : Nat) : State :=
  if !(s.core core).ring.contains id then s
  else
    let s := if (s.core core).holder == some id then passLamp s core else s
    let c := s.core core
    let h := if c.holder == some id then none else c.holder
    s.setCore core { c with ring := setDel c.ring id, holder := h }

/-- What a crew's row counters are held under: its launch, or for a crew of a bin the crew itself (R77). -/
def ctrKey (id : Nat) (c : Crew) : Nat :=
  match c.launch with
  | some l => l
  | none => 2 ^ 32 + id

/-- Each counter that a kernel names is free or held under its key (R77). -/
def ctrsFree (s : State) (core key : Nat) (mask : BitVec 8) : Bool :=
  (List.range 8).all (fun i => !mask.getLsbD i ||
    (match tabGet (s.core core).ctrs i with
      | none => true
      | some r => r.launch == key))

/-- Takes the counters that a kernel names, at 0 where they were free (R77). -/
def takeCtrs (s : State) (core key : Nat) (mask : BitVec 8) : State :=
  s.modCore core (fun c => { c with ctrs := (List.range 8).foldl (fun t i =>
    if mask.getLsbD i && (tabGet t i).isNone then tabPut t i ⟨key, 0, 0⟩ else t) c.ctrs })

/-- The crew counts as resident or saved on its core (R77). -/
def Crew.there (c : Crew) : Bool :=
  match c.state with
  | .resident | .draining | .swappedOut | .halted | .saved => true
  | _ => false

/-- Frees the counters held under a key that no crew on the core keeps (R77). -/
def dropCtrs (s : State) (core key : Nat) : State :=
  if s.crews.any (fun e => e.2.core == core && e.2.there && ctrKey e.1 e.2 == key) then s
  else s.modCore core (fun c => { c with ctrs := c.ctrs.filter (fun r => r.2.launch != key) })

/-- Base of a ring in the command window, its modulus, and its counters (R327). -/
def ringModulus : Nat := 0xE0000000
def ringCdone (s : State) (r : Nat) : Nat := rawNat s (ringBase r + 0x3804) 4
def ringDiff (a b : Nat) : Nat := (a + ringModulus - b % ringModulus) % ringModulus

/-- The I/O core that serves a ring: the one bound, or the lowest live one of its chiplet (R445). -/
def servedBy (s : State) (ring : Nat) : Option Nat :=
  let io := (s.binding ring).iocore
  if !s.ioDown.contains io then some io
  else ((List.range 16).map (fun i => io / 16 * 16 + i)).find? (fun i => !s.ioDown.contains i)

/-- What a ring's I/O core stores, it stores at its own program timestamp (R111, R114). -/
def byIoCore (s : State) (r : Nat) (f : State → State) : State :=
  let key := 48 + (servedBy s r).getD (s.binding r).iocore
  let own := (tabGet s.outerPts key).getD 0
  let t := f { s with unitPts := own }
  { t with outerPts := tabPut t.outerPts key (max own t.unitPts), unitPts := s.unitPts }

/-- A ring's I/O core loads bytes of the command window, which lie on coherent pages (R112, R115, R327). -/
def ioLoad (s : State) (r pa n : Nat) : State :=
  byIoCore s r (fun s =>
    let q := ownerLoad (detect s pa n ⟨11, none, 0, none⟩) s.unitPts pa n none
    countPoisonRead { q.2.2.2 with unitPts := max s.unitPts q.2.1 } ((s.binding r).iocore / 16 % 4) q.1.2)

/-- The I/O core rewrites the head line (R442, Table 26-2). -/
def writeHead (s : State) (r : Nat) : State :=
  let x := s.ring r
  byIoCore s r (fun s => unitWrite s (ringBase r + 0x3880)
    (leBytes 128 (x.head + atBit 32 x.cnext + atBit 64 (x.lost % 2 ^ 32) + atBit 96 (x.anom % 2 ^ 32))))

/-- Writes completion record `CNEXT` and then `CNEXT` (R332, R397); `clock` is that of the completion. -/
def putCompletion (s : State) (r : Nat) (seq ctag status ptype reason clock : Nat) : State :=
  let s := ioLoad s r (ringBase r + 0x3800) 8
  let k := (s.ring r).cnext
  let v := k + atBit 32 seq + atBit 64 ctag + atBit 96 status + atBit 104 ptype + atBit 112 reason +
    atBit 128 (clock % 2 ^ 64)
  -- at a timestamp no lower than what the context's crews have published (R118)
  let s := byIoCore s r (fun s =>
    unitWrite { s with unitPts := max s.unitPts (s.ctx (s.binding r).ctx).timestamp }
      (ringBase r + 0x3900 + 32 * (k % 56)) (leBytes 32 v))
  writeHead (s.modRing r (fun x => { x with cnext := (k + 1) % ringModulus })) r

/-- `CDONE` stands beyond `CNEXT` (code 0x63 of Table 26-3). -/
def cdoneAhead (s : State) (r : Nat) : Bool :=
  let d := ringDiff (ringCdone s r) (s.ring r).cnext
  0 < d && d < 0x70000000

/-- There is room for the next completion record (R332); a `CDONE` beyond `CNEXT` is taken as `CNEXT` (R444). -/
def completionRoom (s : State) (r : Nat) : Bool :=
  cdoneAhead s r || ringDiff (s.ring r).cnext (ringCdone s r) < 56

/-- A packet completes: its record is written, or held while the area is full (R332) or no I/O core serves the ring
(R445). A packet of an earlier binding of
the ring is none that the ring's commands wait for (R330). -/
def complete (s : State) (r epoch : Nat) (seq ctag status ptype reason : Nat) : State :=
  let s := s.modRing r (fun x => if x.epoch == epoch then { x with open_ := x.open_ - 1 } else x)
  if (s.ring r).held.isEmpty && completionRoom s r && (servedBy s r).isSome then putCompletion s r seq ctag status ptype reason s.clock
  else s.modRing r (fun x => { x with held := x.held ++ [(seq, ctag, status, ptype, reason, s.clock)] })

/-- Whether a context is active (R18). -/
def ctxLives (s : State) (ctx : Nat) : Bool := s.crews.any (fun e => e.2.ctx == ctx && e.2.there)

def settleCtx (s : State) (ctx : Nat) : State :=
  s.modCtx ctx (fun x => { x with active := x.active && ctxLives s ctx })

/-- An access that a crew of the launch made beyond the module is still to be performed there (R55, R131). -/
def launchAwaits (s : State) (l : Nat) : Bool :=
  s.exts.any (fun e => ((s.crew e.2.crew).bind Crew.launch) == some l)

/-- The launch has no crew left, and every access of its crews has been performed: its completion record is written
(R55, R397). -/
def settleLaunch (s : State) (l : Nat) : State :=
  match s.launch l with
  | none => s
  | some x =>
    if x.done || x.retired.length + x.ended < x.ncrew || launchAwaits s l then s
    else
      let s := s.modLaunch l (fun x => { x with done := true })
      complete s x.ring x.epoch x.seq x.ctag (if x.ended == 0 then 0 else 1) 1 0

/-- Number of crew index `c`'s rank in a gang table entry, if it is a member (R34). -/
def GangEntry.rank (g : GangEntry) (c : Nat) : Option Nat :=
  if g.stride != 0 && g.first ≤ c && (c - g.first) % g.stride == 0 && (c - g.first) / g.stride < g.count then
    some ((c - g.first) / g.stride)
  else none

def GangEntry.members (g : GangEntry) : List Nat := (List.range g.count).map (fun j => g.first + j * g.stride)

/-- The crew of a launch with an index. -/
def crewOf (s : State) (launch index : Nat) : Option (Nat × Crew) :=
  s.crews.find? (fun e => e.2.launch == some launch && e.2.index == index)

/-- A member has arrived at a phase of a gang (R36): retired, or past the phase, or arrived at it. -/
def arrivedAt (s : State) (launch : Nat) (x : Launch) (table phase index : Nat) : Bool :=
  if x.retired.contains index then true
  else
    match crewOf s launch index with
    | none => false
    | some (_, c) =>
      -- a crew whose last lane has exited counts as arrived while it drains (R183)
      if c.splits.isEmpty && c.state != .pending && c.state != .retired then true
      else
      match c.gangs.find? (fun g => g.table == table) with
      | none => false
      | some g => phase < g.phase || (g.phase == phase && g.arrived)

/-- Every member has arrived at a phase. -/
def allArrived (s : State) (launch table phase : Nat) : Bool :=
  match s.launch launch with
  | none => true
  | some x =>
    match x.gtab[table]? with
    | none => true
    | some g => g.members.all (fun i => arrivedAt s launch x table phase i)

def gangState (x : Launch) (table : Nat) : Gang :=
  (tabGet x.gangs table).getD { broken := false, issues := [], joined := [], pts := [] }

def isBroken (s : State) (launch table : Nat) : Bool :=
  match s.launch launch with
  | some x => (gangState x table).broken
  | none => false

/-- The accesses of a member up to a timestamp come before what any member does after a phase (R36, R254). -/
def gangTs (s : State) (launch table phase pts : Nat) : State :=
  s.modLaunch launch (fun x =>
    let g := gangState x table
    let k := phase % 2
    { x with gangs := tabPut x.gangs table { g with pts := tabPut g.pts k (max ((tabGet g.pts k).getD 0) pts) } })

/-- The timestamp at which a phase of a gang is complete. -/
def gangPts (s : State) (launch table phase : Nat) : Nat :=
  match s.launch launch with
  | some x => (tabGet (gangState x table).pts (phase % 2)).getD 0
  | none => 0

/-- Members of a launch in Gang wait on a gang become Ready at their instruction, to execute it again. -/
def wakeGang (s : State) (launch table : Nat) : State :=
  { s with crews := s.crews.map (fun e =>
      if e.2.launch == some launch && !e.2.out then
        (e.1, e.2.wake (fun x => x.state == .gangWait && x.gang == table) s.clock)
      else e) }

/-- After an arrival, the members whose wait is over become Ready (R36). -/
def checkGang (s : State) (launch table phase : Nat) : State :=
  if allArrived s launch table phase then wakeGang s launch table else s

/-- A gang becomes broken (R393). -/
def breakGang (s : State) (launch table : Nat) : State :=
  let s := s.modLaunch launch (fun x =>
    { x with gangs := tabPut x.gangs table { gangState x table with broken := true } })
  wakeGang s launch table

/-- Requests and monitors of a crew that is gone are dropped. -/
def dropMonitors (s : State) (p : Monitor → Bool) : State :=
  { s with slices := s.slices.map (fun e => (e.1, { e.2 with monitors := e.2.monitors.filter (fun m => !p m) })) }

/-- The adoptions of a crew end; its mappings stay (R103). -/
def dropAdopter (s : State) (core id : Nat) : State :=
  s.modCore core (fun c => { c with maps := c.maps.map (fun e => (e.1, { e.2 with adopters := setDel e.2.adopters id })) })

/-- What retirement and the end of a crew release alike (R26, R390 step 5). -/
def releaseCrew (s : State) (id : Nat) (c : Crew) : State :=
  let s := joinAll s id
  let s := raiseCtx s c.ctx (max (((s.crew id).map Crew.pts).getD 0) (max c.pts c.engTs))
  let s := if c.there then leaveRing s c.core id else s
  let s := dropAdopter s c.core id
  let s := freeSlot s c
  let s := dropMonitors s (fun m => m.crew == id)
  let gone := { c.emptied with acc := [], state := .retired, splits := [], divs := [], slot := none, reserve := none }
  let s := s.setCrew id gone
  let s := dropCtrs s c.core (ctrKey id c)
  settleCtx s c.ctx

/-- A crew counts as arrived at every later phase of its gangs: the members that this releases are Ready (R26,
R36, R183). -/
def gangRelief (s : State) (l : Nat) (gangs : List GangName) : State :=
  gangs.foldl (fun s g =>
    match s.launch l with
    | none => s
    | some x =>
      match x.gtab[g.table]? with
      | none => s
      | some e =>
        e.members.foldl (fun s i =>
          match crewOf s l i with
          | none => s
          | some (_, m) =>
            match m.gangs.find? (fun y => y.table == g.table) with
            | none => s
            | some y => if y.arrived then checkGang s l g.table y.phase else s) s) s

/-- A crew retires (R26): it counts as arrived at every later phase of its gangs. -/
def retireCrew (s : State) (id : Nat) : State :=
  let s := joinAll s id
  match s.crew id with
  | none => s
  | some c =>
    let s := releaseCrew s id c
    match c.launch with
    | none => s
    | some l =>
      let s := s.modLaunch l (fun x => { x with retired := setAdd x.retired c.index })
      let s := c.gangs.foldl (fun s g => gangTs (gangTs s l g.table 0 c.pts) l g.table 1 c.pts) s
      let s := gangRelief s l c.gangs
      settleLaunch s l

/-- A crew has work outstanding that Draining waits for (R183). -/
def crewBusy (s : State) (id : Nat) : Bool :=
  match s.crew id with
  | none => false
  | some c =>
    c.svcOut != 0 || (s.core c.core).hoist.any (fun h => h.2.crew == id) ||
      (s.core c.core).eng.any (fun e => e.crew == id)

/-- To end a crew (R390), and with it to break its resident gangs (R393). A stranded crew is not ended (R439). -/
def endCrew (s : State) (id : Nat) : State :=
  match s.crew id with
  | none => s
  | some c =>
    if c.state == .retired || c.stranded then s
    else
      let s := s.modCore c.core (fun x => { x with
        hoist := x.hoist.filter (fun h => h.2.crew != id)
        eng := x.eng.filter (fun e => e.crew != id) })
      let s := releaseCrew s id c
      match c.launch with
      | none => s
      | some l =>
        let s := c.gangs.foldl (fun s g =>
          match s.launch l with
          | some x => if ((x.gtab[g.table]?).map GangEntry.res).getD false then breakGang s l g.table else s
          | none => s) s
        let s := s.modLaunch l (fun x => { x with ended := x.ended + 1 })
        settleLaunch s l

/-- A bin's number in its context, its depth and its untaken depth (R38). -/
def binKey (node die : Nat) : Nat := 4 * node + die
def getBin (s : State) (ctx node die : Nat) : Bin := (tabGet (s.ctx ctx).bins (binKey node die)).getD Bin.reset
def setBin (s : State) (ctx node die : Nat) (b : Bin) : State :=
  s.modCtx ctx (fun x => { x with bins := tabPut x.bins (binKey node die) b })
def Bin.depth (b : Bin) : Nat := b.records.length
def Bin.untaken (b : Bin) : Nat := b.records.length - b.taken

/-- Record size and coalescing count of a node (Table 02-4). -/
def Node.recSize (n : Node) : Nat := 16 * (n.rsize + 1)
def Node.coalesce (n : Node) : Nat := 32 * 2 ^ n.coal

/-- A crew before its placement (R22, R40). -/
def Crew.fresh (ctx index : Nat) (launch : Option Nat) (bin : Option (Nat × Nat)) (records : List (List Byte))
    (k : Kernel) (prio clock : Nat) : Crew :=
  { ctx := ctx, index := index, launch := launch, bin := bin, records := records, kernel := k, core := 0,
    part := 0, state := .pending, prio := prio, v := [], s := [], p := [], k := [], t := [], acc := [], tilesLent := false,
    flags := 0, obl := [], fpctl := 0, sticky := 0, uintEn := false, uintPend := false, uintRun := false,
    handler := none, pts := 0, engTs := 0, redTs := 0, lost := [], splits := [], divs := [], gangs := [], lode := none, slot := none,
    wdogCount := 0, hold := .none, pendBrk := [], woken := false, wakes := [], stranded := false, claimedAt := clock, placedAt := 0,
    warmDone := false, stallNoted := false, reserve := none, svcOut := 0, idleFor := none, drain := false }

/-- A bin launches a crew with its oldest untaken records (R39). -/
def binLaunch (s : State) (ctx node die : Nat) (nd : Node) : State :=
  let b := getBin s ctx node die
  let n := min b.untaken (32 * 2 ^ nd.kernel.width)
  let recs := (b.records.drop b.taken).take n
  let id := s.fresh
  let c := Crew.fresh ctx 0 none (some (node, die)) recs nd.kernel nd.prio s.clock
  let left := b.untaken - n
  let timer := if left == 0 then none else some (s.clock + 64 * nd.timer)
  setBin (id.2.setCrew id.1 c) ctx node die { b with taken := b.taken + n, timer := timer }

/-- The bin's node, when the table holds it. -/
def nodeOf (s : State) (ctx node : Nat) : Option Node := (s.ctx ctx).nodes[node]?

/-- Launches while the coalescing count is reached, or while a timer of 0 finds a record (R37, R39). Launches
wait while the context is pre-empted (R70). -/
def binFire (fuel : Nat) (s : State) (ctx node die : Nat) : State :=
  match fuel with
  | 0 => s
  | fuel + 1 =>
    match nodeOf s ctx node with
    | none => s
    | some nd =>
      let u := (getBin s ctx node die).untaken
      if (s.ctx ctx).preempt != .no || u == 0 then s
      else if nd.coalesce ≤ u || nd.timer == 0 then binFire fuel (binLaunch s ctx node die nd) ctx node die
      else s

def nodeFailed (s : State) (ctx node : Nat) : Bool := (s.ctx ctx).failed.contains node

/-- The spawners that wait for a bin are Ready again, to execute their `spawn` anew, and its crews return to their
priority (R41). -/
def wakeSpawners (s : State) (ctx node die : Nat) : State :=
  let s := setBin s ctx node die { getBin s ctx node die with raised := false }
  let here : Split → Bool := fun x => x.state == .binWait && x.gang == node
  { s with crews := s.crews.map (fun e =>
      if e.2.ctx == ctx && dieOfCore e.2.core == die then
        if e.2.state == .swappedOut then
          (e.1, if e.2.splits.any (fun x => here x.2) then { e.2 with woken := true, idleFor := none } else e.2)
        else (e.1, e.2.wake here s.clock)
      else e) }

/-- A fire that was held is no longer outside its bin (R44). -/
def fireEnters (s : State) (hpa : Nat) : State := pokeNat s (hpa + 4) 1 (rawNat s (hpa + 4) 1 &&& 0xFB)

/-- A node fails (R398): its bins' records are discarded and counted, also those that launches have taken and that stay in
the bin until their crews are placed (R68), whose crews go with them; and one record is written. Held fires are discarded
as deposits that come later are, and its blocked spawners go on. (DEDUCED, log 77) -/
def failNode (s : State) (ctx node die : Nat) : State :=
  let s := (List.range 4).foldl (fun s d =>
    let b := getBin s ctx node d
    let s := if b.records.isEmpty then s else errCounts s d 16 b.records.length
    let s := b.heldFires.foldl (fun s f => errCount (fireEnters s f.1) d 16) s
    let s := setBin s ctx node d { b with records := [], taken := 0, timer := none, heldFires := [] }
    wakeSpawners s ctx node d) s
  let s := { s with crews := s.crews.filter (fun e =>
    !(e.2.state == CrewState.pending && e.2.ctx == ctx && (e.2.bin.map Prod.fst) == some node)) }
  let s := s.modCtx ctx (fun x => { x with failed := setAdd x.failed node })
  errRecord s die
    { cls := 16, sev := 0, addr := none, vaddr := none, who := some (ctx, 0), ukind := 0, unit := 128 * die,
      info := 0x31 + 256 * node, split := 0, slot := none }

/-- A record spills into the ring at a place and in a form that the manual leaves open (R38, DESIGN CHOICE log 11). None when
the ring does not translate with `W`, or the write meets poison (R398). -/
def spillOne (s : State) (ctx die : Nat) (nd : Node) : Option State :=
  let d := s.draw
  let va := nd.ring + (die * nd.cap + Config.freeChoice d.1 % (max nd.cap 1)) * nd.recSize
  match translate d.2 (askDie die) ctx va needW with
  | .error _ => none
  | .ok x =>
    let s := noteXlate d.2 (askDie die) x
    if granuleBad s x.pa then none
    else
      let d := s.draw
      some (unitWrite d.2 x.pa (leBytes 16 (Config.freeWord d.1).toNat))

/-- Spills the records of a unit that find no on-chip room. -/
def spillMany (k : Nat) (s : State) (ctx die : Nat) (nd : Node) : Option State :=
  match k with
  | 0 => some s
  | k + 1 =>
    match spillOne s ctx die nd with
    | none => none
    | some s => spillMany k s ctx die nd

/-- A unit of records enters a bin (R38, R39): the timer starts when the untaken depth was 0. A failed node
discards it (R398). -/
def deposit (s : State) (ctx node die : Nat) (recs : List (List Byte)) : State :=
  match nodeOf s ctx node with
  | none => s
  | some nd =>
    if nodeFailed s ctx node then (List.range recs.length).foldl (fun s _ => errCount s die 16) s
    else
      let b := getBin s ctx node die
      let spills := (b.depth + recs.length - nd.coalesce) - (b.depth - nd.coalesce)
      let timer := if b.untaken == 0 then some (s.clock + 64 * nd.timer) else b.timer
      let s1 := setBin s ctx node die { b with records := b.records ++ recs, timer := timer }
      match spillMany spills s1 ctx die nd with
      | none => failNode s1 ctx node die
      | some s => binFire (recs.length + b.untaken + 1) s ctx node die

/-- The priority at which a crew stands: 7 while its bin is raised (R41, R62). -/
def effPrio (s : State) (c : Crew) : Nat :=
  match c.bin with
  | some (node, die) => if (getBin s c.ctx node die).raised then 7 else c.prio
  | none => c.prio

/-- The bytes of a record in pieces, as its home reads them. -/
def recordBytes (s : State) (segs : List (Nat × Nat)) : List Byte :=
  segs.flatMap (fun g => (readBytes (mergeLine s g.1) g.1 g.2).1)

/-- A dependence slot's fire enters its bin, or is held above `CAP` (R43, R44). `hpa` is the physical address of
its header, `segs` are the pieces of its record. -/
def slotFire (s : State) (ctx node die hpa : Nat) (segs : List (Nat × Nat)) : State :=
  match nodeOf s ctx node with
  | none => s
  | some nd =>
    let b := getBin s ctx node die
    if !nodeFailed s ctx node && nd.cap < b.depth + 1 then
      let h := rawNat s (hpa + 4) 1
      let s := pokeNat s (hpa + 4) 1 (h ||| 4)
      setBin s ctx node die { b with heldFires := b.heldFires ++ [(hpa, segs)] }
    else deposit s ctx node die [recordBytes s segs]

/-- Held fires enter while the depth is below `CAP`, in an order that is left open (R44). -/
def enterHeld (fuel : Nat) (s : State) (ctx node die : Nat) : State :=
  match fuel with
  | 0 => s
  | fuel + 1 =>
    match nodeOf s ctx node with
    | none => s
    | some nd =>
      let b := getBin s ctx node die
      if b.heldFires.isEmpty || nd.cap ≤ b.depth then s
      else
        let d := s.draw
        match pick b.heldFires (Config.freeChoice d.1 % b.heldFires.length) with
        | none => s
        | some ((hpa, segs), rest) =>
          let s := setBin d.2 ctx node die { b with heldFires := rest }
          let s := fireEnters s hpa
          let s := deposit s ctx node die [recordBytes s segs]
          enterHeld fuel s ctx node die

/-- After a bin's depth has fallen (R41, R44, R68): below `LOW` its blocked spawners are Ready again and its
crews return to their priority; held fires enter. -/
def binRelief (s : State) (ctx node die : Nat) : State :=
  match nodeOf s ctx node with
  | none => s
  | some nd =>
    let b := getBin s ctx node die
    let s := if b.depth < nd.low then wakeSpawners s ctx node die else s
    enterHeld (b.heldFires.length) s ctx node die

/-- The records that a placed crew takes leave their bin (R38, R68). -/
def takeRecords (s : State) (c : Crew) : State :=
  match c.bin with
  | none => s
  | some (node, die) =>
    let b := getBin s c.ctx node die
    let n := c.records.length
    let s := setBin s c.ctx node die { b with records := b.records.drop n, taken := b.taken - n }
    binRelief s c.ctx node die

/-- A record of class 16 (R396 to R400). -/
def rec16 (ctx crew sev info : Nat) (vaddr : Option Nat) (slot : Option Nat) (ukind unit : Nat) : ErrRec :=
  { cls := 16, sev := sev, addr := none, vaddr := vaddr, who := some (ctx, crew), ukind := ukind, unit := unit,
    info := info, split := 0, slot := slot }

/-- The launches of a context that have not completed. -/
def openLaunches (s : State) (ctx : Nat) : List Nat :=
  (s.launches.filter (fun e => e.2.ctx == ctx && !e.2.done)).map Prod.fst

/-- Steps 1 and 2 of Table 23-7: pending crews and launches are dropped, the others end. -/
def resetCrews (s0 : State) (ctx : Nat) : State :=
  let s := { s0 with crews := s0.crews.filter (fun e => !(e.2.ctx == ctx && e.2.state == CrewState.pending)) }
  let ids := (s.crews.filter (fun e => e.2.ctx == ctx && e.2.state != CrewState.retired)).map Prod.fst
  let s := (openLaunches s ctx).foldl (fun s l => s.modLaunch l (fun x => { x with done := true })) s
  let s := ids.foldl (fun s id => s.modCrew id (fun c => { c with stranded := false })) s
  let s := ids.foldl (fun s id => endCrew s id) s
  { s with cores := s.cores.map (fun e => (e.1, { e.2 with
      hoist := e.2.hoist.filter (fun h => h.2.ctx != ctx)
      eng := e.2.eng.filter (fun g => g.ctx != ctx) })) }

/-- Step 5 of Table 23-7: the context's mappings are written back and end; a pending `hpub` is discarded
(R418). -/
def resetMaps (s : State) (ctx : Nat) : State :=
  let cores := (s.cores.filter (fun e => e.2.maps.any (fun m => m.2.ctx == ctx))).map Prod.fst
  cores.foldl (fun s core =>
    let es := ((s.core core).maps.filter (fun m => m.2.ctx == ctx)).map Prod.fst
    let s := s.modCore core (fun c => { c with reqs := c.reqs.filter (fun r => !es.contains r.entry) })
    es.foldl (fun s e => endMap s core e none) s) s

/-- A context reset (R401, Table 23-7), recorded in the window of D0 (R400). Its context timestamp is kept. -/
def resetContext (s : State) (ctx cause : Nat) : State :=
  let ls := openLaunches s ctx
  let s := resetCrews s ctx
  -- step 3: monitors are released, bins emptied, held fires dropped
  let s := dropMonitors s (fun m => m.ctx == ctx)
  let s := s.modCtx ctx (fun x => { x with bins := [] })
  let s := resetMaps s ctx
  -- step 7: every launch not completed receives a record
  let s := ls.foldl (fun s l =>
    match s.launch l with
    | some x => complete s x.ring x.epoch x.seq x.ctag 3 1 0
    | none => s) s
  let s := s.modCtx ctx (fun x => { x with
    active := false, preempt := .no, resume := false, slots := [], engSaved := [], reported := [] })
  -- step 8
  errRecord s 0 (rec16 ctx 0 3 cause none none 0 0)

/-- What a restore finds amiss with a crew's area, and resets the context for (Table 23-6): it does not fit the descriptor
(0x54), or a granule of it is poisoned (0x53). -/
def resetAtRestore (s : State) (c : Crew) (n : Nat) : Option State :=
  let a := slotAddr s c.ctx n
  if !areaFits s c n then some (resetContext s c.ctx 0x54)
  else if saveAreaBad s c a then some (resetContext (foundArea s c a) c.ctx 0x53)
  else none

/-- Saves a crew (R85, R90), or resets its context when no slot or no fit area is found (Table 23-6). -/
def saveCrew (s : State) (id : Nat) (st : CrewState) : State :=
  match s.crew id with
  | none => s
  | some c =>
    match findSlot s c with
    | .slot n => saveInto s id n c st
    | .noSlot => resetContext s c.ctx 0x52
    | .badArea => resetContext s c.ctx 0x54

end Sys2Proof.Machine
end

