-- ==== Sys2Proof/Machine/Ops.lean ====
section
/-! DEFINITION. Room on cores and partitions (Table 02-2, R25, R77, R104), taking an instruction exception
(R374 to R377, R379) and the return from one (R378). -/

namespace Sys2Proof.Machine

/-- The crew occupies its partition (Table 02-2, R104). -/
def Crew.charged (c : Crew) : Bool :=
  match c.state with
  | .resident | .draining | .halted => true
  | _ => false

/-- Bytes of vector registers of a kernel. -/
def Kernel.vbytes (k : Kernel) : Nat := 32 * 2 ^ k.width * k.vcount * 8

/-- Header stash bytes, rounded (Table 04-4). -/
def Kernel.stashBytes (k : Kernel) : Nat := (k.stash + 127) / 128 * 128

/-- The sum of a number over the crews that satisfy a test. -/
def sumCrews (s : State) (p : Nat → Crew → Bool) (f : Crew → Nat) : Nat :=
  s.crews.foldl (fun n e => if p e.1 e.2 then n + f e.2 else n) 0

/-- Stash bytes of mappings that no charged crew's `STASH` covers, leaving out those that could be evicted
(R104). The charge of the crew that takes its place, `own`, covers those that it has adopted. -/
def mappedBytes (s : State) (core own : Nat) (evictable : Bool) : Nat :=
  (s.core core).maps.foldl (fun n e =>
    let covered := e.2.adopters.any (fun a => a == own ||
      (match s.crew a with
        | some c => c.charged
        | none => false))
    if covered || (evictable && candidate s core e.1 e.2) then n else n + e.2.taken) 0

/-- The partition keeps its rows of Table 02-2 with one more crew of a kernel. -/
def partFits (s : State) (core part : Nat) (k : Kernel) : Bool :=
  let here : Nat → Crew → Bool := fun _ c => c.charged && c.core == core && c.part == part
  sumCrews s here (fun _ => 1) < 8 &&
  sumCrews s here (fun c => c.kernel.vbytes) + k.vbytes ≤ 196608 &&
  sumCrews s here (fun c => c.kernel.scount) + k.scount ≤ 4096

/-- Lamp places of a core: ring members and the places that charged crews hold (R187). -/
def lampPlaces (s : State) (core : Nat) : List Nat :=
  let ring := (s.core core).ring
  let more := (s.crews.filter (fun e => e.2.charged && e.2.core == core && e.2.kernel.lamp != 0)).map Prod.fst
  ring ++ more.filter (fun i => !ring.contains i)

/-- The core keeps its rows of Table 02-2 with one more crew, its row counters and its ring (R25, R77, R187,
R429). `own` is the crew itself; one that returns needs its own tiles (R74), and may return to a harvested engine (R430). -/
def coreFits (s : State) (core own ctx key : Nat) (k : Kernel) : Bool :=
  let here : Nat → Crew → Bool := fun i c => i != own && c.charged && c.core == core
  sumCrews s here (fun _ => 1) < 64 &&
  (match s.crew own with
    | some c => if c.acc.isEmpty then k.accs ≤ (freeTiles s core).length else tilesBack s c
    | none => k.accs ≤ (freeTiles s core).length) &&
  sumCrews s here (fun c => c.kernel.stashBytes) + k.stashBytes + mappedBytes s core own true ≤ 524288 &&
  ctrsFree s core key k.rowctr &&
  (k.lamp == 0 ||
    (let places := (lampPlaces s core).filter (fun i => i != own)
     places.length < 8 &&
     places.all (fun i => match s.crew i with
       | some c => c.ctx == ctx
       | none => true) &&
     (!(s.core core).macros.harvested || (match s.crew own with
       | some c => c.out
       | none => false))))

/-- A router's two cores are down when it is harvested (R436). -/
def coreUp (s : State) (core : Nat) : Bool := !s.coresDown.contains core

/-- A crew that left its partition fits there again (R25, R59). -/
def fitsBack (s : State) (id : Nat) (c : Crew) : Bool :=
  coreUp s c.core && partFits s c.core c.part c.kernel && coreFits s c.core id c.ctx (ctrKey id c) c.kernel

/-- Mappings are evicted until a placement's `STASH` fits (R104). -/
def makeRoom (fuel : Nat) (s : State) (core own : Nat) (k : Kernel) : State :=
  match fuel with
  | 0 => s
  | fuel + 1 =>
    let here : Nat → Crew → Bool := fun _ c => c.charged && c.core == core
    if sumCrews s here (fun c => c.kernel.stashBytes) + k.stashBytes + mappedBytes s core own false ≤ 524288 then s
    else
      match evictionOrder s core k.affin with
      | [] => s
      | e :: _ => makeRoom fuel (endMap s core e.1 none) core own k

/-- A request is a load of a crew (R50); rows of its engine commands wait by themselves, and nothing waits for code
(R399). -/
def Ext.loads (e : Ext) (id : Nat) : Bool :=
  e.crew == id &&
    (match e.kind with
      | .store | .check | .fetch | .unitRead | .unitWrite => false
      | _ => true)

/-- Loads of a crew have left the module and not returned (R50, R399). -/
def awaitsLoads (s : State) (id : Nat) : Bool := s.exts.any (fun e => e.2.loads id)

/-- Posts the break records that wait for the crew's save, in order (R376 step 6). -/
def postBreak (s : State) (id : Nat) : State :=
  match s.crew id with
  | none => s
  | some c =>
    c.pendBrk.foldl (fun s q => queuePost s c.ctx true { q with slot := c.slot.getD 0xFFFF })
      (s.setCrew id { c with pendBrk := [] })

/-- Halts a crew alone and saves it, by `brk` or by a fault, with its break record (R178, R376). While loads of
host memory, peer windows or CXL.io are awaited the crew stays Halted (R50, R399). Hoist commands and engine
instructions that the crew has issued run on: R376 says so of an exception, and for `brk` R178 halts the crew alone and
says nothing of them (DESIGN CHOICE, log 68). -/
def holdCrew (s : State) (id : Nat) (kind : HoldKind) (q : QRecord) : State :=
  match s.crew id with
  | none => s
  | some c =>
    let was := c.state
    let c := { c with hold := kind, pendBrk := c.pendBrk ++ [q], drain := was == CrewState.draining || c.drain }
    if c.out then
      -- a crew already saved or swapped out (Table 22-4)
      postBreak (s.setCrew id { c with state := .saved }) id
    else if awaitsLoads s id then s.setCrew id { c with state := .halted }
    else postBreak (saveCrew (s.setCrew id c) id .saved) id

/-- What an instruction exception carries (R374, R377). -/
structure Trap where
  exc : Exc
  lane : Nat
  va : Option Nat
  pa : Option Nat
  opc : Nat
  pc : Nat
  deferred : Bool
  deriving DecidableEq, Repr

/-- `INFO` of Table 22-3. -/
def Trap.info (t : Trap) (entry : Nat) : Nat :=
  t.exc.code + atBit 8 t.lane + atBit 18 entry + atBit 22 t.opc + atBit 32 (bitNat t.deferred)

/-- `CODE` of Table 22-2. -/
def Trap.brkCode (t : Trap) : Nat := t.exc.code + atBit 8 1 + atBit 9 (bitNat t.deferred)

/-- Codes whose exception is recorded in the error window (R376 step 5). -/
def excRecorded (e : Exc) : Bool :=
  match e with
  | .rxlate | .rperm | .rstash | .rremote => true
  | _ => false

/-- The other requests of an instruction whose exception is taken raise none (R375). -/
def tellExts (s : State) (id entry pc at_ : Nat) : State :=
  { s with exts := s.exts.map (fun x =>
      if x.2.crew == id && x.2.split == entry && x.2.pc == pc && x.2.sentAt == at_ then (x.1, { x.2 with told := true })
      else x) }

/-- Taking an instruction exception (R376): the crew is saved as faulted, the access is recorded, and a break
record goes to the debug queue; without a debug queue the crew is ended. (DEDUCED, log 52) -/
def takeException (s : State) (id entry : Nat) (t : Trap) : State :=
  match s.crew id with
  | none => s
  | some c0 =>
    let die := dieOfCore c0.core
    let queued := (s.desc c0.ctx).dbgq != 0
    let q : QRecord :=
      { kind := 1, split := entry, crewIndex := c0.index, code := t.brkCode, slot := 0xFFFF, addr := t.pc,
        svc := none }
    -- the error record precedes the break record, and names the slot that the save takes
    let slot := match findSlot s c0 with
      | .slot n => if queued && c0.state != .retired then some n else c0.slot
      | _ => c0.slot
    let s1 :=
      if excRecorded t.exc then
        errRecord s die { crewRec c0 14 1 (t.info entry) (t.pa.map (fun a => a / 32 * 32)) t.va entry with slot := slot }
      else s
    if c0.state == .retired then s1
    else if queued then holdCrew s1 id .fault q
    else endCrew s1 id

/-- The return of a held crew (R178, R378): it is read back from its area and is Resident; its watchdog count
restarts (R391). An area that cannot be read back resets the context (Table 23-6). -/
def returnCrew (s : State) (id : Nat) : State :=
  match (s.crew id).map (placeNamed s) with
  | none => s
  | some c =>
    match c.slot with
    | none => s
    | some n =>
      match resetAtRestore s c n with
      | some t => t
      | none =>
        (restoreFrom (makeRoom 64 s c.core id c.kernel) id { c with wdogCount := 0 } n).modCtx c.ctx
          (fun x => { x with active := true })

/-- A waiting crew is swapped out (R67): it stays Halted while loads of it are away (R399), and the wakes that come
meanwhile are applied once the save completes. -/
def swapOut (s : State) (id : Nat) : State :=
  if awaitsLoads s id then s.modCrew id (fun c => { c with state := .halted, hold := .leave })
  else
    (saveCrew s id .swappedOut).modCrew id (fun c =>
      if c.splits.any (fun x => x.2.state == .ready) then { c with woken := true, idleFor := none } else c)

/-- The crew that an interrupted wait or load had Halted is saved once nothing is awaited (R50, R399). -/
def settleHalt (s : State) (id : Nat) : State :=
  match s.crew id with
  | none => s
  | some c =>
    if c.state == .halted && c.hold != .none && !awaitsLoads s id && (s.ctx c.ctx).preempt == .no then
      if c.hold == .leave then swapOut s id else postBreak (saveCrew s id .saved) id
    else s

end Sys2Proof.Machine
end

