-- ==== Sys2Proof/Machine/Operands.lean ====
section
/-! DEFINITION. Operands of a crew's instruction (R73 to R80, R164, R165, R197 to R200, R240, R382, R383): what each
field names, its value in a lane, its elements, the writes of a result, the checks of its registers, and the
end of values marked for last use. -/

namespace Sys2Proof.Machine

/-- An instruction at issue: the crew and the split as they stand, the place and the length of the
instruction, its slot and its fields. -/
structure Env where
  id : Nat
  entry : Nat
  c : Crew
  x : Split
  slot : Nat
  f : Fields
  form : Form
  len : Nat

/-- What an operand field names. -/
inductive Opnd where
  | vreg (n : Nat)
  | sreg (n : Nat)
  | special (code : Nat)
  | imm (w : Word)
  | none
  deriving DecidableEq, Repr

/-- A source field of a vector or of a uniform class (R76). -/
def vecOpnd (n : Nat) : Opnd := if n < 768 then .vreg n else .special n
def uniOpnd (n : Nat) : Opnd := if n < 768 then .sreg n else .special n

/-- What a field of a role names. -/
def roleOpnd (r : Role) (n : Nat) : Opnd :=
  match r with
  | .vec | .vecB | .vreg | .vcoord => vecOpnd n
  | .uni | .uniB | .uniI | .ureg | .ucoord | .ublock => uniOpnd n
  | .unum => .sreg n
  | .index => if n < 768 then .vreg n else .special n
  | _ => .none

/-- Address and coordinate registers are of the class that `MAU` gives, and in the 64-bit form of the class
of the form (R166, R240). -/
def Env.addrUni (e : Env) : Bool :=
  match e.f.ext with
  | .mem m => m.mau
  | _ => e.form.uniform

def Env.addrOpnd (e : Env) (n : Nat) : Opnd := if e.addrUni then uniOpnd n else vecOpnd n

/-- The instruction uses source A: `br` only under `.unz` and `.uz`, `uint.post` only by index (Table 09-1). -/
def Env.usesA (e : Env) : Bool :=
  match e.slot with
  | 0x008 => 2 ≤ e.f.var.toNat
  | 0x042 => e.f.var == 0
  | _ => true

/-- The instruction uses source B: `vcvt` and `scvt` only for a scale (R229), `vvote` only under `.bal` (R234). -/
def Env.usesB (e : Env) : Bool :=
  match e.slot with
  | 0x240 | 0x267 => e.f.var2.testBit 0
  | 0x282 => e.f.var == 3
  | _ => true

/-- The instruction uses source C: `vcvt` and `scvt` only for random bits (R229). -/
def Env.usesC (e : Env) : Bool :=
  match e.slot with
  | 0x240 | 0x267 => e.f.rnd == 5
  | _ => true

/-- What the source fields name; a field that the instruction does not use names nothing (R162). -/
def Env.srcA (e : Env) : Opnd :=
  if !e.usesA then .none
  else
    match e.form.a with
    | .addr => if e.f.mten then .none else e.addrOpnd e.f.srca.toNat
    | r => roleOpnd r e.f.srca.toNat

def Env.srcB (e : Env) : Opnd :=
  if !e.usesB then .none
  else
    match e.f.ext with
    | .imm v => if e.form.b == .zero then .none else .imm v
    | .wide x => if x.uv && e.form.b.takesUni then .sreg x.uni.toNat else roleOpnd e.form.b e.f.srcb.toNat
    | _ => roleOpnd e.form.b e.f.srcb.toNat

def Env.srcC (e : Env) : Opnd :=
  match e.f.ext with
  | .wide x => if e.usesC then roleOpnd e.form.c x.srcc.toNat else .none
  | _ => .none

def Env.dst (e : Env) : Nat := e.f.dst.toNat
def Env.ty (e : Env) : Nat := e.f.ty.toNat
def Env.bits (e : Env) : Nat := typeBits e.ty
def Env.var (e : Env) : Nat := e.f.var.toNat
def Env.pc (e : Env) : Nat := e.x.pc
def Env.core (e : Env) : Nat := e.c.core
def Env.die (e : Env) : Nat := dieOfCore e.c.core
def Env.ctx (e : Env) : Nat := e.c.ctx
/-- `.x2` of a load or a store. -/
def Env.x2 (e : Env) : Bool := e.f.var.getLsbD 0

/-- The sub-element index of view mode (R198). -/
def Env.view (e : Env) : Option Nat :=
  match e.f.ext with
  | .wide x => if e.form.view && x.var2.getLsbD 3 then some (x.var2.toNat % 8) else none
  | _ => none

/-- `%stkwin` (Table 05-12). -/
def stkwin (clock die : Nat) : Nat :=
  (clock / 2500 + 8 * die) % 32 + 2 ^ 16 * (2500 - clock % 2500)

/-- The value of a constant code (R78). -/
def constOf (code : Nat) : Int := (code : Int) - 960

/-- A special source in a lane (Table 04-3); per-lane sources read 0 in a uniform form. (DEDUCED, log 45) -/
def Env.special (e : Env) (clock code lane : Nat) : Word :=
  let perLane : Nat → Word := fun v => if e.form.uniform then 0 else BitVec.ofNat 64 v
  if 896 ≤ code then BitVec.ofInt 64 (constOf code)
  else
    match code with
    | 769 => perLane lane
    | 770 => perLane (lane / 32)
    | 771 => BitVec.ofNat 64 e.c.index
    | 772 => BitVec.ofNat 64 e.core
    | 773 => BitVec.ofNat 64 e.die
    | 774 => BitVec.ofNat 64 clock
    | 775 => BitVec.ofNat 64 (stkwin clock e.die)
    | 776 => BitVec.ofNat 64 e.c.part
    | 777 => BitVec.ofNat 64 e.c.lanes
    | 778 => BitVec.ofNat 64 e.entry
    | 779 => BitVec.ofNat 64 e.ctx
    | 780 => BitVec.ofInt 64 (-1)
    | 781 => BitVec.ofNat 64 (lanesOf e.c.lanes e.x.mask).length
    | _ => 0

/-- A register's value and whether it was dead (R383); a granule whose bits are lost reads as zeros (R366). -/
def RegVal.read (r : RegVal) : Word × Bool :=
  match r with
  | .live w => (w, false)
  | .dead => (deadPattern, true)
  | .bad _ => (0, false)

/-- The 64-bit value of a source in a lane, and whether it was dead. -/
def Env.read (e : Env) (clock : Nat) (o : Opnd) (lane : Nat) : Word × Bool :=
  match o with
  | .vreg n => (e.c.vAt n lane).read
  | .sreg n => (e.c.sAt n).read
  | .special k => (e.special clock k lane, false)
  | .imm w => (w, false)
  | .none => (0, false)

/-- A uniform register of the crew, or several, with whether one was dead. -/
def Env.uni (e : Env) (n : Nat) : Word × Bool := (e.c.sAt n).read

/-- A register operand or the immediate, of which a view takes a sub-element. -/
def Opnd.isReg (o : Opnd) : Bool :=
  match o with
  | .special _ => false
  | _ => true

/-- The exact pattern of a small integer in a floating type (R79). -/
def floatConst (t : Nat) (v : Int) : Nat := (roundVal (ffmt t) 0 false noRBits (intVal v)).1

/-- The source as a 64-bit value whose elements an operation of several elements reads. A constant stands in
every element of a floating type and of a packed form; elsewhere it is truncated to the type's width (R79,
R169). -/
def Opnd.spread (o : Opnd) (packed : Bool) (t : Nat) (w : Word) : Word :=
  match o with
  | .special k =>
    if k < 896 then w
    else if 8 ≤ t && t ≤ 11 then replicate64 (typeBits t) (floatConst t (constOf k))
    else if packed then replicate64 (typeBits t) w.toNat
    else BitVec.ofNat 64 (w.toNat % 2 ^ typeBits t)
  | _ => w

/-- One n-bit operand: the view's sub-element of a register, the low bits otherwise (R197, R198); a constant in
a floating type is its pattern. -/
def Env.elemOf (e : Env) (t : Nat) (o : Opnd) (w : Word) : Nat :=
  let n := typeBits t
  match o with
  | .special k => if 896 ≤ k && 8 ≤ t then floatConst t (constOf k) else w.toNat % 2 ^ n
  | _ => elemAt n (e.view.getD 0) w

/-- The source as shift amounts, bit-field controls and `divs` take it: whole, or in view mode the register's
sub-element, and a special source or a constant truncated to the type's width (R197, R198, R203, R205). Outside
view mode a special source and a constant are taken whole as well: R203 and R205 say so, and for source A of
`divs`, whose entry reads bits 63:32, R79 and R197 would truncate it (DESIGN CHOICE, log 62). -/
def Env.wholeOf (e : Env) (o : Opnd) (w : Word) : Nat :=
  match e.view with
  | some i => if o.isReg then elemAt e.bits i w else w.toNat % 2 ^ e.bits
  | none => w.toNat

/-- cond(lane) (R179, R200). -/
def Env.cond (e : Env) (lane : Nat) : Bool := (e.c.pAt e.f.pred.toNat).getLsbD lane != e.f.pneg

/-- The split's lanes, ascending. -/
def Env.lanes (e : Env) : List Nat := lanesOf e.c.lanes e.x.mask

/-- The lanes in which a vector form acts (R200). -/
def Env.acting (e : Env) : List Nat := e.lanes.filter e.cond

/-- A mask of lanes. -/
def maskOf (ls : List Nat) : Mask := ls.foldl (fun m l => m ||| BitVec.ofNat 1024 (2 ^ l)) 0

/-- A uniform form acts (R200). -/
def Env.acts (e : Env) : Bool := (e.f.pred == 15 && !e.f.pneg) || e.lanes.any e.cond

/-- The register after a write of an n-bit result (R197, R198, R383). -/
def Env.result (e : Env) (signed : Bool) (n : Nat) (old : RegVal) (v : Nat) : Word :=
  match e.view with
  | some i => setElem n i old.saved v
  | none => extendTo64 signed n v

/-- What a write leaves in a register: one of a part leaves a granule lost whose bits were (R366). -/
def RegVal.wrote (old : RegVal) (part : Bool) (w : Word) : RegVal := if part && old.lost then old else .live w

/-- What a result leaves in a register under the view (R198). -/
def Env.wrote (e : Env) (old : RegVal) (w : Word) : RegVal := old.wrote e.view.isSome w

/-- Flags join the crew's `STICKY`. -/
def Env.flag (e : Env) (s : State) (f : Flags) : State :=
  if f == 0 then s else s.modCrew e.id (fun c => c.orSticky f)

/-- Reads of dead registers set `DEAD` (R383). -/
def Env.dead (e : Env) (s : State) (b : Bool) : State := e.flag s (flagIf b flagDEAD)

/-- Writes a uniform register. -/
def Env.putS (e : Env) (s : State) (n : Nat) (w : Word) : State := s.modCrew e.id (fun c => c.writeS n w)

/-- Writes vector registers: triples of register, lane and value. -/
def Env.putV (e : Env) (s : State) (ws : List (Nat × Nat × Word)) : State :=
  s.modCrew e.id (fun c => ws.foldl (fun c t => c.setV t.1 t.2.1 (.live t.2.2)) c)

/-- A predicate is written in some lanes: a granule of it that is lost is whole again where every lane of it is written,
and reads as zeros where it is not (R366). -/
def Crew.foundP (c : Crew) (n : Nat) (ls : List Nat) : Crew :=
  if c.lost.isEmpty then c
  else
    let mine : Nat → List Nat := fun g => (List.range 64).filterMap (fun i => if 64 * g + i < c.lanes then some (64 * g + i) else none)
    let lost := c.lost.filter (fun e => !(e.1 / 16 == n && e.1 < 256 && (mine (e.1 % 16)).all ls.contains))
    let gone : Mask := lost.foldl (fun m e => if e.1 / 16 == n && e.1 < 256 then m ||| BitVec.ofNat 1024 ((2 ^ 64 - 1) * 2 ^ (64 * (e.1 % 16))) else m) 0
    { c with lost := lost, p := if gone == 0 then c.p else tabPut c.p n (((tabGet c.p n).getD 0) &&& ~~~gone) }

/-- A mask register is written whole. -/
def Crew.setK (c : Crew) (n : Nat) (w : Word) : Crew := { c with k := tabPut c.k n w, lost := tabDel c.lost (256 + n) }

/-- A field of a shape register is written: its granules whose bits are lost stay so, and read as zeros (R366). -/
def Crew.setT (c : Crew) (n : Nat) (t : Shape) : Crew :=
  let gone : Shape := c.lost.foldl (fun m e =>
    if 512 ≤ e.1 && (e.1 - 512) / 4 == n then m ||| BitVec.ofNat 256 ((2 ^ 64 - 1) * 2 ^ (64 * (e.1 % 4))) else m) 0
  { c with t := tabPut c.t n (t &&& ~~~gone) }

/-- Writes bits of a predicate in some lanes; the others keep theirs. -/
def Env.putP (e : Env) (s : State) (n : Nat) (ls : List (Nat × Bool)) : State :=
  s.modCrew e.id (fun c =>
    let m := ls.foldl (fun (m : Mask) t =>
      let bit : Mask := BitVec.ofNat 1024 (2 ^ t.1)
      if t.2 then m ||| bit else m &&& ~~~bit) (c.pAt n)
    (c.setP n m).foundP n (ls.map Prod.fst))

/-- How many registers each source and the destination name: pairs under `.x2`, records, coordinate runs and
control blocks (R382). -/
structure Counts where
  a : Nat
  b : Nat
  c : Nat
  d : Nat

def Env.recRegs (e : Env) (s : State) : Nat :=
  match nodeOf s e.ctx e.dst with
  | some nd => nd.recSize / 8
  | none => 1

def Env.counts (e : Env) (s : State) : Counts :=
  let two := if e.x2 then 2 else 1
  match e.slot with
  | 0x300 | 0x302 | 0x304 | 0x306 => ⟨1, 1, 1, two⟩
  | 0x301 | 0x303 | 0x305 | 0x307 => ⟨1, two, 1, 1⟩
  | 0x3D0 => ⟨e.recRegs s, 1, 1, 1⟩
  | 0x3D2 => ⟨1, 1, e.recRegs s, 1⟩
  | 0x0E0 | 0x190 | 0x191 => ⟨e.var, 1, 1, 1⟩
  | 0x380 | 0x381 | 0x382 => ⟨11, 1, 1, 1⟩
  | _ => ⟨1, 1, 1, 1⟩

/-- A run of registers is allocated, or a special source is one of Table 04-3 (R382). -/
def Env.opndOk (e : Env) (o : Opnd) (n : Nat) : Bool :=
  match o with
  | .vreg r => r + n ≤ e.c.kernel.vcount && r + n ≤ 768
  | .sreg r => r + n ≤ e.c.kernel.scount && (n == 1 || r + n ≤ 768)
  | .special k => k ≤ 781 || 896 ≤ k
  | _ => true

/-- The role takes no special source (R382). -/
def roleRegOnly (r : Role) : Bool :=
  match r with
  | .vreg | .vcoord | .ureg | .ucoord | .ublock | .addr => true
  | _ => false

/-- A source field of a role passes `RREG`. -/
def Env.srcOk (e : Env) (r : Role) (field : Nat) (o : Opnd) (n : Nat) : Bool :=
  match r with
  | .zero | .number => true
  | .pnum | .knum | .tnum => field ≤ 15
  | .anum => field < e.c.kernel.accs
  | .uniI =>
    match o with
    | .special k => 896 ≤ k
    | _ => e.opndOk o n
  | .index =>
    match o with
    | .vreg _ => false
    | .special k => 896 ≤ k
    | _ => e.opndOk o n
  | _ =>
    match o with
    | .special k => !roleRegOnly r && e.opndOk (.special k) n
    | _ => e.opndOk o n

/-- The destination passes `RREG`. -/
def Env.dstOk (e : Env) (n : Nat) : Bool :=
  match e.form.dst with
  | .vdst => e.opndOk (.vreg e.dst) n
  | .udst => e.dst + n ≤ e.c.kernel.scount && (n == 1 || e.dst + n ≤ 768)
  | .pnum | .knum | .tnum => e.dst ≤ 15
  | .anum => e.dst < e.c.kernel.accs
  | _ => true

/-- The coordinate registers of a tensor address (R166). -/
def Env.coordOpnd (e : Env) (i : Nat) : Opnd :=
  match e.f.ext with
  | .mem m =>
    let n := m.mcrd.toNat + i
    if m.mau then .sreg n else .vreg n
  | _ => .none

def Env.coordsOk (e : Env) : Bool :=
  match e.f.ext with
  | .mem m =>
    !m.mten ||
      (m.mcrd.toNat + m.mcnt.toNat ≤ 768 &&
        m.mcrd.toNat + m.mcnt.toNat ≤ (if m.mau then e.c.kernel.scount else e.c.kernel.vcount))
  | _ => true

/-- The uniform operand of a lode form holds its descriptor (R284). -/
def Env.lodeUniOk (e : Env) : Bool :=
  match e.f.ext with
  | .wide x => !x.uv || x.uni.toNat < e.c.kernel.scount
  | _ => true

/-- The row counter or the accumulators beyond one that a form names by its fields (R382): `mrd` and `mred` take
one tile; `cwait` its counter. -/
def Env.counterOk (e : Env) (s : State) : Bool :=
  if e.slot == 0x385 then
    match tabGet (s.core e.core).ctrs e.var with
    | some r => r.launch == ctrKey e.id e.c && e.c.kernel.rowctr.getLsbD e.var
    | none => false
  else true

/-- `RREG` (R375 step 2, R382): every register that the instruction names exists. -/
def Env.regsOk (e : Env) (s : State) : Bool :=
  let n := e.counts s
  e.dstOk n.d &&
  (e.f.mten || e.srcOk e.form.a e.f.srca.toNat e.srcA n.a) &&
  (match e.srcB with
    | .imm _ => true
    | o => e.srcOk e.form.b e.f.srcb.toNat o n.b) &&
  (match e.f.ext with
    | .wide x => e.srcOk e.form.c x.srcc.toNat e.srcC n.c
    | _ => true) &&
  e.coordsOk && e.lodeUniOk && e.counterOk s

/-- The source registers with their marks, for the end of their values. -/
def Env.marked (e : Env) (s : State) : List (Opnd × Nat) :=
  let n := e.counts s
  let luc := match e.f.ext with
    | .wide x => x.luc
    | _ => false
  (if e.f.lua then [(e.srcA, n.a)] else []) ++ (if e.f.lub then [(e.srcB, n.b)] else []) ++
    (if luc then [(e.srcC, n.c)] else [])

/-- Ends the values of one marked run (R80). -/
def Crew.endRun (c : Crew) (lanes : List Nat) (r : Opnd × Nat) : Crew :=
  match r.1 with
  | .vreg n =>
    (List.range r.2).foldl (fun c i => lanes.foldl (fun c l => c.setV (n + i) l .dead) c) c
  | .sreg n => (List.range r.2).foldl (fun c i => c.setS (n + i) .dead) c
  | _ => c

/-- Step 2 of R80: the values marked last-use end, in every lane of the split's mask and for the whole crew. -/
def Env.endUses (e : Env) (s : State) : State :=
  let ms := e.marked s
  if ms.isEmpty then s
  else s.modCrew e.id (fun c => ms.foldl (fun c r => c.endRun e.lanes r) c)

/-- Word `i` of a control block. -/
def blkWord (b : List Word) (i : Nat) : Nat := (b.getD i 0).toNat

/-- `IDX` and `IREG` of a control block (Tables 13-2, 13-3). -/
def blkIdx (b : List Word) : Nat := bitsOf (blkWord b 0) 21 20
def blkIreg (b : List Word) : Nat := bitsOf (blkWord b 10) 41 32

/-- The control block that a form reads, and whether a register was dead. -/
def Env.block (e : Env) : List Word × Bool :=
  let rs := (List.range 11).map (fun i => e.uni (e.f.srca.toNat + i))
  (rs.map Prod.fst, rs.any Prod.snd)

/-- The vector register whose indices a hoist form captures under `IDX` 01 (R262). -/
def Env.indexReg (e : Env) : List (Opnd × Nat) :=
  let b := e.block.1
  if (e.slot == 0x381 || e.slot == 0x382) && blkIdx b == 1 then [(.vreg (blkIreg b), 1)] else []

/-- Registers that the instruction reads or writes, as runs. -/
def Env.named (e : Env) (s : State) : List (Opnd × Nat) :=
  let n := e.counts s
  let d : Opnd :=
    match e.form.dst with
    | .vdst => .vreg e.dst
    | .udst => .sreg e.dst
    | _ => .none
  let cs := match e.f.ext with
    | .mem m => if m.mten then [(e.coordOpnd 0, m.mcnt.toNat)] else []
    | .wide x => if (lodeSlot e.slot || e.slot == mrdSlot) && x.uv then [(Opnd.sreg x.uni.toNat, 1)] else []
    | _ => []
  [(d, n.d), (e.srcA, n.a), (e.srcB, n.b), (e.srcC, n.c)] ++ cs ++ e.indexReg

/-- Sources that a lode form names otherwise: the accumulator of `lacc`, the carries of `ladd` and `lsub`, the words of
`lmulw` and `lmacw`, one for each lode of the descriptor (R285 to R293). -/
def Env.lodeReads (e : Env) : List (Opnd × Nat) :=
  match e.f.ext with
  | .wide x =>
    let q := bitsOf (e.uni x.uni.toNat).1.toNat 17 8 + 1
    match e.slot with
    | 0x2CB => [(.vreg e.dst, 1)]
    | 0x2C2 | 0x2C3 => if e.f.var.getLsbD 2 then [(.sreg x.srcc.toNat, q)] else []
    | 0x2C9 | 0x2CA => [(.sreg x.srcc.toNat, q)]
    | _ => []
  | _ => []

/-- The instruction reads or writes vector registers in a lane: one of its split's, and in `vrdl` the lane that its
source B names (R238). -/
def Env.usesLane (e : Env) (clock lane : Nat) : Bool :=
  e.x.mask.getLsbD lane || (e.slot == 0x285 && (e.read clock e.srcB 0).1.toNat == lane)

/-- The register granules that the instruction reads: a register with its lane for a vector one. A vector form reads the
lanes in which it acts, one that takes no predicate those of its split (R200); `vperm` reads source A where source B
says (R232). -/
def Env.granules (e : Env) (s : State) : List (Bool × Nat × Nat) :=
  let ls := if e.form.pred then e.acting else (List.range e.c.lanes).filter (fun l => e.usesLane s.clock l)
  let from_ : Nat → Nat := fun l => (e.read s.clock e.srcB l).1.toNat % 1024
  let ls := if e.slot == 0x280 then ls ++ (ls.map from_).filter (fun l => l < e.c.lanes && e.x.mask.getLsbD l) else ls
  ((e.named s).drop 1 ++ e.lodeReads).flatMap (fun r =>
    match r.1 with
    | .vreg n => (List.range r.2).flatMap (fun i => ls.map (fun l => (true, n + i, l)))
    | .sreg n => (List.range r.2).map (fun i => (false, n + i, 0))
    | _ => [])

/-- The content of a register granule. -/
def Crew.granule (c : Crew) (g : Bool × Nat × Nat) : RegVal := if g.1 then c.vAt g.2.1 g.2.2 else c.sAt g.2.1

/-- The granules of other registers that the instruction reads, as `Crew.lost` numbers them: the predicate of its lanes,
predicates, masks and shapes named as sources, the shape of a tensor address, and the destination shape of a hoist form, of
`mrd` and of `mred`. -/
def Env.otherGranules (e : Env) : List Nat :=
  let pred : Nat → List Nat := fun n =>
    if n == 15 then [] else ((List.range 16).filter (fun g => e.lanes.any (fun l => l / 64 == g))).map (fun g => 16 * n + g)
  let shape : Nat → List Nat := fun n => (List.range 4).map (fun g => 512 + 4 * n + g)
  let ofRole : Role → Nat → List Nat := fun r n =>
    match r with
    | .pnum => pred n
    | .knum => [256 + n]
    | .tnum => shape n
    | _ => []
  let third := match e.f.ext with
    | .wide x => ofRole e.form.c x.srcc.toNat
    | .mem m => if m.mten then shape m.mshp.toNat else []
    | _ => []
  pred e.f.pred.toNat ++ ofRole e.form.a e.f.srca.toNat ++ ofRole e.form.b e.f.srcb.toNat ++ third ++
    (if (0x380 ≤ e.slot && e.slot ≤ 0x383) || e.slot == 0x393 || e.slot == 0x394 then shape e.dst else [])

/-- The instruction reads a register granule whose bits are lost (R366). -/
def Env.meetsLost (e : Env) (s : State) : Bool :=
  ((e.c.v.any (fun x => x.2.lost) || e.c.s.any (fun x => x.2.lost)) && (e.granules s).any (fun g => (e.c.granule g).lost)) ||
    (!e.c.lost.isEmpty && e.otherGranules.any (fun g => (tabGet e.c.lost g).isSome))

/-- What a crew's reads of register granules do where their bits are lost (R364, R367, R368): `DERR`; a record of class 1
for one that is found here, and the class 15 counter for one found before. (DEDUCED, log 69) -/
def findGranules (s : State) (id entry : Nat) (c : Crew) (gs : List (Bool × Nat × Nat)) : State :=
  let gs := gs.foldl (fun (l : List (Bool × Nat × Nat)) g => if l.contains g || !(c.granule g).lost then l else l ++ [g]) []
  if gs.isEmpty then s
  else
    gs.foldl (fun s g =>
      if c.granule g == .bad true then
        let s := s.modCrew id (fun c => if g.1 then c.setV g.2.1 g.2.2 (.bad false) else c.setS g.2.1 (.bad false))
        errRecord s (dieOfCore c.core) (crewRec c 1 0 (info24 0 0 none 0) none none entry)
      else errCount s (dieOfCore c.core) 15) (s.modCrew id (fun c => c.orSticky flagDERR))

/-- What the reads of lost granules by an instruction do beside giving zeros. -/
def Env.foundLost (e : Env) (s : State) : State :=
  if !e.meetsLost s then s
  else
    let s := findGranules (e.flag s flagDERR) e.id e.entry e.c (e.granules s)
    (e.c.lost.filter (fun g => e.otherGranules.contains g.1)).foldl (fun s g =>
      if g.2 then
        let s := s.modCrew e.id (fun c => { c with lost := tabPut c.lost g.1 false })
        errRecord s e.die (crewRec e.c 1 0 (info24 0 0 none 0) none none e.entry)
      else errCount s e.die 15) s

/-- A run names an awaited register: one that an outstanding load, `atom` or `amsg` delivers to (R63). -/
def Env.awaited (e : Env) (s : State) (r : Opnd × Nat) : Bool :=
  match r.1 with
  | .vreg n => s.exts.any (fun x => x.2.crew == e.id && e.usesLane s.clock x.2.lane &&
      (match x.2.kind with
        | .vload | .vatom => n ≤ x.2.dst + bitNat x.2.x2 && x.2.dst < n + r.2
        | _ => false))
  | .sreg n => s.exts.any (fun x => x.2.crew == e.id &&
      (match x.2.kind with
        | .uload | .uatom => n ≤ x.2.dst + bitNat x.2.x2 && x.2.dst < n + r.2
        | _ => false)) ||
      s.amsgs.any (fun a => a.2.crew == e.id && n ≤ a.2.dst && a.2.dst < n + r.2)
  | _ => false

/-- A memory, engine or gang form follows a request of its split whose scope covers a target beyond the module and
that has not been performed there (R124, R249). -/
def Env.heldByScope (e : Env) (s : State) : Bool :=
  0x300 ≤ e.slot && e.slot < 0x3E0 && s.exts.any (fun x => x.2.crew == e.id && x.2.split == e.entry && x.2.hold)

/-- `csrr` of `STICKY` follows every earlier instruction of its split, also the loads, atomics and messages that have
not answered (R148). -/
def Env.stickyAwaits (e : Env) (s : State) : Bool :=
  e.slot == 0x040 && e.var == 1 &&
    (s.exts.any (fun x => x.2.crew == e.id && x.2.split == e.entry) ||
      s.amsgs.any (fun a => a.2.crew == e.id && a.2.split == e.entry))

/-- The split goes to the refuge before this instruction (R63). -/
def Env.mustAwait (e : Env) (s : State) : Bool :=
  (!s.exts.isEmpty || !s.amsgs.isEmpty) &&
    ((e.named s).any (fun r => e.awaited s r) || e.heldByScope s || e.stickyAwaits s)

end Sys2Proof.Machine
end

