-- ==== Sys2Proof/Machine/Flags.lean ====
section
/-! DEFINITION. Completion flags and their obligations (R160), the control registers (R147, R192), and the
code that a split reads: fetch, clause structure and control targets (R156 to R161, R380). -/

namespace Sys2Proof.Machine

/-- The flags that a flag-setting operation obliges: `FLGA` and `FLGB` of the clause, 15 for none. A release
flag that is the completion flag as well is not obliged twice (R160). -/
def Env.flagPair (e : Env) : Nat × Nat :=
  match e.x.clause with
  | none => (15, 15)
  | some k =>
    let a := if k.flga < 12 then k.flga else 15
    let b := if k.flgb < 12 && k.flgb != a then k.flgb else 15
    (a, b)

/-- Clears a flag and gives it one obligation (R160). -/
def Crew.obligeFlag (c : Crew) (n : Nat) : Crew :=
  if 12 ≤ n then c
  else { c with flags := c.flags &&& ~~~(BitVec.ofNat 12 (2 ^ n)) }.oblige n

/-- A flag-setting operation issues: its flags are cleared and obliged (R160). -/
def Env.obligeFlags (e : Env) (s : State) : State :=
  let p := e.flagPair
  s.modCrew e.id (fun c => (c.obligeFlag p.1).obligeFlag p.2)

/-- Both obligations are discharged at once. -/
def dischargeBoth (s : State) (crew a b : Nat) : State := discharge (discharge s crew a) crew b

/-- A flag has an outstanding obligation. -/
def Crew.obliged (c : Crew) (n : Nat) : Bool := (tabGet c.obl n).getD 0 != 0

/-- A wait mask holds a clause back (R159). -/
def Crew.waits (c : Crew) (mask : BitVec 12) : Bool :=
  (List.range 12).any (fun n => mask.getLsbD n && c.obliged n)

/-- A control register (Table 09-6); `UIE` as Table 09-7 gives it. -/
def Crew.csr (c : Crew) (n : Nat) : Word :=
  match n with
  | 0 => BitVec.ofNat 64 c.fpctl.toNat
  | 1 => BitVec.ofNat 64 c.sticky.toNat
  | 2 => BitVec.ofNat 64 (bitNat c.uintEn + 2 * bitNat c.uintPend + 4 * bitNat c.uintRun)
  | _ => BitVec.ofNat 64 c.pts

/-- A write of a control register: bits outside the defined fields are ignored (Table 22-6). -/
def Crew.setCsr (c : Crew) (n : Nat) (w : Word) : Crew :=
  match n with
  | 0 => { c with fpctl := BitVec.ofNat 32 (w.toNat % 16) }
  | 1 => { c with sticky := BitVec.ofNat 32 (w.toNat % 512) }
  | 2 => { c with uintEn := w.getLsbD 0 }
  | _ => c

/-- The code range of a crew's kernel (R158). -/
def Crew.codeBase (c : Crew) : Nat := c.kernel.kobj + c.kernel.codeoff
def Crew.codeEnd (c : Crew) : Nat := c.codeBase + c.kernel.codelen
def Crew.inCode (c : Crew) (a : Nat) : Bool := c.codeBase ≤ a && a < c.codeEnd

/-- The bytes of code at an address, for the crew's core, as the home holds them; those in host memory or a peer window as
completions have brought them to a split of the crew (R325, DESIGN CHOICE log 12). None where the page does not
translate. -/
def codeBytes (s : State) (c : Crew) (va n : Nat) : Option (List Byte × Bool) :=
  match translate s (askCore c.core) c.ctx va needX with
  | .error _ => none
  | .ok x =>
    if isHost x.pa || isPeer x.pa then
      let got := c.splits.flatMap (fun e => e.2.away)
      let bs := (List.range n).map (fun i => (awayByte got (x.pa + i)).getD (0, false))
      some (bs.map (fun b => if b.2 then 0 else b.1), bs.any Prod.snd)
    else
      let pa := stockPa (dieOfCore c.core) x.pa
      some (readBytes (if isHbm pa then mergeLine s pa else s) pa n)

/-- One unit of code (R156). -/
def codeUnit (s : State) (c : Crew) (va : Nat) : Option Nat := (codeBytes s c va 4).map (fun r => leNat r.1)

/-- Where decoding continues from an address: past the unit at offset 28, and past a zero unit at offset 24
together with it (R157). -/
def skipFrom (s : State) (c : Crew) (va : Nat) : Nat :=
  if va % 32 == 28 then va + 4
  else if va % 32 == 24 && codeUnit s c va == some 0 then va + 8
  else va

/-- The header at an address: its flags and its clause's end, if the unit there can be one (R157 to R159). -/
def headerAt (s : State) (c : Crew) (va : Nat) : Option (Header × Nat) :=
  match codeBytes s c va 8 with
  | none => none
  | some r =>
    let w := leNat r.1
    let h := decodeHeader w
    if w % 4 == 0 && 2 ≤ h.clen.toNat && va % 32 < 24 then some (h, va + 4 * h.clen.toNat) else none

/-- Walks the kernel's clauses, laid end to end from `CODEOFF` (R158): the clause that holds an address, by its
header and its end. Past a defective header the walk goes on at the next unit that can be one, since a defect in code that
no split reaches raises nothing (R380, DEDUCED log 82). -/
def clauseFrom (fuel : Nat) (s : State) (c : Crew) (va target : Nat) : Option (Nat × Header × Nat) :=
  match fuel with
  | 0 => none
  | fuel + 1 =>
    if target < va || c.codeEnd ≤ va then none
    else
      match headerAt s c va with
      | none => clauseFrom fuel s c (va + 4) target
      | some (h, stop) => if target < stop then some (va, h, stop) else clauseFrom fuel s c stop target

/-- The clause of the kernel that holds an address. -/
def clauseAt (s : State) (c : Crew) (target : Nat) : Option (Nat × Header × Nat) :=
  if c.inCode target then clauseFrom (c.kernel.codelen / 4 + 1) s c c.codeBase target else none

/-- The address is a clause header of the kernel (R161, R175). -/
def isHeader (s : State) (c : Crew) (target : Nat) : Bool :=
  match clauseAt s c target with
  | some (b, _, _) => b == target
  | none => false

/-- Whether an address is the first unit of an instruction of a clause, walked from its first one (R378). -/
def onInstr (fuel : Nat) (s : State) (c : Crew) (va stop target : Nat) : Bool :=
  match fuel with
  | 0 => false
  | fuel + 1 =>
    let va := skipFrom s c va
    if va == target then true
    else if target < va || stop ≤ va then false
    else
      match codeUnit s c va with
      | none => false
      | some u => onInstr fuel s c (va + 4 * unitsOf (u % 4)) stop target

/-- A clause as a split stands in it. -/
def headerClause (h : Header) (base stop : Nat) (first : Bool) : Clause :=
  { base := base, stop := stop, flga := h.flga.toNat, flgb := h.flgb.toNat, first := first }

/-- What a split finds at its program counter: an instruction with its place and the clause it stands in, none
for a header; or a failure, with an address where the page does not translate. -/
inductive Fetched where
  | instr (i : Instr) (pc : Nat) (clause : Option Clause)
  | bad (e : Exc) (pc opc : Nat) (pa : Option Nat)

/-- Bytes from an address to the end of what its fetch block may hold (R157). -/
def blockLeft (va : Nat) : Nat := 28 - min 28 (va % 32)

/-- The opcode slot of a word, for the record of a failed decode; 0 for a header. -/
def wordSlot (w : Nat) : Nat := if w % 4 == 0 then 0 else w / 4 % 1024

/-- Breaches of clause structure that a `join` or a `call` shows by its place (R380). -/
def placeBad (s : State) (c : Crew) (k : Clause) (slot pc len : Nat) : Bool :=
  (slot == 0x00A && !k.first) || (slot == 0x00B && skipFrom s c (pc + len) != k.stop)

/-- Fetches and decodes at an address, as a header is due or within a clause (R156 to R158, R380): `RFETCH`, then
`RCLAUSE`, then what decoding finds (R375). -/
def fetchAt (s : State) (c : Crew) (pc : Nat) (clause : Option Clause) : Fetched :=
  if pc % 4 != 0 || !c.inCode pc then .bad .rclause pc 0 none
  else
    match translate s (askCore c.core) c.ctx pc needX with
    | .error f => .bad f.exc pc 0 f.pa
    | .ok _ =>
      match codeBytes s c pc (min 16 (blockLeft pc)) with
      | none => .bad .rxlate pc 0 none
      | some r =>
        let w := leNat r.1
        let n := 4 * unitsOf (w % 4)
        let opc := wordSlot w
        if r.1.length < n then .bad .rfetch pc opc none
        else
          match clause with
          | none =>
            let n := (decodeHeader w).clen.toNat
            if w % 4 != 0 || n < 2 || c.codeEnd < pc + 4 * n then .bad .rclause pc 0 none
            else
              match decodeHeaderWord (w % 2 ^ 64) with
              | .error e => .bad e pc 0 none
              | .ok i => .instr i pc none
          | some k =>
            if w % 4 == 0 then .bad .rclause pc 0 none
            else if k.stop < pc + n || placeBad s c k opc pc n then .bad .rclause pc opc none
            else
              match decodeBytes r.1 with
              | .ok (i, _) => .instr i pc (some k)
              | .error e => .bad e pc opc none

/-- What a split is about to issue (R157, R158, R378, R380). -/
def fetchSplit (s : State) (c : Crew) (x : Split) : Fetched :=
  match x.clause with
  | some k =>
    let pc := skipFrom s c x.pc
    if pc == k.stop then fetchAt s c pc none
    else if k.stop < pc then .bad .rclause pc 0 none
    else fetchAt s c pc (some k)
  | none =>
    let pc := skipFrom s c x.pc
    match clauseAt s c pc with
    | none => fetchAt s c pc none
    | some (b, h, stop) =>
      if b == pc then fetchAt s c pc none
      else if onInstr 64 s c (b + 8) stop pc then
        fetchAt s c pc (some (headerClause h b stop (skipFrom s c (b + 8) == pc)))
      else .bad .rclause pc 0 none

end Sys2Proof.Machine
end

