-- ==== Sys2Proof/Machine/Issue.lean ====
section
/-! DEFINITION. How every crew instruction issues (R61, R63, R174, R200, R374 to R376): the checks that its
encoding and registers meet, its outcome, and what follows it. -/

namespace Sys2Proof.Machine

/-- What the meaning of an instruction answers. -/
inductive Res where
  /-- its effects are done and the split goes on after it -/
  | done (s : State)
  /-- its effects are done, the split's place among them -/
  | jump (s : State)
  /-- it raises a precise exception: code, lane, virtual address, physical address where one was formed -/
  | trap (s : State) (e : Exc) (lane : Nat) (va pa : Option Nat)
  /-- its effects are done, and an error response came back for a lane: code `RREMOTE`, deferred -/
  | late (s : State) (lane : Nat) (va pa : Option Nat)
  /-- the split waits at it in a state -/
  | wait (s : State) (st : SplitState)

/-- A trap without an address, in lane 0. -/
def Res.exc (s : State) (e : Exc) : Res := .trap s e 0 none none

/-- The crew consists of a single split with no open divergence (R32). -/
def Crew.single (c : Crew) : Bool := c.splits.length ≤ 1 && c.divs.isEmpty

/-- The crew holds the lamp of its core. -/
def Env.holds (e : Env) (s : State) : Bool := (s.core e.core).holder == some e.id

/-- All live splits wait in a way that permits swap-out (R67). -/
def Crew.idle (c : Crew) : Bool :=
  !c.splits.isEmpty && c.splits.all (fun e =>
    match e.2.state with
    | .monitorWait | .contWait | .binWait => true
    | _ => false)

/-- Counts for how long the crew has been idle (R67): anew from its last change. -/
def noteIdle (s : State) (id : Nat) : State :=
  s.modCrew id (fun c =>
    { c with idleFor := if c.idle then some (c.idleFor.getD 0) else none })

/-- The split goes on after the instruction: past skipped units, no longer at its clause's first instruction
(R157). -/
def advance (s : State) (id entry len : Nat) : State :=
  match s.crew id with
  | none => s
  | some c =>
    match c.split entry with
    | none => s
    | some x =>
      let cl := x.clause.map (fun k => { k with first := false })
      s.setCrew id (c.setSplit entry
        { x with pc := skipFrom s c (x.pc + len), clause := cl, state := .ready, away := [], groups := [] })

/-- The split waits at the instruction. -/
def waitHere (s : State) (id entry : Nat) (st : SplitState) : State :=
  s.modCrew id (fun c => c.modSplit entry (fun x => { x with state := st }))

/-- What an outcome makes of the machine. (DEDUCED, log 55) -/
def settleRes (e : Env) (r : Res) : State :=
  match r with
  | .done s => noteIdle (advance s e.id e.entry e.len) e.id
  | .jump s => noteIdle s e.id
  | .wait s st => noteIdle (waitHere s e.id e.entry st) e.id
  | .late s lane va pa =>
    takeException (noteIdle (advance (tellExts s e.id e.entry e.pc s.clock) e.id e.entry e.len) e.id) e.id e.entry
      { exc := .rremote, lane := lane, va := va, pa := pa, opc := e.slot, pc := e.pc, deferred := true }
  | .trap s x lane va pa =>
    takeException s e.id e.entry
      { exc := x, lane := lane, va := va, pa := pa, opc := e.slot, pc := e.pc, deferred := false }

/-- Breaches of clause structure that an instruction's place shows (R380). -/
def Env.misplaced (e : Env) (s : State) : Bool :=
  match e.x.clause with
  | none => false
  | some k => placeBad s e.c k e.slot e.pc e.len

/-- The predicate fields carry a condition rather than predicate the form (R174, R206). -/
def condSlot (slot : Nat) : Bool := slot == 0x008 || slot == 0x009 || slot == 0x149

/-- The checks of steps 1 and 2 of R375 that a decoded instruction meets. -/
def Env.firstCheck (e : Env) (i : Instr) (s : State) : Option Exc :=
  if e.misplaced s then some .rclause
  else
    match checkWord i with
    | some x => some x
    | none => if e.regsOk s then none else some .rreg

/-- One instruction of a split (R375): an awaited register sends it to the refuge, a uniform form that does not
act has no effect but its marks (R80, R200), an engine form needs the lamp (R388). Lost granules among its sources are
found as it reads them (R366), but leave nothing where it raises a precise exception, after which only `DEAD` stands
(R374). -/
def Env.run (e : Env) (i : Instr) (s : State) (body : Env → State → Res) : Res :=
  match e.firstCheck i s with
  | some x => .exc s x
  | none =>
    if e.mustAwait s then .wait s .refuge
    else if e.form.uniform && e.form.pred && !condSlot e.slot && !e.acts then .done (e.endUses s)
    else if e.form.engine && !e.holds s then .exc s .rlamp
    else
      match body e (e.foundLost s) with
      | .trap t x lane va pa => if e.meetsLost s then body e s else .trap t x lane va pa
      | r => r

/-- The instruction at issue for the acting split; none when no such split acts. -/
def envOf (i : Instr) (s : State) : Option Env :=
  match s.actor, i.word with
  | .split id entry, some (slot, f) =>
    match s.crew id, rowOf slot with
    | some c, some r =>
      match c.split entry with
      | some x =>
        some { id := id, entry := entry, c := c, x := x, slot := slot, f := seenFields slot f, form := r.form,
               len := 4 * unitsOf f.ext.lenCode }
      | none => none
    | _, _ => none
  | _, _ => none

/-- Executes a crew's instruction for the acting split. -/
def issue (i : Instr) (body : Env → State → Res) (s : State) : Host.Outcome State Fault Refusal :=
  match envOf i s with
  | some e => .next (settleRes e (e.run i s body))
  | none => .fault .noActor

/-- The value of a uniform source, with `DEAD` set when it was dead. -/
def Env.uniVal (e : Env) (s : State) (o : Opnd) : Word × State :=
  let r := e.read s.clock o 0
  (r.1, e.dead s r.2)

end Sys2Proof.Machine
end

