-- ==== Sys2Proof/Machine/Shapes.lean ====
section
/-! DEFINITION. Tile shape records (R106) and the addresses formed through them (R107, R209, R210). Offsets are
exact integers in bits, so that a 4-bit element has its half byte. -/

namespace Sys2Proof.Machine

/-- A field of a shape record. -/
def shpField (t : Shape) (hi lo : Nat) : Nat := bitsOf t.toNat hi lo

def shpBase (t : Shape) : Nat := shpField t 56 0
def shpSpace (t : Shape) : Bool := t.getLsbD 57
def shpFmt (t : Shape) : Nat := shpField t 61 58
def shpClip (t : Shape) : Nat := shpField t 63 62
def shpNdim (t : Shape) : Nat := shpField t 66 64
def shpSwz (t : Shape) : Nat := shpField t 69 67
/-- Extent of dimension i: the field holds it less one. -/
def shpExt (t : Shape) (i : Nat) : Nat := shpField t (72 + 16 * i + 15) (72 + 16 * i) + 1
def shpStride1 (t : Shape) : Nat := shpField t 223 184
def shpStride2 (t : Shape) : Nat := shpField t 255 224
/-- Element size in bits. -/
def shpBits (t : Shape) : Nat := typeBits (shpFmt t)

/-- A record that no address is formed through (Table 22-7, Table 22-9). -/
def shpBad (t : Shape) : Bool := shpNdim t == 7 || shpClip t == 3 || shpSwz t == 7

/-- Stride of a dimension in bits. -/
def shpStride (t : Shape) : Nat → Nat
  | 0 => shpBits t
  | 1 => if shpStride1 t != 0 then 8 * shpStride1 t else shpExt t 0 * shpStride t 0
  | 2 => if shpStride2 t != 0 then 1024 * shpStride2 t else shpExt t 1 * shpStride t 1
  | n + 3 => shpExt t (n + 2) * shpStride t (n + 2)

/-- The coordinate lies within its extent. -/
def shpWithin (t : Shape) (i : Nat) (x : Int) : Bool := 0 ≤ x && x < shpExt t i

/-- A coordinate after its policy; under `CLIP` 00 as it stands. -/
def shpClipped (t : Shape) (i : Nat) (x : Int) : Int :=
  match shpClip t with
  | 1 => min (max x 0) (shpExt t i - 1)
  | 2 => x % (shpExt t i : Int)
  | _ => x

/-- The exact sum in bits. -/
def shpSum (t : Shape) (xs : List Int) : Int :=
  (List.range (shpNdim t + 1)).foldl (fun (a : Int) i => a + shpClipped t i (xs.getD i 0) * (shpStride t i : Int))
    (8 * (shpBase t : Int))

/-- The byte address of an exact sum: sign-extended from bit 56, or swizzled and cut to 19 bits (R107). -/
def shpByte (t : Shape) (bits : Int) : Nat :=
  let a := bits / 8
  if shpSpace t then
    let n := (a % 2 ^ 19).toNat
    let s := shpSwz t
    n ^^^ (n / 2 ^ 9 % 2 ^ s * 8)
  else
    let n := (a % 2 ^ 57).toNat
    if n.testBit 56 then n + (2 ^ 64 - 2 ^ 57) else n

/-- The nibble bit: 1 for the high half of the byte. -/
def shpNib (bits : Int) : Nat := (bits / 4 % 2).toNat

/-- Every coordinate lies within its extent (`vinrt`, R209). -/
def shpInside (t : Shape) (xs : List Int) : Bool :=
  (List.range (shpNdim t + 1)).all (fun i => shpWithin t i (xs.getD i 0))

/-- A tensor address (R107): byte address and nibble bit; none for an element outside its extents under
`CLIP` 00. -/
def shpAddr (t : Shape) (xs : List Int) : Option (Nat × Nat) :=
  if shpClip t == 0 && !shpInside t xs then none
  else
    let b := shpSum t xs
    some (shpByte t b, shpNib b)

/-- The result of `sadrt` and `vadrt` (R210). -/
def shpAdrt (t : Shape) (xs : List Int) : Word :=
  let b := shpSum t xs
  let a := shpByte t b
  BitVec.ofNat 64 (if shpBits t == 4 then 2 * a + shpNib b else a)

/-- A shape record with a 64-bit part replaced (`sshpw`). -/
def shpSetPart (t : Shape) (q : Nat) (w : Word) : Shape :=
  let lo := t.toNat % 2 ^ (64 * q)
  let hi := t.toNat / 2 ^ (64 * (q + 1))
  BitVec.ofNat 256 (lo + 2 ^ (64 * q) * w.toNat + 2 ^ (64 * (q + 1)) * hi)

/-- `sshpb`: `BASE` advanced within its space (R209). -/
def shpAddBase (t : Shape) (w : Word) : Shape :=
  let n := if shpSpace t then 19 else 57
  let b := (shpBase t + w.toNat) % 2 ^ n
  BitVec.ofNat 256 (t.toNat / 2 ^ 57 * 2 ^ 57 + b)

/-- A signed 64-bit coordinate. -/
def coordOf (w : Word) : Int := readInt true 64 w.toNat

end Sys2Proof.Machine
end

