-- ==== Sys2Proof/Machine/Lanes.lean ====
section
/-! DEFINITION. Memory operands of crew instructions: addresses (R166, R240 to R242), the checks of every acting
lane before any effect (R375 step 5), fences and context timestamps (R118 to R120, R131), and the loads and
stores of a lane (R99 to R102, R115, R131, R243, R244). -/

namespace Sys2Proof.Machine

/-- Why a lane fails: the code, the addresses for its record, and whether a table walk met poison. -/
structure LaneFail where
  exc : Exc
  va : Option Nat
  pa : Option Nat
  poison : Option Nat
  /-- what its walk read -/
  upd : Upd
  deriving DecidableEq, Repr

def LaneFail.of (e : Exc) (va : Option Nat) : LaneFail := ⟨e, va, none, none, []⟩

/-- A failed translation of an access at `va`. -/
def XFail.lane (f : XFail) (va : Nat) : LaneFail := ⟨f.exc, some va, f.pa, f.poison, f.upd⟩

/-- Checks lanes in ascending order up to the first that fails; the flag says that a dead register was read on
the way (R374, R383). -/
def checkLanes {α : Type} (ls : List Nat) (k : Nat → Bool × Except LaneFail α) :
    Bool × Except (Nat × LaneFail) (List (Nat × α)) :=
  match ls with
  | [] => (false, .ok [])
  | l :: r =>
    let x := k l
    match x.2 with
    | .error f => (x.1, .error (l, f))
    | .ok a =>
      let y := checkLanes r k
      match y.2 with
      | .error f => (x.1 || y.1, .error f)
      | .ok as => (x.1 || y.1, .ok ((l, a) :: as))

/-- The trap of a failing lane. -/
def Env.laneTrap (e : Env) (s : State) (f : Nat × LaneFail) : Res :=
  .trap (walkPoison (noteWalk s f.2.upd) e.die (some e.id) e.entry (f.2.va.getD 0) f.2.poison) f.2.exc f.1 f.2.va f.2.pa

/-- Runs the lane checks, sets `DEAD`, and goes on with what the lanes found. -/
def Env.withLanes {α : Type} (e : Env) (s : State) (ls : List Nat) (k : Nat → Bool × Except LaneFail α)
    (go : List (Nat × α) → State → Res) : Res :=
  let r := checkLanes ls k
  let s := e.dead s r.1
  match r.2 with
  | .error f => e.laneTrap s f
  | .ok as => go as s

/-- The lanes of a memory form: one, with no lane, for a uniform form. -/
def Env.memLanes (e : Env) : List Nat := if e.form.uniform then [0] else e.acting

/-- Who accesses, for the assayers. -/
def Env.who (e : Env) (origin : Nat) (x : Xlate) : Who :=
  { ctx := e.ctx, cls := x.e.aclass, va := x.va, origin := origin, core := e.core, path := min 1 origin, crew := some e.id,
    split := e.entry }

/-- Translates for the crew. -/
def Env.xlate (e : Env) (s : State) (va : Nat) (need : Need) : Except LaneFail Xlate :=
  match translate s (askCore e.core) e.ctx va need with
  | .error f => .error (f.lane va)
  | .ok x => .ok x

/-- The crew's program timestamp rises (R115, R120). -/
def Env.raisePts (e : Env) (s : State) (ts : Nat) : State := s.modCrew e.id (fun c => { c with pts := max c.pts ts })

/-- The split observes the completion of the crew's engine work (R120, R126). -/
def Env.observe (e : Env) (s : State) : State := s.modCrew e.id (fun c => { c with pts := max c.pts c.engTs })

/-- Scopes of `.dev` or wider (R118, R119). -/
def wideScope (sc : Nat) : Bool := 5 ≤ sc

/-- Requests that a fence of a scope waits for: those of the split and of the crew's engine work (split 16) to
host memory and CXL.io under `.host` and `.io`, to peer windows under `.peer`, and all under `.sys`; and, under
`.assay` and `.sys`, messages of the split that no slice has accepted yet (R120, R131, R252). -/
def Env.fenceWaits (e : Env) (s : State) (sc : Nat) : Bool :=
  ((sc == 6 || sc == 10) && s.amsgs.any (fun a => a.2.crew == e.id && a.2.split == e.entry && !a.2.accepted)) ||
  s.exts.any (fun x => x.2.crew == e.id && (x.2.split == e.entry || x.2.split == 16) &&
    (match sc with
      | 7 | 9 => isHost x.2.pa
      | 8 => isPeer x.2.pa
      | 10 => true
      | _ => false))

/-- What a fence leaves (R118, R120): the crew's reductions have joined their lines. -/
def Env.fenced (e : Env) (s : State) (sc : Nat) : State :=
  let s := joinAll s e.id
  match s.crew e.id with
  | some c => if wideScope sc then raiseCtx s e.ctx c.pts else s
  | none => s

/-- The signed offset of the memory form. -/
def Env.memOff (e : Env) : Int :=
  match e.f.ext with
  | .mem m => readInt true 32 m.moff.toNat
  | _ => 0

/-- The shape record of a tensor address. -/
def Env.memShape (e : Env) : Option Shape :=
  match e.f.ext with
  | .mem m => if m.mten then some (e.c.tAt m.mshp.toNat) else none
  | _ => none

/-- Number of coordinate registers. -/
def Env.memCount (e : Env) : Nat :=
  match e.f.ext with
  | .mem m => m.mcnt.toNat
  | _ => 0

/-- An address with its space (stash or global) and whether a swizzle forms it. -/
structure Addr where
  a : Nat
  stash : Bool
  swz : Bool
  deriving DecidableEq, Repr

/-- The address of a lane (R107, R166, R241, R242); none for an element outside its extents. The flag says that
a register was dead. `x0` and `MOFF` add exactly, also beyond 64 signed bits, where neither R107 nor R166 says whether
the sum wraps (DESIGN CHOICE, log 83). -/
def Env.address (e : Env) (clock : Nat) (stashForm : Bool) (l : Nat) : Bool × Option Addr :=
  match e.memShape with
  | some t =>
    let rs := (List.range e.memCount).map (fun i => e.read clock (e.coordOpnd i) l)
    let xs := rs.map (fun r => coordOf r.1)
    let xs := (xs.headD 0 + e.memOff) :: xs.drop 1
    (rs.any Prod.snd, (shpAddr t xs).map (fun a => ⟨a.1, shpSpace t, shpSpace t && shpSwz t != 0⟩))
  | none =>
    let r := e.read clock e.srcA l
    (r.2, some ⟨(((r.1.toNat : Int) + e.memOff) % 2 ^ 64).toNat, stashForm, false⟩)

/-- A tensor operand that stops the instruction at issue (Table 22-9): a reserved record field, or the stash
space where the form must name the global space. -/
def Env.tensorBad (e : Env) (globalOnly : Bool) : Bool :=
  match e.memShape with
  | some t => shpBad t || (globalOnly && shpSpace t)
  | none => false

/-- Where a lane's access goes. -/
inductive Target where
  | nothing
  | glob (x : Xlate)
  | stash (entry a : Nat)
  deriving DecidableEq, Repr

/-- A page of a dependence slot, or of a collective's range, must be coherent (R42, R190, R255). -/
def coherentOnly (va : Nat) (x : Xlate) : Except LaneFail Xlate :=
  if x.e.cmode == 0 then .ok x else .error ⟨.rperm, some va, some x.pa, none, []⟩

/-- Of several translations of one lane the first that fails, in the order of step 5 of R375: every `RXLATE` goes before
an `RPERM`. -/
def firstFail (l : List (Except LaneFail Xlate)) : Except LaneFail (List Xlate) :=
  let fs := l.filterMap (fun r =>
    match r with
    | .error f => some f
    | .ok _ => none)
  match [Exc.ralign, .rstash, .rxlate].findSome? (fun x => fs.find? (fun f => f.exc == x)), fs with
  | some f, _ => .error f
  | none, f :: _ => .error f
  | none, [] => .ok (l.filterMap (fun r =>
      match r with
      | .error _ => none
      | .ok x => some x))

/-- The lines that a stash access must fill translate, the access's own line as the access itself; a managed
page outside HBM takes no mirror (Table 05-4). -/
def Env.fillCheck (e : Env) (s : State) (entry : Nat) (m : Mapping) (write : Bool) (gs : List Seg) :
    Except LaneFail Unit :=
  let vas := gs.flatMap (fun g => (fillVas s e.core entry e.c.pts m g write).map (fun v => (v, fillNeed m g write v)))
  vas.foldl (fun r v =>
    match r with
    | .error f => .error f
    | .ok _ =>
      match e.xlate s v.1 v.2 with
      | .error f => .error f
      | .ok x => if x.e.cmode == 1 && !isHbm x.pa then .error ⟨.rperm, some v.1, some x.pa, none, []⟩ else .ok ()) (.ok ())

/-- A stash access (Table 22-9, R464): the mapping that shows its bytes. -/
def Env.stashTarget (e : Env) (s : State) (ad : Addr) (n : Nat) (write : Bool) : Except LaneFail Target :=
  if 2 ^ 19 ≤ ad.a then .error (LaneFail.of .rstash (some ad.a))
  else
    match findMap s e.core e.ctx ad.a n with
    | none => .error (LaneFail.of .rstash (some ad.a))
    | some (entry, m) =>
      if ad.swz && m.desc.mode != 3 then .error (LaneFail.of .rstash (some ad.a))
      else
        let gs := m.segs ad.a n
        match e.fillCheck s entry m write gs with
        | .error f => .error f
        | .ok _ =>
          match gs.find? (fun g => write && lineNoW m g) with
          | some g => .error (LaneFail.of .rperm (some (g.va.getD ad.a)))
          | none => .ok (.stash entry ad.a)

/-- The checks of one lane's access of `n` bytes: alignment, then the stash or the translation (R375 step 5). -/
def Env.target (e : Env) (s : State) (stashForm : Bool) (n : Nat) (need : Need) (l : Nat) :
    Bool × Except LaneFail Target :=
  let r := e.address s.clock stashForm l
  (r.1,
    match r.2 with
    | none => .ok .nothing
    | some ad =>
      if ad.a % n != 0 then .error (LaneFail.of .ralign (some ad.a))
      else if ad.stash then e.stashTarget s ad n need.w
      else
        match e.xlate s ad.a need with
        | .error f => .error f
        | .ok x => .ok (.glob x))

/-- The translations of the mirror lines that an access must fill. -/
def fillXlates (s : State) (ask : Asker) (core ctx entry pts : Nat) (gs : List Seg) (write : Bool) : List Xlate :=
  match tabGet (s.core core).maps entry with
  | none => []
  | some m =>
    gs.flatMap (fun g => (fillVas s core entry pts m g write).filterMap (fun v =>
      match translate s ask ctx v (fillNeed m g write v) with
      | .ok x => some x
      | .error _ => none))

/-- An access of stockpile bytes meets the refresh window of a group that it has still to access (R110). -/
def groupsWait (s : State) (pas got : List Nat) : Bool :=
  pas.any (fun a => refreshing s a && !got.contains (bankGroup a))

/-- The groups that such an access has accessed once the others' windows alone hold it back. -/
def groupsGot (s : State) (pas got : List Nat) : List Nat :=
  (pas.filter (fun a => isStockpile a && !refreshing s a)).foldl (fun g a => setAdd g (bankGroup a)) got

/-- The stockpile bytes that the mirror fills of a lane's access read. -/
def Env.fillReads (e : Env) (s : State) (n : Nat) (write : Bool) (t : Target) : List Nat :=
  match t with
  | .stash entry a =>
    match tabGet (s.core e.core).maps entry with
    | some m => (fillXlates s (askCore e.core) e.core e.ctx entry e.c.pts (m.segs a n) write).map (fun x => stockPa e.die x.pa)
    | none => []
  | _ => []

/-- A mirror line that a lane's access must fill lies in a stockpile group in its refresh window: the access waits
(R110). -/
def Env.targetWaits (e : Env) (s : State) (n : Nat) (write : Bool) (t : Target) : Bool :=
  groupsWait s (e.fillReads s n write t) e.x.groups

/-- The split waits at an access with mirror fills: those that meet no refresh window have been read (R110). -/
def Env.waitFills (e : Env) (s : State) (pas : List Nat) : State :=
  if groupsWait s pas e.x.groups then
    s.modCrew e.id (fun c => c.modSplit e.entry (fun x => { x with groups := groupsGot s pas x.groups }))
  else s

/-- Fills the lines of a piece of a stash access (R101, R102). -/
def fillSeg (s : State) (ask : Asker) (core ctx entry pts origin : Nat) (m : Mapping) (g : Seg) (write : Bool)
    (finder : Option Nat) :
    Nat × State :=
  let vas := fillVas s core entry pts m g write
  let xs := vas.filterMap (fun v =>
    match translate s ask ctx v (fillNeed m g write v) with
    | .ok x => some x
    | .error _ => none)
  let s := xs.foldl (fun s x => noteXlate s ask x) s
  fillLines s core entry pts g xs (fun x =>
    { ctx := ctx, cls := x.e.aclass, va := x.va, origin := origin, core := core, crew := finder })

/-- The agent's description for a piece's own line, with its page's class where its store has to fetch the line at its
home again (R299). -/
def segWho (s : State) (ask : Asker) (core ctx crew origin : Nat) (g : Seg) : Who :=
  let cls := match g.va with
    | none => 0
    | some va =>
      match translate s ask ctx va needR with
      | .ok x => x.e.aclass
      | .error _ => 0
  { ctx := ctx, cls := cls, va := g.va.getD 0, origin := origin, core := core, crew := some crew }

/-- The home refuses a mirror fill that an access needs: a private page of another core (R96, R405). -/
def fillRefused (s : State) (ask : Asker) (core ctx entry pts a n : Nat) (write : Bool) : Option Xlate :=
  match tabGet (s.core core).maps entry with
  | none => none
  | some m =>
    (fillXlates s ask core ctx entry pts (m.segs a n) write).find? (fun x => (refusal s x core false).isSome)

/-- A stash load by any agent of a core (R101, R102, R244). -/
def stashLoad (s : State) (ask : Asker) (core ctx crew entry pts origin a n : Nat) : Got :=
  match tabGet (s.core core).maps entry with
  | none => ⟨List.replicate n 0, false, pts, s⟩
  | some m0 =>
    let s := useMap s core entry
    (m0.segs a n).foldl (fun (r : Got) g =>
      let f := fillSeg r.st ask core ctx entry r.pts origin m0 g false (some crew)
      match tabGet (f.2.core core).maps entry with
      | none => { r with st := f.2 }
      | some m =>
        let q := readSeg f.2 core entry f.1 m g (segWho f.2 ask core ctx crew origin g)
        ⟨r.bytes ++ q.bytes, r.bad || q.bad, q.pts, q.st⟩) ⟨[], false, pts, s⟩

/-- A stash store by any agent of a core. -/
def stashStore (s : State) (ask : Asker) (core ctx crew entry pts origin a : Nat) (bs : List Byte) : Put :=
  match tabGet (s.core core).maps entry with
  | none => ⟨[], pts, s⟩
  | some m0 =>
    let s := useMap s core entry
    (m0.segs a bs.length).foldl (fun (r : Put) g =>
      let f := fillSeg r.st ask core ctx entry r.pts origin m0 g true (some crew)
      match tabGet (f.2.core core).maps entry with
      | none => { r with st := f.2 }
      | some m =>
        let q := writeSeg f.2 core entry f.1 m g ((bs.drop (g.sa - a)).take g.n) (segWho f.2 ask core ctx crew origin g)
        ⟨r.cov ++ q.cov, q.pts, q.st⟩) ⟨[], pts, s⟩

/-- What a lane's load came to. -/
inductive LaneGot where
  | data (bs : List Byte) (bad : Bool)
  | sent
  | refused (va pa : Nat)

/-- The scope of an atomic or of a reduction (R249, R250, R251). -/
def Env.scope (e : Env) : Nat :=
  match e.slot with
  | 0x330 | 0x332 | 0x350 | 0x351 => (e.f.ext.memExt.map (fun m => m.mscp.toNat)).getD 0
  | 0x331 | 0x333 => e.var
  | _ => 0

/-- The scope of an atomic or a reduction covers the agents at its target beyond the module. -/
def Env.holdsBack (e : Env) (pa : Nat) : Bool :=
  match e.scope with
  | 7 | 9 => isHost pa
  | 8 => isPeer pa
  | 10 => true
  | _ => false

/-- A request of a lane to beyond the module, or one that waits out a refresh window. -/
def Env.ext (e : Env) (kind : ExtKind) (l : Nat) (x : Xlate) (size : Nat) (data : List Byte) (clock : Nat) : Ext :=
  { kind := kind, crew := e.id, split := e.entry, lane := l, core := e.core, ctx := e.ctx, va := x.va, pa := x.pa,
    size := size, dst := e.dst, ty := e.ty, x2 := e.x2 && (e.slot == 0x300 || e.slot == 0x304), data := data,
    op := e.var, pc := e.pc, slot := e.slot, sentAt := clock, sends := 1, hold := e.holdsBack x.pa,
    told := false }

/-- After a refusal the chiplet's TLBs note the owner core (R405). -/
def noteOwner (s : State) (x : Xlate) (die reason : Nat) : State :=
  if reason == 1 then
    match privOwner s x with
    | some o => notePrivRefusal s x die o
    | none => s
  else s

/-- A refused read meets a fault: it is recorded with no consumer (R373). -/
def unconsumed (s : State) (pa n : Nat) (f : Finder) : State :=
  if isHbm pa then { detect s pa n { f with crew := none } with caught := s.caught } else s

/-- A crew's access is refused. -/
def Env.noteRefused (e : Env) (s : State) (x : Xlate) (reason n : Nat) (write : Bool) : State :=
  let s := noteOwner s x e.die reason
  if write then s else unconsumed s x.pa n (e.who 0 x).finder

/-- The load of one lane. -/
def Env.loadLane (e : Env) (s : State) (pts n l : Nat) (t : Target) : LaneGot × Nat × State :=
  match t with
  | .nothing => (.data (List.replicate n 0) false, pts, s)
  | .stash entry a =>
    match fillRefused s (askCore e.core) e.core e.ctx entry pts a n false with
    | some x => (.refused x.va x.pa, pts, e.noteRefused (noteXlate s (askCore e.core) x) x 1 n false)
    | none =>
      let r := stashLoad s (askCore e.core) e.core e.ctx e.id entry pts 0 a n
      (.data r.bytes r.bad, r.pts, r.st)
  | .glob x =>
    let s := noteXlate s (askCore e.core) x
    let stock := stockPa e.die x.pa
    match refusal s x e.core false with
    | some r => (.refused x.va x.pa, pts, e.noteRefused s x r n false)
    | none =>
      if isHost x.pa || isPeer x.pa || refreshing s stock then
        let x' := { x with pa := stock }
        (.sent, pts, sendExt s (e.ext (if e.form.uniform then .uload else .vload) l x' n [] s.clock) (some (e.who 0 x)))
      else if isStockpile stock then
        let s := detect s stock n (e.who 0 x).finder
        let r := readBytes s stock n
        (.data r.1 r.2, pts, s)
      else
        let r := loadHbm (claimPriv s x e.core) e.core pts x.e.cmode x.pa n (e.who 0 x)
        (.data r.bytes r.bad, r.pts, r.st)

/-- Loads of all lanes in order: what each came to, the timestamp and the state. (DESIGN CHOICE, log 54) -/
def Env.loadAll (e : Env) (s : State) (n : Nat) (ts : List (Nat × Target)) : List (Nat × LaneGot) × Nat × State :=
  ts.foldl (fun (a : List (Nat × LaneGot) × Nat × State) t =>
    let r := e.loadLane a.2.2 a.2.1 n t.1 t.2
    (a.1 ++ [(t.1, r.1)], r.2.1, r.2.2)) ([], e.c.pts, s)

/-- A store beyond the core's stash that nothing refuses: it leaves the module, or is performed at its home. -/
def Env.storeTaken (e : Env) (s : State) (pts l : Nat) (bs : List Byte) (x : Xlate) : Put :=
  if isHost x.pa || isPeer x.pa then ⟨[], pts, sendExt s (e.ext .store l x bs.length bs s.clock) (some (e.who 1 x))⟩
  else storeHbm (claimPriv s x e.core) e.core pts x.e.cmode x.pa bs (e.who 1 x)

/-- The store of one lane: covers, timestamp, state, and the addresses of a refusal. -/
def Env.storeLane (e : Env) (s : State) (pts l : Nat) (bs : List Byte) (t : Target) : Put × Option (Nat × Nat) :=
  match t with
  | .nothing => (⟨[], pts, s⟩, none)
  | .stash entry a =>
    match fillRefused s (askCore e.core) e.core e.ctx entry pts a bs.length true with
    | some x => (⟨[], pts, e.noteRefused (noteXlate s (askCore e.core) x) x 1 bs.length true⟩, some (x.va, x.pa))
    | none => (stashStore s (askCore e.core) e.core e.ctx e.id entry pts 1 a bs, none)
  | .glob x =>
    let s := noteXlate s (askCore e.core) x
    match refusal s x e.core true with
    | some r => (⟨[], pts, e.noteRefused s x r bs.length true⟩, some (x.va, x.pa))
    | none => (e.storeTaken s pts l bs x, none)

/-- After a write to host memory has left, the monitors armed on its words at their home look at the values that pass
through; the bytes of a word that the write leaves alone are free (R65, R66, DEDUCED, log 38). -/
def extMonitors (s : State) (pa : Nat) (bs : List Byte) : State :=
  match home s pa with
  | none => s
  | some l =>
    let sl := s.slice l
    if sl.monitors.all (fun m => !(pa / 8 ≤ m.pa / 8 && m.pa / 8 ≤ (pa + bs.length - 1) / 8)) then s
    else
      (List.range ((pa + bs.length - 1) / 8 - pa / 8 + 1)).foldl (fun s i =>
        let k := pa / 8 + i
        let d := s.draw
        let w : Word := leWord ((List.range 8).map (fun j =>
          let a := 8 * k + j
          if pa ≤ a then (bs[a - pa]?).getD ((Config.freeWord d.1).extractLsb' (8 * j) 8)
          else (Config.freeWord d.1).extractLsb' (8 * j) 8))
        let s := if pa ≤ 8 * k && 8 * k + 8 ≤ pa + bs.length then s else d.2
        let hit : Monitor → Bool := fun m => m.pa / 8 == k && compareWord m.cmp m.signed w m.comparand
        if sl.monitors.any hit then
          let s := s.modSlice l (fun x => { x with monitors := x.monitors.filter (fun m => !hit m) })
          (sl.monitors.filter hit).foldl (fun s m => completeWait s m.crew m.entry w 0 false) s
        else s) s

/-- What a lane's refusal leaves for the whole instruction. -/
abbrev LateLane := Option (Nat × Nat × Nat)

/-- The outcome after a lane-by-lane form: the first refused lane raises `RREMOTE` (R375, R404). -/
def lateOr (s : State) (l : LateLane) : Res :=
  match l with
  | some (lane, va, pa) => .late s lane (some va) (some pa)
  | none => .done s

/-- Runs an effect in each lane, in ascending order, keeping the first refusal. -/
def eachLane {α : Type} (s : State) (ls : List (Nat × α)) (f : State → Nat → α → State × Option (Nat × Nat)) :
    State × LateLane :=
  ls.foldl (fun (a : State × LateLane) t =>
    let r := f a.1 t.1 t.2
    (r.1, match a.2, r.2 with
      | none, some q => some (t.1, q.1, q.2)
      | q, _ => q)) (s, none)

/-- Bytes that come from outside the module: free values (DESIGN CHOICE, log 15). -/
def freeBytes (n : Nat) (s : State) : List Byte × State :=
  let words := (n + 7) / 8
  (((List.range words).flatMap (fun i => wordBytes (Config.freeWord (s.free + i)))).take n,
    { s with free := s.free + words })

/-- The engines of a context are stopped (R50, R70). -/
def stopped (s : State) (ctx : Nat) : Bool :=
  match (s.ctx ctx).preempt with
  | .halted | .saved => true
  | _ => false

/-- One level of the tree of R149 over a list: neighbours combine, a last one rises alone. -/
def treeLevel {α : Type} (f : α → α → α) (l : List α) : List α :=
  match l with
  | a :: b :: r => f a b :: treeLevel f r
  | r => r

end Sys2Proof.Machine
end

