-- ==== Sys2Proof/Machine/Rv.lean ====
section
/-! DEFINITION. The RV64I base with the M and C extensions, which an assayer's handler runs (R296, R297, R314).
The manual names this instruction set and leaves its encodings and effects to the RISC-V standard (PRESUMED, log 8). -/

namespace Sys2Proof.Machine

/-- The words of a 32-bit instruction by its RISC-V format. -/
def rvR (op f3 f7 rd a b : Nat) : Nat := op + 2 ^ 7 * rd + 2 ^ 12 * f3 + 2 ^ 15 * a + 2 ^ 20 * b + 2 ^ 25 * f7
def rvI (op f3 rd a imm : Nat) : Nat := op + 2 ^ 7 * rd + 2 ^ 12 * f3 + 2 ^ 15 * a + 2 ^ 20 * (imm % 2 ^ 12)
def rvS (f3 a b imm : Nat) : Nat :=
  0x23 + 2 ^ 7 * (imm % 32) + 2 ^ 12 * f3 + 2 ^ 15 * a + 2 ^ 20 * b + 2 ^ 25 * (imm / 32 % 128)
def rvB (f3 a b imm : Nat) : Nat :=
  0x63 + 2 ^ 7 * (imm / 2048 % 2) + 2 ^ 8 * (imm / 2 % 16) + 2 ^ 12 * f3 + 2 ^ 15 * a + 2 ^ 20 * b +
    2 ^ 25 * (imm / 32 % 64) + 2 ^ 31 * (imm / 4096 % 2)
def rvJ (rd imm : Nat) : Nat :=
  0x6F + 2 ^ 7 * rd + 2 ^ 12 * (imm / 2 ^ 12 % 256) + 2 ^ 20 * (imm / 2048 % 2) + 2 ^ 21 * (imm / 2 % 1024) +
    2 ^ 31 * (imm / 2 ^ 20 % 2)

/-- A signed immediate of `n` bits as a field value. -/
def sextNat (n to_ x : Nat) : Nat := (signExt n x % 2 ^ to_).toNat

/-- A compressed word of quadrant 0 as the 32-bit word that it stands for. -/
def rvc0 (h : Nat) : Option Nat :=
  let rd := 8 + bitsOf h 4 2
  let ra := 8 + bitsOf h 9 7
  let w := 8 * bitsOf h 12 10 + 4 * bitsOf h 6 6 + 64 * bitsOf h 5 5
  let d := 8 * bitsOf h 12 10 + 64 * bitsOf h 6 5
  match bitsOf h 15 13 with
  | 0 =>
    let imm := 16 * bitsOf h 12 11 + 64 * bitsOf h 10 7 + 4 * bitsOf h 6 6 + 8 * bitsOf h 5 5
    if imm == 0 then none else some (rvI 0x13 0 rd 2 imm)
  | 2 => some (rvI 0x03 2 rd ra w)
  | 3 => some (rvI 0x03 3 rd ra d)
  | 6 => some (rvS 2 ra rd w)
  | 7 => some (rvS 3 ra rd d)
  | _ => none

/-- A compressed word of quadrant 1. -/
def rvc1 (h : Nat) : Option Nat :=
  let rd := bitsOf h 11 7
  let ra := 8 + bitsOf h 9 7
  let rb := 8 + bitsOf h 4 2
  let i6 := 32 * bitsOf h 12 12 + bitsOf h 6 2
  let imm := sextNat 6 12 i6
  let off := 32 * bitsOf h 2 2 + 2 * bitsOf h 4 3 + 64 * bitsOf h 6 5 + 8 * bitsOf h 11 10 + 256 * bitsOf h 12 12
  let br := sextNat 9 13 off
  match bitsOf h 15 13 with
  | 0 => some (rvI 0x13 0 rd rd imm)
  | 1 => if rd == 0 then none else some (rvI 0x1B 0 rd rd imm)
  | 2 => some (rvI 0x13 0 rd 0 imm)
  | 3 =>
    if i6 == 0 then none
    else if rd == 2 then
      let n := 512 * bitsOf h 12 12 + 16 * bitsOf h 6 6 + 64 * bitsOf h 5 5 + 128 * bitsOf h 4 3 + 32 * bitsOf h 2 2
      some (rvI 0x13 0 2 2 (sextNat 10 12 n))
    else some (0x37 + 2 ^ 7 * rd + 2 ^ 12 * sextNat 6 20 i6)
  | 4 =>
    match bitsOf h 11 10 with
    | 0 => some (rvI 0x13 5 ra ra i6)
    | 1 => some (rvI 0x13 5 ra ra (1024 + i6))
    | 2 => some (rvI 0x13 7 ra ra imm)
    | _ =>
      match bitsOf h 12 12, bitsOf h 6 5 with
      | 0, 0 => some (rvR 0x33 0 32 ra ra rb)
      | 0, 1 => some (rvR 0x33 4 0 ra ra rb)
      | 0, 2 => some (rvR 0x33 6 0 ra ra rb)
      | 0, _ => some (rvR 0x33 7 0 ra ra rb)
      | _, 0 => some (rvR 0x3B 0 32 ra ra rb)
      | _, 1 => some (rvR 0x3B 0 0 ra ra rb)
      | _, _ => none
  | 5 =>
    let n := 32 * bitsOf h 2 2 + 2 * bitsOf h 5 3 + 128 * bitsOf h 6 6 + 64 * bitsOf h 7 7 + 1024 * bitsOf h 8 8 +
      256 * bitsOf h 10 9 + 16 * bitsOf h 11 11 + 2048 * bitsOf h 12 12
    some (rvJ 0 (sextNat 12 21 n))
  | 6 => some (rvB 0 ra 0 br)
  | _ => some (rvB 1 ra 0 br)

/-- A compressed word of quadrant 2. -/
def rvc2 (h : Nat) : Option Nat :=
  let rd := bitsOf h 11 7
  let rb := bitsOf h 6 2
  match bitsOf h 15 13 with
  | 0 => some (rvI 0x13 1 rd rd (32 * bitsOf h 12 12 + rb))
  | 2 => if rd == 0 then none else some (rvI 0x03 2 rd 2 (32 * bitsOf h 12 12 + 4 * bitsOf h 6 4 + 64 * bitsOf h 3 2))
  | 3 => if rd == 0 then none else some (rvI 0x03 3 rd 2 (32 * bitsOf h 12 12 + 8 * bitsOf h 6 5 + 64 * bitsOf h 4 2))
  | 4 =>
    if bitsOf h 12 12 == 0 then
      if rb == 0 then (if rd == 0 then none else some (rvI 0x67 0 0 rd 0)) else some (rvR 0x33 0 0 rd 0 rb)
    else if rb == 0 then (if rd == 0 then some 0x00100073 else some (rvI 0x67 0 1 rd 0))
    else some (rvR 0x33 0 0 rd rd rb)
  | 6 => some (rvS 2 2 rb (4 * bitsOf h 12 9 + 64 * bitsOf h 8 7))
  | 7 => some (rvS 3 2 rb (8 * bitsOf h 12 10 + 64 * bitsOf h 9 7))
  | _ => none

/-- The 32-bit word that a handler's code stands for at its program counter, and its length in bytes. -/
def rvWord (w : Nat) : Option Nat × Nat :=
  match w % 4 with
  | 0 => (rvc0 (w % 2 ^ 16), 2)
  | 1 => (rvc1 (w % 2 ^ 16), 2)
  | 2 => (rvc2 (w % 2 ^ 16), 2)
  | _ => (if w % 32 / 4 == 7 then none else some (w % 2 ^ 32), 4)

/-- A handler's register; `x0` is 0 and takes no write. -/
def rvGet (t : Tab Word) (n : Nat) : Word := if n == 0 then 0 else (tabGet t n).getD 0
def rvSet (t : Tab Word) (n : Nat) (w : Word) : Tab Word := if n == 0 then t else tabPut t n w

/-- A word of 32 bits, sign-extended. -/
def sext32 (x : Word) : Word := (x.setWidth 32).signExtend 64

/-- Signed quotient and remainder as RISC-V gives them at a divisor of 0 and at overflow. -/
def rvDiv (n : Nat) (a b : Int) : Int := if b == 0 then -1 else if a == -2 ^ (n - 1) && b == -1 then a else a.tdiv b
def rvRem (n : Nat) (a b : Int) : Int := if b == 0 then a else if a == -2 ^ (n - 1) && b == -1 then 0 else a.tmod b

/-- A form of the M extension on `n` bits, sign-extended to 64. -/
def rvM (n f3 : Nat) (a b : Word) : Word :=
  let ua : Nat := a.toNat % 2 ^ n
  let ub : Nat := b.toNat % 2 ^ n
  let sa : Int := signExt n ua
  let sb : Int := signExt n ub
  let r : Int :=
    match f3 with
    | 0 => sa * sb
    | 1 => sa * sb / 2 ^ 64
    | 2 => sa * (ub : Int) / 2 ^ 64
    | 3 => ((ua * ub : Nat) : Int) / 2 ^ 64
    | 4 => rvDiv n sa sb
    | 5 => if ub == 0 then -1 else ((ua / ub : Nat) : Int)
    | 6 => rvRem n sa sb
    | _ => if ub == 0 then (ua : Int) else ((ua % ub : Nat) : Int)
  BitVec.ofInt 64 (signExt n (r % 2 ^ n).toNat)

/-- A base form on 64 bits: `alt` is bit 30 of the word. -/
def rvAlu (f3 : Nat) (alt : Bool) (a b : Word) : Word :=
  let sh : Nat := b.toNat % 64
  match f3 with
  | 0 => if alt then a - b else a + b
  | 1 => a <<< sh
  | 2 => if a.slt b then 1 else 0
  | 3 => if a.ult b then 1 else 0
  | 4 => a ^^^ b
  | 5 => if alt then a.sshiftRight sh else a >>> sh
  | 6 => a ||| b
  | _ => a &&& b

/-- A base form on 32 bits. -/
def rvAluW (f3 : Nat) (alt : Bool) (a b : Word) : Word :=
  let sh : Nat := b.toNat % 32
  let x : BitVec 32 := a.setWidth 32
  match f3 with
  | 0 => sext32 (if alt then a - b else a + b)
  | 1 => (x <<< sh).signExtend 64
  | _ => if alt then (x.sshiftRight sh).signExtend 64 else (x >>> sh).signExtend 64

/-- A branch is taken; none for a reserved code. -/
def rvTaken (f3 : Nat) (a b : Word) : Option Bool :=
  match f3 with
  | 0 => some (a == b)
  | 1 => some (a != b)
  | 4 => some (a.slt b)
  | 5 => some (!a.slt b)
  | 6 => some (a.ult b)
  | 7 => some (!a.ult b)
  | _ => none

/-- What an instruction of the base comes to. -/
inductive RvOut where
  /-- registers, the next program counter, cycles -/
  | go (regs : Tab Word) (pc cost : Nat)
  /-- a load from data memory: destination, bytes, signed, address -/
  | load (rd n : Nat) (signed : Bool) (a : Nat)
  /-- a store to data memory: bytes, address, value -/
  | store (n a v : Nat)
  | call
  | bad

/-- Executes a word of RV64IM at a program counter; `len` is the bytes that it takes (R297, R314). -/
def rvExec (t : Tab Word) (pc w len : Nat) : RvOut :=
  let rd := bitsOf w 11 7
  let f3 := bitsOf w 14 12
  let a := rvGet t (bitsOf w 19 15)
  let b := rvGet t (bitsOf w 24 20)
  let f7 := bitsOf w 31 25
  let alt := w.testBit 30
  let next : Nat := (pc + len) % 2 ^ 64
  let immI : Word := BitVec.ofInt 64 (signExt 12 (bitsOf w 31 20))
  let immU : Word := BitVec.ofInt 64 (signExt 32 (w / 2 ^ 12 * 2 ^ 12 % 2 ^ 32))
  let put : Word → Nat → RvOut := fun v c => .go (rvSet t rd v) next c
  match bitsOf w 6 0 with
  | 0x37 => put immU 1
  | 0x17 => put (BitVec.ofNat 64 pc + immU) 1
  | 0x6F =>
    let j := bitsOf w 30 21 * 2 + bitsOf w 20 20 * 2048 + bitsOf w 19 12 * 4096 + bitsOf w 31 31 * 2 ^ 20
    .go (rvSet t rd (BitVec.ofNat 64 next)) (((pc : Int) + signExt 21 j) % 2 ^ 64).toNat 2
  | 0x67 =>
    if f3 != 0 then .bad
    else .go (rvSet t rd (BitVec.ofNat 64 next)) ((a + immI).toNat / 2 * 2) 2
  | 0x63 =>
    let j := bitsOf w 11 8 * 2 + bitsOf w 30 25 * 32 + bitsOf w 7 7 * 2048 + bitsOf w 31 31 * 4096
    match rvTaken f3 a b with
    | none => .bad
    | some true => .go t (((pc : Int) + signExt 13 j) % 2 ^ 64).toNat 2
    | some false => .go t next 1
  | 0x03 => if f3 == 7 then .bad else .load rd (2 ^ (f3 % 4)) (f3 < 4) (a + immI).toNat
  | 0x23 =>
    if 3 < f3 then .bad
    else .store (2 ^ f3) (a + BitVec.ofInt 64 (signExt 12 (bitsOf w 11 7 + 32 * f7))).toNat b.toNat
  | 0x13 =>
    if f3 == 1 then (if bitsOf w 31 26 == 0 then put (rvAlu 1 false a immI) 1 else .bad)
    else if f3 == 5 then
      (if bitsOf w 31 26 == 0 || bitsOf w 31 26 == 16 then put (rvAlu 5 alt a immI) 1 else .bad)
    else put (rvAlu f3 false a immI) 1
  | 0x1B =>
    if f3 == 0 then put (rvAluW 0 false a immI) 1
    else if f3 == 1 then (if f7 == 0 then put (rvAluW 1 false a immI) 1 else .bad)
    else if f3 == 5 then (if f7 == 0 || f7 == 32 then put (rvAluW 5 alt a immI) 1 else .bad)
    else .bad
  | 0x33 =>
    if f7 == 1 then put (rvM 64 f3 a b) (if f3 < 4 then 3 else 20)
    else if f7 == 0 || (f7 == 32 && (f3 == 0 || f3 == 5)) then put (rvAlu f3 alt a b) 1
    else .bad
  | 0x3B =>
    if f7 == 1 then (if f3 == 0 then put (rvM 32 0 a b) 3 else if 4 ≤ f3 then put (rvM 32 f3 a b) 20 else .bad)
    else if (f7 == 0 && (f3 == 0 || f3 == 1 || f3 == 5)) || (f7 == 32 && (f3 == 0 || f3 == 5)) then
      put (rvAluW f3 alt a b) 1
    else .bad
  | 0x0F => if f3 < 2 then .go t next 1 else .bad
  | 0x73 => if w == 0x00000073 || w == 0x00100073 then .call else .bad
  | _ => .bad

/-- The registers that a word reads: for the cost of a load's result that the next instruction reads. -/
def rvReads (w r : Nat) : Bool :=
  let a := bitsOf w 19 15 == r
  let b := bitsOf w 24 20 == r
  r != 0 &&
    (match bitsOf w 6 0 with
      | 0x67 | 0x03 | 0x13 | 0x1B => a
      | 0x63 | 0x23 | 0x33 | 0x3B => a || b
      | 0x0B =>
        match bitsOf w 14 12 with
        | 1 | 5 | 6 => a
        | 2 | 4 => a || b
        | 3 => a || b || bitsOf w 31 27 == r
        | 7 => bitsOf w 31 25 == 0 && a
        | _ => false
      | _ => false)

end Sys2Proof.Machine
end

