-- ==== Sys2Proof/Machine/Assayer.lean ====
section
/-! DEFINITION. Assayers: dispatch, the end of an event, the base instructions of a handler and the custom
forms (R296 to R316, R389, R432 to R435). -/

namespace Sys2Proof.Machine

/-- The installation of a context on a slice. -/
def installOf (s : State) (l ctx : Nat) : Option Install := tabGet (s.slice l).installs ctx

def modInstall (s : State) (l ctx : Nat) (f : Install → Install) : State :=
  match installOf s l ctx with
  | none => s
  | some i => s.modSlice l (fun x => { x with installs := tabPut x.installs ctx (f i) })

/-- The reply of a message, deposited once (R311, R313), at the timestamp of its handler (R129). -/
def replyTo (s : State) (request : Option Nat) (w : Word) (derr : Bool) (pts : Nat := 0) : State :=
  match request with
  | none => s
  | some r =>
    match tabGet s.amsgs r with
    | none => s
    | some m => if m.reply.isSome then s else { s with amsgs := tabPut s.amsgs r { m with reply := some (w, derr), pts := pts } }

/-- The slice accepts a message: its release obligation is discharged (R253, R301). -/
def acceptMsg (s : State) (request : Option Nat) : State :=
  match request with
  | none => s
  | some r =>
    match tabGet s.amsgs r with
    | none => s
    | some m =>
      if m.accepted then s
      else discharge { s with amsgs := tabPut s.amsgs r { m with accepted := true } } m.crew m.flgb

/-- Waiting messages enter the queue while it has room (R301). -/
def admitWaiting (fuel : Nat) (s : State) (l ctx : Nat) : State :=
  match fuel with
  | 0 => s
  | fuel + 1 =>
    match installOf s l ctx with
    | none => s
    | some i =>
      match i.waiting with
      | [] => s
      | e :: rest =>
        if 24 ≤ i.queue.length then s
        else
          let s := modInstall s l ctx (fun i => { i with queue := i.queue ++ [e], waiting := rest })
          admitWaiting fuel (acceptMsg s e.request) l ctx

/-- Every queued event of a context is taken away: a message is answered with 0 (R303, R435). -/
def dropEvents (s : State) (l ctx : Nat) (derr : Bool) : State :=
  match installOf s l ctx with
  | none => s
  | some i =>
    let s := (i.queue ++ i.waiting).foldl (fun s e => replyTo (acceptMsg s e.request) e.request 0 derr) s
    modInstall s l ctx (fun i => { i with queue := [], waiting := [] })

/-- A context's installation ends: its data memory and TLB are free (R303). -/
def removeInstall (s : State) (l ctx : Nat) : State :=
  let s := dropEvents s l ctx false
  let s := s.modSlice l (fun x => { x with installs := tabDel x.installs ctx })
  { s with tlb := s.tlb.filter (fun e => !(e.place == .assayer l && e.ctx == ctx)) }

/-- The key of an event's entry (Table 15-3). -/
def AsEvent.key (e : AsEvent) : Nat := 4 * e.cls + e.kind

/-- The entry address that serves an event; none where the entry is 0 or disabled (R299, R433). -/
def Install.entryOf (i : Install) (e : AsEvent) : Option Nat :=
  let a := (tabGet i.entries e.key).getD 0
  if a == 0 || i.disabled.contains e.key then none else some a

/-- The timestamp of a context on an assayer (R114). -/
def handlerPts (s : State) (l ctx : Nat) : Nat := ((installOf s l ctx).map Install.pts).getD 0

/-- An event ends as at `as.done` (R313): a message without a reply is answered with 0, and its lock goes with the
handler. `spent` says that its budget ended it, which counts against its entry (R433). -/
def endEvent (s : State) (l : Nat) (h : Handler) (spent : Bool) : State :=
  let s := if h.ev.kind == 3 && !h.replied then replyTo s h.ev.request 0 false (handlerPts s l h.ctx) else s
  modInstall s l h.ctx (fun i =>
    let n : Nat := if spent then (tabGet i.overruns h.ev.key).getD 0 + 1 else 0
    { i with overruns := tabPut i.overruns h.ev.key n
             disabled := if 8 ≤ n then setAdd i.disabled h.ev.key else i.disabled })

/-- A context's turn is over when its queue is empty: its share counts as used (R304). -/
def turnOver (s : State) (l ctx : Nat) : State :=
  modInstall s l ctx (fun i => if i.queue.isEmpty then { i with used := max i.used (i.share * 512) } else i)

/-- The handler ends: a removal that waited for it goes on (R303). -/
def endHandler (s : State) (l : Nat) (h : Handler) (spent : Bool) : State :=
  let s := turnOver (endEvent s l h spent) l h.ctx
  let s := s.modSlice l (fun x => { x with handler := none })
  match installOf s l h.ctx with
  | some i => if i.removing then removeInstall s l h.ctx else s
  | none => s

/-- The `INFO` of Table 25-5. -/
def info25 (i : Install) (h : Handler) (why novr : Nat) (dis : Bool) : Nat :=
  h.ev.kind + atBit 2 h.ev.cls + atBit 6 why + atBit 14 (bitNat dis) + atBit 15 (bitNat h.lock.isSome) +
    atBit 16 ((h.lastPc + 2 ^ 64 - i.codebase) % 2 ^ 32) + atBit 48 (min novr 8)

/-- A record of an assayer (R432, R434, R404). -/
def asRecord (s : State) (l : Nat) (h : Handler) (cls sev info : Nat) (va pa : Option Nat) : State :=
  errRecord s (dieOfSlice l)
    { cls := cls, sev := sev, addr := pa.map (fun a => a / 32 * 32), vaddr := va,
      who := some (h.ctx, if h.ev.kind == 3 then h.ev.crewIndex else 0), ukind := 1, unit := l, info := info,
      split := 0, slot := none }

/-- The budget of an event is spent (R432, R433): all of it counts against its context's share (R304). -/
def budgetEnd (s : State) (l : Nat) (h : Handler) : State :=
  let s := modInstall s l h.ctx (fun i => { i with used := i.used + (512 - h.cycles) })
  match installOf s l h.ctx with
  | none => endHandler s l h false
  | some i =>
    let n := (tabGet i.overruns h.ev.key).getD 0 + 1
    asRecord (endHandler s l h true) l h 10 0 (info25 i h 1 n (8 ≤ n)) (some h.ev.va) none

/-- A breach of R297 or R308 to R312: the reason of Table 25-5, the addresses of the offending access (Table 21-4), and
what its walk met. -/
structure AsFail where
  why : Nat
  va : Option Nat
  pa : Option Nat
  walk : Option XFail
  deriving DecidableEq, Repr

/-- A breach at an address of the handler's. -/
def AsFail.at_ (why va : Nat) : AsFail := ⟨why, some va, none, none⟩

/-- A handler breaks a rule of R297 or R308 to R312 (R389, R434): both records name the offending access. -/
def breach (s : State) (l : Nat) (h : Handler) (f : AsFail) : State :=
  let s := match f.walk with
    | some w => noteFail s (askSlice l) none 0 (f.va.getD 0) w
    | none => s
  match installOf s l h.ctx with
  | none => endHandler s l h false
  | some i =>
    let s := asRecord (endHandler s l h false) l h 14 1 (info24 10 0 (some l) 0) f.va f.pa
    asRecord s l h 10 1 (info25 i h f.why 0 false) f.va none

/-- The event record of Table 15-2 in the registers. -/
def eventRegs (l ctx disc : Nat) (e : AsEvent) (t : Tab Word) : Tab Word :=
  let x10 := e.kind + atBit 2 e.cls + atBit 6 ctx + atBit 18 l + atBit 26 e.origin + atBit 29 (bitNat e.dirty)
  let x13 := (if e.kind == 3 then e.crewIndex else 0) + atBit 32 e.core
  let vs := [BitVec.ofNat 64 x10, BitVec.ofNat 64 e.va, e.arg, BitVec.ofNat 64 x13, BitVec.ofNat 64 e.time,
    BitVec.ofNat 64 disc]
  (vs.zipIdx).foldl (fun t v => tabPut t (10 + v.2) v.1) t

/-- A line is brought into its slice for a handler or a message, with the record of R299 and no event. -/
def touchQuiet (s : State) (pa ctx cls va : Nat) : State :=
  let x := lineOf s pa
  if x.held || x.owner.isSome || !isHbm pa then s
  else
    let s := makeLineRoom s pa
    setLine s pa { lineOf s pa with
      held := true, record := if cls == 0 then none else some (ctx, cls, va / 128 * 128) }

/-- The line that a message's handler locks, brought into the slice (R306). -/
def lockLine (s : State) (ctx : Nat) (e : AsEvent) : Option Nat × State :=
  match e.request with
  | none => (none, s)
  | some r =>
    match tabGet s.amsgs r with
    | none => (none, s)
    | some m => (some (m.pa / 128), touchQuiet s (m.pa / 128 * 128) ctx e.cls e.va)

/-- A handler takes the event at the head of its context's queue: the record is delivered (R298, R300). -/
def takeEvent (s : State) (l ctx entry : Nat) (e : AsEvent) (regs : Tab Word) (pc : Nat) : State :=
  let k := if e.kind == 3 then lockLine s ctx e else (none, s)
  let s := k.2
  let disc := ((installOf s l ctx).map Install.disc).getD 0
  let h : Handler :=
    { ctx := ctx, ev := e, entry := entry, regs := eventRegs l ctx disc e regs, pc := pc, lastPc := pc, cycles := 0, ahead := 0,
      replied := false, lock := k.1, loadDst := 0, away := [] }
  let s := modInstall s l ctx (fun i => { i with queue := i.queue.drop 1, disc := 0 })
  let s := s.modSlice l (fun x => { x with handler := some h })
  admitWaiting 24 s l ctx

/-- The context whose turn it is (R304): the one in turn while it has events and share left, else the next one
with events in the rotation. -/
def nextTurn (x : Slice) : Option (Nat × Bool) :=
  let has : Nat × Install → Bool := fun e => !e.2.queue.isEmpty
  let stays := match tabGet x.installs x.rotation with
    | some i => !i.queue.isEmpty && i.used < i.share * 512
    | none => false
  if stays then some (x.rotation, false)
  else
    match x.installs.find? (fun e => x.rotation < e.1 && has e) with
    | some e => some (e.1, true)
    | none => (x.installs.find? has).map (fun e => (e.1, true))

/-- The next event is dispatched (R304, R306). An event whose entry has been disabled since is answered as one
that no handler takes (R433). -/
def dispatch (s : State) (l : Nat) : State :=
  let x := s.slice l
  if x.handler.isSome then s
  else
    match nextTurn x with
    | none => s
    | some (ctx, anew) =>
      let s := s.modSlice l (fun x => { x with rotation := ctx })
      let s := if anew then modInstall s l ctx (fun i => { i with used := 0 }) else s
      match installOf s l ctx with
      | none => s
      | some i =>
        match i.queue with
        | [] => s
        | e :: _ =>
          match i.entryOf e with
          | some a => takeEvent s l ctx a e [(2, 16384)] a
          | none =>
            let s := modInstall s l ctx (fun i => { i with queue := i.queue.drop 1 })
            turnOver (admitWaiting 24 (replyTo s e.request 0 false) l ctx) l ctx

def execHandlerDispatch (slice : Nat) (s : State) : Host.Outcome State Fault Refusal := .next (dispatch s slice)

/-- The budget of a running handler's event is spent (R305, R432). -/
def execHandlerBudgetExpire (slice : Nat) (s : State) : Host.Outcome State Fault Refusal :=
  match (s.slice slice).handler with
  | none => .next s
  | some h => .next (if 512 ≤ h.cycles then budgetEnd s slice h else s)

/-- The entry that an assayer finds for an address, from its TLB or by a walk (R312); else what the walk met. -/
def asLook (s : State) (l ctx va : Nat) (w : Bool) : Except XFail (TlbEntry × Upd) :=
  if !canonical va then .error (xfail .rxlate)
  else
    match tlbLook s (askSlice l) ctx va w with
    | some e => if e.u then .ok (e, []) else .error (xfail .rxlate)
    | none =>
      match walk s ctx va w with
      | .ok r => if r.1.u then .ok r else .error (xfail .rxlate r.2)
      | .error f => .error f

/-- The checks of an access of a handler to a page. -/
def asPage (s : State) (l ctx va : Nat) (need : Need) : Except AsFail Xlate :=
  match asLook s l ctx va need.w with
  | .error f => .error ⟨6, some va, none, some f⟩
  | .ok (e, u) =>
    let pa := e.pa + va % 2 ^ e.log
    let no : Nat → Except AsFail Xlate := fun why => .error ⟨why, some va, some pa, some (xfail .rperm u)⟩
    if (need.r && !e.r) || (need.w && !e.w) then no 7
    else if need.x && !e.x then no 10
    else if !permitted s (askSlice l) e pa need false then no 8
    else .ok ⟨va, pa, e, u⟩

/-- The checks of `as.ld`, `as.st`, `as.cas` and `as.wake` (R308, R310). -/
def asTarget (s : State) (l ctx va : Nat) (need : Need) : Except AsFail Xlate :=
  if va % 8 != 0 then .error (AsFail.at_ 9 va)
  else
    match asPage s l ctx va need with
    | .error w => .error w
    | .ok x =>
      let no : Nat → Except AsFail Xlate := fun why => .error ⟨why, some va, some x.pa, some (xfail .rperm x.upd)⟩
      if 1 < x.e.cmode then no 8 else if home s x.pa != some l then no 5 else .ok x

/-- What a custom form comes to. -/
inductive HRes where
  /-- the handler goes on, charged with cycles -/
  | go (s : State) (regs : Tab Word) (cost : Nat)
  /-- it stalls at the form, with its reads beyond the module -/
  | stall (s : State) (away : List Away)
  /-- it breaks a rule -/
  | bad (f : AsFail)
  /-- its access is refused at the home, a port or beyond, which ends the event (R404) -/
  | refused (s : State) (va pa reason : Nat)
  /-- the event is over, and the form has settled what follows -/
  | ends (s : State)

/-- The state after a refused access of a handler's, recorded with its addresses (R365, R404). -/
def refuseHandler (s : State) (l : Nat) (h : Handler) (va pa reason : Nat) : State :=
  asRecord (endHandler s l h false) l h 14 1 (info24 10 0 (some l) reason) (some va) (some pa)

/-- Charges cycles to a handler's event and to its context's turn (R304, R305). -/
def chargeHandler (s : State) (l : Nat) (h : Handler) (regs : Tab Word) (cost : Nat) : State :=
  let s := modInstall s l h.ctx (fun i => { i with used := i.used + cost })
  s.modSlice l (fun x => { x with
    handler := some { h with regs := regs, cycles := h.cycles + cost, ahead := h.ahead + cost } })

/-- Cycles of the slice's island pass (R305): those that no instruction was charged are a stall of the handler. The
count begins at the issue of the event's first instruction. -/
def Slice.stalls (x : Slice) (n : Nat) : Slice :=
  match x.handler with
  | none => x
  | some h =>
    let k := if h.cycles == 0 then 0 else n - h.ahead
    { x with
      handler := some { h with cycles := h.cycles + k, ahead := h.ahead - n }
      installs :=
        match tabGet x.installs h.ctx with
        | none => x.installs
        | some i => tabPut x.installs h.ctx { i with used := i.used + k } }

/-- What a custom form's outcome makes of the machine. -/
def settleHandler (s0 : State) (l : Nat) (h : Handler) (r : HRes) : State :=
  match r with
  | .go s regs cost => chargeHandler s l { h with away := [] } regs cost
  | .stall s away => chargeHandler s l { h with pc := h.lastPc, away := away } h.regs 1
  | .bad f => breach s0 l h f
  | .refused s va pa reason => refuseHandler s l h va pa reason
  | .ends s => s

/-- Executes a custom form for the running handler of the acting slice (R307). -/
def onHandler (body : State → Nat → Handler → Install → HRes) (s : State) : Host.Outcome State Fault Refusal :=
  match s.actor with
  | .handler l =>
    match (s.slice l).handler with
    | some h =>
      match installOf s l h.ctx with
      | some i => .next (settleHandler s l h (body s l h i))
      | none => .fault .noActor
    | none => .fault .noActor
  | _ => .fault .noActor

/-- The timestamp of a context on an assayer rises (R129). -/
def raiseAs (s : State) (l ctx ts : Nat) : State := modInstall s l ctx (fun i => { i with pts := max i.pts ts })

/-- A form of 4 cycles that the budget's end abandons (R432). (DEDUCED, log 33) -/
def Handler.late (h : Handler) : Bool := 512 < h.cycles + 4

/-- An assayer finds an error (Table 24-3). -/
def asFinder (va : Nat) : Finder := ⟨10, none, 0, some va⟩

/-- A number of a handler's register. -/
def Handler.x (h : Handler) (r : BitVec 5) : Word := rvGet h.regs r.toNat

/-- A handler's read beyond the module: it stalls until its request has been answered, and goes on with the bytes
(R308, R325, R441, R446). -/
def asPull (s : State) (l : Nat) (h : Handler) (x : Xlate) (data : List Byte) (go : State → List Byte → Bool → HRes) : HRes :=
  match deadTarget s x.pa with
  | some r => .refused s x.va x.pa r
  | none =>
    match h.away.find? (fun w => w.pa == x.pa && w.size == 8) with
    | some w =>
      if w.reason != 0 then .refused s x.va x.pa w.reason
      else
        match w.data with
        | some d => go (s.caughtIf d.2) d.1 d.2
        | none => .stall s h.away
    | none =>
      .stall (sendExt s (otherExt s .handler l h.ctx x.va x.pa 8 data)) (h.away ++ [⟨x.pa, 8, none, 0⟩])

/-- `as.ld` (R129, R308). -/
def asLdForm (rd rs1 : BitVec 5) (s : State) (l : Nat) (h : Handler) (_ : Install) : HRes :=
  match asTarget s l h.ctx (h.x rs1).toNat needR with
  | .error w => .bad w
  | .ok x =>
    if h.late then .go s h.regs 4
    else
      let s := noteXlate s (askSlice l) x
      if !isHbm x.pa then
        asPull s l h x [] (fun s bs bad =>
          .go (countPoisonRead s (dieOfSlice l) bad) (rvSet h.regs rd.toNat (leWord bs)) 4)
      else
        let s := touchQuiet s x.pa h.ctx x.e.aclass x.va
        let s := asMode s x.pa x.e.cmode
        let pts := handlerPts s l h.ctx
        let r : (List Byte × Bool) × State :=
          if x.e.cmode == 0 then
            let q := ownerLoad (detect s x.pa 8 (asFinder x.va)) pts x.pa 8 none
            (q.1, raiseAs q.2.2.2 l h.ctx q.2.1)
          else
            let q := homeRead (detect s x.pa 8 (asFinder x.va)) x.pa 8 none
            (q.1, raiseAs q.2 l h.ctx (lineOf q.2 x.pa).wts)
        .go (countPoisonRead r.2 (dieOfSlice l) r.1.2) (rvSet h.regs rd.toNat (leWord r.1.1)) 4

/-- A write of a handler that is refused at once: a fenced pseudo-channel (R409), a CXL port that is down (R446), or a
window with no port left (R441). -/
def asWriteBad (s : State) (x : Xlate) : Option Nat :=
  if isHbm x.pa && fencedAt s x.pa then some 5 else deadTarget s x.pa

/-- `as.st` (R129, R308). -/
def asStForm (rs1 rs2 : BitVec 5) (s : State) (l : Nat) (h : Handler) (_ : Install) : HRes :=
  match asTarget s l h.ctx (h.x rs1).toNat needW with
  | .error w => .bad w
  | .ok x =>
    if h.late then .go s h.regs 4
    else
      let s := noteXlate s (askSlice l) x
      let bs := wordBytes (h.x rs2)
      match asWriteBad s x with
      | some r => .refused s x.va x.pa r
      | none =>
        if !isHbm x.pa then
          .go (extMonitors (sendExt s (otherExt s .handlerWrite l h.ctx x.va x.pa 8 bs)) x.pa bs) h.regs 4
        else
          let s := touchQuiet s x.pa h.ctx x.e.aclass x.va
          let s := asMode s x.pa x.e.cmode
          let q := ownerStore s (handlerPts s l h.ctx) x.pa bs none
          .go (raiseAs (clearCovered q.2 [(x.pa, 8)]) l h.ctx q.1) h.regs 4

/-- `as.cas` (R129, R308, Table 24-2). -/
def asCasForm (rd rs1 rs2 rs3 : BitVec 5) (s : State) (l : Nat) (h : Handler) (_ : Install) : HRes :=
  match asTarget s l h.ctx (h.x rs1).toNat needRW with
  | .error w => .bad w
  | .ok x =>
    if h.late then .go s h.regs 4
    else
      let s := noteXlate s (askSlice l) x
      match asWriteBad s x with
      | some r => .refused (unconsumed s x.pa 8 (asFinder x.va)) x.va x.pa r
      | none =>
        if !isHbm x.pa then
          asPull s l h x (wordBytes (h.x rs2) ++ wordBytes (h.x rs3)) (fun s bs bad =>
            let s := if leWord bs == h.x rs2 && !bad then extMonitors s x.pa (wordBytes (h.x rs3)) else s
            .go (countPoisonRead s (dieOfSlice l) bad) (rvSet h.regs rd.toNat (leWord bs)) 4)
        else
          let s := touchQuiet s x.pa h.ctx x.e.aclass x.va
          let s := asMode s x.pa x.e.cmode
          let q := ownerAtomic (detect s x.pa 8 (asFinder x.va)) (handlerPts s l h.ctx) x.pa 8
            (fun old => if old == (h.x rs2).toNat then some (h.x rs3).toNat else none) none
          .go (countPoisonRead (raiseAs q.2.2 l h.ctx q.2.1) (dieOfSlice l) q.1.2)
            (rvSet h.regs rd.toNat (BitVec.ofNat 64 q.1.1)) 4

/-- The translation of one line of `as.pf`, which needs `R` (R309, R434). -/
def prefetchPage (s : State) (l ctx va : Nat) : Option Xlate :=
  match asLook s l ctx va false with
  | .ok (e, u) => if e.r then some ⟨va, e.pa + va % 2 ^ e.log, e, u⟩ else none
  | .error _ => none

/-- The lines of `as.pf`. -/
def prefetchLines (va n : Nat) : List Nat := (List.range n).map (fun i => (va / 128 * 128 + 128 * i) % 2 ^ 64)

/-- Those that translate. -/
def prefetchPages (s : State) (l ctx va n : Nat) : List Xlate := (prefetchLines va n).filterMap (prefetchPage s l ctx)

/-- What the walks of the lines that do not translate leave (R94, R411). -/
def prefetchSkipped (s : State) (l ctx va n : Nat) : State :=
  (prefetchLines va n).foldl (fun s v =>
    match asLook s l ctx v false with
    | .ok _ => s
    | .error f => noteFail s (askSlice l) none 0 v f) s

/-- A line that `as.pf` leaves alone: held, owned, on its way, or outside HBM (R309). -/
def leftAlone (s : State) (l : Nat) (x : Xlate) : Bool :=
  let y := lineOf s x.pa
  !isHbm x.pa || y.held || y.owner.isSome || (s.slice l).prefetch.any (fun p => p.1 == x.pa / 128)

/-- A page that the map does not open to an assayer (R95). Host memory, peer windows and the stockpile are left alone
instead (R309). -/
def prefetchBreach (s : State) (l : Nat) (x : Xlate) : Bool :=
  !(isHost x.pa || isPeer x.pa || isStockpile x.pa || isAlias x.pa) && !permitted s (askSlice l) x.e x.pa needR false

/-- `as.pf` (R309). -/
def asPfForm (rs1 rs2 : BitVec 5) (s : State) (l : Nat) (h : Handler) (_ : Install) : HRes :=
  let n := (h.x rs2).toNat
  if n == 0 || 32 < n then .bad (AsFail.at_ 11 (h.x rs1).toNat)
  else
    let pages := prefetchPages s l h.ctx (h.x rs1).toNat n
    let xs := pages.filter (fun x => !leftAlone s l x)
    match pages.find? (prefetchBreach s l) with
    | some x => .bad ⟨8, some x.va, some x.pa, some (xfail .rperm x.upd)⟩
    | none =>
    if 128 < (s.slice l).prefetch.length + xs.length then .stall s h.away
    else
      let s := pages.foldl (fun s x => noteXlate s (askSlice l) x) (prefetchSkipped s l h.ctx (h.x rs1).toNat n)
      let s := s.modSlice l (fun y => { y with
        prefetch := y.prefetch ++ xs.map (fun x => (x.pa / 128, (h.ctx, x.e.aclass, x.va))) })
      .go s h.regs 2

/-- `as.wake` (R310). -/
def asWakeForm (rs1 : BitVec 5) (s : State) (l : Nat) (h : Handler) (_ : Install) : HRes :=
  match asTarget s l h.ctx (h.x rs1).toNat needR with
  | .error w => .bad w
  | .ok x =>
    let s := noteXlate s (askSlice l) x
    if isHbm x.pa then .go (evalMonitors s x.pa) h.regs 2
    else asPull s l h x [] (fun s bs bad => .go (if bad then s else extMonitors s x.pa bs) h.regs 2)

/-- `as.msg` (R311). -/
def asMsgForm (rd rs1 : BitVec 5) (s : State) (l : Nat) (h : Handler) (_ : Install) : HRes :=
  if h.ev.kind != 3 || h.replied then .go s (rvSet h.regs rd.toNat 0) 2
  else
    let s := replyTo s h.ev.request (h.x rs1) false (handlerPts s l h.ctx)
    .ends (chargeHandler s l { h with replied := true, away := [] } (rvSet h.regs rd.toNat 1) 2)

/-- The value of Table 15-5: its field of `X`, `W` and `R` lies as in a leaf, `R` lowest (Table 05-2). -/
def asTlbValue (s : State) (l : Nat) (e : TlbEntry) (va : Nat) : Nat :=
  let pa := e.pa + va % 2 ^ e.log
  let hm := if isStockpile pa || isAlias pa then none else home s pa
  1 + atBit 1 (bitNat e.r) + atBit 2 (bitNat e.w) + atBit 3 (bitNat e.x) + atBit 4 e.aclass + atBit 8 e.cmode +
    atBit 10 (bitNat (hm == some l)) + atBit 11 (hm.getD 0) + atBit 19 (bitNat hm.isNone) + atBit 20 e.log

/-- `as.tlb` (R312). -/
def asTlbForm (rd rs1 : BitVec 5) (s : State) (l : Nat) (h : Handler) (_ : Install) : HRes :=
  let va := (h.x rs1).toNat
  match asLook s l h.ctx va false with
  | .error f => .go (noteFail s (askSlice l) none 0 va f) (rvSet h.regs rd.toNat 0) 2
  | .ok (e, u) =>
    .go (noteXlate s (askSlice l) ⟨va, e.pa + va % 2 ^ e.log, e, u⟩)
      (rvSet h.regs rd.toNat (BitVec.ofNat 64 (asTlbValue s l e va))) 2

/-- `as.left` (R313): the cycles that have passed before its own issue. -/
def asLeftForm (rd : BitVec 5) (s : State) (_ : Nat) (h : Handler) (_ : Install) : HRes :=
  .go s (rvSet h.regs rd.toNat (BitVec.ofNat 64 (512 - h.cycles))) 1

/-- `as.done` (R313). -/
def asDoneForm (s : State) (l : Nat) (h : Handler) (_ : Install) : HRes :=
  .ends (endHandler (modInstall s l h.ctx (fun i => { i with used := i.used + 1 })) l h false)

/-- `as.evt` (R313): the handler goes on with the next event when the same entry serves it and its context has some of its
share left in this turn (R304). -/
def asEvtForm (rd : BitVec 5) (s : State) (l : Nat) (h : Handler) (_ : Install) : HRes :=
  let s := modInstall s l h.ctx (fun i => { i with used := i.used + 2 })
  let next : Option (AsEvent × Nat × Nat) :=
    match installOf s l h.ctx with
    | none => none
    | some i =>
      match i.queue with
      | [] => none
      | e :: rest =>
        match i.entryOf e with
        | none => none
        | some a => if a == h.entry && !i.removing && i.used < i.share * 512 then some (e, a, rest.countP (fun o => i.entryOf o == some a)) else none
  match next with
  | none => .ends (endHandler s l h false)
  | some (e, a, n) =>
    let s := takeEvent (endEvent s l h false) l h.ctx a e h.regs h.pc
    .ends (s.modSlice l (fun x => { x with
      handler := x.handler.map (fun g => { g with regs := rvSet g.regs rd.toNat (BitVec.ofNat 64 (min n 255)) }) }))

/-- What the turn of a handler finds: nothing to do, a custom form to execute, or its step done. -/
inductive HStep where
  | idle
  | run (i : Instr) (s : State)
  | ends (s : State)

/-- What a fetch of a handler's code comes to: a word, a breach, a refusal, or a read beyond the module still away. -/
inductive HCode where
  | got (w : Nat) (s : State)
  | bad (f : AsFail)
  | refused (s : State) (va pa reason : Nat)
  | away (s : State) (l : List Away)

/-- One half-word of a handler's code (R297); one beyond the module is a read like any other (R325). -/
def codeHalf (s : State) (l : Nat) (h : Handler) (va : Nat) : HCode :=
  match asPage s l h.ctx va needX with
  | .error f => .bad f
  | .ok x =>
    if !x.e.r then .bad ⟨7, some va, some x.pa, some (xfail .rperm x.upd)⟩
    else
      let s := noteXlate s (askSlice l) x
      let pa := x.pa
      if isHost pa || isPeer pa then
        match deadTarget s pa, h.away.find? (fun w => w.pa == pa && w.size == 2) with
        | some r, _ => .refused s va pa r
        | none, some w =>
          if w.reason != 0 then .refused s va pa w.reason
          else
            match w.data with
            | some d => .got (leNat d.1) s
            | none => .away s h.away
        | none, none => .away (sendExt s (otherExt s .handler l h.ctx va pa 2 [])) (h.away ++ [⟨pa, 2, none, 0⟩])
      else
        let s := detect (if isHbm pa then mergeLine s pa (handlerPts s l h.ctx) else s) pa 2 (asFinder va)
        let r := readBytes s pa 2
        .got (leNat r.1) (countPoisonRead s (dieOfSlice l) r.2)

/-- The word at a handler's program counter, of 2 or 4 bytes. -/
def handlerCode (s : State) (l : Nat) (h : Handler) (i : Install) : HCode :=
  let off := (h.pc + 2 ^ 64 - i.codebase) % 2 ^ 64
  if i.codelen < off + 2 then .bad (AsFail.at_ 10 h.pc)
  else
    match codeHalf s l h h.pc with
    | .got lo s =>
      if lo % 4 != 3 then .got lo s
      else if i.codelen < off + 4 then .bad (AsFail.at_ 10 h.pc)
      else
        match codeHalf s l h ((h.pc + 2) % 2 ^ 64) with
        | .got hi s => .got (lo + 2 ^ 16 * hi) s
        | r => r
    | r => r

/-- A load from data memory, granules of 8 bytes (R297, R366, R435). -/
def dataRead (i : Install) (a n : Nat) : List Byte × Bool :=
  let bad := (List.range n).any (fun k => i.dataPoison.contains ((a + k) / 8))
  ((List.range n).map (fun k => if i.dataPoison.contains ((a + k) / 8) then 0 else memGet i.data (a + k)), bad)

/-- Forms that wait for a translation or a line (Table 15-6). -/
def mayWait (w : Nat) : Bool := w % 128 == 0x0B

/-- A base instruction of a handler (R297, R314). -/
def baseStep (s : State) (l : Nat) (h : Handler) (i : Install) (w len : Nat) : State :=
  match rvExec h.regs h.lastPc w len with
  | .go regs pc cost => chargeHandler s l { h with pc := pc, away := [] } regs cost
  | .load rd n signed a =>
    if 16384 < a + n then breach s l h (AsFail.at_ 4 a)
    else
      let r := dataRead i a n
      let v := extendTo64 signed (8 * n) (leNat r.1)
      let s := countPoisonRead s (dieOfSlice l) r.2
      chargeHandler s l { h with loadDst := rd, away := [] } (rvSet h.regs rd v) 1
  | .store n a v =>
    if 16384 < a + n then breach s l h (AsFail.at_ 4 a)
    else
      let s := modInstall s l h.ctx (fun i => { i with
        data := memWrite i.data a (leBytes n v)
        dataPoison := i.dataPoison.filter (fun g => !(a ≤ 8 * g && 8 * g + 8 ≤ a + n)) })
      chargeHandler s l { h with away := [] } h.regs 1
  | .call => breach s l h ⟨3, none, none, none⟩
  | .bad => breach s l h ⟨2, none, none, none⟩

/-- The next instruction of a slice's handler, with a stall that its budget counts (R305, R314, R432): what the handler
has waited since it issued its last instruction, or what this one waits for. Before the event's first instruction
issues nothing counts. -/
def handlerTurn (s : State) (l stall : Nat) : HStep :=
  match (s.slice l).handler with
  | none => .idle
  | some h =>
    match installOf s l h.ctx with
    | none => .ends (endHandler s l h false)
    | some i =>
      let pause := if h.cycles == 0 then 0 else stall
      if 512 ≤ h.cycles + pause then .ends (budgetEnd s l h)
      else
        match handlerCode s l h i with
        | .bad f => .ends (breach s l h f)
        | .refused s va pa r => .ends (refuseHandler s l h va pa r)
        | .away s w => .ends (chargeHandler s l { h with away := w } h.regs (pause + 1))
        | .got w s =>
          let r := rvWord w
          let word := r.1.getD 0
          let pause := (if mayWait word then stall else pause) + bitNat (rvReads word h.loadDst)
          if 512 ≤ h.cycles + pause then .ends (budgetEnd s l h)
          else
            let g := { h with lastPc := h.pc, pc := (h.pc + r.2) % 2 ^ 64, loadDst := 0 }
            let s := chargeHandler s l g h.regs pause
            let h := { g with cycles := g.cycles + pause, ahead := g.ahead + pause }
            match r.1 with
            | none => .ends (breach s l h ⟨2, none, none, none⟩)
            | some word =>
              if word % 128 == 0x0B then
                match decodeAssayerWord word with
                | some c => .run c s
                | none => .ends (breach s l h ⟨2, none, none, none⟩)
              else .ends (baseStep s l h i word r.2)

def execAsEvt (rd : BitVec 5) (s : State) : Host.Outcome State Fault Refusal := onHandler (asEvtForm rd) s
def execAsLd (rd rs1 : BitVec 5) (s : State) : Host.Outcome State Fault Refusal := onHandler (asLdForm rd rs1) s
def execAsSt (rs1 rs2 : BitVec 5) (s : State) : Host.Outcome State Fault Refusal := onHandler (asStForm rs1 rs2) s
def execAsCas (rd rs1 rs2 rs3 : BitVec 5) (s : State) : Host.Outcome State Fault Refusal :=
  onHandler (asCasForm rd rs1 rs2 rs3) s
def execAsPf (rs1 rs2 : BitVec 5) (s : State) : Host.Outcome State Fault Refusal := onHandler (asPfForm rs1 rs2) s
def execAsWake (rs1 : BitVec 5) (s : State) : Host.Outcome State Fault Refusal := onHandler (asWakeForm rs1) s
def execAsMsg (rd rs1 : BitVec 5) (s : State) : Host.Outcome State Fault Refusal := onHandler (asMsgForm rd rs1) s
def execAsTlb (rd rs1 : BitVec 5) (s : State) : Host.Outcome State Fault Refusal := onHandler (asTlbForm rd rs1) s
def execAsLeft (rd : BitVec 5) (s : State) : Host.Outcome State Fault Refusal := onHandler (asLeftForm rd) s
def execAsDone (s : State) : Host.Outcome State Fault Refusal := onHandler asDoneForm s

end Sys2Proof.Machine
end

