-- ==== Sys2Proof/Machine/Memory.lean ====
section
/-! DEFINITION. The meanings of loads, stores, atomics, reductions, managed-page forms, fences and messages
(R240 to R245, R248 to R253). -/

namespace Sys2Proof.Machine

/-- Bytes that one lane of a load or store moves (R243). -/
def Env.moveBytes (e : Env) : Nat := if e.x2 then 16 else e.bits / 8

/-- The registers that a loaded value writes: register offset and word (R243). -/
def loadWords (x2 : Bool) (ty : Nat) (bs : List Byte) : List (Nat × Word) :=
  if x2 then [(0, leWord (bs.take 8)), (1, leWord (bs.drop 8))]
  else [(0, extendTo64 (typeSigned ty) (typeBits ty) (leNat bs))]

/-- Writes result registers of a lane of a vector form, or of a uniform form. -/
def Env.putLane (e : Env) (s : State) (lane : Nat) (ws : List (Nat × Word)) : State :=
  if e.form.uniform then ws.foldl (fun s w => e.putS s (e.dst + w.1) w.2) s
  else e.putV s (ws.map (fun w => (e.dst + w.1, lane, w.2)))

/-- Counts the poisoned reads of an instruction and sets `DERR` (R367, R368). -/
def Env.poisoned (e : Env) (s : State) (n : Nat) : State :=
  if n == 0 then s else e.flag ((List.range n).foldl (fun s _ => countPoisonRead s e.die true) s) flagDERR

/-- The first refusal among what lanes' loads came to. -/
def firstRefused (gs : List (Nat × LaneGot)) : LateLane :=
  gs.findSome? (fun g =>
    match g.2 with
    | .refused va pa => some (g.1, va, pa)
    | _ => none)

/-- A lane's load came with poison. -/
def LaneGot.bad (g : LaneGot) : Bool :=
  match g with
  | .data _ b => b
  | _ => false

/-- A lane's registers receive what its load came to; a refused lane receives 0 (R243, R366). -/
def Env.takeLoad (e : Env) (s : State) (g : Nat × LaneGot) : State :=
  match g.2 with
  | .data bs _ => e.putLane s g.1 (loadWords e.x2 e.ty bs)
  | .sent => s
  | .refused _ _ => e.putLane s g.1 (loadWords e.x2 e.ty (List.replicate e.moveBytes 0))

/-- A uniform load follows the stores of its split to the same bytes that are still on their way (R244). -/
def Env.storesAhead (e : Env) (s : State) (t : Target) : Bool :=
  match t with
  | .glob x =>
    e.form.uniform && s.exts.any (fun o => o.2.crew == e.id && o.2.split == e.entry && o.2.kind == .store &&
      o.2.pa < x.pa + e.moveBytes && x.pa < o.2.pa + o.2.size)
  | _ => false

/-- Loads (R243). -/
def loadForm (stashForm : Bool) (e : Env) (s : State) : Res :=
  if e.tensorBad false then .exc s .ropnd
  else
    e.withLanes s e.memLanes (e.target s stashForm e.moveBytes needR)
      (fun ts s =>
        if ts.any (fun t => e.targetWaits s e.moveBytes false t.2 || e.storesAhead s t.2) then
          .wait (e.waitFills s (ts.flatMap (fun t => e.fillReads s e.moveBytes false t.2))) .stalled
        else
        let r := e.loadAll (e.endUses s) e.moveBytes ts
        let s := r.1.foldl e.takeLoad (e.raisePts r.2.2 r.2.1)
        lateOr (e.poisoned s (r.1.countP (fun g => g.2.bad))) (firstRefused r.1))

/-- The operand after a register of an `.x2` store; a special source stands in both halves. -/
def Opnd.second (o : Opnd) : Opnd :=
  match o with
  | .vreg n => .vreg (n + 1)
  | .sreg n => .sreg (n + 1)
  | o => o

/-- The bytes that a lane stores, and whether a source was dead (R243, R387). -/
def Env.storeData (e : Env) (clock lane : Nat) : List Byte × Bool :=
  let a := e.read clock e.srcB lane
  if e.x2 then
    let b := e.read clock e.srcB.second lane
    (wordBytes a.1 ++ wordBytes b.1, a.2 || b.2)
  else ((wordBytes a.1).take e.moveBytes, a.2)

/-- Stores of all lanes, in ascending order (R243): the covers, the timestamp, the first refusal. -/
def Env.storeAll (e : Env) (s : State) (ts : List (Nat × Target × List Byte)) :
    Put × LateLane :=
  ts.foldl (fun (a : Put × LateLane) t =>
    let r := e.storeLane a.1.st a.1.pts t.1 t.2.2 t.2.1
    (⟨a.1.cov ++ r.1.cov, r.1.pts, r.1.st⟩,
      match a.2, r.2 with
      | none, some q => some (t.1, q.1, q.2)
      | q, _ => q)) (⟨[], e.c.pts, s⟩, none)

/-- Monitors look at the words that stores to host memory carry through their homes (R65). -/
def hostWords (s : State) (core : Nat) (ts : List (Nat × Target × List Byte)) : State :=
  ts.foldl (fun s t =>
    match t.2.1 with
    | .glob x => if isHost x.pa && (refusal s x core true).isNone then extMonitors s x.pa t.2.2 else s
    | _ => s) s

/-- The checks of a lane's store, with its data. -/
def Env.storeCheck (e : Env) (s : State) (stashForm : Bool) (l : Nat) : Bool × Except LaneFail (Target × List Byte) :=
  let d := e.storeData s.clock l
  let t := e.target s stashForm e.moveBytes needW l
  (t.1 || d.2, match t.2 with
    | .error f => .error f
    | .ok t => .ok (t, d.1))

/-- Stores (R243). -/
def storeForm (stashForm : Bool) (e : Env) (s : State) : Res :=
  if e.tensorBad false then .exc s .ropnd
  else
    e.withLanes s e.memLanes (e.storeCheck s stashForm)
      (fun ts s =>
        if ts.any (fun t => e.targetWaits s e.moveBytes true t.2.1) then
          .wait (e.waitFills s (ts.flatMap (fun t => e.fillReads s e.moveBytes true t.2.1))) .stalled
        else
        let r := e.storeAll (e.endUses s) ts
        let s := e.raisePts (settle r.1.st e.core r.1.cov) r.1.pts
        lateOr (hostWords s e.core ts) r.2)

/-- The operand of an atomic or reduction as a pattern of the operation's width; a constant of a paired type
stands in both halves (R79, R249). -/
def Env.updateArg (e : Env) (o : Opnd) (w : Word) : Nat :=
  if e.ty == 10 || e.ty == 11 then (o.spread false e.ty w).toNat % 2 ^ 32 else e.elemOf e.ty o w

/-- The returned register of an atomic: the old pattern, extended by the type; a paired word zero-extended. -/
def atomResult (ty old : Nat) : Word :=
  if ty == 10 || ty == 11 then BitVec.ofNat 64 old else extendTo64 (typeSigned ty) (typeBits ty) old

/-- The atomic step of one lane (R123): performed at the owner or home, or sent beyond the module. `f` gives the
new pattern; `data` is what a request carries. -/
def Env.atomLane (e : Env) (s : State) (l : Nat) (x : Xlate) (f : Nat → Option Nat) (data : List Byte) :
    LaneGot × State :=
  let n := atomSize e.ty
  let s := noteXlate s (askCore e.core) x
  match refusal s x e.core true with
  | some r => (.refused x.va x.pa, e.noteRefused s x r n false)
  | none =>
    if isHost x.pa || isPeer x.pa then
      (.sent, sendExt s (e.ext (if e.form.uniform then .uatom else .vatom) l x n data s.clock) (some (e.who 0 x)))
    else
      let pts := ((s.crew e.id).map Crew.pts).getD 0
      let r := ownerAtomic (claimPriv s x e.core) pts x.pa n f (some (e.who 0 x))
      let s := if x.e.cmode == 2 then r.2.2 else e.raisePts r.2.2 r.2.1
      (.data (leBytes n r.1.1) r.1.2, s)

/-- The checks of a lane's atomic (R241, R387): global, aligned, `R` and `W`. -/
def Env.atomTarget (e : Env) (s : State) (l : Nat) : Bool × Except LaneFail Target :=
  e.target s false (atomSize e.ty) needRW l

/-- The checks of a lane's atomic, with its two operands. -/
def Env.atomCheck (e : Env) (s : State) (l : Nat) : Bool × Except LaneFail (Target × Nat × Nat) :=
  let b := e.read s.clock e.srcB l
  let c := e.read s.clock e.srcC l
  let t := e.atomTarget s l
  (t.1 || b.2 || c.2, match t.2 with
    | .error f => .error f
    | .ok t => .ok (t, e.updateArg e.srcB b.1, e.updateArg e.srcC c.1))

/-- The atomic steps of all lanes, in ascending order: what each came to. -/
def Env.atomAll (e : Env) (step : Nat → Nat → Nat → Option Nat) (s : State) (ts : List (Nat × Target × Nat × Nat)) :
    List (Nat × LaneGot) × State :=
  let n := atomSize e.ty
  ts.foldl (fun (a : List (Nat × LaneGot) × State) t =>
    match t.2.1 with
    | .glob x =>
      let q := e.atomLane a.2 t.1 x (fun old => step old t.2.2.1 t.2.2.2) (leBytes n t.2.2.1 ++ leBytes n t.2.2.2)
      (a.1 ++ [(t.1, q.1)], q.2)
    | _ => (a.1 ++ [(t.1, .data (List.replicate n 0) false)], a.2)) ([], s)

/-- A lane's register receives the old pattern; a refused lane receives 0. -/
def Env.takeAtom (e : Env) (s : State) (g : Nat × LaneGot) : State :=
  match g.2 with
  | .data bs _ => e.putLane s g.1 [(0, atomResult e.ty (leNat bs))]
  | .sent => s
  | .refused _ _ => e.putLane s g.1 [(0, 0)]

/-- `atom`, `satom` and the compare-and-swap forms (R249, R250): lanes act in ascending order. -/
def atomForm (step : Nat → Nat → Nat → Option Nat) (e : Env) (s : State) : Res :=
  if e.tensorBad true then .exc s .ropnd
  else
    e.withLanes s e.memLanes (e.atomCheck s)
      (fun ts s =>
        let r := e.atomAll step (e.endUses s) ts
        let s := r.1.foldl e.takeAtom r.2
        lateOr (e.poisoned s (r.1.countP (fun g => g.2.bad))) (firstRefused r.1))

/-- The step of `atom.op` (Table 12-3). -/
def Env.opStep (e : Env) (old b _c : Nat) : Option Nat := some (updateWord e.var e.ty old b)
def atomOp (e : Env) (s : State) : Res := atomForm e.opStep e s

/-- The step of `atom.cas` (R250): n-bit patterns are compared. -/
def casStep (old b c : Nat) : Option Nat := if old == b then some c else none
def casOp (e : Env) (s : State) : Res := atomForm casStep e s

/-- Lanes that name the same address are merged in ascending lane order (R125). -/
def mergeLanes (op ty : Nat) (ts : List (Nat × Xlate × Nat)) : List (Nat × Xlate × Nat) :=
  ts.foldl (fun acc t =>
    if acc.any (fun u => u.2.1.pa == t.2.1.pa) then
      acc.map (fun u => if u.2.1.pa == t.2.1.pa then (u.1, u.2.1, updateWord op ty u.2.2 t.2.2) else u)
    else acc ++ [t]) []

/-- The timestamp that a reduction just issued has, or will have when its partial merges (R124). -/
def redTs (s : State) (pa : Nat) : Nat :=
  let l := lineOf s pa
  if l.partials.isEmpty then l.wts else l.rts + 1

/-- One update that leaves the core (R124). A coherent one is ordered before the split's later accesses; where its scope
covers another crew, both halves of a paired one (R125, R251). -/
def Env.redOne (e : Env) (s : State) (l : Nat) (x : Xlate) (v : Nat) : State × Option (Nat × Nat) :=
  let n := atomSize e.ty
  let s := noteXlate s (askCore e.core) x
  match refusal s x e.core true with
  | some r => (e.noteRefused s x r n true, some (x.va, x.pa))
  | none =>
    if isHost x.pa || isPeer x.pa then
      -- the word that results is not known here
      let b := freeBytes n s
      (extMonitors (sendExt b.2 (e.ext .store l x n (leBytes n v) s.clock) (some (e.who 1 x))) x.pa b.1, none)
    else
      let pts := ((s.crew e.id).map Crew.pts).getD 0
      let s := redWord (claimPriv s x e.core) e.die pts x.pa e.var e.ty v (some (e.who 1 x)) (2 ≤ e.scope)
      (if x.e.cmode == 0 then e.raisePts s (redTs s x.pa) else s, none)

/-- The checks of a lane's reduction, with its operand. -/
def Env.redCheck (e : Env) (s : State) (l : Nat) : Bool × Except LaneFail (Target × Nat) :=
  let b := e.read s.clock e.srcB l
  let t := e.atomTarget s l
  (t.1 || b.2, match t.2 with
    | .error f => .error f
    | .ok t => .ok (t, e.updateArg e.srcB b.1))

/-- The updates that leave the core, one for each address (R125). -/
def Env.redUpdates (e : Env) (ts : List (Nat × Target × Nat)) : List (Nat × Xlate × Nat) :=
  mergeLanes e.var e.ty (ts.filterMap (fun t =>
    match t.2.1 with
    | .glob x => some (t.1, x, t.2.2)
    | _ => none))

/-- `red` and `sred` (R251). -/
def redForm (e : Env) (s : State) : Res :=
  if e.tensorBad true then .exc s .ropnd
  else
    e.withLanes s e.memLanes (e.redCheck s)
      (fun ts s =>
        let r := eachLane (e.endUses s) (e.redUpdates ts) (fun s l t => e.redOne s l t.1 t.2)
        lateOr r.1 r.2)

/-- The scope of a managed-page form: `VAR`, or `MSCP` in the memory form (R248). -/
def Env.cleanScope (e : Env) : Nat :=
  match e.f.ext with
  | .mem m => m.mscp.toNat
  | _ => e.var

/-- `cwb` and `cinv` (R122, R248): coherent pages of the range are left alone. Every page must translate for reading,
since the manual does not say which permission the forms need (DESIGN CHOICE, log 86). -/
def cleanForm (discard : Bool) (e : Env) (s : State) : Res :=
  let b := e.uniVal s e.srcB
  let ad := e.address s.clock false 0
  let s := e.dead b.2 ad.1
  let va := (ad.2.map Addr.a).getD 0
  let len := b.1.toNat
  if 2 ^ 32 < len then .exc s .ropnd
  else if e.cleanScope ≤ 2 then .done (e.endUses s)
  else
    let n := va % 128 + max len 1
    match translateAll s (askCore e.core) e.ctx needR (pagesOf (va / 128 * 128) n) with
    | .error f => e.laneTrap s (0, f.lane va)
    | .ok xs =>
      let s := xs.foldl (fun s x => noteXlate s (askCore e.core) x) (e.endUses s)
      let last := va / 128 * 128 + n
      let hit : Nat → Bool := fun pa => xs.any (fun x =>
        x.e.cmode != 0 && x.pa / 4096 == pa / 4096 &&
          (let v := x.va / 4096 * 4096 + pa % 4096
           va / 128 * 128 ≤ v && v < last))
      .done (cleanLines s e.core hit discard)

/-- `fence` (R120, R252): it waits for the requests that its scope covers. (DEDUCED, log 49) -/
def fenceForm (e : Env) (s : State) : Res :=
  if e.fenceWaits s e.var then .wait s .stalled else .done (e.fenced s e.var)

/-- A slice takes messages of a class of a context (R253, R301). -/
def takesMessages (s : State) (slice ctx cls : Nat) : Bool :=
  cls != 0 &&
    (match tabGet (s.slice slice).installs ctx with
      | none => false
      | some i => (tabGet i.entries (4 * cls + 3)).getD 0 != 0 && !i.disabled.contains (4 * cls + 3) && !i.removing)

/-- A message enters its slice (R253, R301): the release obligation is discharged when the queue takes it. -/
def Env.sendMessage (e : Env) (s : State) (slice : Nat) (x : Xlate) (payload : Word) : State :=
  let n := s.fresh
  let s := joinAll n.2 e.id
  let q := tabGet (s.slice slice).installs e.ctx
  let taken := match q with
    | some i => i.queue.length < 24 && i.waiting.isEmpty
    | none => false
  let ev : AsEvent :=
    { kind := 3, cls := x.e.aclass, origin := 0, dirty := false, va := x.va, arg := payload, crewIndex := e.c.index,
      core := e.core, time := s.clock, request := some n.1 }
  let m : Amsg :=
    { crew := e.id, split := e.entry, ctx := e.ctx, dst := e.dst, flga := e.flagPair.1, flgb := e.flagPair.2,
      slice := slice, pa := x.pa, accepted := taken, reply := none, pts := 0 }
  let s := { s with amsgs := tabPut s.amsgs n.1 m }
  let s := raiseEvent s slice e.ctx ev
  if taken then discharge s e.id e.flagPair.2 else s

/-- `amsg` (R253, Table 22-9). Its page must grant `R`: the manual does not say which permission a message needs (DESIGN
CHOICE, log 87). -/
def amsgForm (e : Env) (s : State) : Res :=
  let b := e.uniVal s e.srcB
  let ad := e.address s.clock false 0
  let s := e.dead b.2 ad.1
  let va := (ad.2.map Addr.a).getD 0
  if va % 8 != 0 then e.laneTrap s (0, LaneFail.of .ralign (some va))
  else
    match e.xlate s va needR with
    | .error f => e.laneTrap s (0, f)
    | .ok x =>
      if x.e.cmode != 0 then e.laneTrap s (0, ⟨.rperm, some va, some x.pa, none, []⟩)
      else
        let s := e.obligeFlags (e.endUses (noteXlate s (askCore e.core) x))
        let none_ : Res := .done (dischargeBoth (e.putS s e.dst 0) e.id e.flagPair.1 e.flagPair.2)
        match home s x.pa with
        | none => none_
        | some slice => if takesMessages s slice e.ctx x.e.aclass then .done (e.sendMessage s slice x b.1) else none_

def execLd (f : Fields) (s : State) : Host.Outcome State Fault Refusal := issue (.ld f) (loadForm false) s
def execSt (f : Fields) (s : State) : Host.Outcome State Fault Refusal := issue (.st f) (storeForm false) s
def execLds (f : Fields) (s : State) : Host.Outcome State Fault Refusal := issue (.lds f) (loadForm true) s
def execSts (f : Fields) (s : State) : Host.Outcome State Fault Refusal := issue (.sts f) (storeForm true) s
def execSld (f : Fields) (s : State) : Host.Outcome State Fault Refusal := issue (.sld f) (loadForm false) s
def execSst (f : Fields) (s : State) : Host.Outcome State Fault Refusal := issue (.sst f) (storeForm false) s
def execSlds (f : Fields) (s : State) : Host.Outcome State Fault Refusal := issue (.slds f) (loadForm true) s
def execSsts (f : Fields) (s : State) : Host.Outcome State Fault Refusal := issue (.ssts f) (storeForm true) s
def execCwb (f : Fields) (s : State) : Host.Outcome State Fault Refusal := issue (.cwb f) (cleanForm false) s
def execCinv (f : Fields) (s : State) : Host.Outcome State Fault Refusal := issue (.cinv f) (cleanForm true) s
def execAtom (f : Fields) (s : State) : Host.Outcome State Fault Refusal := issue (.atom f) atomOp s
def execAtomCas (f : Fields) (s : State) : Host.Outcome State Fault Refusal := issue (.atomCas f) casOp s
def execSatom (f : Fields) (s : State) : Host.Outcome State Fault Refusal := issue (.satom f) atomOp s
def execSatomCas (f : Fields) (s : State) : Host.Outcome State Fault Refusal := issue (.satomCas f) casOp s
def execRed (f : Fields) (s : State) : Host.Outcome State Fault Refusal := issue (.red f) redForm s
def execSred (f : Fields) (s : State) : Host.Outcome State Fault Refusal := issue (.sred f) redForm s
def execFence (f : Fields) (s : State) : Host.Outcome State Fault Refusal := issue (.fence f) fenceForm s
def execAmsg (f : Fields) (s : State) : Host.Outcome State Fault Refusal := issue (.amsg f) amsgForm s

end Sys2Proof.Machine
end

