-- ==== Sys2Proof/Machine/Units.lean ====
section
/-! DEFINITION. Element accesses of a core's hoist and matrix engine (R93, R105, R110, R121, R126, R263, R409,
R420, R425, R427), their completion flags, and their engine save area (R280, Tables 13-8, 13-9, 25-2). -/

namespace Sys2Proof.Machine

/-- Why an element access of a unit stops (Table 25-1), or that it waits out a refresh window. -/
inductive UStop where
  /-- it does not translate, or breaks a permission -/
  | park (f : XFail) (va : Nat)
  /-- a stash rule is broken, or the address is misaligned -/
  | bad (va : Nat)
  /-- an error response with its reason (Table 24-1) -/
  | remote (reason : Nat) (x : Xlate)
  | wait
  /-- `n` bytes in host memory or a peer window, whose data have not come yet (R325) -/
  | away (n : Nat) (x : Xlate)
  deriving DecidableEq, Repr

/-- On whose behalf a unit of a core acts, and whether its stash writes go to hidden halves (R263). -/
structure UnitWho where
  core : Nat
  ctx : Nat
  crew : Nat
  hidden : Bool
  /-- the `PATH` of Table 24-3 -/
  path : Nat
  /-- what it has read beyond the module (R325), and the bank groups that it need not wait for (R110) -/
  away : List Away
  groups : List Nat
  /-- it writes a buffer that must be coherent (R266, Table 25-1) -/
  coherent : Bool
  /-- one more than the place of its hoist command in the order of posting, 0 for an engine instruction -/
  tag : Nat
  deriving DecidableEq, Repr

/-- The timestamp of a crew's engine work (R126), at the work's issue no lower than the poster's. -/
def engPts (s : State) (crew : Nat) : Nat := ((s.crew crew).map Crew.engTs).getD 0

def raiseEng (s : State) (crew ts : Nat) : State := s.modCrew crew (fun c => { c with engTs := max c.engTs ts })

/-- The origin code of a unit's accesses (Table 15-2): a hoist's or a matrix engine's. -/
def UnitWho.origin (u : UnitWho) : Nat := if u.path == 8 then 2 else 3

/-- What a unit's access carries for the assayers. `CORE` is the number of the unit's core: Table 15-2 does not say whether
a hoist or a matrix engine counts as a compute core (DESIGN CHOICE, log 89). -/
def UnitWho.who (u : UnitWho) (x : Xlate) : Who :=
  { ctx := u.ctx, cls := x.e.aclass, va := x.va, origin := u.origin, core := u.core, path := u.path, crew := some u.crew }

/-- A request of a unit to beyond the module (R325); `dst` tells its command. -/
def UnitWho.request (u : UnitWho) (s : State) (kind : ExtKind) (va pa n : Nat) (data : List Byte) : Ext :=
  { kind := kind, crew := u.crew, split := 16, lane := if u.path == 8 then 0 else 16, core := u.core, ctx := u.ctx,
    va := va, pa := pa, size := n, dst := u.tag, ty := 0, x2 := false, data := data, pc := 0, slot := 0, op := 0,
    sentAt := s.clock, sends := 1, hold := false, told := false }

/-- A unit asks for data beyond the module, unless its request is out already (R325). -/
def UnitWho.ask (u : UnitWho) (s : State) (n : Nat) (x : Xlate) : List Away × State :=
  if u.away.any (fun w => w.pa == x.pa && w.size == n) then (u.away, s)
  else (u.away ++ [⟨x.pa, n, none, 0⟩], sendExt s (u.request s .unitRead x.va x.pa n []) (some (u.who x)))

/-- The bank groups of a chiplet outside their refresh windows: what a row or a step reads of them is read when one of its
accesses starts to wait for another group (R110). -/
def openGroups (s : State) (die : Nat) : List Nat :=
  ((List.range 32).map (fun g => 32 * die + g)).filter (fun g => !refreshing s (0x10000000000 + 0x8000000 * g))

/-- A unit's access has been refused: the owner core of a private page is noted (R405), and a fault that a refused read
meets is recorded with no consumer (R373). -/
def UnitWho.refused (u : UnitWho) (s : State) (reason : Nat) (x : Xlate) (write : Bool) : State :=
  let s := noteOwner (noteXlate s (askHoist u.core) x) x (dieOfCore u.core) reason
  if write then s else unconsumed s x.pa 1 (u.who x).finder

/-- What a unit's walk that failed has done (R94, R411). -/
def UnitWho.noteFail (u : UnitWho) (s : State) (va : Nat) (f : XFail) : State :=
  Machine.noteFail s (askHoist u.core) (some u.crew) 0 va f

/-- The mapping lines that a unit's stash access must fill translate. -/
def UnitWho.fills (u : UnitWho) (s : State) (entry : Nat) (m : Mapping) (write : Bool) (gs : List Seg) :
    Except UStop Unit :=
  let vas := gs.flatMap (fun g => (fillVas s u.core entry (engPts s u.crew) m g write).map (fun v => (v, fillNeed m g write v)))
  vas.foldl (fun r v =>
    match r with
    | .error f => .error f
    | .ok _ =>
      match translate s (askHoist u.core) u.ctx v.1 v.2 with
      | .error f =>
        -- a write that first touches a line of a page without `W` fails (R464, Table 25-1)
        match translate s (askHoist u.core) u.ctx v.1 needR with
        | .ok _ => .error (.bad v.1)
        | .error _ => .error (.park f v.1)
      | .ok x => if x.e.cmode == 1 && !isHbm x.pa then .error (.park (xfail .rperm) v.1) else .ok ()) (.ok ())

/-- The mapping of a unit's stash access (R263). -/
def UnitWho.mapping (u : UnitWho) (s : State) (a n : Nat) (swz write : Bool) : Except UStop (Nat × Mapping) :=
  match findMap s u.core u.ctx a n with
  | none => .error (.bad a)
  | some (entry, m) =>
    if swz && m.desc.mode != 3 then .error (.bad a)
    else if write && u.hidden && m.desc.mode == 2 then .ok (entry, m)
    else
      match u.fills s entry m write (m.segs a n) with
      | .error f => .error f
      | .ok _ =>
        let xs := fillXlates s (askHoist u.core) u.core u.ctx entry (engPts s u.crew) (m.segs a n) write
        match xs.find? (fun x => (refusal s x u.core false).isSome) with
        | some x => .error (.remote 1 x)
        | none =>
        if groupsWait s (xs.map (fun x => stockPa (dieOfCore u.core) x.pa)) u.groups then .error .wait
        else if write && (m.segs a n).any (lineNoW m) then .error (.bad a) else .ok (entry, m)

/-- Reads `n` bytes of one element: the bytes, whether poison was met, the state. -/
def UnitWho.read (u : UnitWho) (s : State) (stash swz : Bool) (a n : Nat) : Except UStop (List Byte × Bool × State) :=
  if a % n != 0 then .error (.bad a)
  else if stash then
    match u.mapping s a n swz false with
    | .error f => .error f
    | .ok (entry, _) =>
      let r := stashLoad s (askHoist u.core) u.core u.ctx u.crew entry (engPts s u.crew) u.origin a n
      .ok (r.bytes, r.bad, raiseEng r.st u.crew r.pts)
  else
    match translate s (askHoist u.core) u.ctx a needR with
    | .error f => .error (.park f a)
    | .ok x =>
      let pa := stockPa (dieOfCore u.core) x.pa
      if groupsWait s [pa] u.groups then .error .wait
      else
        match refusal s x u.core false with
        | some r => .error (.remote r x)
        | none =>
          let s := claimPriv (noteXlate s (askHoist u.core) x) x u.core
          if isHost x.pa || isPeer x.pa then
            match u.away.find? (fun w => w.pa == x.pa && w.size == n) with
            | none => .error (.away n x)
            | some w =>
              match w.data with
              -- poison that arrived has been counted and recorded then (R368)
              | some d => .ok (if d.2 then List.replicate n 0 else (d.1 ++ List.replicate n 0).take n, d.2, s.caughtIf (d.2 && w.reason == 0))
              | none => .error (.away n x)
          else if isStockpile pa then
            let s := detect s pa n (u.who x).finder
            let r := readBytes s pa n
            .ok (r.1, r.2, s)
          else if x.e.cmode == 1 then
            let r := homeRead (asMode s pa 1) pa n (some (u.who x))
            .ok (r.1.1, r.1.2, raiseEng r.2 u.crew (lineOf r.2 pa).wts)
          else
            let r := loadHbm s u.core (engPts s u.crew) x.e.cmode pa n (u.who x)
            .ok (r.bytes, r.bad, raiseEng r.st u.crew r.pts)

/-- Writes the bytes of one element: what they cover, the state. (DEDUCED, log 23) -/
def UnitWho.write (u : UnitWho) (s : State) (stash swz : Bool) (a : Nat) (bs : List Byte) :
    Except UStop (List Cover × State) :=
  let n := bs.length
  if a % n != 0 then .error (.bad a)
  else if stash then
    match u.mapping s a n swz true with
    | .error f => .error f
    | .ok (entry, m) =>
      if u.hidden && m.desc.mode == 2 then
        let h := m.hiddenAt a
        .ok ([.stash h n 32], s.modCore u.core (fun c => { c with stash := memWrite c.stash h bs }))
      else
        let r := stashStore s (askHoist u.core) u.core u.ctx u.crew entry (engPts s u.crew) u.origin a bs
        .ok (r.cov, raiseEng r.st u.crew r.pts)
  else
    match translate s (askHoist u.core) u.ctx a needW true with
    | .error f => .error (.park f a)
    | .ok x =>
      if u.coherent && x.e.cmode != 0 then .error (.park (xfail .rperm) a)
      else
      let pa := stockPa (dieOfCore u.core) x.pa
      if groupsWait s [pa] u.groups then .error .wait
      else
        match refusal s x u.core true with
        | some r => .error (.remote r x)
        | none =>
          let s := claimPriv (noteXlate s (askHoist u.core) x) x u.core
          if isHost x.pa || isPeer x.pa then
            .ok ([], extMonitors (sendExt s (u.request s .unitWrite a x.pa n bs) (some (u.who x))) x.pa bs)
          else if isStockpile pa then .ok ([.mem pa n], { s with mem := memWrite s.mem pa bs })
          else if x.e.cmode == 1 then
            let s := (homeRead (asMode s pa 1) pa 0 (some (u.who x))).2
            let l := lineOf s pa
            let s := setLine s pa { l with wts := max l.wts (engPts s u.crew), dirty := l.dirty ||| dirtyOf pa n }
            .ok ([.mem pa n], evalRange { s with mem := memWrite s.mem pa bs } pa n)
          else
            let r := storeHbm s u.core (engPts s u.crew) x.e.cmode pa bs (u.who x)
            .ok (r.cov, raiseEng r.st u.crew r.pts)

/-- One element read through a record (R107): its pattern; 0 outside the extents under `CLIP` 00. -/
def UnitWho.readElem (u : UnitWho) (s : State) (t : Shape) (xs : List Int) : Except UStop (Nat × Bool × State) :=
  match shpAddr t xs with
  | none => .ok (0, false, s)
  | some (a, nib) =>
    let n := shpBits t
    match u.read s (shpSpace t) (shpSwz t != 0) a (max 1 (n / 8)) with
    | .error f => .error f
    | .ok (bs, bad, s) => .ok (if n == 4 then leNat bs / 16 ^ nib % 16 else leNat bs, bad, s)

/-- The bytes that a write of one element stores: a 4-bit element keeps the other half of its byte. -/
def elemBytes (n nib old v : Nat) : List Byte :=
  if n == 4 then leBytes 1 (if nib == 1 then old % 16 + 16 * v else old / 16 * 16 + v) else leBytes (n / 8) v

/-- One element written through a record: covers, and the byte address with its space where one was written. -/
def UnitWho.writeElem (u : UnitWho) (s : State) (t : Shape) (xs : List Int) (v : Nat) :
    Except UStop (List Cover × State) :=
  match shpAddr t xs with
  | none => .ok ([], s)
  | some (a, nib) =>
    let n := shpBits t
    let swz := shpSwz t != 0
    if n == 4 then
      -- the other half of the byte stays as it is
      let old := match findMap s u.core u.ctx a 1, shpSpace t with
        | some (_, m), true =>
          if u.hidden && m.desc.mode == 2 then (memGet (s.core u.core).stash (m.hiddenAt a)).toNat
          else (match u.read s true swz a 1 with
            | .ok r => leNat r.1
            | .error _ => 0)
        | _, _ =>
          (match translate s (askHoist u.core) u.ctx a needW true with
            | .ok x => rawNat (if isHbm x.pa then mergeLine s x.pa else s) (stockPa (dieOfCore u.core) x.pa) 1
            | .error _ => 0)
      u.write s (shpSpace t) swz a (elemBytes 4 nib old v)
    else u.write s (shpSpace t) swz a (elemBytes n nib 0 v)

/-- The granules that a written piece touches are poisoned (R425, R428). -/
def taint (s : State) (core : Nat) (cov : List Cover) : State :=
  cov.foldl (fun s c =>
    match c with
    | .mem pa n => poisonRange s pa n
    | .stash a n g =>
      let lo := a / g * g
      s.modCore core (fun x => { x with stashPoison := setMarks x.stashPoison lo ((a + n + g - 1) / g * g - lo) })
    | .copy _ _ => s) s

/-- A record of a unit (R421, R424, R427): class, severity, path, reason and addresses. -/
def unitRecord (s : State) (u : UnitWho) (cls sev path reason : Nat) (va pa : Option Nat) : State :=
  let index := ((s.crew u.crew).map Crew.index).getD 0
  let slot := (s.crew u.crew).bind Crew.slot
  errRecord s (dieOfCore u.core)
    { cls := cls, sev := sev, addr := pa.map (fun p => p / 32 * 32), vaddr := va, who := some (u.ctx, index), ukind := 0, unit := u.core,
      info := info24 path 0 (pa.bind (home s)) reason, split := 0, slot := slot }

/-- The base of the engine save area of a context on a core (Table 17-5). -/
def engArea (s : State) (ctx core : Nat) : Nat := (s.desc ctx).esave + 212224 * core

/-- The context has engine save areas. -/
def hasEngArea (s : State) (ctx : Nat) : Bool := (s.desc ctx).esave != 0

/-- The hoist record of Table 13-9 with the fields of Table 25-2, as a number. For `hcmp`, which reads no control
block, `CBLK` holds its buffer, its capacity, the blocks written and the bits that its next row group's first byte of
the bitmap shares (DESIGN CHOICE, log 18). A command that met a parking case above its position names that row (R430). -/
def hoistImage (s : State) (h : HoistCmd) (ivec : Nat) : Nat :=
  let index := ((s.crew h.crew).map Crew.index).getD 0
  let blk := if h.opc == 0x383 then packNat 64 [h.buf, h.cap, h.blocks, h.carry] else packNat 64 (h.block.map (fun w => w.toNat))
  let park : Nat := match h.park <|> h.ahead with
    | none => 0
    | some p =>
      atBit 1331 1 + atBit 1332 (bitNat p.retry) + atBit 1333 (bitNat p.side) + atBit 1336 p.exc +
        atBit 1344 p.row + atBit 1376 p.elem + atBit 1392 ivec + atBit 1472 (p.va % 2 ^ 64)
  h.src.toNat + atBit 256 h.dst.toNat + atBit 512 blk + atBit 1216 h.pc + atBit 1248 h.ps + atBit 1280 index +
    atBit 1312 h.opc + atBit 1322 h.flga + atBit 1326 h.flgb + atBit 1330 (bitNat h.released) + park +
    atBit 2048 (packNat 32 (h.index.map (fun w => w.toNat)))

/-- Writes hoist record `slot` and its skip mask, and sets its `HVALID` bit. -/
def putHoistRecord (s : State) (core slot : Nat) (h : HoistCmd) (ivec : Nat) : State :=
  let a := engArea s h.ctx core
  let s := unitWrite s (a + 256 + 4352 * slot) (leBytes 4352 (hoistImage s h ivec))
  let s := unitWrite s (a + 210176 + 128 * slot) (leBytes 128 h.skip.toNat)
  let s := pokeNat s a 2 (rawNat s a 2 ||| 2 ^ slot)
  s.modCtx h.ctx (fun x => { x with engSaved := tabPut x.engSaved (32 * core + slot) h.crew })

/-- Flags of a command reach its poster (R148, R367). -/
def unitFlags (s : State) (crew : Nat) (f : Flags) : State := if f == 0 then s else orSticky s crew f

/-- Poison that a unit has consumed: `DERR`, and a count for each read (R367, R368, R425). -/
def unitDerr (s : State) (u : UnitWho) (reads : Nat) : State :=
  if reads == 0 then s
  else unitFlags ((List.range reads).foldl (fun s _ => countPoisonRead s (dieOfCore u.core) true) s) u.crew flagDERR

end Sys2Proof.Machine
end

