-- ==== Sys2Proof/Machine/Engine.lean ====
section
/-! DEFINITION. The matrix engine: issue, `mld`, `mmul` by rows, `mzero`, `mrd`, `mred`, completion, self-test
(R151 to R153, R269 to R277, R279, R427 to R429). -/

namespace Sys2Proof.Machine

/-- Fields of an issued instruction's image. -/
def EngCmd.slot (c : EngCmd) : Nat := c.insn / 4 % 1024
def EngCmd.fields (c : EngCmd) : Fields := decodeFields (c.insn % 4) c.slot c.insn
def EngCmd.ty (c : EngCmd) : Nat := c.fields.ty.toNat
def EngCmd.unit (c : EngCmd) (core : Nat) : UnitWho := ⟨core, c.ctx, c.crew, false, 9, c.away, c.groups, false, 0⟩

/-- K, the columns N, the columns of a macro and the column groups of an arrangement (Table 13-5). -/
def arrK (arr : Nat) : Nat := 128 * 2 ^ arr
def arrWidth (bf : Bool) : Nat := if bf then 64 else 128
def arrGroups (arr : Nat) : Nat := 8 / 2 ^ arr
def arrN (arr : Nat) (bf : Bool) : Nat := arrWidth bf * arrGroups arr

/-- The marker of a block that holds a NaN or an infinity (R153, DEDUCED log 17). -/
def nanBlock : Int := -32768

/-- The number of region elements from `accJ` on. -/
def regionSize (tiles : List Nat) : Nat := 4096 * tiles.length

/-- The place of a region element (R272). -/
def regionKey (tiles : List Nat) (e : Nat) : Nat := 4096 * tiles.getD (e / 4096) 0 + e % 4096

def accGet (co : Core) (k : Nat) : Nat := ((tabGet co.acc k).map BitVec.toNat).getD 0
def accPut (co : Core) (k v : Nat) : Core :=
  { co with acc := if v == 0 then tabDel co.acc k else tabPut co.acc k (BitVec.ofNat 32 v) }

/-- An engine instruction enters the queue of four (R275); a holder that finds four held is Stalled. -/
def Env.enqueue (e : Env) (s : State) (t1 t2 : Shape) (mask : Word) (scale : Nat) (tiles : List Nat)
    (f : Macros → Macros) : Res :=
  let co := s.core e.core
  if 4 ≤ co.eng.length then .wait s .stalled
  else
    let c : EngCmd :=
      { crew := e.id, ctx := e.ctx, insn := encodeFields e.slot e.f, shp1 := t1, shp2 := t2, mask := mask,
        scale := scale, tiles := tiles, arr := co.macros.issuedArr, btype := co.macros.issuedType, pos := 0,
        flga := e.flagPair.1, flgb := e.flagPair.2, released := false, derr := false, recorded := false, idle := 0,
        away := [], groups := [], acks := [] }
    let s := raiseEng (e.obligeFlags (e.endUses s)) e.id e.c.pts
    .done (s.modCore e.core (fun co => { co with eng := co.eng ++ [c], macros := f co.macros }))

/-- `SCL` of a form. -/
def sclOf (f : Fields) (bit : Nat) : Bool := f.var.getLsbD bit

/-- `mld` (R270, Table 22-10). -/
def mldForm (e : Env) (s : State) : Res :=
  let tb := e.c.tAt e.f.srca.toNat
  let scl := sclOf e.f 2
  let ts := if scl then e.c.tAt e.f.srcb.toNat else 0
  if shpBad tb || shpFmt tb != typeFmt e.ty || (scl && (shpBad ts || shpFmt ts != 1)) then .exc s .ropnd
  else e.enqueue s tb ts 0 0 [] (fun m => { m with issuedArr := e.var % 4, issuedType := e.ty })

/-- `mmul` (R271, Table 22-10). -/
def mmulForm (e : Env) (s : State) : Res :=
  let ta := e.c.tAt e.f.srca.toNat
  let scl := sclOf e.f 0
  let ts := if scl then e.c.tAt (match e.f.ext with
    | .wide x => x.srcc.toNat
    | _ => 0) else 0
  let m := (s.core e.core).macros
  let bf := m.issuedType == 11
  let tiles := e.c.acc.drop e.dst
  let rows := shpExt ta 1
  let badScale : Bool := scl && (shpBad ts || !shpSpace ts || shpNdim ts != 1)
  if shpBad ta || !shpSpace ta || shpNdim ta != 1 || badScale || (e.ty == 11) != bf || 2048 < rows ||
      regionSize tiles < rows * arrN m.issuedArr bf then .exc s .ropnd
  else e.enqueue s ta ts (e.c.kAt e.f.srcb.toNat) 0 tiles id

/-- `mzero` (R272, Table 22-10). -/
def mzeroForm (e : Env) (s : State) : Res :=
  let n := e.var + 1
  if 8 < n || e.c.kernel.accs < e.dst + n then .exc s .ropnd
  else e.enqueue s 0 0 0 0 ((e.c.acc.drop e.dst).take n) id

/-- `mrd` (R273, Table 22-10). Table 13-9 has no field for the scale byte of a saved `mrd`; it stands in `MASK`, which the
instruction does not use otherwise (DESIGN CHOICE, log 90). -/
def mrdForm (e : Env) (s : State) : Res :=
  let td := e.c.tAt e.dst
  let tiles := e.c.acc.drop e.f.srca.toNat
  let sc : Option Nat := match e.f.ext with
    | .wide x => if x.uv then some x.uni.toNat else none
    | _ => none
  let v := sc.map e.uni
  let s := e.dead s ((v.map Prod.snd).getD false)
  if shpBad td || !shpSpace td || shpNdim td != 1 || shpFmt td != typeFmt e.ty ||
      regionSize tiles < shpExt td 0 * shpExt td 1 then .exc s .ropnd
  else e.enqueue s td 0 (((v.map (fun r => BitVec.ofNat 64 (r.1.toNat % 256)))).getD 0)
    (((v.map (fun r => r.1.toNat % 256))).getD 0) tiles id

/-- `mred` (R274, Table 22-10). -/
def mredForm (e : Env) (s : State) : Res :=
  let td := e.c.tAt e.dst
  let tiles := e.c.acc.drop e.f.srca.toNat
  if shpBad td || shpSpace td || shpNdim td != 1 || shpFmt td != 9 ||
      regionSize tiles < shpExt td 0 * shpExt td 1 then .exc s .ropnd
  else e.enqueue s td 0 0 0 tiles id

/-- `mwait` (R275, Table 22-1): a member of the ring observes its crew's engine work. -/
def mwaitForm (e : Env) (s : State) : Res :=
  if !(s.core e.core).ring.contains e.id then .exc s .rlamp
  else if (s.core e.core).eng.any (fun c => c.crew == e.id) then .wait s .stalled
  else .done (e.observe s)

/-- `mkw` and `mkr` (R276). -/
def mkwForm (e : Env) (s : State) : Res :=
  let r := e.uniVal s e.srcA
  .done ((e.endUses r.2).modCrew e.id (fun c => c.setK e.dst r.1))

def mkrForm (e : Env) (s : State) : Res := .done (e.putS s e.dst (e.c.kAt e.f.srca.toNat))

/-- What an instruction's element accesses leave beside their data (R427, R428): the state, whether one was
poisoned or stopped, whether its record is written, why the step must wait (R110, R325), and the requests whose
acknowledgement it awaits (R274). -/
structure EngAcc where
  st : State
  reads : Nat
  stops : Nat
  recorded : Bool
  hold : Option UStop
  acks : List Nat

/-- A stopped access with its reason and addresses: `DERR`, and one record for the instruction (R427). -/
def EngAcc.refused (a : EngAcc) (u : UnitWho) (reason : Nat) (va pa : Option Nat) : EngAcc :=
  let s := if a.recorded then a.st else unitRecord a.st u 14 1 9 reason va pa
  { a with st := s, stops := a.stops + 1, recorded := true }

/-- An access that stops, or that waits: the step is then taken up again (R110, R325). -/
def EngAcc.stop (a : EngAcc) (u : UnitWho) (f : UStop) : EngAcc :=
  match f with
  | .park x va => { a with st := u.noteFail a.st va x }.refused u 0 (some va) none
  | .bad va => a.refused u 0 (some va) none
  | .remote r x => { a with st := u.refused a.st r x false }.refused u r (some x.va) (some x.pa)
  | .wait => { a with hold := some (a.hold.getD .wait) }
  | .away n x => { a with hold := some (a.hold.getD (.away n x)) }

/-- An operand element (R270, R427): its pattern and whether it counts as poisoned. A global element must lie in a
stockpile region. -/
def EngAcc.elem (a : EngAcc) (u : UnitWho) (t : Shape) (xs : List Int) : (Nat × Bool) × EngAcc :=
  let offRange : Option Nat :=
    if shpSpace t then none
    else
      match shpAddr t xs with
      | none => none
      | some (v, _) =>
        match translate a.st (askHoist u.core) u.ctx v needR with
        | .ok x => if x.e.cmode == 3 then none else some v
        | .error _ => none
  match offRange with
  | some v => ((0, true), a.stop u (.park (xfail .rperm) v))
  | none =>
    match u.readElem a.st t xs with
    | .error f => ((0, true), a.stop u f)
    | .ok (v, bad, s) => ((v, bad), { a with st := s, reads := a.reads + bitNat bad })

/-- Elements in turn. -/
def EngAcc.elems (a : EngAcc) (u : UnitWho) (t : Shape) (xs : List (List Int)) : List (Nat × Bool) × EngAcc :=
  xs.foldl (fun r x =>
    let q := r.2.elem u t x
    (r.1 ++ [q.1], q.2)) ([], a)

/-- Two coordinates. -/
def coord2 (x y : Nat) : List Int := [(x : Int), (y : Int)]

/-- ⌊log2 |v|⌋ of a nonzero finite element. -/
def finLog (x : FVal) : Option Int :=
  match x with
  | .fin _ m e => if m == 0 then none else some (ilog2 m e)
  | _ => none

/-- `E` of a block (R151). -/
def blockExp (vs : List FVal) : Int :=
  match vs.filterMap finLog with
  | [] => 0
  | x :: r => r.foldl max x

/-- v × 2^k rounded to nearest even. -/
def alignInt (k : Int) (x : FVal) : Int :=
  match scaleVal k x with
  | .fin n m e => (roundToInt 0 noRBits n m e).1
  | _ => 0

/-- A block of 32 elements aligned into integers with its σ (Table 07-8); `scale` is the block's scale byte. -/
def alignBlock (ty : Nat) (scale : Option Nat) (vs : List Nat) : List Int × Int :=
  let s0 : Int := match scale with
    | some s => (s : Int) - 127
    | none => 0
  if scale == some 255 then (vs.map (fun _ => 0), nanBlock)
  else
    match ty with
    | 0 => (vs.map (readInt true 8), 0)
    | 16 => (vs.map (readInt true 8), s0 - 6)
    | 14 => (vs.map (fun v => alignInt 1 ((ffmt 14).decode v)), s0 - 1)
    | 15 => (vs.map (readInt true 4), s0)
    | _ =>
      let xs := vs.map (ffmt ty).decode
      if xs.any (fun x => match x with
          | .fin _ _ _ => false
          | _ => true) then (vs.map (fun _ => 0), nanBlock)
      else
        let top : Int := if ty == 11 then 14 else 6
        let e := blockExp xs
        (xs.map (alignInt (top - e)), s0 + e - top)

/-- Cells of a block's integers in a macro: a `.bf16` integer takes two (R269, R280). -/
def blockCells (bf : Bool) (m j c : Nat) (vs : List Int) : List (Nat × Nat) :=
  (List.range 32).flatMap (fun i =>
    let v := vs.getD i 0
    let row := 16384 * m + 128 * (32 * j + i)
    if bf then [(row + 2 * c, (v % 256).toNat), (row + 2 * c + 1, (v / 256 % 256).toNat)]
    else [(row + c, (v % 256).toNat)])

/-- One block of one column of `mld` (R270, R428). -/
def mldBlock (core : Nat) (c : EngCmd) (arr : Nat) (bf : Bool) (m j col : Nat) (a : EngAcc) : EngAcc :=
  let u := c.unit core
  let g := arrGroups arr
  let k0 := 128 * (m / g) + 32 * j
  let n := arrWidth bf * (m % g) + col
  let r := a.elems u c.shp1 ((List.range 32).map (fun i => coord2 (k0 + i) n))
  let scl := sclOf c.fields 2
  let q := if scl then r.2.elem u c.shp2 (coord2 (k0 / 32) n) else ((0, false), r.2)
  let y := alignBlock c.ty (if scl then some q.1.1 else none) (r.1.map Prod.fst)
  let bad := r.1.any Prod.snd || q.1.2
  let put : Macros → Macros := fun mc =>
    let cells := (blockCells bf m j col y.1).foldl (fun t w =>
      if w.2 == 0 then tabDel t w.1 else tabPut t w.1 (BitVec.ofNat 8 w.2)) mc.cells
    let key := 512 * m + 128 * j + col
    { mc with cells := cells, exps := if y.2 == 0 then tabDel mc.exps key else tabPut mc.exps key y.2,
              poison := if bad then setAdd mc.poison (4 * m + j) else mc.poison, lost := setDel mc.lost (4 * m + j) }
  { q.2 with st := q.2.st.modCore core (fun co => { co with macros := put co.macros }) }

/-- `mld` begins: the macros take its arrangement and type, and hold nothing yet (R270). -/
def startMld (s : State) (core : Nat) (c : EngCmd) : State :=
  s.modCore core (fun co => { co with macros := { co.macros with
    cells := [], exps := [], poison := [], lost := [], arr := c.fields.var.toNat % 4, btype := c.ty, loaded := some c.ctx } })

/-- A step of `mld` from a position in macro rows (R270, R279): the rows of one block of one macro, which one exponent
binds together. -/
def mldStep (core : Nat) (c : EngCmd) (p : Nat) (a : EngAcc) : EngAcc :=
  let bf := c.ty == 11
  let a := if p == 0 then { a with st := startMld a.st core c } else a
  (List.range (arrWidth bf)).foldl (fun a col =>
    mldBlock core c (c.fields.var.toNat % 4) bf (p / 128) (p / 32 % 4) col a) a

/-- A rounded `.f32` sum with the flags that the engine keeps (R152, R153). -/
def engAdd (x y : Nat) : Nat × Flags :=
  let r := addVal 0 (fF32.decode x) (fF32.decode y)
  let z := roundVal fF32 0 false noRBits r.1
  (z.1, (r.2 &&& flagNV) ||| (z.2 &&& flagOF))

/-- `blockval` (R152, R153). -/
def blockVal (a : List Int × Int) (b : List Int × Int) : Nat × Flags :=
  if a.2 == nanBlock || b.2 == nanBlock then (fF32.canonNaN, flagNV)
  else
    let sum : Int := (List.range 32).foldl (fun (n : Int) i => n + a.1.getD i 0 * b.1.getD i 0) 0
    let z := roundVal fF32 0 false noRBits (scaleVal (a.2 + b.2) (intVal sum))
    (z.1, z.2 &&& flagOF)

/-- The stored integers and σ of a block's column. -/
def cellBlock (mc : Macros) (bf : Bool) (m j col : Nat) : List Int × Int :=
  let at_ : Nat → Nat := fun k => ((tabGet mc.cells k).map BitVec.toNat).getD 0
  let vs := (List.range 32).map (fun i =>
    let row := 16384 * m + 128 * (32 * j + i)
    if bf then ((at_ (row + 2 * col) : Nat) : Int) + 256 * readInt true 8 (at_ (row + 2 * col + 1))
    else readInt true 8 (at_ (row + col)))
  (vs, (tabGet mc.exps (512 * m + 128 * j + col)).getD 0)

/-- `macroval` of a column from the row's four blocks (R152). -/
def macroVal (mc : Macros) (bf : Bool) (as : List (List Int × Int)) (m col : Nat) : Nat × Flags :=
  let b : Nat → Nat × Flags := fun j => blockVal (as.getD j ([], 0)) (cellBlock mc bf m j col)
  let x := engAdd (b 0).1 (b 1).1
  let y := engAdd (b 2).1 (b 3).1
  let z := engAdd x.1 y.1
  (z.1, (b 0).2 ||| (b 1).2 ||| (b 2).2 ||| (b 3).2 ||| x.2 ||| y.2 ||| z.2)

/-- The tree over the macros of a column group, pairwise (R149, R152). -/
def macroTree (fuel : Nat) (vs : List (Nat × Flags)) : Nat × Flags :=
  match fuel with
  | 0 => vs.headD (0, 0)
  | fuel + 1 =>
    if vs.length ≤ 1 then vs.headD (0, 0)
    else macroTree fuel (treeLevel (fun p q =>
      let z := engAdd p.1 q.1
      (z.1, p.2 ||| q.2 ||| z.2)) vs)

/-- `t` of R152 for one output column. -/
def columnVal (mc : Macros) (arr : Nat) (bf : Bool) (as : List (List Int × Int)) (n : Nat) : Nat × Flags :=
  let g := arrGroups arr
  let w := arrWidth bf
  macroTree 4 ((List.range (2 ^ arr)).map (fun k => macroVal mc bf (as.drop (4 * k)) (k * g + n / w) (n % w)))

/-- The tiles whose accumulators hold an element of a range of the region. -/
def tilesOf (tiles : List Nat) (lo n : Nat) : List Nat :=
  (tiles.zipIdx.filter (fun t => lo < 4096 * t.2 + 4096 && 4096 * t.2 < lo + n)).map Prod.fst

def poisonTiles (s : State) (core : Nat) (ts : List Nat) : State :=
  s.modCore core (fun co => { co with accPoison := ts.foldl setAdd co.accPoison })

/-- The sub-array that serves block j of macro m: its own, or the spare in place of one fenced (R429). -/
def Macros.serving (mc : Macros) (m j : Nat) : Nat := if mc.fenced.contains (m, j) && mc.spareUsed.contains m then 4 else j

/-- The serving sub-arrays of every macro feed a tile; they are noted until the next self-test that they pass (R429). -/
def noteFed (s : State) (core : Nat) (ts : List Nat) : State :=
  s.modCore core (fun co =>
    let mc := co.macros
    let new := (List.range 32).flatMap (fun b => ts.map (fun t => (b / 4, mc.serving (b / 4) (b % 4), t)))
    { co with macros := { mc with fed := mc.fed ++ new.filter (fun x => !mc.fed.contains x) } })

/-- A record of class 1 for bits lost in a core's SRAM, found by a read of its engine; that read does not count in class 15
(R364, R368). -/
def engineFinds (s : State) (core : Nat) (c : EngCmd) : State :=
  let index := ((s.crew c.crew).map Crew.index).getD 0
  let s := errRecord s (dieOfCore core)
    { cls := 1, sev := 0, addr := none, vaddr := none, who := some (c.ctx, index), ukind := 0, unit := core,
      info := info24 9 0 none 0, split := 0, slot := (s.crew c.crew).bind Crew.slot }
  { s with caught := s.caught + 1 }

/-- A pair of accumulator elements whose bits are lost is read: zeros, with `DERR` and its tile's mark to follow (R366,
R367); the state in which it has been found. -/
def readPair (s : State) (core : Nat) (c : EngCmd) (k : Nat) : Bool × State :=
  match tabGet (s.core core).accLost (k / 2) with
  | none => (false, s)
  | some latent =>
    (true, if latent then
      engineFinds (s.modCore core (fun co => { co with accLost := tabPut co.accLost (k / 2) false })) core c else s)

/-- The blocks whose bits are lost are found by the first row that reads them: they are poisoned and read as zeros (R364,
R428). -/
def findBlocks (s : State) (core : Nat) (c : EngCmd) : State :=
  (s.core core).macros.lost.foldl (fun s b =>
    let s := (engineFinds s core c)
    { s with caught := s.caught - 1 }.modCore core (fun co => { co with macros := { co.macros with
      poison := setAdd co.macros.poison b
      lost := setDel co.macros.lost b
      cells := co.macros.cells.filter (fun w => !(w.1 / 16384 == b / 4 && w.1 % 16384 / 4096 == b % 4)) } })) s

/-- One row of `mmul` (R271, R152, R428). -/
def mmulRow (core : Nat) (c : EngCmd) (row : Nat) (a : EngAcc) : EngAcc × Flags :=
  let u := c.unit core
  let a := { a with st := findBlocks a.st core c }
  let mc := (a.st.core core).macros
  let bf := c.btype == 11
  let kn := arrK c.arr
  let n := arrN c.arr bf
  let r := a.elems u c.shp1 ((List.range kn).map (fun k => coord2 k row))
  let scl := sclOf c.fields 0
  let q := if scl then r.2.elems u c.shp2 ((List.range (kn / 32)).map (fun b => coord2 b row)) else ([], r.2)
  let blocks := (List.range (kn / 32)).map (fun b =>
    alignBlock c.ty (if scl then some (q.1.getD b (0, false)).1 else none)
      (((r.1.drop (32 * b)).take 32).map Prod.fst))
  let keys := (List.range n).map (fun col => regionKey c.tiles (row * n + col))
  let lost := (List.range n).foldl (fun (l : Nat × State) i =>
    if i % 2 == 1 then l
    else
      let x := readPair l.2 core c (keys.getD i 0)
      (l.1 + bitNat x.1, x.2)) (0, q.2.st)
  let bad := r.1.any Prod.snd || q.1.any Prod.snd || lost.1 != 0
  let co := lost.2.core core
  let out := (List.range n).foldl (fun (o : Core × Flags) col =>
    let t := columnVal mc c.arr bf blocks col
    let k := keys.getD col 0
    let z := engAdd (if (tabGet co.accLost (k / 2)).isSome then 0 else accGet o.1 k) t.1
    (accPut o.1 k z.1, o.2 ||| t.2 ||| z.2)) (co, 0)
  let ts := tilesOf c.tiles (row * n) n
  let whole := keys.foldl (fun t k => tabDel t (k / 2)) co.accLost
  let s := lost.2.modCore core (fun co => { co with acc := out.1.acc, accLost := whole })
  let s := noteFed (if bad then poisonTiles s core ts else s) core ts
  ({ q.2 with st := s, reads := q.2.reads + lost.1 }, out.2)

/-- The next unmasked row of an `mmul` from a position (R271). -/
def nextRow (c : EngCmd) : Option Nat :=
  (List.range (shpExt c.shp1 1)).find? (fun r => c.pos ≤ r && c.mask.getLsbD (r / 32))

/-- The tiles that an `mmul` writes. -/
def EngCmd.written (c : EngCmd) : List Nat :=
  let n := arrN c.arr (c.btype == 11)
  (List.range (shpExt c.shp1 1)).foldl (fun l r =>
    if c.mask.getLsbD (r / 32) then (tilesOf c.tiles (r * n) n).foldl setAdd l else l) []

/-- The scope of `mred` (R274). -/
def EngCmd.scope (c : EngCmd) : Nat := if c.slot == 0x394 then c.fields.var.toNat else 0

/-- Where an instruction ends, in the units in which it keeps its position (R279): macro rows, accumulators, rows. -/
def EngCmd.steps (c : EngCmd) : Nat :=
  match c.slot with
  | 0x390 => 1024
  | 0x392 => c.tiles.length
  | _ => shpExt c.shp1 1

/-- The position after a step: `mld` takes a block of macro rows at once (DESIGN CHOICE, log 91). -/
def EngCmd.after (c : EngCmd) : Nat := if c.slot == 0x390 then (c.pos / 32 + 1) * 32 else c.pos + 1

/-- An instruction has finished with the macros and the accumulators, although its updates may not have been performed. -/
def EngCmd.over (c : EngCmd) : Bool := if c.slot == 0x391 then (nextRow c).isNone else c.steps ≤ c.pos

/-- An instruction uses the macros; the accumulators that it uses (R270 to R274). -/
def EngCmd.macros (c : EngCmd) : Bool := c.slot == 0x390 || c.slot == 0x391
def EngCmd.uses (c : EngCmd) : List Nat :=
  match c.slot with
  | 0x390 => []
  | 0x391 => c.written
  | 0x392 => c.tiles
  | _ => tilesOf c.tiles 0 (shpExt c.shp1 0 * shpExt c.shp1 1)

/-- An earlier instruction still holds back a later one, with which it shares macros or accumulators (R275). -/
def EngCmd.bars (o c : EngCmd) : Bool := !o.over && ((o.macros && c.macros) || o.uses.any c.uses.contains)

/-- The instructions that may run, with their places in the queue: no earlier one bars them, and their context's engines are
not stopped (R275, R361). -/
def engFree (s : State) (core : Nat) : List (Nat × EngCmd) :=
  let l := (s.core core).eng
  (l.zipIdx.filter (fun c => !stopped s c.1.ctx && !(l.take c.2).any (fun o => o.bars c.1))).map (fun c => (c.2, c.1))

/-- The head instruction may run. -/
def engHead (s : State) (core : Nat) : Option EngCmd :=
  match (s.core core).eng with
  | [] => none
  | c :: _ => if stopped s c.ctx then none else some c

/-- Puts an instruction back in its place. -/
def setEng (s : State) (core i : Nat) (c : EngCmd) : State :=
  s.modCore core (fun co => { co with eng := co.eng.set i c })

/-- The `mmul` whose row commits next: no two run at once, since they share the macros. -/
def engRow (s : State) (core : Nat) : Option (Nat × EngCmd) :=
  (engFree s core).find? (fun c => c.2.slot == 0x391 && (nextRow c.2).isSome)

/-- Writes of an instruction to beyond the module that have not been performed there (R274). -/
def engineAwaits (s : State) (c : EngCmd) : Bool := c.acks.any (fun k => (tabGet s.exts k).isSome)

/-- The instruction that steps or completes next, with the state after the choice: the order of instructions that run
beside each other is open (R275, DESIGN CHOICE log 4). -/
def engTurn (s : State) (core : Nat) : Option (Nat × EngCmd × State) :=
  let harv := (s.core core).macros.harvested
  match (engFree s core).filter (fun c =>
      if c.2.slot == 0x391 then harv || (nextRow c.2).isNone else !(c.2.over && engineAwaits s c.2)) with
  | [] => none
  | [c] => some (c.1, c.2, s)
  | l =>
    let d := s.draw
    (l[Config.freeChoice d.1 % l.length]?).map (fun c => (c.1, c.2, d.2))

/-- The consequences of an instruction's accesses for its issuer (R367, R427, R428). -/
def EngAcc.settle (a : EngAcc) (u : UnitWho) : State :=
  let s := unitDerr a.st u a.reads
  if a.stops == 0 then s else unitFlags s u.crew flagDERR

/-- `mmul` poisons what it writes where a block is poisoned or the engine is harvested (R428, R429). With every row masked
it reads and writes nothing. -/
def mmulPoison (s : State) (core : Nat) (c : EngCmd) : State :=
  let m := (s.core core).macros
  if (m.poison.isEmpty && !m.harvested) || c.written.isEmpty then s
  else unitFlags (poisonTiles s core c.written) c.crew flagDERR

/-- A step of an instruction waits for a refresh window or for data from beyond the module; its reads that meet no window
are over (R110, R325). -/
def engineHold (s : State) (core i : Nat) (c : EngCmd) (f : UStop) : State :=
  match f with
  | .away n x =>
    let r := (c.unit core).ask s n x
    setEng r.2 core i { c with away := r.1 }
  | _ => setEng s core i { c with groups := (openGroups s (dieOfCore core)).foldl setAdd c.groups }

/-- A fed row commits (R279). -/
def execMmulRowCommit (core : Nat) (s : State) : Host.Outcome State Fault Refusal :=
  match engRow s core with
  | none => .next s
  | some (i, c) =>
    if (s.core core).macros.harvested then .next s
    else
      match nextRow c with
      | none => .next s
      | some row =>
        let r := mmulRow core c row ⟨s, 0, 0, c.recorded, none, []⟩
        match r.1.hold with
        | some f => .next (engineHold s core i c f)
        | none =>
        let s := unitFlags (r.1.settle (c.unit core)) c.crew r.2
        let c := { c with pos := row + 1, recorded := r.1.recorded, idle := 0, away := [], groups := [] }
        let s := mmulPoison s core c
        let s := if (nextRow c).isNone && !c.released then discharge s c.crew c.flgb else s
        .next (setEng s core i { c with released := c.released || (nextRow c).isNone })

/-- A step of `mzero` (R272): one tile is +0 and unpoisoned (R428). -/
def mzeroStep (s : State) (core : Nat) (c : EngCmd) (p : Nat) : State :=
  let t := c.tiles.getD p 8
  s.modCore core (fun co => { co with
    acc := co.acc.filter (fun e => e.1 / 4096 != t)
    accLost := co.accLost.filter (fun e => e.1 / 2048 != t)
    accPoison := setDel co.accPoison t })

/-- The elements of a row of an output record. -/
def rowElements (t : Shape) (r : Nat) : List (Nat × Nat) := (List.range (shpExt t 0)).map (fun n => (n, r))

/-- The region reads as poisoned at an element. -/
def regionBad (co : Core) (tiles : List Nat) (e : Nat) : Bool :=
  co.macros.harvested || co.accPoison.contains (tiles.getD (e / 4096) 0)

/-- One element of `mrd` (R273, R428). -/
def mrdElem (core : Nat) (c : EngCmd) (a : EngAcc × List Cover × List Cover × Flags) (p : Nat × Nat) :
    EngAcc × List Cover × List Cover × Flags :=
  let e := p.2 * shpExt c.shp1 0 + p.1
  let lost := readPair a.1.st core c (regionKey c.tiles e)
  let co := lost.2.core core
  let bad := regionBad co c.tiles e || lost.1
  let f := c.fields
  let scale : Option (Nat × Bool) := if f.uv then some (c.scale, true) else none
  let y := if bad then (0, 0)
    else convertElem 0 c.ty 9 f.rnd.toNat f.sat noRBits scale (accGet co (regionKey c.tiles e))
  match (c.unit core).writeElem lost.2 c.shp1 (coord2 p.1 p.2) y.1 with
  | .error w => ({ a.1 with st := lost.2 }.stop (c.unit core) w, a.2)
  | .ok (cov, s) =>
    ({ a.1 with st := s, reads := a.1.reads + bitNat bad }, a.2.1 ++ cov, if bad then a.2.2.1 ++ cov else a.2.2.1,
      a.2.2.2 ||| (y.2 &&& (flagNV ||| flagOF ||| flagSAT)))

/-- `mrd` and `mred` are noted with the sub-arrays that fed what they read (R429). -/
def noteOut (s : State) (core : Nat) (c : EngCmd) : State :=
  let ts := tilesOf c.tiles 0 (shpExt c.shp1 0 * shpExt c.shp1 1)
  s.modCore core (fun co =>
    let by_ := (co.macros.fed.filter (fun x => ts.contains x.2.2)).foldl (fun (l : List (Nat × Nat)) x =>
      if l.contains (x.1, x.2.1) then l else l ++ [(x.1, x.2.1)]) []
    { co with macros := { co.macros with outs := co.macros.outs ++ [(c.crew, by_)] } })

/-- A step of `mrd` (R273): one row. -/
def mrdStep (core : Nat) (c : EngCmd) (p : Nat) (a : EngAcc) : EngAcc × Flags :=
  let r := (rowElements c.shp1 p).foldl (mrdElem core c) (a, [], [], 0)
  let s := taint (settle r.1.st core r.2.1) core r.2.2.1
  ({ r.1 with st := if p == 0 then noteOut s core c else s }, r.2.2.2)

/-- One element of `mred` (R274, R427, R428). An update of a poisoned element to beyond the module is dropped: the manual
says only what a home in the module does with it (DESIGN CHOICE, log 70). -/
def mredElem (core : Nat) (c : EngCmd) (a : EngAcc) (p : Nat × Nat) : EngAcc :=
  let u := c.unit core
  match shpAddr c.shp1 (coord2 p.1 p.2) with
  | none => a
  | some (va, _) =>
    let e := p.2 * shpExt c.shp1 0 + p.1
    let lost := readPair a.st core c (regionKey c.tiles e)
    let v := accGet (a.st.core core) (regionKey c.tiles e)
    let bad := regionBad (a.st.core core) c.tiles e || lost.1
    let a := { a with st := lost.2, reads := a.reads + bitNat bad }
    if va % 4 != 0 then a.stop u (.bad va)
    else
      match translate a.st (askHoist core) c.ctx va needRW with
      | .error f => a.stop u (.park f va)
      | .ok x =>
        match refusal a.st x core true with
        | some r => a.stop u (.remote r x)
        | none =>
          let s := claimPriv (noteXlate a.st (askHoist core) x) x core
          if isHost x.pa || isPeer x.pa then
            if bad then { a with st := s }
            else
              let r : Ext := { u.request s .unitWrite va x.pa 4 (leBytes 4 v) with ty := 9, slot := 0x350 }
              -- the word that results is not known here
              let b := freeBytes 4 s
              { a with st := extMonitors (sendExt b.2 r (some (u.who x))) x.pa b.1, acks := a.acks ++ [b.2.nextId] }
          else if bad then { a with st := poisonRange s x.pa 4 }
          else
            let s := redWord s (dieOfCore core) (engPts s c.crew) x.pa 0 9 v (some (u.who x)) false
            { a with st := if x.e.cmode == 0 then raiseEng s c.crew (redTs s x.pa) else s }

/-- A step of `mred` (R274): one row. -/
def mredStep (core : Nat) (c : EngCmd) (p : Nat) (a : EngAcc) : EngAcc :=
  let r := (rowElements c.shp1 p).foldl (mredElem core c) a
  if p == 0 then { r with st := noteOut r.st core c } else r

/-- A harvested engine's `mld` poisons every block (R429). -/
def poisonBlocks (s : State) (core : Nat) (c : EngCmd) : State :=
  s.modCore core (fun co => { co with macros := { co.macros with
    poison := List.range 32, lost := [], arr := c.fields.var.toNat % 4, btype := c.ty, loaded := some c.ctx } })

/-- An instruction leaves the engine with its obligations discharged (R275); the area of a crew held Saved follows what it
has written (R88, R376). -/
def finishEngine (s : State) (core i : Nat) (c : EngCmd) : State :=
  let s := s.modCore core (fun co => { co with eng := co.eng.eraseIdx i })
  let s := if c.released then s else discharge s c.crew c.flgb
  syncTiles (discharge s c.crew c.flga) c.crew

/-- One step of an instruction other than `mmul`. -/
def engineStep (core : Nat) (c : EngCmd) (p : Nat) (a : EngAcc) : EngAcc × Flags :=
  match c.slot with
  | 0x390 => (mldStep core c p a, 0)
  | 0x392 => ({ a with st := mzeroStep a.st core c p }, 0)
  | 0x393 => mrdStep core c p a
  | _ => (mredStep core c p a, 0)

/-- An instruction all of whose steps are done completes once its updates are performed; `mred` then holds with respect to
its scope (R118, R274). -/
def completeEngine (s : State) (core i : Nat) (c : EngCmd) : State :=
  if engineAwaits s c then setEng s core i c
  else finishEngine (if wideScope c.scope then raiseCtx s c.ctx (engPts s c.crew) else s) core i c

/-- An instruction takes its next step and completes with the last one; an `mmul` completes once its rows have all committed
(R275, R279). A harvested engine's `mld` only poisons its blocks (R429). -/
def execEngineInsnDone (core : Nat) (s : State) : Host.Outcome State Fault Refusal :=
  match engTurn s core with
  | none => .next s
  | some (i, c, s) =>
    if c.slot == 0x391 then .next (finishEngine (mmulPoison s core c) core i c)
    else if c.slot == 0x390 && (s.core core).macros.harvested then .next (finishEngine (poisonBlocks s core c) core i c)
    else if c.over then .next (completeEngine s core i c)
    else
      let r := engineStep core c c.pos ⟨s, 0, 0, c.recorded, none, []⟩
      match r.1.hold with
      | some f => .next (engineHold s core i c f)
      | none =>
        let s := unitFlags (r.1.settle (c.unit core)) c.crew r.2
        let c := { c with pos := c.after, recorded := r.1.recorded, idle := 0, away := [], groups := [],
                          acks := c.acks ++ r.1.acks }
        .next (if c.over then completeEngine s core i c else setEng s core i c)

/-- What an instruction that is ended has not read counts as poisoned (R427, R428): the blocks that `mld` has still to load,
and the accumulators of the rows that `mmul` has still to commit. Writes not made are dropped. -/
def abandonEngine (s : State) (core : Nat) (c : EngCmd) : State :=
  match c.slot with
  | 0x390 =>
    let s := if c.pos == 0 then startMld s core c else s
    s.modCore core (fun co => { co with macros := { co.macros with
      poison := ((List.range 32).drop (c.pos / 32)).foldl setAdd co.macros.poison } })
  | 0x391 =>
    let n := arrN c.arr (c.btype == 11)
    let rows := (List.range (shpExt c.shp1 1)).filter (fun r => c.pos ≤ r && c.mask.getLsbD (r / 32))
    poisonTiles s core (rows.foldl (fun l r => (tilesOf c.tiles (r * n) n).foldl setAdd l) [])
  | _ => s

/-- The engine's progress watchdog (R427): the stuck instruction completes with `DERR` and a record of class 12. -/
def execEngineWatchdogExpire (core : Nat) (s : State) : Host.Outcome State Fault Refusal :=
  match (engFree s core).find? (fun c => 2 ^ 20 ≤ c.2.idle) with
  | none => .next s
  | some (i, c) =>
    let s := if c.recorded then s else unitRecord s (c.unit core) 12 0 9 0 none none
    .next (finishEngine (unitFlags (abandonEngine s core c) c.crew flagDERR) core i c)

/-- A failing sub-array (R429): the spare takes its place, or the engine is harvested. Every other one has passed, so that
nothing is noted of it any more. -/
def fenceSub (s : State) (core m sub : Nat) : State :=
  let mc := (s.core core).macros
  let spareGone := mc.spareUsed.contains m || mc.fenced.contains (m, 4)
  let harv := if sub == 4 then mc.spareUsed.contains m else spareGone
  let spare := sub != 4 && !harv
  let bound := s.crews.flatMap (fun e => if e.2.core == core then e.2.acc else [])
  let ts := ((mc.fed.filter (fun x => x.1 == m && x.2.1 == sub)).map (fun x => x.2.2)).filter bound.contains
  let outs := mc.outs.filter (fun o => o.2.contains (m, sub))
  let block := (List.range 4).find? (fun j => mc.serving m j == sub)
  let s := s.modCore core (fun co => { co with macros := { co.macros with
    fenced := co.macros.fenced ++ [(m, sub)]
    spareUsed := if spare then co.macros.spareUsed ++ [m] else co.macros.spareUsed
    poison := (block.map (fun j => setAdd co.macros.poison (4 * m + j))).getD co.macros.poison
    fed := []
    outs := []
    harvested := co.macros.harvested || harv } })
  let s := poisonTiles s core ts
  let hold := (s.crews.filter (fun e => e.2.core == core && e.2.acc.any ts.contains)).map Prod.fst
  let s := (hold ++ outs.map Prod.fst).foldl (fun s c => unitFlags s c flagDERR) s
  errRecord s (dieOfCore core)
    { cls := 3, sev := if harv then 2 else 0, addr := none, vaddr := none, who := none, ukind := 0, unit := core,
      info := m + atBit 3 sub + atBit 6 (bitNat (spare || (sub != 4 && mc.spareUsed.contains m))) + atBit 7 (bitNat harv) + atBit 16 ts.length +
        atBit 32 outs.length,
      split := 0, slot := none }

/-- The periodic self-test, between engine instructions (R429). -/
def execMacroSelfTest (core : Nat) (failing : Option (Nat × Nat)) (s : State) : Host.Outcome State Fault Refusal :=
  let mc := (s.core core).macros
  let busy := (s.core core).eng.any (fun c => c.pos != 0 && !c.over)
  if busy || mc.harvested then .next s
  else
    match failing with
    | none => .next (s.modCore core (fun co => { co with macros := { co.macros with fed := [], outs := [] } }))
    | some (m, sub) =>
      if 8 ≤ m || 5 ≤ sub || mc.fenced.contains (m, sub) then .next s else .next (fenceSub s core m sub)

/-- The control value of `bsel.topk` (Table 13-6). -/
structure TopK where
  nb : Nat
  ksel : Nat
  nq : Nat
  list : Nat
  bad : Bool

def topkOf (w d : Nat) : TopK :=
  let nb := bitsOf w 6 0
  let ksel := bitsOf w 14 8
  let nq := bitsOf w 19 16
  { nb := nb, ksel := ksel, nq := nq, list := bitsOf w 38 20,
    bad := w.testBit 7 || w.testBit 15 || bitsOf w 63 39 != 0 || nb == 0 || 64 < nb || ksel == 0 || nb < ksel ||
      15 < d + nq }

/-- Block `i` stands before block `j` (R277). -/
def beats (vs : List FVal) (i j : Nat) : Bool :=
  let x := vs.getD i (.nan false)
  let y := vs.getD j (.nan false)
  if x.isNan then y.isNan && i < j
  else if y.isNan then true
  else
    let c := cmpVal x y
    0 < c || (c == 0 && i < j)

/-- The kept blocks in ascending order. -/
def topBlocks (vs : List FVal) (k : Nat) : List Nat :=
  (List.range vs.length).filter (fun i => (List.range vs.length).countP (fun j => j != i && beats vs j i) < k)

/-- Rows of scores and of the index list start at multiples of 8 bytes. -/
def align8 (n : Nat) : Nat := (n + 7) / 8 * 8

/-- A stash target of `bsel.topk`. -/
def Env.spot (e : Env) (s : State) (a n : Nat) (write : Bool) : Except LaneFail Target :=
  if a % n != 0 then .error (LaneFail.of .ralign (some a)) else e.stashTarget s ⟨a, true, false⟩ n write

/-- The addresses of a row's scores and of its part of the index list (R277). -/
def TopK.scores (t : TopK) (n base q : Nat) : List Nat :=
  (List.range t.nb).map (fun i => base + q * align8 (t.nb * n) + i * n)

def TopK.ranks (t : TopK) (q : Nat) : List Nat := (List.range t.ksel).map (fun r => t.list + q * align8 (2 * t.ksel) + 2 * r)

/-- The addresses of every row's scores and of the index list. -/
def TopK.reads (t : TopK) (n base : Nat) : List Nat := (List.range (t.nq + 1)).flatMap (t.scores n base)
def TopK.writes (t : TopK) : List Nat := (List.range (t.nq + 1)).flatMap t.ranks

/-- Scores as stash loads give them, with the timestamp and the state. -/
def Env.topLoad (e : Env) (s : State) (reads : List Nat) : List (Nat × Bool) × Nat × State :=
  let n := e.bits / 8
  reads.foldl (fun r x =>
    match e.spot r.2.2 x n false with
    | .ok t =>
      let g := e.loadLane r.2.2 r.2.1 n 0 t
      (match g.1 with
        | .data bs bad => (r.1 ++ [(leNat bs, bad)], g.2.1, g.2.2)
        | _ => (r.1 ++ [(0, false)], g.2.1, g.2.2))
    | .error _ => (r.1 ++ [(0, false)], r.2)) ([], ((s.crew e.id).map Crew.pts).getD 0, s)

/-- The home refuses a line that a score or an entry of the list needs (R405): its addresses. -/
def Env.spotRefused (e : Env) (s : State) (a n : Nat) (write : Bool) : Option (Nat × Nat × Nat) :=
  match e.spot s a n write with
  | .ok (.stash entry a) => (fillRefused s (askCore e.core) e.core e.ctx entry e.c.pts a n write).map (fun x => (0, x.va, x.pa))
  | _ => none

/-- The kept blocks of a row. -/
def Env.topPick (e : Env) (t : TopK) (scores : List (Nat × Bool)) : List Nat :=
  topBlocks (scores.map (fun v => (ffmt e.ty).decode v.1)) t.ksel

/-- A row's blocks as a mask. -/
def blockMask (l : List Nat) : Word := BitVec.ofNat 64 (l.foldl (fun m i => m + 2 ^ i) 0)

/-- One row of `bsel.topk` (R277): its scores are read, then its part of the list and its mask are written. -/
def Env.topRow (e0 : Env) (t : TopK) (base : Nat) (a : State × Nat × List Cover) (q : Nat) : State × Nat × List Cover :=
  let e : Env := { e0 with c := (a.1.crew e0.id).getD e0.c }
  let got := e.topLoad a.1 (t.scores (e.bits / 8) base q)
  let sel := e.topPick t got.1
  let ts := ((t.ranks q).zip (sel.map (leBytes 2))).map (fun p => (0, (match e.spot got.2.2 p.1 2 true with
    | .ok t => t
    | .error _ => Target.nothing), p.2))
  let put := e.storeAll (e.raisePts got.2.2 got.2.1) ts
  let s := e.raisePts put.1.st put.1.pts
  (s.modCrew e.id (fun c => c.setK (e.dst + q) (blockMask sel)), a.2.1 + got.1.countP Prod.snd, a.2.2 ++ put.1.cov)

/-- `bsel.topk` (R277, Table 22-10). -/
def bselTopkForm (e : Env) (s : State) : Res :=
  let a := e.uniVal s e.srcA
  let b := e.uniVal a.2 e.srcB
  let s := b.2
  let t := topkOf b.1.toNat e.dst
  let base := a.1.toNat % 2 ^ 19
  let spots := (t.reads (e.bits / 8) base).map (fun x => (x, e.bits / 8, false)) ++ t.writes.map (fun x => (x, 2, true))
  let waits : Nat × Nat × Bool → Bool := fun p => match e.spot s p.1 p.2.1 p.2.2 with
    | .ok t => e.targetWaits s p.2.1 p.2.2 t
    | .error _ => false
  let fills : Nat × Nat × Bool → List Nat := fun p => match e.spot s p.1 p.2.1 p.2.2 with
    | .ok t => e.fillReads s p.2.1 p.2.2 t
    | .error _ => []
  if t.bad then .exc s .ropnd
  else if t.list % 8 != 0 then e.laneTrap s (0, LaneFail.of .ralign (some t.list))
  else
    match spots.findSome? (fun p => match e.spot s p.1 p.2.1 p.2.2 with
        | .error f => some f
        | .ok _ => none) with
    | some f => e.laneTrap s (0, f)
    | none =>
      if spots.any waits then .wait (e.waitFills s (spots.flatMap fills)) .stalled
      else
        let r := (List.range (t.nq + 1)).foldl (e.topRow t base) (e.endUses s, 0, [])
        lateOr (e.poisoned (settle r.1 e.core r.2.2) r.2.1) (spots.findSome? (fun p => e.spotRefused s p.1 p.2.1 p.2.2))

def execMld (f : Fields) (s : State) : Host.Outcome State Fault Refusal := issue (.mld f) mldForm s
def execMmul (f : Fields) (s : State) : Host.Outcome State Fault Refusal := issue (.mmul f) mmulForm s
def execMzero (f : Fields) (s : State) : Host.Outcome State Fault Refusal := issue (.mzero f) mzeroForm s
def execMrd (f : Fields) (s : State) : Host.Outcome State Fault Refusal := issue (.mrd f) mrdForm s
def execMred (f : Fields) (s : State) : Host.Outcome State Fault Refusal := issue (.mred f) mredForm s
def execMwait (f : Fields) (s : State) : Host.Outcome State Fault Refusal := issue (.mwait f) mwaitForm s
def execMkw (f : Fields) (s : State) : Host.Outcome State Fault Refusal := issue (.mkw f) mkwForm s
def execMkr (f : Fields) (s : State) : Host.Outcome State Fault Refusal := issue (.mkr f) mkrForm s
def execBselTopk (f : Fields) (s : State) : Host.Outcome State Fault Refusal := issue (.bselTopk f) bselTopkForm s

end Sys2Proof.Machine
end

