-- ==== Sys2Proof/Machine/Hoist.lean ====
section
/-! DEFINITION. The hoist: posting commands, their rows, parking and failing, compression, `hpub` and row
counters (R259 to R268, R420 to R426). -/

namespace Sys2Proof.Machine

/-- Slots of the hoist forms. -/
def opHcp : Nat := 0x380
def opHgth : Nat := 0x381
def opHsct : Nat := 0x382
def opHcmp : Nat := 0x383

/-- Fields of Table 13-2. -/
def blkRow (b : List Word) : Nat := bitsOf (blkWord b 0) 15 0 + 1
def blkLoops (b : List Word) : Nat := bitsOf (blkWord b 0) 18 16
def blkTrans (b : List Word) : Bool := (blkWord b 0).testBit 19
def blkRnd (b : List Word) : Nat := bitsOf (blkWord b 0) 24 22
def blkSat (b : List Word) : Bool := (blkWord b 0).testBit 25
def blkScen (b : List Word) : Bool := (blkWord b 0).testBit 26
def blkScale (b : List Word) : Nat := bitsOf (blkWord b 0) 34 27
def blkRcen (b : List Word) : Bool := (blkWord b 0).testBit 36
def blkRcnt (b : List Word) : Nat := bitsOf (blkWord b 0) 39 37

/-- Fields of Table 13-3 for level `l`. -/
def blkCnt (b : List Word) (l : Nat) : Nat := bitsOf (blkWord b (5 + l)) 15 0
def blkSdim (b : List Word) (l : Nat) : Nat := bitsOf (blkWord b (5 + l)) 18 16
def blkDdim (b : List Word) (l : Nat) : Nat := bitsOf (blkWord b (5 + l)) 21 19
def blkSinc (b : List Word) (l : Nat) : Int := signExt 20 (bitsOf (blkWord b (5 + l)) 43 24)
def blkDinc (b : List Word) (l : Nat) : Int := signExt 20 (bitsOf (blkWord b (5 + l)) 63 44)
def blkIbase (b : List Word) : Nat := bitsOf (blkWord b 10) 18 0

/-- Starting coordinate `i` of a side whose first word is `w`; dimensions 4 to 6 start at 0. -/
def blkStart (b : List Word) (w i : Nat) : Int :=
  if 4 ≤ i then 0 else signExt 32 (bitsOf (blkWord b (w + i / 2)) (32 * (i % 2) + 31) (32 * (i % 2)))

/-- A storage code that a scale may go with (R261). -/
def scaledFmt (f : Nat) : Bool := 12 ≤ f && f ≤ 15

/-- The counts of the used levels. -/
def blkCounts (b : List Word) : List Nat := (List.range (blkLoops b)).map (blkCnt b)

/-- `nrows` (R260). -/
def blkRows (b : List Word) : Nat := (blkCounts b).foldl (fun n c => n * c) 1

/-- A control block that breaks a limit (`ROPND`, Table 22-10). -/
def blkBad (opc width : Nat) (b : List Word) (src dst : Shape) : Bool :=
  let n := blkLoops b
  let ls := List.range n
  let idx := blkIdx b
  let fs := shpFmt src
  let fd := shpFmt dst
  6 ≤ n || idx == 3 || 5 ≤ blkRnd b || (blkWord b 0).testBit 35 || bitsOf (blkWord b 0) 63 40 != 0 ||
  ls.any (fun l => blkCnt b l == 0 || bitsOf (blkWord b (5 + l)) 23 22 != 0 || shpNdim src < blkSdim b l ||
    shpNdim dst < blkDdim b l) ||
  (if opc == opHcp then idx != 0 else idx == 0) ||
  (idx != 0 && (bitsOf (blkWord b 10) 31 19 != 0 || bitsOf (blkWord b 10) 63 42 != 0)) ||
  (idx == 1 && n != 0 && width < blkCnt b 0) ||
  (if fs == fd then blkScen b || blkRnd b != 0 || blkSat b
   else blkScen b && scaledFmt fs == scaledFmt fd) ||
  shpBad src || shpBad dst

/-- The lowest free of the 16 slots of a core's hoist (R259). -/
def freeSlotOf (s : State) (core : Nat) : Option Nat := tabFree (s.core core).hoist 16

/-- The waiting split still stands at its hoist form, with its crew on the core. -/
def SlotWait.live (w : SlotWait) (s : State) : Bool := waitsAt s w.crew w.entry w.pc

/-- A command of another context waits for a slot of the core. -/
def othersWait (s : State) (core ctx : Nat) : Bool :=
  (s.core core).hoistWait.any (fun w => w.live s && (s.crew w.crew).any (fun c => c.ctx != ctx))

/-- The slot that a posted command takes (R453); a context with 8 commands in flight receives none while a
command of another context waits for one (Table 23-8). -/
def Env.slotFor (e : Env) (s : State) : Option Nat :=
  if 8 ≤ ((s.core e.core).hoist.filter (fun h => h.2.ctx == e.ctx)).length && othersWait s e.core e.ctx then none
  else freeSlotOf s e.core

/-- The split waits for a slot. -/
def Env.slotWait (e : Env) (s : State) : State :=
  s.modCore e.core (fun c => { c with
    hoistWait := c.hoistWait.filter (fun w => w.crew != e.id || w.entry != e.entry) ++
      [{ crew := e.id, entry := e.entry, pc := e.x.pc }] })

/-- The split no longer waits. -/
def Env.slotFound (e : Env) (s : State) : State :=
  if (s.core e.core).hoistWait.isEmpty then s
  else
    s.modCore e.core (fun c => { c with
      hoistWait := c.hoistWait.filter (fun w => (w.crew != e.id || w.entry != e.entry) && w.live s) })

/-- Posts a command: flags are obliged, and it takes its place in the order of posting (R160, R265). -/
def Env.post (e : Env) (s : State) (slot : Nat) (h : HoistCmd) : State :=
  let s := raiseEng (e.obligeFlags (e.endUses s)) e.id e.c.pts
  s.modCore e.core (fun c => { c with
    hoist := tabPut c.hoist slot { h with seq := c.hoistSeq }, hoistSeq := c.hoistSeq + 1 })

/-- A command of the crew at issue. -/
def Env.command (e : Env) (src dst : Shape) (b : List Word) : HoistCmd :=
  { crew := e.id, ctx := e.ctx, opc := e.slot, src := src, dst := dst, block := b, buf := 0, cap := 0, index := [],
    skip := 0, pc := 0, ps := 0, flga := e.flagPair.1, flgb := e.flagPair.2, released := false, park := none, ahead := none,
    blocks := 0, seq := 0, idle := 0, kept := [], carry := 0, away := [], groups := [] }

/-- The counter is held by the crew's launch and named by its kernel (R77, R382). -/
def Env.holdsCtr (e : Env) (s : State) (n : Nat) : Bool :=
  match tabGet (s.core e.core).ctrs n with
  | some r => r.launch == ctrKey e.id e.c && e.c.kernel.rowctr.getLsbD n
  | none => false

/-- Lanes whose rows are skipped under `IDX` 01: those that do not act in the posting pass (R262). -/
def Env.skipMask (e : Env) : Mask := lowMask e.c.lanes &&& ~~~(maskOf e.acting)

/-- `hcp`, `hgth` and `hsct` (R259 to R262, Table 22-10). -/
def hoistForm (e : Env) (s : State) : Res :=
  let b := e.block
  let s := e.dead s b.2
  let src := e.c.tAt e.f.srcb.toNat
  let dst := e.c.tAt e.dst
  let lanes := blkIdx b.1 == 1 && e.slot != opHcp
  if (blkRcen b.1 && !e.holdsCtr s (blkRcnt b.1)) ||
      (lanes && !e.opndOk (.vreg (blkIreg b.1)) 1) then .exc s .rreg
  else if blkBad e.slot e.c.lanes b.1 src dst then .exc s .ropnd
  else if blkIdx b.1 == 2 && blkIbase b.1 % 4 != 0 then e.laneTrap s (0, LaneFail.of .ralign (some (blkIbase b.1)))
  else
    match e.slotFor s with
    | none => .wait (e.slotWait s) .stalled
    | some slot =>
      let s := e.slotFound s
      let k := if lanes && blkLoops b.1 != 0 then blkCnt b.1 0 else 0
      let skip := if lanes then e.skipMask else 0
      let read := (List.range k).map (fun l =>
        if skip.getLsbD l then ((0 : Word), false) else e.read s.clock (.vreg (blkIreg b.1)) l)
      let s := e.dead s (read.any Prod.snd)
      .done (e.post s slot { e.command src dst b.1 with
        index := read.map (fun r => BitVec.ofNat 32 (r.1.toNat % 2 ^ 32)), skip := skip })

/-- `hcmp` (R266, Table 22-10). -/
def hcmpForm (e : Env) (s : State) : Res :=
  let a := e.uniVal s e.srcA
  let c := e.uniVal a.2 e.srcC
  let s := c.2
  let src := e.c.tAt e.f.srcb.toNat
  let n := shpBits src
  if shpBad src || !shpSpace src || shpNdim src != 1 || n == 4 then .exc s .ropnd
  else if a.1.toNat % 128 != 0 then e.laneTrap s (0, LaneFail.of .ralign (some a.1.toNat))
  else
    match e.slotFor s with
    | none => .wait (e.slotWait s) .stalled
    | some slot => .done (e.post (e.slotFound s) slot { e.command src 0 [] with buf := a.1.toNat, cap := c.1.toNat })

/-- `cwait` (R268): it observes the rows counted when it completes, those of other crews' commands among them. -/
def cwaitForm (e : Env) (s : State) : Res :=
  let b := e.uniVal s e.srcB
  let v : Nat := ((tabGet (s.core e.core).ctrs e.var).map (fun r => r.value.toNat)).getD 0
  let n : Nat := b.1.toNat % 2 ^ 32
  let d : Nat := (v + 2 ^ 32 - n) % 2 ^ 32
  let ts : Nat := ((tabGet (s.core e.core).ctrs e.var).map RowCtr.ts).getD 0
  if d < 0x80000000 then .done (e.raisePts (e.observe (e.endUses b.2)) ts) else .wait b.2 .stalled

/-- The agent of a command. -/
def HoistCmd.unit (h : HoistCmd) (core : Nat) : UnitWho := ⟨core, h.ctx, h.crew, true, 8, h.away, h.groups, h.opc == opHcmp, h.seq + 1⟩

/-- Row groups and blocks of `hcmp` (R266). -/
def cmpGroups (t : Shape) : Nat := (shpExt t 1 + 7) / 8
def cmpBlocks (t : Shape) : Nat := (shpExt t 0 + 7) / 8
def cmpMap (t : Shape) : Nat := ((cmpGroups t * cmpBlocks t + 7) / 8 + 127) / 128 * 128

/-- Positions of a command: rows, or row groups of `hcmp`. -/
def HoistCmd.rows (h : HoistCmd) : Nat := if h.opc == opHcmp then cmpGroups h.src else blkRows h.block

/-- Iteration `i[l]` of a position (R260). -/
def blkIter (b : List Word) (p l : Nat) : Nat :=
  let below := ((List.range l).map (blkCnt b)).foldl (fun n c => n * c) 1
  p / max below 1 % max (blkCnt b l) 1

/-- The iteration vector of a row, packed (Table 25-2). -/
def blkIvec (b : List Word) (p : Nat) : Nat :=
  packNat 16 ((List.range 5).map (fun l => if l < blkLoops b then blkIter b p l else 0))

/-- A coordinate list with one entry increased. -/
def bump (xs : List Int) (d : Nat) (v : Int) : List Int :=
  (List.range xs.length).map (fun i => if i == d then xs.getD i 0 + v else xs.getD i 0)

/-- The coordinates of a row's first element on one side (R260): `idx` replaces level 0's increment there. -/
def rowStart (b : List Word) (p w : Nat) (dim : Nat → Nat) (inc : Nat → Int) (idx : Option Int) : List Int :=
  (List.range (blkLoops b)).foldl (fun xs l =>
    let v := match l, idx with
      | 0, some v => v
      | _, _ => (blkIter b p l : Int) * inc l
    bump xs (dim l) v) ((List.range 7).map (blkStart b w))

/-- The index of a row: none for a form or a block without one; whether it was poisoned. A row that has begun keeps the
one it read (R262). -/
def rowIndex (s : State) (core : Nat) (h : HoistCmd) (p : Nat) : Except UStop (Option Int × Bool × State) :=
  if h.opc == opHcp || blkLoops h.block == 0 then .ok (none, false, s)
  else
    let k := blkIter h.block p 0
    if blkIdx h.block == 1 then .ok (some (signExt 32 ((h.index.getD k 0).toNat)), false, s)
    else
      match tabGet h.kept p with
      | some v => .ok (some (signExt 32 v.1), v.2, s)
      | none =>
      match (h.unit core).read s true false (blkIbase h.block + 4 * k) 4 with
      | .error f => .error f
      | .ok (bs, bad, s) => .ok (some (signExt 32 (leNat bs)), bad, s)

/-- The lane of a row is skipped (R262). -/
def rowSkipped (h : HoistCmd) (p : Nat) : Bool :=
  h.opc != opHcp && blkLoops h.block != 0 && blkIdx h.block == 1 && h.skip.getLsbD (blkIter h.block p 0)

/-- `convert` (R261). -/
def hoistConvert (h : HoistCmd) (v : Nat) : Nat × Flags :=
  let fs := shpFmt h.src
  let fd := shpFmt h.dst
  if fs == fd then (v, 0)
  else
    let scale := if blkScen h.block then some (blkScale h.block, scaledFmt fd) else none
    convertElem 0 fd fs (blkRnd h.block) (blkSat h.block) noRBits scale v

/-- A row in progress: the state, what it covered, what received poison, poisoned reads and flags. -/
structure RowAcc where
  st : State
  cov : List Cover
  bad : List Cover
  reads : Nat
  flags : Flags

/-- A row that has done nothing yet. -/
def RowAcc.from (s : State) : RowAcc := ⟨s, [], [], 0, 0⟩

/-- A row that stops: what it has done, the element, the side (destination) and the reason. -/
structure RowStop where
  part : RowAcc
  elem : Nat
  side : Bool
  why : UStop

/-- Element `j` of a row (R260, R425). (DEDUCED, log 16) -/
def rowElem (core : Nat) (h : HoistCmd) (xs xd : List Int) (a : RowAcc) (j : Nat) : Except RowStop RowAcc :=
  let u := h.unit core
  match u.readElem a.st h.src (bump xs 0 j) with
  | .error f => .error ⟨a, j, false, f⟩
  | .ok (v, bad, s) =>
    let y := if bad then (0, 0) else hoistConvert h v
    match u.writeElem s h.dst (bump xd (if blkTrans h.block then 1 else 0) j) y.1 with
    | .error f => .error ⟨{ a with st := s, reads := a.reads + bitNat bad }, j, true, f⟩
    | .ok (cov, s) =>
      .ok ⟨s, a.cov ++ cov, if bad then a.bad ++ cov else a.bad, a.reads + bitNat bad, a.flags ||| y.2⟩

/-- The elements of a row from `j` on. -/
def rowElems (n : Nat) (core : Nat) (h : HoistCmd) (xs xd : List Int) (a : RowAcc) (j : Nat) : Except RowStop RowAcc :=
  match n with
  | 0 => .ok a
  | n + 1 =>
    match rowElem core h xs xd a j with
    | .error f => .error f
    | .ok a => rowElems n core h xs xd a (j + 1)

/-- What a row has written: covered granules are clean, and poison has reached its destination. -/
def rowMarks (core : Nat) (a : RowAcc) : State := taint (settle a.st core a.cov) core a.bad

/-- What a row's end leaves: its writes, with the flags and the poisoned reads (R425). -/
def rowEnd (core : Nat) (h : HoistCmd) (a : RowAcc) : State :=
  unitFlags (unitDerr (rowMarks core a) (h.unit core) a.reads) h.crew a.flags

/-- A row begins: under `IDX` 10 it reads its index (R262). One that stops in this read has not begun. -/
def beginRow (s : State) (core : Nat) (h : HoistCmd) (p : Nat) : HoistCmd × State :=
  if blkIdx h.block != 2 || (tabGet h.kept p).isSome then (h, s)
  else
    match rowIndex s core h p with
    | .ok (some v, bad, s) => ({ h with kept := tabPut h.kept p ((v % 2 ^ 32).toNat, bad) }, s)
    | _ => (h, s)

/-- The two sides' first coordinates of a row, when it moves data. -/
def rowSides (s : State) (core : Nat) (h : HoistCmd) (p : Nat) :
    Except UStop (Option (List Int × List Int) × Bool × State) :=
  if rowSkipped h p then .ok (none, false, s)
  else
    match rowIndex s core h p with
    | .error f => .error f
    | .ok (idx, bad, s) =>
      if bad then .ok (none, true, s)
      else
        let b := h.block
        let xs := rowStart b p 1 (blkSdim b) (blkSinc b) (if h.opc == opHgth then idx else none)
        let xd := rowStart b p 3 (blkDdim b) (blkDinc b) (if h.opc == opHsct then idx else none)
        .ok (some (xs, xd), false, s)

/-- A whole row (R260, R264, R425). -/
def copyRow (s : State) (core : Nat) (h : HoistCmd) (p : Nat) : Except RowStop State :=
  match rowSides s core h p with
  | .error f => .error ⟨.from s, 0, false, f⟩
  | .ok (none, bad, s) => .ok (unitDerr s (h.unit core) (bitNat bad))
  | .ok (some (xs, xd), _, s) =>
    match rowElems (blkRow h.block) core h xs xd (.from s) 0 with
    | .error f => .error f
    | .ok a => .ok (rowEnd core h a)

/-- An element of a row that has begun beyond the committed position may have been written (R264), or has met a fault
(R420, R421). -/
def aheadElem (s : State) (core : Nat) (h : HoistCmd) (p j : Nat) : Except RowStop State :=
  match rowSides s core h p with
  | .error f => .error ⟨.from s, 0, false, f⟩
  | .ok (some (xs, xd), _, s1) =>
    if j < blkRow h.block then
      match rowElem core h xs xd (.from s1) j with
      | .ok a => .ok (rowEnd core h a)
      | .error f => .error f
    else .ok s
  | .ok _ => .ok s

/-- The header line of Table 13-4. -/
def cmpHeader (t : Shape) (nblk ngrp : Nat) (trunc : Bool) : List Byte :=
  leBytes 128 (nblk + atBit 32 (ngrp % 2 ^ 16) + atBit 48 (cmpGroups t % 2 ^ 16) + atBit 64 (cmpBlocks t % 2 ^ 16) +
    atBit 80 (bitNat trunc) + atBit 88 (shpFmt t))

/-- The largest aligned piece at an address that some bytes hold. -/
def pieceAt (a len : Nat) : Nat := ([128, 64, 32, 16, 8, 4, 2].find? (fun n => a % n == 0 && n ≤ len)).getD 1

/-- Writes bytes to the buffer by aligned pieces. -/
def cmpWrite (fuel : Nat) (u : UnitWho) (s : State) (a : Nat) (bs : List Byte) (cov : List Cover) :
    Except UStop (List Cover × State) :=
  match fuel with
  | 0 => .ok (cov, s)
  | fuel + 1 =>
    if bs.isEmpty then .ok (cov, s)
    else
      let n := pieceAt a bs.length
      match u.write s false false a (bs.take n) with
      | .error f => .error f
      | .ok (c, s) => cmpWrite fuel u s (a + n) (bs.drop n) (cov ++ c)

/-- The 64 elements of a block, row-major (R266). -/
def cmpBlock (n : Nat) (u : UnitWho) (t : Shape) (g b : Nat) (a : State × List (Nat × Bool)) :
    Except UStop (State × List (Nat × Bool)) :=
  match n with
  | 0 => .ok a
  | n + 1 =>
    let i := 63 - n
    match u.readElem a.1 t [((8 * b + i % 8 : Nat) : Int), ((8 * g + i / 8 : Nat) : Int)] with
    | .error f => .error f
    | .ok (v, bad, s) => cmpBlock n u t g b (s, a.2 ++ [(v, bad)])

/-- The blocks of a row group. -/
def cmpGroup (n : Nat) (u : UnitWho) (t : Shape) (g : Nat) (a : State × List (List (Nat × Bool))) :
    Except UStop (State × List (List (Nat × Bool))) :=
  match n with
  | 0 => .ok a
  | n + 1 =>
    match cmpBlock 64 u t g (cmpBlocks t - 1 - n) (a.1, []) with
    | .error f => .error f
    | .ok (s, vs) => cmpGroup n u t g (s, a.2 ++ [vs])

/-- A row group of `hcmp`: its result is the state, the blocks written in all, the bits of the bitmap's last byte, and
whether the command ends here for want of room (R266, R426). -/
def compressRow (s : State) (core : Nat) (h : HoistCmd) (g : Nat) : Except RowStop (State × Nat × Nat × Bool) :=
  let u : UnitWho := { h.unit core with hidden := false }
  let t := h.src
  let es := shpBits t / 8
  let bm := cmpMap t
  let stop : Bool → UStop → Except RowStop (State × Nat × Nat × Bool) := fun side f => .error ⟨.from s, 0, side, f⟩
  let finish : State → List Cover → State := fun s cov => settle s core cov
  if h.cap < 128 then .ok (unitFlags s h.crew flagDERR, 0, 0, true)
  else if h.cap < 128 + bm then
    match cmpWrite 256 u s h.buf (cmpHeader t 0 0 true) [] with
    | .error f => stop true f
    | .ok (c, s) => .ok (finish s c, 0, 0, true)
  else
    match cmpGroup (cmpBlocks t) u t g (s, []) with
    | .error f => stop false f
    | .ok (s1, blocks) =>
      let full := blocks.filter (fun vs => vs.any (fun v => v.1 != 0))
      let at_ := 128 + bm + 64 * es * h.blocks
      let reads := (blocks.flatMap id).countP (fun v => v.2)
      let fits := at_ + 64 * es * full.length ≤ h.cap
      let bits := (List.range blocks.length).foldl (fun m b =>
        if ((blocks.getD b []).any (fun v => v.1 != 0)) then m + 2 ^ b else m) 0
      -- the bitmap's bytes of this group, the first shared with the group before; the last group fills it with zeros
      let bit := g * cmpBlocks t
      let row := h.carry + (if fits then bits * 2 ^ (bit % 8) else 0)
      let mapN := if !fits || g + 1 == cmpGroups t then bm - bit / 8 else (bit + cmpBlocks t) / 8 - bit / 8
      let ngrp := if fits then g + 1 else g
      let nblk := if fits then h.blocks + full.length else h.blocks
      let last := !fits || g + 1 == cmpGroups t
      let data := if fits then full.flatMap (fun vs => vs.flatMap (fun v => leBytes es v.1)) else []
      match cmpWrite (64 * es * full.length + 1) u s1 (h.buf + at_) data [] with
      | .error f => stop true f
      | .ok (c1, s) =>
        match cmpWrite (bm + 1) u s (h.buf + 128 + bit / 8) (leBytes mapN row) c1 with
        | .error f => stop true f
        | .ok (c2, s) =>
          match (if last then cmpWrite 256 u s h.buf (cmpHeader t nblk ngrp (!fits)) c2 else .ok (c2, s)) with
          | .error f => stop true f
          | .ok (c3, s) =>
            -- a block with a poisoned source element poisons what receives its zeros
            let spots := (List.range full.length).flatMap (fun i =>
              (List.range 64).filterMap (fun k =>
                if (((full.getD i []).getD k (0, false)).2) && fits then some (h.buf + at_ + 64 * es * i + es * k)
                else none))
            -- and the byte of the bitmap that holds its bit
            let maps := (List.range blocks.length).filterMap (fun b =>
              if fits && (blocks.getD b []).any Prod.snd then some (h.buf + 128 + (bit + b) / 8) else none)
            let s := finish s c3
            let s := (spots.map (fun va => (va, es)) ++ maps.map (fun va => (va, 1))).foldl (fun (s : State) (t : Nat × Nat) =>
              match translate s (askHoist core) h.ctx t.1 needW with
              | .ok x => poisonRange s x.pa t.2
              | .error _ => s) s
            .ok (unitDerr s u reads, nblk, row / 2 ^ (8 * mapN), !fits)

/-- Adds to a row counter (R264). -/
def addCounter (s : State) (core : Nat) (h : HoistCmd) (n : Nat) : State :=
  if h.opc != opHcmp && blkRcen h.block then
    s.modCore core (fun c => { c with ctrs := c.ctrs.map (fun r =>
      if r.1 == blkRcnt h.block then
        (r.1, { r.2 with value := r.2.value + BitVec.ofNat 32 n, ts := max r.2.ts (engPts s h.crew) })
      else r) })
  else s

/-- A command leaves its slot with its obligations discharged (R264, R424). -/
def finishCommand (s : State) (core slot : Nat) (h : HoistCmd) : State :=
  let s := s.modCore core (fun c => { c with hoist := tabDel c.hoist slot })
  let s := if h.released then s else discharge s h.crew h.flgb
  discharge s h.crew h.flga

def putCommand (s : State) (core slot : Nat) (h : HoistCmd) : State :=
  s.modCore core (fun c => { c with hoist := tabPut c.hoist slot h })

/-- A command fails (R424): `DERR`, every obligation, the counter's rest, and a record unless an error response
has written one. -/
def failCommand (s : State) (core slot : Nat) (h : HoistCmd) (rec : Option (Nat × Nat)) (va : Option Nat) : State :=
  let s := unitFlags s h.crew flagDERR
  let s := addCounter s core h (h.rows - h.pc)
  let s := match rec with
    | some (cls, sev) => unitRecord s (h.unit core) cls sev 8 0 va none
    | none => s
  finishCommand s core slot h

/-- A parking case fails the command instead where its context has no debug queue or no engine save areas (Table 25-1). -/
def canPark (s : State) (h : HoistCmd) : Bool := (s.desc h.ctx).dbgq != 0 && hasEngArea s h.ctx

/-- How a command stands that parks at a row. -/
def RowStop.park (f : RowStop) (row va : Nat) (x : XFail) : Park :=
  { side := f.side, exc := x.exc.code, row := row, elem := f.elem, va := va, retry := false }

/-- The command parks at its committed position (R421). -/
def parkCommand (s : State) (core slot : Nat) (h : HoistCmd) (p : Park) : State :=
  let h := { h with park := some p, ahead := none, ps := max h.ps (h.pc + 1), kept := [], away := [], groups := [] }
  let s := putCommand s core slot h
  let s := putHoistRecord s core slot h (if h.opc == opHcmp then 0 else blkIvec h.block h.pc)
  unitRecord s (h.unit core) 14 1 8 0 (some p.va) none

/-- A row has failed: the command fails with what the row has done (R420, R424). -/
def failRow (core slot : Nat) (h : HoistCmd) (f : RowStop) : State :=
  let s := rowEnd core h f.part
  let u := h.unit core
  match f.why with
  | .remote reason x =>
    failCommand (unitRecord (u.refused s reason x f.side) u 14 1 8 reason (some x.va) (some x.pa)) core slot h none none
  | .bad va => failCommand s core slot h (some (14, 1)) (some va)
  | .park x va => failCommand (u.noteFail s va x) core slot h (some (14, 1)) (some va)
  | _ => s

/-- The row at the committed position has begun, unless it still reads its index (R262, R264). -/
def HoistCmd.begun (h : HoistCmd) : HoistCmd :=
  if blkIdx h.block != 2 || h.opc == opHcmp || (tabGet h.kept h.pc).isSome then { h with ps := max h.ps (h.pc + 1) } else h

/-- A row has stopped: the command parks, fails, or waits (R420, R421, R424). One that waits for a refresh window or for data
from beyond the module is taken up again whole; the reads that meet no window are over (R110). -/
def stopCommand (s : State) (core slot : Nat) (h : HoistCmd) (f : RowStop) : State :=
  match f.why with
  | .wait => putCommand s core slot { h.begun with groups := (openGroups s (dieOfCore core)).foldl setAdd h.groups }
  | .away n x =>
    let r := (h.unit core).ask s n x
    putCommand r.2 core slot { h.begun with away := r.1 }
  | .park x va =>
    if canPark s h then parkCommand ((h.unit core).noteFail (rowMarks core f.part) va x) core slot h (f.park h.pc va x)
    else failRow core slot h f
  | _ => failRow core slot h f

/-- The stash bytes of a record that its extents reach lie in a range: from its base up to the end of its last
element, swizzles kept within a row of the stash. -/
def shpTouches (t : Shape) (lo hi : Nat) : Bool :=
  shpSpace t &&
    (let n := shpNdim t + 1
     let most : Nat := (List.range n).foldl (fun a i => a + (shpExt t i - 1) * shpStride t i) 0
     let b := shpBase t % 2 ^ 19 / 512 * 512
     let e := (shpBase t % 2 ^ 19 + most / 8 + 8 + 511) / 512 * 512
     -- addresses are a[18:0] (R107)
     (b < hi && lo < e) || (2 ^ 19 < e && lo < e - 2 ^ 19) || b + 2 ^ 19 ≤ e)

/-- The stash range of a mapping is read or written by a command (R247). -/
def HoistCmd.touches (h : HoistCmd) (m : Mapping) : Bool :=
  let hi := m.base + m.taken
  shpTouches h.src m.base hi || shpTouches h.dst m.base hi ||
    (h.opc != opHcp && h.opc != opHcmp && blkIdx h.block == 2 &&
      (let a := blkIbase h.block
       a < hi && m.base < a + 4 * blkCnt h.block 0))

/-- The command writes a mapping's range. -/
def HoistCmd.writes (h : HoistCmd) (m : Mapping) : Bool :=
  h.opc != opHcmp && shpTouches h.dst m.base (m.base + m.taken)

/-- A command may begin: earlier ones have begun, and no exchange that it must follow is pending (R265, R267). -/
def mayBegin (s : State) (core : Nat) (h : HoistCmd) : Bool :=
  0 < h.ps ||
    ((s.core core).hoist.all (fun o => h.seq ≤ o.2.seq || 0 < o.2.ps) &&
     (s.core core).reqs.all (fun r => !(r.kind == 2 && r.before ≤ h.seq && r.live s &&
       (match tabGet (s.core core).maps r.entry with
         | some m => h.writes m
         | none => false))))

/-- The lowest position at which a row that has begun has met a parking case; no row at or above it begins (R421). -/
def HoistCmd.barrier (h : HoistCmd) : Nat := (h.ahead.map Park.row).getD h.rows

/-- Rows that have begun beyond the committed one, as far as the work has come: the command, the first failure of one of
them, and the state. -/
structure AheadAcc where
  h : HoistCmd
  fail : Option RowStop
  st : State

/-- An element of a row ahead: it may lower the position at which the command will park, or fail the command (R421, R424). -/
def aheadStep (core : Nat) (a : AheadAcc) (p j : Nat) : AheadAcc :=
  if a.fail.isSome || a.h.barrier ≤ p then a
  else
    match aheadElem a.st core a.h p j with
    | .ok s => { a with st := s }
    | .error f =>
      match f.why with
      | .wait | .away _ _ => a
      | .park x va =>
        if canPark a.st a.h then
          { a with h := { a.h with ahead := some (f.park p va x) }, st := (a.h.unit core).noteFail (rowMarks core f.part) va x }
        else { a with fail := some f }
      | _ => { a with fail := some f }

/-- The rows that have begun beyond the committed one, and elements of them that were written (R264). -/
def runAhead (s : State) (core : Nat) (h : HoistCmd) (ahead : Ahead) : AheadAcc :=
  let ps := min (min (max h.ps (max (min ahead.begun h.barrier) (h.pc + 1))) (h.pc + 64)) h.rows
  if h.opc == opHcmp then ⟨{ h with ps := ps }, none, s⟩
  else
    let r := (List.range ps).foldl (fun (a : HoistCmd × State) p =>
      if h.pc < p then beginRow a.2 core a.1 p else a) (h, s)
    ahead.elems.foldl (fun a t => if h.pc < t.1 && t.1 < ps then aheadStep core a t.1 t.2 else a) ⟨{ r.1 with ps := ps }, none, r.2⟩

/-- The committed position passes a row (R264); at the row of a parking case the command parks (R421). -/
def commitRow (s : State) (core slot : Nat) (h : HoistCmd) : State :=
  let s := addCounter s core h 1
  let h := { h with pc := h.pc + 1, ps := max h.ps (h.pc + 1), idle := 0, kept := tabDel h.kept h.pc, away := [], groups := [] }
  if h.rows ≤ h.pc then finishCommand s core slot h
  else
    match h.ahead with
    | some p => if p.row ≤ h.pc then parkCommand s core slot h p else putCommand s core slot h
    | none => putCommand s core slot h

/-- A hoist row completes (R264). -/
def hoistRowDone (s : State) (core slot : Nat) (ahead : Ahead) : State :=
  match tabGet (s.core core).hoist slot with
  | none => s
  | some h =>
    if h.park.isSome || stopped s h.ctx || !mayBegin s core h then s
    else if h.opc == opHcmp then
      match compressRow s core h h.pc with
      | .error f => stopCommand s core slot h f
      | .ok (s, n, carry, ends) =>
        if ends then finishCommand s core slot { h with blocks := n }
        else commitRow s core slot { h with blocks := n, carry := carry }
    else
      let b := beginRow s core h h.pc
      let s := b.2
      let h := b.1
      match copyRow s core h h.pc with
      | .error f => stopCommand s core slot h f
      | .ok s1 =>
        let r := runAhead s1 core h ahead
        match r.fail with
        | some f => failRow core slot r.h f
        | none => commitRow r.st core slot r.h

def execHoistRowDone (core slot : Nat) (ahead : Ahead) (s : State) : Host.Outcome State Fault Refusal :=
  .next (hoistRowDone s core slot ahead)

/-- Cycles without progress after which a unit's work fails: 2^20 island cycles (R424, R427). -/
def engineLimit : Nat := 2 ^ 20

/-- A command that makes no progress fails with a record of class 12 (R424). -/
def execHoistWatchdogExpire (core slot : Nat) (s : State) : Host.Outcome State Fault Refusal :=
  match tabGet (s.core core).hoist slot with
  | none => .next s
  | some h =>
    if h.park.isSome || h.idle < engineLimit then .next s
    else .next (failCommand s core slot h (some (12, 0)) none)

/-- The exchange of a double mapping's halves (R127, R418): one store to every line at one timestamp. -/
def exchange (s0 : State) (core entry crew : Nat) (m : Mapping) : State :=
  let s := s0
  let pts := max (((s.crew crew).map Crew.pts).getD 0) (engPts s crew)
  let coh := m.lines.filter (fun l => l.2.cmode == 0)
  let s := coh.foldl (fun s l => mergeLine s l.2.pa) s
  let t := coh.foldl (fun t l => max t ((lineOf s l.2.pa).rts + 1)) pts
  let s := m.lines.foldl (fun s l =>
    let pa := l.2.pa
    let a := m.hiddenAt (m.base + 128 * l.1)
    let b := m.phys (m.base + 128 * l.1)
    let c := s.core core
    let new := memRead c.stash a 128
    let newBad := (List.range 4).filter (fun g => c.stashPoison.any (fun u => a + 32 * g ≤ 4 * u && 4 * u < a + 32 * g + 32))
    let oldBad := (List.range 4).filter (fun g => granuleBad s (pa + 32 * g))
    let old := memRead s.mem pa 128
    -- the former visible bytes become the hidden half
    let st := memWrite (memClear c.stash a 128) b old
    let p := oldBad.foldl (fun p g => setMarks p (b + 32 * g) 32) (clearMarks (clearMarks c.stashPoison a 128) b 128)
    let s := s.setCore core { c with stash := st, stashPoison := p }
    let x := lineOf s pa
    let x := if l.2.cmode == 0 then { backInvalidate x with wts := t, rts := t, dirty := 15 } else x
    let s := noteRts (setLine s pa x) pa t
    let s := clearCovered { s with mem := memWrite s.mem pa new } [(pa, 128)]
    newBad.foldl (fun s g => poisonRange s (pa + 32 * g) 32) s) s
  let lines := m.lines.map (fun l => (l.1, { l.2 with
    wts := t, rts := t, dirty := BitVec.allOnes 128
    under := if l.2.cmode == 2 && l.2.dirty == 0 then lineRaw s0 l.2.pa else l.2.under
    underBad := if l.2.cmode == 2 && l.2.dirty == 0 then lineMarks s0 l.2.pa else l.2.underBad }))
  let s := setMap s core entry { m with upper := !m.upper, lines := lines }
  let s := s.modCrew crew (fun c => { c with pts := max c.pts t, engTs := max c.engTs t })
  m.lines.foldl (fun s l => evalRange s l.2.pa 128) s

/-- The split's own request, still waiting. -/
def Env.pending (e : Env) (s : State) (kind : Nat) : Option StashReq :=
  (s.core e.core).reqs.find? (fun r => r.kind == kind && !r.captured && r.crew == e.id && r.split == e.entry && r.pc == e.pc)

/-- A request of the split at a mapping entry. -/
def Env.request (e : Env) (s : State) (kind entry : Nat) : StashReq :=
  let ends : List Nat := match e.srcA with
    | .sreg n => if e.f.lua then [n] else []
    | _ => []
  { kind := kind, crew := e.id, split := e.entry, pc := e.pc, len := e.len, ends := ends, entry := entry,
    flga := e.flagPair.1, flgb := e.flagPair.2, captured := false,
    before := ((e.pending s kind).map StashReq.before).getD (s.core e.core).hoistSeq }

/-- The split waits with its request, which keeps its place among those of the core (R246). -/
def Env.keepRequest (e : Env) (s : State) (r : StashReq) : State :=
  if (e.pending s r.kind).isSome then s else s.modCore e.core (fun c => { c with reqs := c.reqs ++ [r] })

/-- The split's request is no longer waiting, nor are those whose splits have left them. -/
def Env.dropRequest (e : Env) (s : State) (kind : Nat) : State :=
  let own := e.pending s kind
  s.modCore e.core (fun c => { c with reqs := c.reqs.filter (fun r => some r != own && r.live s) })

/-- No command posted before the exchange still writes the mapping (R127, R418). -/
def hiddenDone (s : State) (core before : Nat) (m : Mapping) : Bool :=
  (s.core core).hoist.all (fun h => before ≤ h.2.seq || !h.2.writes m)

/-- `hpub` (R127, R267, R418, Table 22-10): the split is Stalled until the exchange can be performed. -/
def hpubForm (e : Env) (s : State) : Res :=
  let a := e.uniVal s e.srcA
  let s := a.2
  match mapAt s e.core e.ctx (a.1.toNat % 2 ^ 19) with
  | none => .exc s .ropnd
  | some (entry, m) =>
    if m.desc.mode != 2 then .exc s .ropnd
    else
      let r := e.request s 2 entry
      if hiddenDone s e.core r.before m then
        let s := raiseEng (e.obligeFlags (e.endUses (e.dropRequest s 2))) e.id e.c.pts
        .done (dischargeBoth (exchange s e.core entry e.id m) e.id r.flgb r.flga)
      else .wait (e.keepRequest s r) .stalled

/-- The crew takes the flags and the last uses of a form that it waited at. -/
def StashReq.take (r : StashReq) (c : Crew) : Crew :=
  let c := r.ends.foldl (fun (c : Crew) n => { c with s := tabPut c.s n .dead }) c
  (c.obligeFlag r.flga).obligeFlag r.flgb

/-- The halves are exchanged once the writes to the hidden half complete, both obligations are discharged, and the
split that waited goes on (R127, R267, R418). -/
def execHpubExchange (core entry : Nat) (s : State) : Host.Outcome State Fault Refusal :=
  let c := s.core core
  match c.reqs.find? (fun r => r.kind == 2 && r.entry == entry && r.live s), tabGet c.maps entry with
  | some r, some m =>
    if !hiddenDone s core r.before m then .next s
    else
      let s := s.modCore core (fun c => { c with reqs := c.reqs.filter (fun q => q != r) })
      let s := s.modCrew r.crew r.take
      let s := raiseEng s r.crew (((s.crew r.crew).map Crew.pts).getD 0)
      let s := dischargeBoth (exchange s core entry r.crew m) r.crew r.flgb r.flga
      .next (noteIdle (advance s r.crew r.split r.len) r.crew)
  | _, _ => .next s

def execHcp (f : Fields) (s : State) : Host.Outcome State Fault Refusal := issue (.hcp f) hoistForm s
def execHgth (f : Fields) (s : State) : Host.Outcome State Fault Refusal := issue (.hgth f) hoistForm s
def execHsct (f : Fields) (s : State) : Host.Outcome State Fault Refusal := issue (.hsct f) hoistForm s
def execHcmp (f : Fields) (s : State) : Host.Outcome State Fault Refusal := issue (.hcmp f) hcmpForm s
def execHpub (f : Fields) (s : State) : Host.Outcome State Fault Refusal := issue (.hpub f) hpubForm s
def execCwait (f : Fields) (s : State) : Host.Outcome State Fault Refusal := issue (.cwait f) cwaitForm s

end Sys2Proof.Machine
end

