-- ==== Sys2Proof/Machine/Launch.lean ====
section
/-! DEFINITION. Launches and placement: the checks of a launch packet (R20, R53, R396), claims (R55, R58), the
placement of crews and closures (R22, R40, R56 to R59), bins' timers (R39, R398) and swapping (R67, R68). -/

namespace Sys2Proof.Machine

/-- The kernel of a header's 512 bits (Table 04-4). -/
def decodeKernel (kobj n : Nat) : Kernel :=
  { kobj := kobj, width := bitsOf n 26 24, vregs := bitsOf n 41 32, sregs := bitsOf n 58 48, accs := bitsOf n 67 64,
    lamp := bitsOf n 69 68, gangs := bitsOf n 74 72, rowctr := BitVec.ofNat 8 (bitsOf n 87 80),
    stash := bitsOf n 107 88, wdog := bitsOf n 159 128, affin := bitsOf n 191 160, codeoff := bitsOf n 223 192,
    codelen := bitsOf n 255 224 }

/-- Check 4 of Table 23-4. -/
def headerFormOk (n : Nat) : Bool :=
  bitsOf n 15 0 == 0x5953 && bitsOf n 23 16 == 1 && bitsOf n 31 27 == 0 && bitsOf n 47 42 == 0 &&
  bitsOf n 63 59 == 0 && bitsOf n 71 70 == 0 && bitsOf n 79 75 == 0 && bitsOf n 127 108 == 0 &&
  bitsOf n 511 256 == 0

/-- Check 6: vector registers within the limit of R73. -/
def vregsOk (k : Kernel) : Bool := k.vregs ≤ 768 && k.vcount ≤ 196608 / (32 * 2 ^ k.width * 8)

/-- Checks 7 and 8. -/
def countsOk (k : Kernel) : Bool :=
  k.sregs ≤ 1024 && k.accs ≤ 8 && k.lamp ≤ 2 && k.gangs ≤ 4 && k.stash ≤ 524288
def codeOk (k : Kernel) : Bool := k.codeoff % 32 == 0 && 64 ≤ k.codeoff && k.codelen % 32 == 0 && k.codelen != 0

/-- A chiplet's scheduler reads launch data of a context (R396); none where a page or a read beyond the module fails, or
data are poisoned. -/
def schedRead (s : State) (die ctx va n : Nat) (need : Need := needR) : Option Nat :=
  if pullFailed s (askDie die) ctx va n need then none
  else
    match readVirtual s (askDie die) ctx va n need with
    | some (bs, false) => some (leNat bs)
    | _ => none

/-- What such a read does at the homes (R94, R124, R368, R369). -/
def schedTouch (s : State) (die ctx va n : Nat) (need : Need := needR) : State :=
  if n == 0 then s
  else
    let s := detectVirtual s (askDie die) ctx va n need ⟨0, none, 0, none⟩ s.unitPts
    -- poison from beyond the module has been counted as it arrived
    countPoisonRead s die (((readVirtual { s with away := [] } (askDie die) ctx va n need).map Prod.snd).getD false)

/-- A kernel header as check 2 reads it: its 512 bits, when it and its code translate, each with `X` and `R` (R93, R396;
DEDUCED, log 73). -/
def readHeader (s : State) (die ctx kobj : Nat) : Option Nat :=
  if kobj % 64 != 0 then none
  else
    match schedRead s die ctx kobj 64 needX with
    | none => none
    | some n =>
      let k := decodeKernel kobj n
      match translateAll s (askDie die) ctx needX (pagesOf (kobj + k.codeoff) k.codelen) with
      | .ok _ => some n
      | .error _ => none

/-- Entries of a table of 128- or 256-bit entries. -/
def tableEntries (n count bits : Nat) : List Nat := (List.range count).map (fun i => n / 2 ^ (bits * i) % 2 ^ bits)

def decodeGang (e : Nat) : GangEntry :=
  { first := bitsOf e 31 0, count := bitsOf e 47 32, stride := bitsOf e 63 48, res := e.testBit 64, compact := e.testBit 65 }

/-- Check 9 of Table 23-4. -/
def gangsOk (es : List Nat) (ncrew : Nat) : Bool :=
  let gs := es.map decodeGang
  es.all (fun e => bitsOf e 127 66 == 0) &&
  gs.all (fun g => g.count != 0 && g.stride != 0 && g.first + (g.count - 1) * g.stride < ncrew) &&
  gs.all (fun g => g.members.all (fun c => gs.countP (fun h => (h.rank c).isSome) ≤ 4))

/-- Resident gangs overlap: they share a member. -/
def GangEntry.meets (g h : GangEntry) : Bool := g.members.any (fun c => (h.rank c).isSome)

/-- Adds to a set of gangs those linked to it through members, until nothing changes (R58). -/
def linkGangs (fuel : Nat) (all set : List GangEntry) : List GangEntry :=
  match fuel with
  | 0 => set
  | fuel + 1 =>
    let more := all.filter (fun g => !set.contains g && set.any (fun h => g.meets h))
    if more.isEmpty then set else linkGangs fuel all (set ++ more)

/-- The crew indices of a set of gangs in ascending order. -/
def membersOf (gs : List GangEntry) : List Nat := gs.foldl (fun l g => g.members.foldl setAdd l) []

/-- The resident gangs of a crew's closure; none for a crew outside resident gangs (R58). -/
def closureGangs (gtab : List GangEntry) (c : Nat) : List GangEntry :=
  let all := gtab.filter (fun g => g.res)
  linkGangs all.length all (all.filter (fun g => (g.rank c).isSome))

/-- Groups of crews that compact placement keeps on one chiplet: overlapping compact gangs together. (DEDUCED, log 37) -/
def compactGroups (fuel : Nat) (gs : List GangEntry) : List (List Nat) :=
  match fuel, gs with
  | 0, _ => []
  | _, [] => []
  | fuel + 1, g :: rest =>
    let set := linkGangs gs.length gs [g]
    membersOf set :: compactGroups fuel (rest.filter (fun h => !set.contains h))

/-- Crews of a kernel that an empty core holds (Table 02-2). -/
def coreCap (s : State) (core : Nat) (k : Kernel) : Nat :=
  if !coreUp s core || (k.lamp != 0 && (s.core core).macros.harvested) then 0
  else
    let lim : Nat → Nat → Nat := fun total each => if each == 0 then 64 else total / each
    let part := min 8 (min (lim 196608 k.vbytes) (lim 4096 k.scount))
    min (8 * part) (min (min (lim 8 k.accs) (lim 524288 k.stashBytes)) (if k.lamp == 0 then 64 else 8))

def dieCap (s : State) (die : Nat) (k : Kernel) : Nat :=
  ((List.range 128).map (fun i => coreCap s (128 * die + i) k)).foldl (fun a b => a + b) 0

/-- Whole groups fit on chiplets with room for some numbers of crews. -/
def packGroups (gs : List Nat) (room : List Nat) : Bool :=
  match gs with
  | [] => true
  | g :: rest =>
    (List.range room.length).any (fun d =>
      g ≤ room.getD d 0 && packGroups rest ((List.range room.length).map (fun i =>
        if i == d then room.getD i 0 - g else room.getD i 0)))

/-- The chiplets that a launch permits (Table 02-1). -/
def permittedDies (mask : Nat) : List Nat := (List.range 4).filter (fun d => mask == 0 || mask.testBit d)

/-- Check 10 of Table 23-4. -/
def closuresFit (s : State) (k : Kernel) (gtab : List GangEntry) (mask : Nat) : Bool :=
  let room := (permittedDies mask).map (fun d => dieCap s d k)
  (gtab.filter (fun g => g.res)).all (fun g =>
    let gs := closureGangs gtab g.first
    let groups := compactGroups gs.length (gs.filter (fun h => h.compact))
    (membersOf gs).length ≤ room.foldl (fun a b => a + b) 0 && packGroups (groups.map List.length) room)

/-- A node of a node table, given its kernel (Table 02-4). -/
def decodeNode (e : Nat) (k : Kernel) : Node :=
  { entry := bitsOf e 63 0, rsize := bitsOf e 67 64, coal := bitsOf e 70 68, prio := bitsOf e 74 72,
    timer := bitsOf e 95 80, cap := bitsOf e 127 96, ring := bitsOf e 191 128, high := bitsOf e 223 192,
    low := bitsOf e 255 224, kernel := k }

/-- Check 11 of Table 23-4, for one entry: the node, when it is valid. -/
def checkNode (s : State) (die ctx e : Nat) : Option Node :=
  match readHeader s die ctx (bitsOf e 63 0) with
  | none => none
  | some h =>
    let k := decodeKernel (bitsOf e 63 0) h
    let n := decodeNode e k
    if headerFormOk h && k.width ≤ 5 && vregsOk k && countsOk k && codeOk k && n.coal ≤ 5 && n.coal ≤ k.width &&
        n.high + 1024 ≤ n.cap && n.low < n.high && !e.testBit 71 && bitsOf e 79 75 == 0 && n.recSize / 8 ≤ k.vcount then
      some n
    else none

/-- A launch packet (Table 02-1) as far as its checks and its life need it. -/
structure LaunchPacket where
  prio : Nat
  width : Nat
  place : Nat
  diemask : Nat
  ncrew : Nat
  kobj : Nat
  gtab : Nat
  ngang : Nat
  ctag : Nat
  ntab : Nat
  nnode : Nat
  pblk : Nat
  psize : Nat

def decodeLaunch (p : Nat) : LaunchPacket :=
  { prio := bitsOf p 10 8, width := bitsOf p 14 12, place := bitsOf p 17 16, diemask := bitsOf p 21 18,
    ncrew := bitsOf p 63 32, kobj := bitsOf p 127 64, gtab := bitsOf p 191 128,
    ngang := bitsOf p 207 192, ctag := bitsOf p 255 224,
    ntab := bitsOf p 319 256, nnode := bitsOf p 335 320, pblk := bitsOf p 447 384, psize := bitsOf p 463 448 }

/-- Entries of the gang table that a launch names: a `GTAB` of 0 means that it has no gangs (Table 02-1). -/
def LaunchPacket.gangCount (q : LaunchPacket) : Nat := if q.gtab == 0 then 0 else min q.ngang 256

/-- Entries of its node table. -/
def LaunchPacket.nodeCount (q : LaunchPacket) : Nat := if q.ntab == 0 then 0 else min q.nnode 256

/-- Check 3 of Table 23-4. -/
def packetOk (p : Nat) : Bool :=
  let q := decodeLaunch p
  (q.width ≤ 5 || q.width == 7) && q.place != 3 && !p.testBit 11 && !p.testBit 15 && bitsOf p 31 22 == 0 &&
  bitsOf p 223 208 == 0 && bitsOf p 383 336 == 0 && bitsOf p 991 464 == 0 && 1 ≤ q.ncrew && q.ncrew ≤ 16777216 &&
  q.gtab % 16 == 0 && q.ngang ≤ 256 && (q.ntab == 0 || (1 ≤ q.nnode && q.nnode ≤ 256))

/-- What a launch passes on: its kernel, gang table and node table. -/
structure Accepted where
  kernel : Kernel
  gtab : List GangEntry
  nodes : Option (List Node)

/-- The checks of Table 23-4 in order: the reason of the first that fails, or what the launch reads. -/
def checkLaunch (s : State) (die ctx p : Nat) : Except Nat Accepted :=
  let q := decodeLaunch p
  if !(s.desc ctx).valid then .error 1
  else
    let ng := q.gangCount
    let nn := q.nodeCount
    match readHeader s die ctx q.kobj, (if ng == 0 then some 0 else schedRead s die ctx q.gtab (16 * ng)),
        (if nn == 0 then some 0 else schedRead s die ctx q.ntab (32 * nn)) with
    | some h, some g, some n =>
      let k := decodeKernel q.kobj h
      let gs := tableEntries g ng 128
      let nodes := (tableEntries n nn 256).map (fun e => checkNode s die ctx e)
      if !packetOk p then .error 3
      else if !headerFormOk h then .error 4
      else if 5 < k.width || (q.width != 7 && q.width != k.width) then .error 5
      else if !vregsOk k then .error 6
      else if !countsOk k then .error 7
      else if !codeOk k then .error 8
      else if !gangsOk gs q.ncrew then .error 9
      else if !closuresFit s k (gs.map decodeGang) q.diemask then .error 10
      else if nodes.any Option.isNone then .error 11
      else .ok ⟨k, gs.map decodeGang, if q.ntab == 0 then none else some (nodes.filterMap id)⟩
    | _, _, _ => .error 2

/-- The reads of those checks, as they are made: the header, the tables and the headers of the nodes (R396). -/
def touchLaunch (s : State) (die ctx p : Nat) : State :=
  let q := decodeLaunch p
  if !(s.desc ctx).valid then s
  else
    let s := if q.kobj % 64 == 0 then schedTouch s die ctx q.kobj 64 needX else s
    let s := schedTouch s die ctx q.gtab (16 * q.gangCount)
    let s := schedTouch s die ctx q.ntab (32 * q.nodeCount)
    match (if q.nodeCount == 0 then none else schedRead s die ctx q.ntab (32 * q.nodeCount)) with
    | some n => (tableEntries n q.nodeCount 256).foldl (fun s e =>
        if bitsOf e 63 0 % 64 == 0 then schedTouch s die ctx (bitsOf e 63 0) 64 needX else s) s
    | none => s

/-- The ranges that those checks read first, and the headers of the nodes of a table that has been read. -/
def launchRanges (s : State) (ctx p : Nat) : List (Nat × Nat × Need) :=
  let q := decodeLaunch p
  if !(s.desc ctx).valid then []
  else (if q.kobj % 64 == 0 then [(q.kobj, 64, needX)] else []) ++
    [(q.gtab, 16 * q.gangCount, needR), (q.ntab, 32 * q.nodeCount, needR)].filter (fun r => r.2.1 != 0)

def nodeRanges (s : State) (die ctx p : Nat) : List (Nat × Nat × Need) :=
  let q := decodeLaunch p
  if q.nodeCount == 0 || !(s.desc ctx).valid then []
  else
    match schedRead s die ctx q.ntab (32 * q.nodeCount) with
    | some n => (tableEntries n q.nodeCount 256).filterMap (fun e =>
        if bitsOf e 63 0 % 64 == 0 then some (bitsOf e 63 0, 64, needX) else none)
    | none => []

/-- The reads of ranges beyond the module are sent; whether all of them have been answered (R325). -/
def pullRanges (s : State) (die ctx : Nat) (rs : List (Nat × Nat × Need)) : Bool × State :=
  rs.foldl (fun (a : Bool × State) r =>
    let q := pullVirtual a.2 (askDie die) ctx r.1 r.2.1 r.2.2
    (a.1 && q.1, q.2)) (true, s)

def pullLaunch (s : State) (die ctx p : Nat) : Bool × State :=
  let r := pullRanges s die ctx (launchRanges s ctx p)
  if r.1 then pullRanges r.2 die ctx (nodeRanges r.2 die ctx p) else r

/-- The launch has been checked: the answers are used up. -/
def launchPulled (s : State) (die ctx p : Nat) : State :=
  (launchRanges s ctx p ++ nodeRanges s die ctx p).foldl (fun s r => pulled s (askDie die) ctx r.1 r.2.1 r.2.2) s

/-- Contexts active on the compute cores (R18). -/
def activeCount (s : State) : Nat := s.ctxs.countP (fun e => e.2.active)

/-- A slot of R18 is free for a context, or it is active. -/
def slotFor (s : State) (ctx : Nat) : Bool := (s.ctx ctx).active || activeCount s < 256

/-- The chiplet that accepts a ring's launches (Table 17-4). -/
def acceptDie (s : State) (ring : Nat) : Nat := (s.binding ring).iocore / 16 % 4

/-- The accepting chiplet takes a launch packet from its ring, where it stays until then (R53): `HEAD` advances in the
same step (R329, R445). It checks the packet and accepts or rejects it (R396). -/
def acceptLaunch (s : State) (ring : Nat) : State :=
  match (s.ring ring).launch with
  | none => s
  | some (seq, p) =>
    let ctx := (s.binding ring).ctx
    let die := acceptDie s ring
    let q := decodeLaunch p
    let pull := pullLaunch s die ctx p
    if !slotFor s ctx || (servedBy s ring).isNone then s
    else if !pull.1 then pull.2
    else
      let s := pull.2
      let s := writeHead (s.modRing ring (fun r =>
        { r with launch := none, head := (seq + 1) % ringModulus, open_ := r.open_ + 1, woken := true })) ring
      let epoch := (s.ring ring).epoch
      let s := touchLaunch s die ctx p
      let found := checkLaunch s die ctx p
      let s := launchPulled s die ctx p
      match found with
      | .error reason =>
        let s := complete s ring epoch seq q.ctag 2 1 reason
        errRecord s die (rec16 ctx 0 0 reason none none 0 (128 * die))
      | .ok a =>
        let s := match a.nodes with
          | some ns => s.modCtx ctx (fun c => { c with nodes := ns, failed := [] })
          | none => s
        let id := s.fresh
        let x : Launch :=
          { ring := ring, epoch := epoch, seq := seq, ctx := ctx, ctag := q.ctag, die := die, prio := q.prio, place := q.place,
            diemask := if q.diemask == 0 then 15 else q.diemask, ncrew := q.ncrew, pblk := q.pblk, psize := q.psize,
            kernel := a.kernel, gtab := a.gtab, gangs := [], next := 0, early := [], retired := [], ended := 0,
            lastCore := [], done := false, headSince := s.clock, claimed := (0, 0), reserve := [] }
        { id.2 with launches := tabPut id.2.launches id.1 x }

def execAcceptLaunch (ring : Nat) (s : State) : Host.Outcome State Fault Refusal := .next (acceptLaunch s ring)

/-- The next index that a claim takes, past indices claimed early (R55, R58). -/
def skipEarly (fuel : Nat) (x : Launch) (n : Nat) : Nat :=
  match fuel with
  | 0 => n
  | fuel + 1 => if x.early.contains n then skipEarly fuel x (n + 1) else n

def Launch.nextIndex (x : Launch) : Nat := skipEarly (x.early.length + 1) x x.next

/-- The launch has crews left to claim, and its context places crews (R70). -/
def Launch.claimable (s : State) (x : Launch) : Bool :=
  !x.done && x.nextIndex < x.ncrew && (s.ctx x.ctx).preempt == .no

/-- A chiplet's pending queue of launches: highest priority first, then order of acceptance (R54). -/
def queuedOn (s : State) (die : Nat) : List (Nat × Launch) :=
  (s.launches.filter (fun e => e.2.claimable s && e.2.diemask.testBit die)).foldl (fun q e =>
    insertBy (fun a b => decide (b.2.prio ≤ a.2.prio)) e q) []

def headLaunch (s : State) (die : Nat) : Option (Nat × Launch) := (queuedOn s die).head?

/-- The next crew of a launch, as a chiplet that could claim it sees it. -/
def Launch.nextCrew (x : Launch) (l die clock : Nat) : Crew :=
  { Crew.fresh x.ctx x.nextIndex (some l) none [] x.kernel x.prio clock with
    core := 128 * die, reserve := tabGet x.reserve die }

/-- The launch's next crew belongs to a resident gang. -/
def Launch.nextInGang (x : Launch) : Bool := !(closureGangs x.gtab x.nextIndex).isEmpty

/-- A partition with room on a core that admits a crew (R25, R56): those with the fewest crews first (R57). -/
def crewsOn (s : State) (core part : Nat) : Nat :=
  sumCrews s (fun _ c => c.charged && c.core == core && c.part == part) (fun _ => 1)
def crewsOfCore (s : State) (core : Nat) : Nat := sumCrews s (fun _ c => c.charged && c.core == core) (fun _ => 1)

/-- The least of a list by a measure; ties go to the first. -/
def leastBy (f : Nat → Nat) (l : List Nat) : Option Nat :=
  l.foldl (fun (b : Option Nat) x =>
    match b with
    | some y => if f x < f y then some x else b
    | none => some x) none

/-- A partition reserved against a crew (R59): by a pending crew, the next crew of a launch, or a returning crew, of
higher priority, or of the same priority that reserved it before. -/
def reservedAgainst (s : State) (id : Nat) (c : Crew) (core part : Nat) : Bool :=
  s.crews.any (fun o =>
    let holds :=
      (o.2.state == .pending && o.2.reserve == some (core, part)) ||
      (o.2.state == .swappedOut && o.2.woken && o.2.core == core && o.2.part == part)
    let mine := c.reserve == some (core, part) || (c.state == .swappedOut && c.core == core && c.part == part)
    o.1 != id && holds &&
      (effPrio s c < effPrio s o.2 || (effPrio s c == effPrio s o.2 && (!mine || o.1 < id)))) ||
  s.launches.any (fun o =>
    let mine := c.reserve == some (core, part) || (c.state == .swappedOut && c.core == core && c.part == part)
    o.1 != id && c.launch != some o.1 && o.2.claimable s && o.2.reserve.any (fun r => r.2 == (core, part)) &&
      (effPrio s c < o.2.prio || (effPrio s c == o.2.prio && (!mine || o.1 < c.launch.getD id))))

/-- The partitions of a core where a crew may be placed. -/
def roomParts (s : State) (id : Nat) (c : Crew) (core : Nat) : List Nat :=
  if coreUp s core && coreFits s core id c.ctx (ctrKey id c) c.kernel then
    (List.range 8).filter (fun p => partFits s core p c.kernel && !reservedAgainst s id c core p)
  else []

/-- A core is warm for a crew (R56). -/
def isWarm (s : State) (c : Crew) (core : Nat) : Bool :=
  c.kernel.affin != 0 && coreUp s core &&
    (s.core core).maps.any (fun m => m.2.ctx == c.ctx && m.2.affin == c.kernel.affin)

def coresOf (die : Nat) : List Nat := (List.range 128).map (fun i => 128 * die + i)

/-- The core of a crew among those with room (R56, Table 03-1). `fits` says which have room. A crew of a bin has no launch,
whose `PLACE` keys Table 03-1: it takes the lowest-numbered core with room (DESIGN CHOICE, log 93). -/
def chooseCore (s : State) (c : Crew) (die : Nat) (fits : Nat → Bool) : Option Nat :=
  let warm := (coresOf die).filter (isWarm s c)
  match warm.find? fits with
  | some core => some core
  | none =>
    if !warm.isEmpty && !c.warmDone then none
    else
      let open_ := (coresOf die).filter fits
      let l := c.launch.bind s.launch
      match l with
      | some x =>
        if x.place == 2 then leastBy (crewsOfCore s) open_
        else
          match tabGet x.lastCore die with
          | some last => if open_.contains last then some last else open_.head?
          | none => open_.head?
      | none => open_.head?

/-- Where a crew would be placed on a chiplet now (R56, R57). -/
def placeFor (s : State) (id : Nat) (c : Crew) (die : Nat) : Option (Nat × Nat) :=
  match chooseCore s c die (fun core => !(roomParts s id c core).isEmpty) with
  | none => none
  | some core => (leastBy (crewsOn s core) (roomParts s id c core)).map (fun p => (core, p))

/-- Tiles of a placed crew: their elements are +0 (R22). -/
def bindTiles (s : State) (core ctx n : Nat) : List Nat × State :=
  let tiles := newTiles s core n
  (tiles, s.modCore core (fun co => { co with
    acc := co.acc.filter (fun e => !tiles.contains (e.1 / 4096))
    accLost := co.accLost.filter (fun e => !tiles.contains (e.1 / 2048))
    accPoison := tiles.foldl setDel co.accPoison
    accCtx := tiles.foldl (fun t j => tabPut t j ctx) co.accCtx }))

/-- The names of a crew's gangs in ascending order of gang table index (R34). -/
def gangNames (gtab : List GangEntry) (index : Nat) : List GangName :=
  (List.range gtab.length).filterMap (fun t =>
    match (gtab[t]?).bind (fun g => g.rank index) with
    | some r => some { table := t, rank := r, phase := 0, arrived := false, bar := false, colls := 0 }
    | none => none)

/-- The first three uniform registers of a crew (R22, R40). -/
def firstUniforms (s : State) (c : Crew) : List Nat :=
  match c.bin with
  | some (node, die) => [c.records.length, node, die]
  | none =>
    match c.launch.bind s.launch with
    | some x => [x.pblk, x.psize, x.ncrew]
    | none => [0, 0, 0]

/-- A crew at its kernel's entry (R22, R40). -/
def Crew.entered (c : Crew) (s : State) (core part : Nat) (tiles : List Nat) : Crew :=
  let mask := if c.bin.isSome then lowMask c.records.length else lowMask c.lanes
  let x : Split :=
    { pc := c.codeBase, mask := mask, state := .ready, innermost := none, clause := none, awaitFlag := 0, wait := none,
      gang := 0, age := s.clock, waited := 0, left := 0, away := [], groups := [] }
  let regs : Tab RegVal := if c.kernel.scount == 0 then [] else
    (firstUniforms s c).zipIdx.foldl (fun t v => tabPut t v.2 (.live (BitVec.ofNat 64 v.1))) []
  let names := match c.launch.bind s.launch with
    | some l => gangNames l.gtab c.index
    | none => []
  let c := { c with core := core, part := part, state := .resident, splits := [(0, x)], s := regs, acc := tiles,
                    pts := (s.ctx c.ctx).timestamp, gangs := names, placedAt := s.clock, reserve := none, wdogCount := 0 }
  (c.records.zipIdx).foldl (fun c r =>
    (List.range (r.1.length / 8)).foldl (fun c i =>
      c.setV i r.2 (.live (leWord ((r.1.drop (8 * i)).take 8)))) c) c

/-- Places a crew on a partition that has room (R22, R25, R40, R45, R68, R77, R104). -/
def placeAt (s : State) (id core part : Nat) : State :=
  match s.crew id with
  | none => s
  | some c =>
    let s := makeRoom 64 s core id c.kernel
    let s := takeCtrs s core (ctrKey id c) c.kernel.rowctr
    let t := bindTiles s core c.ctx c.kernel.accs
    let s := t.2.setCrew id (c.entered t.2 core part t.1)
    let s := s.modCtx c.ctx (fun x => { x with active := true })
    let s := if c.kernel.lamp == 1 then joinRing s core id c.ctx else s
    let s := match c.launch with
      | some l => s.modLaunch l (fun x => { x with lastCore := tabPut x.lastCore (dieOfCore core) core })
      | none => s
    takeRecords s c

/-- Claims of one scheduler cycle are served in ascending chiplet number (R55). -/
def Launch.claimTurn (x : Launch) (s : State) (die : Nat) : Bool := !(x.claimed.1 == s.clock && decide (die < x.claimed.2))

/-- Claims the next crew of a launch for a chiplet: a Pending crew (R55). -/
def claimOne (s : State) (l die : Nat) (x : Launch) (index : Nat) : Nat × State :=
  let id := s.fresh
  let c := Crew.fresh x.ctx index (some l) none [] x.kernel x.prio s.clock
  (id.1, id.2.setCrew id.1 { c with core := 128 * die, reserve := tabGet x.reserve die })

/-- Claims crews at the next index while they belong to no resident gang (R55). -/
def claimSome (n : Nat) (s : State) (l die : Nat) : State :=
  match n with
  | 0 => s
  | n + 1 =>
    match s.launch l with
    | none => s
    | some x =>
      if !x.claimable s || x.nextInGang then s
      else
        let i := x.nextIndex
        let s := (claimOne s l die x i).2
        claimSome n (s.modLaunch l (fun x => { x with
          next := i + 1, early := setDel x.early i, headSince := s.clock, claimed := (s.clock, die), reserve := [] })) l die

/-- Mesh hops between two routers of a chiplet. -/
def hops (a b : Nat) : Nat :=
  let d : Nat → Nat → Nat := fun x y => (x - y) + (y - x)
  d (a % 8) (b % 8) + d (a / 8) (b / 8)

/-- Crews like one that a core has room for, found by placing copies of it. -/
def roomFor (fuel : Nat) (s : State) (id : Nat) (c : Crew) (core : Nat) : Nat :=
  match fuel with
  | 0 => 0
  | fuel + 1 =>
    match leastBy (crewsOn s core) (roomParts s id c core) with
    | none => 0
    | some p =>
      let n := s.fresh
      let t := newTiles s core c.kernel.accs
      let s := n.2.setCrew n.1 { c with core := core, part := p, state := .resident, acc := t }
      1 + roomFor fuel s id c core

/-- The cores of a chiplet in the order in which a compact gang fills them (R58). -/
def compactOrder (s : State) (id : Nat) (c : Crew) (die : Nat) : List Nat :=
  let room : Nat → Nat := fun r =>
    roomFor 64 s id c (128 * die + 2 * r) + roomFor 64 s id c (128 * die + 2 * r + 1)
  match leastBy (fun r => 128 - room r) (List.range 64) with
  | none => []
  | some r0 =>
    let rs := (List.range 15).flatMap (fun d => (List.range 64).filter (fun r => hops r0 r == d))
    rs.flatMap (fun r => [128 * die + 2 * r, 128 * die + 2 * r + 1])

/-- Places a group of crews on the cores of an order, each on the first with room. -/
def placeOnCores (s : State) (ids : List Nat) (order : List Nat) : Option State :=
  match ids with
  | [] => some s
  | id :: rest =>
    match s.crew id with
    | none => none
    | some c =>
      match order.find? (fun core => !(roomParts s id c core).isEmpty) with
      | none => none
      | some core =>
        match leastBy (crewsOn s core) (roomParts s id c core) with
        | none => none
        | some p => placeOnCores (placeAt s id core p) rest order

/-- Places crews one by one on the first chiplet of a list that has a place for each (R56, R57). -/
def placeAnywhere (s : State) (ids dies : List Nat) : Option State :=
  match ids with
  | [] => some s
  | id :: rest =>
    match s.crew id with
    | none => none
    | some c =>
      match dies.findSome? (fun d => placeFor s id c d) with
      | none => none
      | some (core, p) => placeAnywhere (placeAt s id core p) rest dies

/-- Places the compact groups of a closure, each on one chiplet, and then its other members (R58). -/
def placeGroups (s : State) (groups : List (List Nat)) (others dies : List Nat) : Option State :=
  match groups with
  | [] => placeAnywhere s others dies
  | g :: rest =>
    dies.findSome? (fun d =>
      match g with
      | [] => placeGroups s rest others dies
      | id :: _ =>
        match s.crew id with
        | none => none
        | some c =>
          match placeOnCores s g (compactOrder s id c d) with
          | none => none
          | some s => placeGroups s rest others dies)

/-- Crews that one step has placed join their cores' rings in ascending crew index, which is the order of their numbers
(R45). -/
def joinInOrder (before s : State) (ids : List Nat) : State :=
  let cores := (ids.filterMap (fun id => (s.crew id).map Crew.core)).eraseDups
  cores.foldl (fun s core =>
    let mine := ids.filter (fun id => (s.core core).ring.contains id)
    if mine.length < 2 then s
    else
      let s := s.modCore core (fun c => { c with ring := (before.core core).ring, holder := (before.core core).holder })
      mine.foldl (fun s id =>
        match s.crew id with
        | some c => joinRing s core id c.ctx
        | none => s) s) s

/-- Every crew of a closure is placed in one step, or none (R58). Which permitted chiplet each compact gang and each other
member goes to R58 leaves open: the claiming chiplet is tried first, then the others in ascending order (DESIGN CHOICE,
log 92). A member that finds its warm cores full takes another
core at once: R56's wait for a warm core is a claimed crew's outside resident gangs, and what R58's step does about it
is not stated (DESIGN CHOICE, log 72). -/
def placedClosure (s0 : State) (die l : Nat) (x : Launch) : Option State :=
  if !x.nextInGang || !slotFor s0 x.ctx || !x.claimTurn s0 die then none
  else
    let gs := closureGangs x.gtab x.nextIndex
    let members := membersOf gs
    let r := members.foldl (fun (a : List (Nat × Nat) × State) i =>
      let c := claimOne a.2 l die x i
      (a.1 ++ [(i, c.1)], c.2.modCrew c.1 (fun c => { c with warmDone := true }))) ([], s0)
    let idOf : Nat → Nat := fun i => ((r.1.find? (fun p => p.1 == i)).map Prod.snd).getD 0
    let groups := compactGroups gs.length (gs.filter (fun g => g.compact))
    let others := members.filter (fun i => !groups.any (fun g => g.contains i))
    let dies := die :: (permittedDies x.diemask).filter (fun d => d != die)
    match placeGroups r.2 (groups.map (fun g => g.map idOf)) (others.map idOf) dies with
    | none => none
    | some s =>
      some ((joinInOrder s0 s (members.map idOf)).modLaunch l (fun y => { y with
        next := x.nextIndex + 1
        headSince := s.clock
        claimed := (s.clock, die)
        early := members.foldl (fun e i => if x.nextIndex < i then setAdd e i else e) y.early }))

/-- Crews that wait for a place on a chiplet. -/
def pendingOn (s : State) (die : Nat) : List (Nat × Crew) :=
  s.crews.filter (fun e => e.2.state == .pending && (s.ctx e.2.ctx).preempt == .no &&
    (match e.2.bin with
      | some (_, d) => d == die
      | none => dieOfCore e.2.core == die))

/-- The chiplet where a pending crew is placed. -/
def Crew.die (c : Crew) : Nat :=
  match c.bin with
  | some (_, d) => d
  | none => dieOfCore c.core

/-- Of two entries of a pending queue the first stands before the second: it has the higher priority, or the same and
was accepted earlier (R54). -/
def standsBefore (prio key prio' key' : Nat) : Bool := decide (prio' < prio) || (prio == prio' && decide (key < key'))

/-- The closure that waits at the head of a chiplet's queue: no Pending crew stands before it (R58). -/
def headClosure (s : State) (die : Nat) : Option (Nat × Launch) :=
  match headLaunch s die with
  | some (l, x) =>
    if x.nextInGang && (pendingOn s die).all (fun o =>
        o.2.launch != some l && !standsBefore (effPrio s o.2) (o.2.launch.getD o.1) x.prio l) then some (l, x)
    else none
  | none => none

/-- Nothing of the priority of such a closure, or of a lower one, is placed on the chiplet (R58). -/
def closureBars (s : State) (die prio : Nat) : Bool :=
  match headClosure s die with
  | some (_, x) => decide (prio ≤ x.prio)
  | none => false

/-- The chiplet has room for the next crew of a launch on one of its cores. -/
def hasRoom (s : State) (die : Nat) (l : Nat) (x : Launch) : Bool :=
  slotFor s x.ctx && (coresOf die).any (fun core => !(roomParts s l (x.nextCrew l die s.clock) core).isEmpty)

/-- A permitted chiplet with room claims crews (R54, R55): of the first launch of its queue for whose next crew it has
room. A launch that finds none does not hold back those behind it. -/
def execClaimCrews (die count : Nat) (s : State) : Host.Outcome State Fault Refusal :=
  match (queuedOn s die).find? (fun e =>
      !e.2.nextInGang && e.2.claimTurn s die && !closureBars s die e.2.prio && hasRoom s die e.1 e.2) with
  | none => .next s
  | some (l, _) => .next (claimSome count s l die)

/-- The next crew of a launch, or its whole closure, could be placed from a chiplet now. -/
def nextFits (s : State) (die l : Nat) (x : Launch) : Bool :=
  slotFor s x.ctx &&
    (if x.nextInGang then (placedClosure s die l x).isSome else (placeFor s l (x.nextCrew l die s.clock) die).isSome)

/-- A pending crew has to wait for others (R54, R58): a crew or the next crew of a launch that stands before it in the
queue and can be placed, a closure at the head of the queue of no lower priority, or an earlier crew of its own launch
(R45). -/
def mustYield (s : State) (id : Nat) (c : Crew) : Bool :=
  let die := c.die
  let prio := effPrio s c
  let key := c.launch.getD id
  (pendingOn s die).any (fun o =>
    o.1 != id &&
      ((standsBefore (effPrio s o.2) (o.2.launch.getD o.1) prio key && slotFor s o.2.ctx && (placeFor s o.1 o.2 die).isSome) ||
       (c.launch.isSome && o.2.launch == c.launch && o.2.index < c.index))) ||
  (queuedOn s die).any (fun o =>
    c.launch != some o.1 && standsBefore o.2.prio o.1 prio key && nextFits s die o.1 o.2) ||
  closureBars s die prio

/-- A closure has to wait for others (R54, R58): for what stands before it in the queue and can be placed, or for another
closure at the head of the queue. -/
def closureYields (s : State) (die l : Nat) (x : Launch) : Bool :=
  (pendingOn s die).any (fun o =>
    (o.2.launch == some l || standsBefore (effPrio s o.2) (o.2.launch.getD o.1) x.prio l) && slotFor s o.2.ctx &&
      (placeFor s o.1 o.2 die).isSome) ||
  (queuedOn s die).any (fun o => o.1 != l && standsBefore o.2.prio o.1 x.prio l && nextFits s die o.1 o.2) ||
  (match headClosure s die with
    | some (k, y) => k != l && decide (x.prio ≤ y.prio)
    | none => false)

/-- The scheduler places a Pending crew once room exists (R56, R57). -/
def execPlaceCrew (crew : Nat) (s : State) : Host.Outcome State Fault Refusal :=
  match s.crew crew with
  | none => .next s
  | some c =>
    if c.state != .pending || (s.ctx c.ctx).preempt != .no || !slotFor s c.ctx || mustYield s crew c then .next s
    else
      match placeFor s crew c c.die with
      | none => .next s
      | some (core, part) => .next (placeAt s crew core part)

/-- The first closure of a chiplet's queue that need not wait for others is placed, where it fits. -/
def placeClosure (s : State) (die : Nat) : State :=
  ((queuedOn s die).findSome? (fun e =>
    if e.2.nextInGang && !closureYields s die e.1 e.2 then placedClosure s die e.1 e.2 else none)).getD s

def execPlaceClosure (die : Nat) (s : State) : Host.Outcome State Fault Refusal := .next (placeClosure s die)

/-- A crew that has waited for a warm core is placed by the remaining rules (R56). -/
def execWarmWaitExpire (crew : Nat) (s : State) : Host.Outcome State Fault Refusal :=
  .next (s.modCrew crew (fun c =>
    if c.state == .pending && c.claimedAt + 8192 ≤ s.clock then { c with warmDone := true } else c))

/-- The partitions of a core that no other rule bars to a crew (R59): the core is up, serves its lamp (R429), and no
other reservation stands against it. -/
def openParts (s : State) (id : Nat) (c : Crew) (core : Nat) : List Nat :=
  if coreUp s core && (c.kernel.lamp == 0 || !(s.core core).macros.harvested) then
    (List.range 8).filter (fun p => !reservedAgainst s id c core p)
  else []

/-- A crew at the head of its priority level reserves one partition (R59). (DEDUCED, log 26) -/
def reservation (s : State) (id : Nat) (c : Crew) : Option (Nat × Nat) :=
  match chooseCore s { c with warmDone := true } c.die (fun core => !(openParts s id c core).isEmpty) with
  | none => none
  | some core => (leastBy (crewsOn s core) (openParts s id c core)).map (fun p => (core, p))

/-- Nothing stands before a place in its priority level of a chiplet's queue; `key` is a launch's or a crew's own, and the
crews of one launch stand in ascending index. -/
def headOfLevel (s : State) (die prio key index id : Nat) : Bool :=
  (pendingOn s die).all (fun o =>
    let k := o.2.launch.getD o.1
    o.1 == id || effPrio s o.2 != prio || decide (key < k) || (key == k && decide (index < o.2.index))) &&
    (queuedOn s die).all (fun o => o.1 == key || o.2.prio != prio || key < o.1)

/-- The crew is named by its number, or, while it is the next crew of a launch, by that of the launch: where it then stands
at the head on several chiplets it reserves on the first of them (R59). -/
def execReservationStart (crew : Nat) (s : State) : Host.Outcome State Fault Refusal :=
  match s.crew crew, s.launch crew with
  | some c, _ =>
    if c.state == .pending && c.claimedAt + 16384 ≤ s.clock && c.reserve.isNone &&
        headOfLevel s c.die (effPrio s c) (c.launch.getD crew) c.index crew then
      .next (s.setCrew crew { c with reserve := reservation s crew c })
    else .next s
  | none, some x =>
    if x.claimable s && !x.nextInGang && x.headSince + 16384 ≤ s.clock && x.reserve.isEmpty then
      let dies := (List.range 4).filter (fun d => x.diemask.testBit d && headOfLevel s d x.prio crew x.nextIndex crew)
      match dies.findSome? (fun d => (reservation s crew (x.nextCrew crew d s.clock)).map (fun r => (d, r))) with
      | some r => .next (s.modLaunch crew (fun x => { x with reserve := [r] }))
      | none => .next s
    else .next s
  | none, none => .next s

/-- A bin's timer expires with untaken records (R39); the launch waits while the context is pre-empted (R72). -/
def execBinTimerExpire (ctx node die : Nat) (s : State) : Host.Outcome State Fault Refusal :=
  let b := getBin s ctx node die
  match b.timer, nodeOf s ctx node with
  | some t, some nd =>
    if t ≤ s.clock && b.untaken != 0 && (s.ctx ctx).preempt == .no then .next (binLaunch s ctx node die nd) else .next s
  | _, _ => .next s

/-- A crew of a bin left unplaced writes one record (R398). -/
def execBinStallTimer (crew : Nat) (s : State) : Host.Outcome State Fault Refusal :=
  match s.crew crew with
  | none => .next s
  | some c =>
    match c.bin with
    | some (node, die) =>
      if c.state == .pending && !c.stallNoted && c.claimedAt + 2 ^ 24 ≤ s.clock then
        let s := s.setCrew crew { c with stallNoted := true }
        .next (errRecord s die (rec16 c.ctx 0 0 (0x32 + 256 * node) none none 0 (128 * die)))
      else .next s
    | none => .next s

/-- A crew that R67 permits to be swapped out. -/
def mayLeave (s : State) (id : Nat) (c : Crew) : Bool :=
  let inGang := match c.launch.bind s.launch with
    | some x => c.gangs.any (fun g => ((x.gtab[g.table]?).map GangEntry.res).getD false)
    | none => false
  c.state == .resident && !c.stranded && !c.drain && !inGang && !(s.core c.core).ring.contains id && c.kernel.lamp != 1 && c.idle &&
    (65536 ≤ c.idleFor.getD 0 || c.splits.any (fun x => x.2.state == .binWait))

/-- A crew of at least a priority, pending or next of its launch, that the chiplet cannot place for lack of room, or one
returning to a core, which has its place there alone (R59, R67). (DEDUCED, log 26) -/
def lacksRoom (s : State) (core prio : Nat) : Bool :=
  let die := dieOfCore core
  (pendingOn s die).any (fun o => prio ≤ effPrio s o.2 && (placeFor s o.1 o.2 die).isNone) ||
  (queuedOn s die).any (fun o => prio ≤ o.2.prio && slotFor s o.2.ctx && !nextFits s die o.1 o.2) ||
  s.crews.any (fun o => o.2.state == .swappedOut && o.2.woken && o.2.core == core && prio ≤ effPrio s o.2 &&
    !fitsBack s o.1 o.2)

/-- Candidates, of the chiplet's crews that may leave for one that lacks room, leave lowest priority first, and then
oldest wait first (R67). -/
def leavesFirst (s : State) (id : Nat) (c : Crew) : Bool :=
  s.crews.all (fun o =>
    o.1 == id || dieOfCore o.2.core != dieOfCore c.core || effPrio s c < effPrio s o.2 ||
      (effPrio s c == effPrio s o.2 && o.2.idleFor.getD 0 ≤ c.idleFor.getD 0) || !mayLeave s o.1 o.2 ||
      !lacksRoom s o.2.core (effPrio s o.2))

/-- A waiting crew is saved and gives up its place (R67). -/
def execSwapOut (crew : Nat) (s : State) : Host.Outcome State Fault Refusal :=
  match s.crew crew with
  | none => .next s
  | some c =>
    if mayLeave s crew c && lacksRoom s c.core (effPrio s c) && leavesFirst s crew c &&
        (s.ctx c.ctx).preempt == .no then
      .next (swapOut s crew)
    else .next s

/-- A swapped-out crew whose split is woken returns to its partition (R59, R67). -/
def execSwapIn (crew : Nat) (s : State) : Host.Outcome State Fault Refusal :=
  match (s.crew crew).map (placeNamed s) with
  | none => .next s
  | some c =>
    if c.state == .swappedOut && c.woken && !c.stranded && (s.ctx c.ctx).preempt == .no && fitsBack s crew c &&
        !reservedAgainst s crew c c.core c.part then
      match c.slot with
      | none => .next s
      | some n =>
        .next ((resetAtRestore s c n).getD (restoreFrom (makeRoom 64 s c.core crew c.kernel) crew c n))
    else .next s

end Sys2Proof.Machine
end

