-- ==== Sys2Proof/Machine/Preempt.lean ====
section
/-! DEFINITION. Pre-emption and resumption of a context (R50, R51, R70 to R72, R279, R280, R399), the watchdog of a
crew (R391, R392) and the loss of a context's descriptor (R334, R400). -/

namespace Sys2Proof.Machine

/-- Length of an engine save area (Table 17-5). -/
def engAreaSize : Nat := 212224

/-- An engine save area that a descriptor gives lies in HBM (Table 23-6, 0x54). -/
def engAreaFits (s : State) (ctx a : Nat) : Bool := hasEngArea s ctx && isHbm a && isHbm (a + engAreaSize - 1)

/-- The context has engine state on a core (Table 23-6). -/
def engineState (s : State) (core ctx : Nat) : Bool :=
  let co := s.core core
  co.hoist.any (fun h => h.2.ctx == ctx) || co.eng.any (fun e => e.ctx == ctx) || co.macros.loaded == some ctx

/-- Keys of a core in `engSaved`: the core itself, and engine record `i`. -/
def savedKey (core : Nat) : Nat := 32 * core + 31
def engKey (core i : Nat) : Nat := 32 * core + 16 + i

def coreSaved (s : State) (core ctx : Nat) : Bool := (tabGet (s.ctx ctx).engSaved (savedKey core)).isSome

/-- The engine record of Table 13-9, as a number. -/
def engImage (s : State) (c : EngCmd) : Nat :=
  let index := ((s.crew c.crew).map Crew.index).getD 0
  c.insn + atBit 96 c.shp1.toNat + atBit 352 c.shp2.toNat + atBit 608 c.mask.toNat + atBit 672 c.pos +
    atBit 704 index + atBit 736 c.flga + atBit 740 c.flgb + atBit 744 (bitNat c.released)

/-- The header of Table 13-8 with `MPSN` (R428). -/
def engHeader (co : Core) (ctx : Nat) : Nat :=
  let m := co.macros
  let mine := m.loaded == some ctx
  let hv := (co.hoist.filter (fun h => h.2.ctx == ctx)).foldl (fun n h => n + 2 ^ h.1) 0
  let ev := 2 ^ (co.eng.filter (fun e => e.ctx == ctx)).length - 1
  let psn := if mine then m.poison.foldl (fun n b => n + 2 ^ b) 0 else 0
  hv + atBit 16 ev + atBit 20 m.arr + atBit 22 m.btype + atBit 27 (bitNat mine) + atBit 28 psn

/-- The regions of Table 13-8 for what the macros hold. -/
def macroRegions (mem : Mem) (a : Nat) (m : Macros) : Mem :=
  let mem := m.cells.foldl (fun mem e => memWrite mem (a + 70912 + e.1) (leBytes 1 e.2.toNat)) mem
  m.exps.foldl (fun mem e => memWrite mem (a + 201984 + 2 * e.1) (leBytes 2 (e.2 % 65536).toNat)) mem

/-- What a parked command records beside its place (R422). -/
def HoistCmd.ivec (h : HoistCmd) : Nat :=
  match h.park <|> h.ahead with
  | some p => if h.opc == opHcmp then 0 else blkIvec h.block p.row
  | none => 0

/-- The save reads the macros' cells, and so finds the blocks whose bits are lost (R364, R428). -/
def findLost (s : State) (core ctx : Nat) : State :=
  if (s.core core).macros.loaded != some ctx then s
  else
    match (s.core core).eng.find? (fun c => c.ctx == ctx) with
    | some c => findBlocks s core c
    | none =>
      let s := (s.core core).macros.lost.foldl (fun s _ =>
        errRecord s (dieOfCore core) { cls := 1, sev := 1, addr := none, vaddr := none, who := some (ctx, 0), ukind := 0, unit := core,
                                       info := info24 9 0 none 0, split := 0, slot := none }) s
      s.modCore core (fun co => { co with macros := { co.macros with
        poison := co.macros.lost.foldl setAdd co.macros.poison
        lost := []
        cells := co.macros.cells.filter (fun w => !co.macros.lost.contains (4 * (w.1 / 16384) + w.1 % 16384 / 4096)) } })

/-- Writes a context's engine state on a core into its area and takes it off the core (R279, R280). A command's record is
that of its slot (R453); the order of posting, in which commands begin (R265), is kept beside the area
(DESIGN CHOICE, log 18). -/
def writeEngines (s : State) (core ctx : Nat) : State :=
  let s := findLost s core ctx
  let a := engArea s ctx core
  let co := s.core core
  let cmds : List (Nat × HoistCmd) := co.hoist.filter (fun h => h.2.ctx == ctx)
  let insns := co.eng.filter (fun e => e.ctx == ctx)
  let mem := memClear s.mem a engAreaSize
  let mem := memWrite mem a (leBytes 8 (engHeader co ctx))
  let mem := cmds.foldl (fun mem h =>
    memWrite (memWrite mem (a + 256 + 4352 * h.1) (leBytes 4352 (hoistImage s h.2 h.2.ivec)))
      (a + 210176 + 128 * h.1) (leBytes 128 h.2.skip.toNat)) mem
  let mem := insns.zipIdx.foldl (fun mem e => memWrite mem (a + 69888 + 256 * e.2) (leBytes 256 (engImage s e.1))) mem
  let mem := if co.macros.loaded == some ctx then macroRegions mem a co.macros else mem
  let s := unitNote { s with mem := mem } a engAreaSize true
  let keys := cmds.map (fun h => (32 * core + h.1, h.2.crew)) ++
    insns.zipIdx.map (fun e => (engKey core e.2, e.1.crew))
  let s := s.modCtx ctx (fun x => { x with
    engSaved := keys.foldl (fun t k => tabPut t k.1 k.2) x.engSaved
    hoistOrder := cmds.foldl (fun t h => tabPut t (32 * core + h.1) h.2.seq) x.hoistOrder })
  s.modCore core (fun c => { c with
    hoist := c.hoist.filter (fun h => h.2.ctx != ctx), eng := c.eng.filter (fun e => e.ctx != ctx) })

/-- Saves a context's engine state on a core, when it has any (R280, Table 23-6). The mark of the core tells
whether it had. -/
def saveEngines (s : State) (core ctx : Nat) : State :=
  let mark : Nat → State → State := fun v s =>
    s.modCtx ctx (fun x => { x with engSaved := tabPut x.engSaved (savedKey core) v })
  if coreSaved s core ctx then s
  else if !engineState s core ctx then mark 0 s
  else
    let a := engArea s ctx core
    if !engAreaFits s ctx a then resetContext s ctx 0x54
    else mark 1 (writeEngines s core ctx)

/-- Crews of a context on a core that a pre-emption still has to save. -/
def haltedOn (s : State) (core ctx : Nat) : List Nat :=
  (s.crews.filter (fun e => e.2.ctx == ctx && e.2.core == core && e.2.state == CrewState.halted && !e.2.stranded)).map
    Prod.fst

/-- Saves one halted crew; one that was to be held posts its break record (R50, R376, R399). -/
def saveHalted (s : State) (id : Nat) : State :=
  match s.crew id with
  | none => s
  | some c =>
    if c.state != .halted || awaitsLoads s id then s
    else if c.hold != .none then postBreak (saveCrew s id .saved) id
    else saveCrew s id .saved

/-- Lamp fields of a crew's save area brought up to date: of a crew that was saved before its ring was taken
off (R51, R178). -/
def pokeLamp (s : State) (core id : Nat) : State :=
  match s.crew id with
  | none => s
  | some c =>
    match c.slot, lampPos s core id with
    | some n, some pos =>
      pokeNat s (slotAddr s c.ctx n + 48) 1 (pos + 8 * bitNat ((s.core core).holder == some id) + 16)
    | _, _ => s

/-- The ring of a context leaves its core once its crews there are saved. -/
def closeRing (s : State) (core ctx : Nat) : State :=
  let co := s.core core
  let mine := co.ring.all (fun i => match s.crew i with
    | some c => c.ctx == ctx
    | none => true)
  if co.ring.isEmpty || !mine || !(haltedOn s core ctx).isEmpty then s
  else
    let s := co.ring.foldl (fun s i => pokeLamp s core i) s
    s.modCore core (fun c => { c with ring := [], holder := none })

/-- Cores with something of a context to save. -/
def coresToSave (s : State) (ctx : Nat) : List Nat :=
  (List.range 512).filter (fun core =>
    !(haltedOn s core ctx).isEmpty || (!coreSaved s core ctx && engineState s core ctx))

/-- A pre-emption is complete once nothing is left to save (Table 02-6). -/
def settlePreempt (s : State) (ctx : Nat) : State :=
  if (s.ctx ctx).preempt == .halted && (coresToSave s ctx).isEmpty &&
      !s.crews.any (fun e => e.2.ctx == ctx && e.2.charged && !e.2.stranded) then
    s.modCtx ctx (fun x => { x with preempt := .saved })
  else s

/-- Changes every crew of a context. -/
def eachCrew (s : State) (ctx : Nat) (f : Crew → Crew) : State :=
  { s with crews := s.crews.map (fun e => if e.2.ctx == ctx then (e.1, f e.2) else e) }

/-- The wait of a split when its context is pre-empted (R70, R72). -/
def Split.released (out : Bool) (x : Split) : Split :=
  if x.state != .monitorWait then x
  else if out then { x with wait := x.wait.map (fun w => { w with inFlight := false, recheck := false }) }
  else { x with wait := none }

/-- The wait of a swapped-out split is checked again (R51). -/
def Split.checkAgain (x : Split) : Split := { x with wait := x.wait.map (fun w => { w with inFlight := true }) }

/-- A pre-emption begins (R70): the context's monitors are released, and the waits that hold them are left to run
again; a swapped-out wait stays to be checked at resumption (R51, R72). -/
def beginPreempt (s : State) (ctx : Nat) : State :=
  let s := dropMonitors s (fun m => m.ctx == ctx)
  let s := eachCrew s ctx (fun c =>
    { c with splits := c.splits.map (fun x => (x.1, x.2.released (c.state == .swappedOut))) })
  s.modCtx ctx (fun x => { x with preempt := .asked, preemptAt := s.clock, resume := false, reported := [] })

/-- Every crew of the context is Halted at an instruction boundary of each split (R50). A wait that a `waitc` issued
meanwhile has asked for is released too (R70). -/
def haltCrews (s : State) (ctx : Nat) : State :=
  let s := dropMonitors s (fun m => m.ctx == ctx)
  let s := eachCrew s ctx (fun c =>
    { c with splits := c.splits.map (fun x => (x.1, x.2.released (c.state == .swappedOut))) })
  let s := eachCrew s ctx (fun c =>
    if (c.state == .resident || c.state == .draining) && !c.stranded then
      { c with state := .halted, drain := c.state == .draining || c.drain }
    else c)
  settlePreempt (s.modCtx ctx (fun x => { x with preempt := .halted })) ctx

/-- Halting the crews of a context asked for pre-emption (R50, R70). -/
def execCrewHalt (ctx : Nat) (s : State) : Host.Outcome State Fault Refusal :=
  .next (if (s.ctx ctx).preempt == .asked then haltCrews s ctx else s)

/-- A core writes the areas of its Halted crews, and the engine state (R50, R70, R280). A crew that awaits loads
is left for a later save. -/
def saveCore (s : State) (core ctx : Nat) : State :=
  if (s.ctx ctx).preempt != .halted then s
  else
    let s := (haltedOn s core ctx).foldl (fun s id =>
      if (s.ctx ctx).preempt == .halted then saveHalted s id else s) s
    if (s.ctx ctx).preempt != .halted then s
    else
      let s := saveEngines s core ctx
      if (s.ctx ctx).preempt != .halted then s else settlePreempt (closeRing s core ctx) ctx

def execCrewSave (core ctx : Nat) (s : State) : Host.Outcome State Fault Refusal := .next (saveCore s core ctx)

/-- The first outstanding access of a crew that its save waits for (R399). -/
def awaitedVa (s : State) (id : Nat) : Option Nat :=
  (s.exts.find? (fun e => e.2.loads id)).map (fun e => e.2.va)

/-- A save that still waits 100 µs after the request writes one record (R399). -/
def execSaveDelayTimer (crew : Nat) (s : State) : Host.Outcome State Fault Refusal :=
  match s.crew crew with
  | none => .next s
  | some c =>
    let x := s.ctx c.ctx
    if c.state == .halted && x.preempt == .halted && awaitsLoads s crew && x.preemptAt + 125000 ≤ s.clock &&
        !x.reported.contains crew then
      let s := s.modCtx c.ctx (fun x => { x with reported := setAdd x.reported crew })
      .next (errRecord s (dieOfCore c.core) (rec16 c.ctx c.index 0 0x41 (awaitedVa s crew) c.slot 0 c.core))
    else .next s

/-- Crews of a context that resumption restores. -/
def toRestore (s : State) (ctx : Nat) : List (Nat × Crew) :=
  s.crews.filter (fun e => e.2.ctx == ctx && e.2.state == .saved && e.2.hold == .none && !e.2.stranded)

/-- The crews that return together with one: those of its closure that wait to be restored (R51, R58). -/
def restoreGroup (s : State) (id : Nat) (c : Crew) : List Nat :=
  match c.launch.bind (fun l => (s.launch l).map (fun x => (l, x))) with
  | none => [id]
  | some (l, x) =>
    let ms := membersOf (closureGangs x.gtab c.index)
    if ms.isEmpty then [id]
    else
      (s.crews.filter (fun e => e.2.launch == some l && ms.contains e.2.index && e.2.state == CrewState.saved &&
        e.2.hold == .none && !e.2.stranded)).map Prod.fst

/-- Members of the ring that a context had on a core, with their places and the holder's mark, from their save
areas (Table 04-6). -/
def savedRing (s : State) (core ctx : Nat) : List (Nat × Nat × Bool) :=
  (s.crews.filter (fun e => e.2.ctx == ctx && e.2.core == core && e.2.state == CrewState.saved)).filterMap (fun e =>
    match e.2.slot with
    | none => none
    | some n =>
      let b := rawNat s (slotAddr s ctx n + 48) 1
      if b.testBit 4 then some (e.1, b % 8, b.testBit 3) else none)

/-- Hoist records and engine records that a core's area holds. -/
def savedCmds (s : State) (core ctx : Nat) : List Nat × List Nat :=
  let h := rawNat s (engArea s ctx core) 8
  ((List.range 16).filter (fun i => h.testBit i), (List.range 4).filter (fun i => h.testBit (16 + i)))

/-- The core can take back the ring and the engine state of a context: the slots of its commands are free (R453). -/
def coreReady (s : State) (core ctx : Nat) : Bool :=
  match tabGet (s.ctx ctx).engSaved (savedKey core) with
  | none => true
  | some v =>
    let co := s.core core
    let n := if v == 1 then savedCmds s core ctx else ([], [])
    ((savedRing s core ctx).isEmpty || co.ring.isEmpty) &&
      n.1.all (fun i => (tabGet co.hoist i).isNone) && co.eng.length + n.2.length ≤ 4

/-- A hoist command read back from its record (Table 13-9, Table 25-2); a record with `RETRY` restarts (R423). -/
def readHoist (s : State) (a h crew ctx : Nat) : HoistCmd :=
  let r := rawNat s (a + 256 + 4352 * h) 4352
  let opc := bitsOf r 1321 1312
  let word : Nat → Word := fun i => BitVec.ofNat 64 (r / 2 ^ (512 + 64 * i))
  let block : List Word := if opc == opHcmp then [] else (List.range 11).map word
  let found : Option Park :=
    if r.testBit 1331 && !r.testBit 1332 then
      some { side := r.testBit 1333, exc := bitsOf r 1343 1336, row := bitsOf r 1375 1344, elem := bitsOf r 1391 1376,
             va := bitsOf r 1535 1472, retry := false }
    else none
  let above := found.any (fun p => decide (bitsOf r 1247 1216 < p.row))
  let lanes := opc != opHcmp && opc != opHcp && blkIdx block == 1 && blkLoops block != 0
  { crew := crew, ctx := ctx, opc := opc, src := BitVec.ofNat 256 r, dst := BitVec.ofNat 256 (r / 2 ^ 256),
    block := block, buf := if opc == opHcmp then (word 0).toNat else 0,
    cap := if opc == opHcmp then (word 1).toNat else 0,
    index := if lanes then (List.range (blkCnt block 0)).map (fun k => BitVec.ofNat 32 (r / 2 ^ (2048 + 32 * k))) else [],
    skip := BitVec.ofNat 1024 (rawNat s (a + 210176 + 128 * h) 128),
    pc := bitsOf r 1247 1216, ps := bitsOf r 1279 1248, flga := bitsOf r 1325 1322, flgb := bitsOf r 1329 1326,
    released := r.testBit 1330,
    park := if above then none else found, ahead := if above then found else none,
    blocks := if opc == opHcmp then (word 2).toNat else 0, seq := 0, idle := 0, kept := [],
    carry := if opc == opHcmp then (word 3).toNat else 0, away := [], groups := [] }

/-- The tiles of an engine instruction's region, from its image and its issuer's accumulators (R272). -/
def engRegion (acc : List Nat) (c : EngCmd) : List Nat :=
  let f := c.fields
  match c.slot with
  | 0x391 => acc.drop f.dst.toNat
  | 0x392 => (acc.drop f.dst.toNat).take (f.var.toNat + 1)
  | 0x390 => []
  | _ => acc.drop f.srca.toNat

/-- An engine instruction read back from its record; `cur` is the arrangement and the type in force before it. -/
def readEngine (s : State) (a i crew ctx : Nat) (cur : Nat × Nat) : EngCmd :=
  let r := rawNat s (a + 69888 + 256 * i) 256
  let acc := ((s.crew crew).map Crew.acc).getD []
  let mask := bitsOf r 671 608
  let c : EngCmd :=
    { crew := crew, ctx := ctx, insn := bitsOf r 95 0, shp1 := BitVec.ofNat 256 (r / 2 ^ 96),
      shp2 := BitVec.ofNat 256 (r / 2 ^ 352), mask := BitVec.ofNat 64 mask, scale := 0, tiles := [], arr := cur.1,
      btype := cur.2, pos := bitsOf r 703 672, flga := bitsOf r 739 736, flgb := bitsOf r 743 740,
      released := r.testBit 744, derr := false, recorded := false, idle := 0, away := [], groups := [],
      acks := (s.exts.filter (fun e => e.2.crew == crew && e.2.kind == ExtKind.unitWrite && e.2.lane == 16)).map Prod.fst }
  { c with tiles := engRegion acc c, scale := if c.slot == mrdSlot then mask % 256 else 0 }

/-- The arrangement and type in force after an instruction: `mld` changes them (R271). -/
def afterMld (c : EngCmd) (cur : Nat × Nat) : Nat × Nat :=
  if c.slot == 0x390 then (c.fields.var.toNat % 4, c.ty) else cur

/-- The macro contents of an area. -/
def readMacros (s : State) (a ctx h : Nat) (m : Macros) : Macros :=
  let cells : Tab (BitVec 8) := (List.range 131072).filterMap (fun k =>
    let v := rawNat s (a + 70912 + k) 1
    if v == 0 then none else some (k, BitVec.ofNat 8 v))
  let exps : Tab Int := (List.range 4096).filterMap (fun k =>
    let v := rawNat s (a + 201984 + 2 * k) 2
    if v == 0 then none else some (k, signExt 16 v))
  { m with cells := cells, exps := exps, arr := bitsOf h 21 20, btype := bitsOf h 26 22, loaded := some ctx,
           poison := (List.range 32).filter (fun b => h.testBit (28 + b)) }

/-- The poster of a saved record, while it has not gone. -/
def posterOf (s : State) (ctx key : Nat) : Option Nat :=
  match tabGet (s.ctx ctx).engSaved key with
  | none => none
  | some id =>
    match s.crew id with
    | some c => if c.state == .retired then none else some id
    | none => none

/-- Takes back the engine state of a context on a core (R51, R279, R423): hoist commands in their slots with the order of
their posting, engine records in issue order. -/
def readEngines (s : State) (core ctx : Nat) : State :=
  let a := engArea s ctx core
  let h := rawNat s a 8
  let seqOf : Nat → Nat := fun i => (tabGet (s.ctx ctx).hoistOrder (32 * core + i)).getD 0
  let s := ((List.range 16).filter (fun i => h.testBit i)).foldl (fun s i =>
    match posterOf s ctx (32 * core + i) with
    | some id =>
      let c := readHoist s a i id ctx
      s.modCore core (fun co => { co with hoist := tabPut co.hoist i { c with seq := seqOf i } })
    | none => s) s
  let mc := (s.core core).macros
  -- without macro contents, what the last `mld` issued on the core names stays in force (R271)
  let base := if h.testBit 27 then (bitsOf h 21 20, bitsOf h 26 22) else (mc.issuedArr, mc.issuedType)
  let cmds := (List.range 4).foldl (fun (r : List EngCmd × (Nat × Nat)) i =>
    match (if h.testBit (16 + i) then posterOf s ctx (engKey core i) else none) with
    | some id =>
      let c := readEngine s a i id ctx r.2
      (r.1 ++ [c], afterMld c r.2)
    | none => r) ([], base)
  let other : Bool := (s.core core).ring.any (fun i => match s.crew i with
    | some c => c.ctx != ctx
    | none => false)
  s.modCore core (fun co =>
    let m := if h.testBit 27 && !other then readMacros s a ctx h co.macros else co.macros
    let m := if other then m else { m with issuedArr := cmds.2.1, issuedType := cmds.2.2 }
    { co with eng := co.eng ++ cmds.1, macros := m })

/-- The ring that a context had on a core stands again, with its holder (R51). -/
def reopenRing (s : State) (core ctx : Nat) (ms : List (Nat × Nat × Bool)) : State :=
  let places := (List.range 8).filterMap (fun p => (ms.find? (fun m => m.2.1 == p)).map Prod.fst)
  let stale := match (s.core core).macros.loaded with
    | some o => o != ctx
    | none => false
  if ms.isEmpty then s
  else s.modCore core (fun c => { c with
    ring := places, holder := (ms.find? (fun m => m.2.2)).map Prod.fst,
    macros := if stale then c.macros.zeroed else c.macros })

/-- A core takes back what it saved beside its crews (R51): `ms` are the members of its ring. -/
def reopenCore (s : State) (core ctx : Nat) (ms : List (Nat × Nat × Bool)) : State :=
  match tabGet (s.ctx ctx).engSaved (savedKey core) with
  | none => s
  | some v =>
    let a := engArea s ctx core
    let bad : Bool := v == 1 && !(s.poison.isEmpty && s.latent.isEmpty) && (List.range (engAreaSize / 32)).any (fun i => granuleBad s (a + 32 * i))
    if v == 1 && !engAreaFits s ctx a then resetContext s ctx 0x54
    else if bad then resetContext (detect s a engAreaSize ⟨0, none, 0, none⟩) ctx 0x53
    else
      let s := reopenRing s core ctx ms
      let s := if v == 1 then readEngines s core ctx else s
      s.modCtx ctx (fun x => { x with engSaved := x.engSaved.filter (fun k => k.1 / 32 != core) })

/-- One crew returns from a pre-emption to its partition (R51, R88); none where it does not fit. -/
def restoreOne (s : State) (id : Nat) : Option State :=
  match (s.crew id).map (placeNamed s) with
  | none => none
  | some c =>
    match c.slot with
    | none => none
    | some n =>
      if !fitsBack s id c || !coreReady s c.core c.ctx then none
      else
        match resetAtRestore s c n with
        | some t => some t
        | none =>
          let s := takeCtrs s c.core (ctrKey id c) c.kernel.rowctr
          some (restoreFrom (makeRoom 64 s c.core id c.kernel) id c n)

/-- A group returns whole or not at all (R51). -/
def restoreAll (ids : List Nat) (s : State) : Option State :=
  match ids with
  | [] => some s
  | id :: r =>
    match restoreOne s id with
    | none => none
    | some s => restoreAll r s

/-- Restores every group that fits, in the order of the crews. -/
def restoreGroups (ids : List Nat) (ctx : Nat) (s : State) : State :=
  ids.foldl (fun s id =>
    match s.crew id with
    | some c =>
      if (s.ctx ctx).preempt == .saved && c.state == CrewState.saved && c.hold == .none then
        (restoreAll (restoreGroup s id c) s).getD s
      else s
    | none => s) s

/-- Resumption is complete (R51, R72): waits of swapped-out crews are checked again, bins launch what was held
back. -/
def finishResume (s : State) (ctx : Nat) : State :=
  let s := s.modCtx ctx (fun x => { x with preempt := .no, resume := false })
  let s := eachCrew s ctx (fun c =>
    if c.state == .swappedOut then { c with splits := c.splits.map (fun x => (x.1, x.2.checkAgain)) } else c)
  let bins := (s.ctx ctx).bins.map (fun b => (b.1 / 4, b.1 % 4, b.2.untaken))
  bins.foldl (fun s b => binFire (b.2.2 + 1) s ctx b.1 b.2.1) s

/-- The crews of a context that resumes return to their partitions, with the rings and engine state of their
cores (R51). -/
def restoreContext (s : State) (ctx : Nat) : State :=
  let cores := (List.range 512).filter (fun core => coreSaved s core ctx)
  let rings := cores.map (fun core => (core, savedRing s core ctx))
  let s := restoreGroups ((toRestore s ctx).map Prod.fst) ctx s
  -- a core takes back its rest with the first of its crews, or at once when none is to return
  let s := rings.foldl (fun s r =>
    let left := (toRestore s ctx).any (fun e => e.2.core == r.1)
    let came := s.crews.any (fun e => e.2.ctx == ctx && e.2.core == r.1 && e.2.charged)
    if (s.ctx ctx).preempt == .saved && (came || (!left && coreReady s r.1 ctx)) then reopenCore s r.1 ctx r.2 else s) s
  if (s.ctx ctx).preempt == .saved && (toRestore s ctx).isEmpty && !cores.any (fun core => coreSaved s core ctx) then
    finishResume s ctx
  else s

def execCrewRestore (ctx : Nat) (s : State) : Host.Outcome State Fault Refusal :=
  let x := s.ctx ctx
  .next (if x.preempt == .saved && x.resume then restoreContext s ctx else s)

/-- The watchdog budget of a crew in cycles of its island (R391). -/
def budgetOf (s : State) (c : Crew) : Nat :=
  let d := (s.desc c.ctx).wdogdef
  if c.kernel.wdog != 0 then 65536 * c.kernel.wdog else if d != 0 then 65536 * d else 2 ^ 32

/-- `INFO` of Table 23-2 for a live split. -/
def wdogInfo (n : Nat) (gang lamp : Bool) (entry : Nat) (mask : Mask) : Nat :=
  let w := ((List.range 32).find? (fun i => mask.toNat / 2 ^ (32 * i) % 2 ^ 32 != 0)).getD 0
  entry + atBit 4 n + atBit 9 (bitNat gang) + atBit 10 (bitNat lamp) +
    atBit 16 (mask.toNat / 2 ^ (32 * w) % 2 ^ 32) + atBit 48 w

/-- The end of a crew would break one of its gangs (R393). -/
def wouldBreak (s : State) (c : Crew) : Bool :=
  match c.launch.bind (fun l => (s.launch l).map (fun x => (l, x))) with
  | none => false
  | some (l, x) => c.gangs.any (fun g => ((x.gtab[g.table]?).map GangEntry.res).getD false && !isBroken s l g.table)

/-- A crew whose watchdog has reached its budget is ended, with one record for each live split (R391, R392). -/
def wdogEnd (s : State) (id : Nat) (c : Crew) : State :=
  let gang := wouldBreak s c
  let lamp := (s.core c.core).holder == some id
  let s := c.splits.foldl (fun s e =>
    errRecord s (dieOfCore c.core)
      (crewRec c 13 0 (wdogInfo c.splits.length gang lamp e.1 e.2.mask) none (some e.2.pc) e.1)) s
  endCrew s id

def execCrewWatchdogExpire (crew : Nat) (s : State) : Host.Outcome State Fault Refusal :=
  match s.crew crew with
  | none => .next s
  | some c => .next (if c.state == .resident && !c.stranded && budgetOf s c ≤ c.wdogCount then wdogEnd s crew c else s)

/-- `VALID` 0 is written to a context's descriptor (R334, R400): an active context is reset with cause 0x51. -/
def dropDesc (s : State) (ctx : Nat) : State :=
  let s := if (s.ctx ctx).active then resetContext s ctx 0x51 else s
  { s with descs := tabPut s.descs ctx { s.desc ctx with valid := false } }

def execContextInvalidate (ctx : Nat) (s : State) : Host.Outcome State Fault Refusal :=
  .next (if (s.desc ctx).valid then dropDesc s ctx else s)

end Sys2Proof.Machine
end

