-- ==== Sys2Proof/Machine/Rings.lean ====
section
/-! DEFINITION. Launch rings and command packets: the I/O core at a ring (R327 to R332, R442 to R445), the checks
of a command (R447) and what each command does (R109, R94, R302, R303, R322, R378). -/

namespace Sys2Proof.Machine

/-- A record of a ring's I/O core (R443, R444, R447). (DEDUCED, log 40) -/
def ringRecord (s : State) (ring info : Nat) : State :=
  let io := (servedBy s ring).getD (s.binding ring).iocore
  errRecord s (io / 16 % 4)
    { cls := 16, sev := 0, addr := none, vaddr := none, who := none, ukind := 9, unit := io, info := info, split := 0,
      slot := none }

/-- An anomaly of Table 26-3. -/
def ringAnomaly (s : State) (ring code : Nat) : State :=
  let s := ringRecord s ring (code + atBit 8 ring + atBit 32 1)
  writeHead (s.modRing ring (fun r => { r with anom := r.anom + 1 })) ring

/-- What a ring's I/O core reads there: zeros for a poisoned granule (R366). -/
def ioNat (s : State) (pa n : Nat) : Nat := leNat (readBytes s pa n).1

/-- Packets written past `HEAD`, as `TAIL` or a `SEQ` word beyond it show them: `TAIL` is taken as at least what such
a word showed (R443). -/
def aheadBy (s : State) (ring : Nat) : Nat :=
  let h := (s.ring ring).head
  let d0 := ringDiff (ioNat s (ringBase ring + 0x3800) 4) h
  let ds := ringDiff (s.ring ring).seen h
  let d := if ds == 0 || 0x70000000 ≤ ds || (d0 < 0x70000000 && ds ≤ d0) then d0 else ds
  let q := ringDiff (ioNat s (slotBase ring h + 124) 4) h
  if d != 0 && q != 0 && q % 112 == 0 && q < 0x70000000 then max d (q + 1) else d

/-- The packet in slot `HEAD` mod 112. -/
def packetAt (s : State) (ring : Nat) : Nat := ioNat s (slotBase ring (s.ring ring).head) 128

/-- A lap (R443). -/
def lapped (s : State) (ring ahead : Nat) : State :=
  let n := ahead - 112
  let s := s.modRing ring (fun r => { r with
    head := (r.head + n) % ringModulus, lost := r.lost + n, seen := (r.head + ahead) % ringModulus })
  ringRecord (writeHead s ring) ring (0x61 + atBit 8 ring + atBit 32 n)

/-- A packet type that its ring does not permit: a reserved one, or a privileged one on a ring that is not a command ring
(R330). -/
def typeBarred (s : State) (ring ty : Nat) : Bool := 0x0A < ty || (2 ≤ ty && !(s.binding ring).priv)

/-- A packet is handed on. A launch stays in the ring until its accepting chiplet takes it (R53); another packet leaves
its slot, and `HEAD` advances in the same step (R329, R445). One that the ring does not permit is refused when its turn
comes (R447). -/
def forward (s : State) (ring : Nat) : State :=
  let s := ioLoad s ring (slotBase ring (s.ring ring).head) 128
  let p := packetAt s ring
  let seq := (s.ring ring).head
  let ty := p % 256
  let s := if ty == 1 then s else writeHead (s.modRing ring (fun r =>
    { r with head := (seq + 1) % ringModulus, open_ := r.open_ + 1 })) ring
  if ty == 1 then s.modRing ring (fun r => { r with launch := some (seq, p) })
  else s.modRing ring (fun r => { r with command := some (seq, p) })

/-- One look of the I/O core at its ring: the state afterwards, and whether it goes on (R329, R442 to R444). (DEDUCED, log 25) -/
def serveOnce (s : State) (ring : Nat) : State × Bool :=
  let r := s.ring ring
  let s := ioLoad (ioLoad s ring (ringBase ring + 0x3800) 8) ring (slotBase ring r.head + 124) 4
  let cd := cdoneAhead s ring
  let s := if cd && !r.cdoneBad then ringAnomaly s ring 0x63 else s
  let s := if cd != r.cdoneBad then s.modRing ring (fun r => { r with cdoneBad := cd }) else s
  let d := aheadBy s ring
  if r.command.isSome || r.launch.isSome || d == 0 then (s, false)
  else if 0x70000000 ≤ d then
    (if r.backward then s else (ringAnomaly s ring 0x62).modRing ring (fun r => { r with backward := true }), false)
  else
    let s := if r.backward then s.modRing ring (fun r => { r with backward := false }) else s
    if 112 < d then (lapped s ring d, true)
    else if bitsOf (packetAt s ring) 1023 992 != r.head then (s, false)
    else (forward s ring, true)

def serveRing (fuel : Nat) (s : State) (ring : Nat) : State :=
  match fuel with
  | 0 => s
  | fuel + 1 =>
    let r := serveOnce s ring
    if r.2 then serveRing fuel r.1 ring else r.1

/-- The I/O core's wait on the kick line, or on a `SEQ` word, has ended: its monitor has fired (R65, R329). -/
def execKick (ring : Nat) (s : State) : Host.Outcome State Fault Refusal :=
  .next (if ring < 64 && (s.ring ring).woken && (s.binding ring).valid && (servedBy s ring).isSome then
      serveRing 256 (s.modRing ring (fun r => { r with woken := false })) ring
    else s)

/-- A completion record that was held for room is written (R332). -/
def execCompletionRecord (ring : Nat) (s : State) : Host.Outcome State Fault Refusal :=
  match (s.ring ring).held with
  | [] => .next s
  | (seq, ctag, status, ty, reason, clock) :: rest =>
    if completionRoom s ring && (servedBy s ring).isSome then
      .next (putCompletion (s.modRing ring (fun r => { r with held := rest })) ring seq ctag status ty reason clock)
    else .next s

/-- Fields of Table 17-3. -/
def cmdCtx (p : Nat) : Nat := bitsOf p 19 8
def cmdArg0 (p : Nat) : Nat := bitsOf p 127 64
def cmdArg1 (p : Nat) : Nat := bitsOf p 191 128
def cmdArg2 (p : Nat) : Nat := bitsOf p 223 192
def cmdTag (p : Nat) : Nat := bitsOf p 255 224
def cmdArg3 (p : Nat) : Nat := bitsOf p 511 256

/-- A command in progress carries this mark beside its packet. -/
def cmdStarted (p : Nat) : Bool := p.testBit 1024

/-- The command completes, and its ring goes on (R330, R397); a refusal writes its record (R447). -/
def endCommand (s : State) (ring seq p status reason : Nat) : State :=
  let s := s.modRing ring (fun r => { r with command := none, woken := true })
  let ty := p % 256
  let s := if status == 2 then ringRecord s ring (0x65 + atBit 8 ty + atBit 16 reason) else s
  complete s ring (s.ring ring).epoch seq (cmdTag p) status ty reason

/-- The command goes on in later steps. -/
def startCommand (s : State) (ring seq p : Nat) : State :=
  s.modRing ring (fun r => { r with command := some (seq, p + 2 ^ 1024) })

/-- Entries of the list of a join, up to the first zero one: module and count (Table 17-2). -/
def joinList (p : Nat) : List (Nat × Nat) :=
  (((List.range 8).map (fun i => bitsOf (cmdArg3 p) (32 * i + 31) (32 * i))).takeWhile (fun e => e != 0)).map
    (fun e => (e % 65536, e / 65536))

/-- The launch that a join names (Table 17-2): the latest accepted with the ring and `SEQ`. -/
def joinLaunch (s : State) (p : Nat) : Option (Nat × Launch) :=
  (s.launches.filter (fun e => e.2.ring == bitsOf (cmdArg1 p) 5 0 && e.2.seq == bitsOf (cmdArg1 p) 63 32)).getLast?

/-- A crew saved after `brk` or an exception (Table 26-5). -/
def heldCrew (s : State) (ctx index : Nat) : Option (Nat × Crew) :=
  s.crews.find? (fun e => e.2.ctx == ctx && e.2.index == index && e.2.hold != .none && e.2.state == CrewState.saved)

/-- The check of Table 26-5 that a packet fails first, for rows that refuse it whole. -/
def cmdRefused (s : State) (p : Nat) : Option Nat :=
  let ty := p % 256
  let a0 := cmdArg0 p
  if bitsOf p 63 20 != 0 || bitsOf p 991 512 != 0 then some 7
  else if 4 ≤ ty && !(s.desc (cmdCtx p)).valid then some 1
  else
    match ty with
    | 2 | 3 =>
      if 4 ≤ a0 || cmdArg2 p == 0 || 2048 < cmdArg2 p || 2048 < cmdArg1 p + cmdArg2 p then some 3 else none
    | 5 => if (s.ctx (cmdCtx p)).preempt == .no then some 4 else none
    | 6 => if a0 % 4096 != 0 then some 3 else none
    | 7 => if cmdArg3 p == 0 || a0 % 64 != 0 then some 3 else none
    | 8 => if cmdArg3 p == 0 then some 3 else none
    | 9 => if (heldCrew s (cmdCtx p) (cmdArg2 p)).isNone then some 4 else none
    | 10 =>
      if (joinList p).isEmpty || (joinList p).any (fun e => e.2 == 0) then some 3
      else
        match joinLaunch s p with
        | none => some 4
        | some (_, x) =>
          match x.gtab[cmdArg2 p]? with
          | none => some 4
          | some g => if g.res && (gangState x (cmdArg2 p)).joined.isEmpty then none else some 4
    | _ => none

/-- A ring's command of a type whose turn has come (R330): every earlier packet of the ring has completed. A new
one is checked first (R447); `start` begins it and `go` continues it. -/
def withCommand (ring ty : Nat) (s : State) (start go : Nat → Nat → State → State) :
    Host.Outcome State Fault Refusal :=
  match (s.ring ring).command with
  | none => .next s
  | some (seq, p) =>
    if p % 256 != ty || typeBarred s ring ty || (s.ring ring).open_ != 1 || (servedBy s ring).isNone then .next s
    else if cmdStarted p then .next (go seq p s)
    else
      match cmdRefused s p with
      | some reason => .next (endCommand s ring seq p 2 reason)
      | none => .next (start seq p s)

/-- A packet that the ring does not permit does nothing (row 6 of Table 26-5): it writes the record of R444 alone. -/
def refusePacket (s : State) (ring seq p : Nat) : State :=
  let s := s.modRing ring (fun r => { r with command := none, woken := true })
  complete (ringAnomaly s ring 0x64) ring (s.ring ring).epoch seq (cmdTag p) 2 (p % 256) 6

/-- A packet that does nothing completes: one of type 0 at once (R330), one that the ring does not permit at its turn
(R447). -/
def execNoOperation (ring : Nat) (s : State) : Host.Outcome State Fault Refusal :=
  match (s.ring ring).command with
  | some (seq, p) =>
    .next (if (servedBy s ring).isNone then s
      else if p % 256 == 0 then endCommand s ring seq p 0 0
      else if typeBarred s ring (p % 256) && (s.ring ring).open_ == 1 then refusePacket s ring seq p
      else s)
  | none => .next s

/-- The regions that a seal or an unseal names. -/
def sealKeys (p : Nat) : List Nat := (List.range (cmdArg2 p)).map (fun i => 2048 * cmdArg0 p + cmdArg1 p + i)

/-- Stash lines filled from the stockpile give up their bytes: after a change of state a mirror reads the region anew
(R128). -/
def dropStockLines (s : State) : State :=
  { s with cores := s.cores.map (fun c => (c.1, { c.2 with maps := c.2.maps.map (fun m =>
      (m.1, { m.2 with lines := m.2.lines.map (fun l =>
        (l.1, if l.2.cmode == 3 then { l.2 with filled := false } else l.2)) })) })) }

/-- A write to a stockpile region waits out a refresh window: one of an agent outside the cores, or a row of a hoist of the
region's chiplet. (DEDUCED, log 41) -/
def writesAwait (s : State) (keys : List Nat) : Bool :=
  let hit : Nat → Bool := fun a => isStockpile a && keys.contains ((a - 0x10000000000) / 0x200000)
  s.held.any (fun t =>
    match t with
    | .event (.hostAccess _ addr (.store _)) => hit addr
    | .event (.applicationCoreAccess hart addr (.store _)) =>
      (match hart.mode with
        | .guest _ _ => true
        | _ => hit addr)
    | _ => false) ||
  s.cores.any (fun c => c.2.hoist.any (fun h => !h.2.groups.isEmpty) && keys.any (fun k => k / 2048 == dieOfCore c.1))

/-- Sealing (R109): once every write to the regions has completed. -/
def execSeal (ring : Nat) (s : State) : Host.Outcome State Fault Refusal :=
  let act : Nat → Nat → State → State := fun seq p s =>
    if writesAwait s (sealKeys p) then s
    else endCommand (dropStockLines { s with sealed := (sealKeys p).foldl setAdd s.sealed }) ring seq p 0 0
  withCommand ring 2 s act act

/-- Unsealing (R109). -/
def execUnseal (ring : Nat) (s : State) : Host.Outcome State Fault Refusal :=
  let act : Nat → Nat → State → State := fun seq p s =>
    endCommand (dropStockLines { s with sealed := (sealKeys p).foldl setDel s.sealed }) ring seq p 0 0
  withCommand ring 3 s act act

/-- The context has a crew. -/
def hasCrew (s : State) (ctx : Nat) : Bool := s.crews.any (fun e => e.2.ctx == ctx && e.2.state != CrewState.retired)

/-- A pre-empt command (R70, R72, R447): it completes when every core has saved the context, or when a reset has
ended the pre-emption (R401). -/
def preemptStart (ring seq p : Nat) (s : State) : State :=
  let ctx := cmdCtx p
  if (s.ctx ctx).preempt != .no then endCommand s ring seq p 0 0
  else if !hasCrew s ctx then
    endCommand (s.modCtx ctx (fun x => { x with preempt := .saved, preemptAt := s.clock })) ring seq p 0 0
  else startCommand (beginPreempt s ctx) ring seq p

def preemptGo (ring seq p : Nat) (s : State) : State :=
  match (s.ctx (cmdCtx p)).preempt with
  | .no | .saved => endCommand s ring seq p 0 0
  | _ => s

def execPreempt (ring : Nat) (s : State) : Host.Outcome State Fault Refusal :=
  withCommand ring 4 s (preemptStart ring) (preemptGo ring)

/-- A resume command (R51, R72): it completes when every crew is restored. -/
def resumeStart (ring seq p : Nat) (s : State) : State :=
  startCommand (s.modCtx (cmdCtx p) (fun x => { x with resume := true })) ring seq p

def resumeGo (ring seq p : Nat) (s : State) : State :=
  if (s.ctx (cmdCtx p)).preempt == .no then endCommand s ring seq p 0 0 else s

def execResume (ring : Nat) (s : State) : Host.Outcome State Fault Refusal :=
  withCommand ring 5 s (resumeStart ring) (resumeGo ring)

/-- The page range of an invalidation covers an address. -/
def coversVa (va pages x : Nat) : Bool :=
  pages == 0 || (va / 4096 * 4096 ≤ x && x < va / 4096 * 4096 + 4096 * pages)

/-- Parked commands of a context whose address is covered are tried again (R423): on a core they lose their park, or the
case that a row has met ahead; a saved record takes `RETRY`. -/
def retryParked (s : State) (ctx va pages : Nat) : State :=
  let s := { s with cores := s.cores.map (fun c => (c.1, { c.2 with hoist := c.2.hoist.map (fun h =>
    match h.2.park <|> h.2.ahead with
    | some k => if h.2.ctx == ctx && coversVa va pages k.va then (h.1, { h.2 with park := none, ahead := none }) else h
    | none => h) })) }
  if (s.ctx ctx).preempt == .no then s
  else
    (s.ctx ctx).engSaved.foldl (fun s k =>
      if 16 ≤ k.1 % 32 || (tabGet (s.ctx ctx).engSaved (savedKey (k.1 / 32))).isNone then s
      else
        let a := engArea s ctx (k.1 / 32) + 256 + 4352 * (k.1 % 32)
        let b := rawNat s (a + 166) 1
        if b.testBit 3 && coversVa va pages (rawNat s (a + 184) 8) then pokeNat s (a + 166) 1 (b ||| 0x10) else s) s

/-- Invalidation of translations (R94, R405, R423). -/
def execInvalidateTranslations (ring : Nat) (s : State) : Host.Outcome State Fault Refusal :=
  let act : Nat → Nat → State → State := fun seq p s =>
    let s := tlbInvalidate s (cmdCtx p) (cmdArg0 p) (cmdArg1 p)
    endCommand (retryParked s (cmdCtx p) (cmdArg0 p) (cmdArg1 p)) ring seq p 0 0
  withCommand ring 6 s act act

/-- The slices that a command names. -/
def cmdSlices (p : Nat) : List Nat := (List.range 256).filter (fun i => (cmdArg3 p).testBit i)

/-- What such a read of an installation does at the homes (R94, R124, R369). -/
def touchWhole (s : State) (l ctx va n : Nat) : State :=
  if n == 0 then s
  else
    let s := detectVirtual s (askSlice l) ctx va n needR { asFinder va with va := none } s.unitPts
    countPoisonRead s (dieOfSlice l) (((readVirtual { s with away := [] } (askSlice l) ctx va n needR).map Prod.snd).getD false)

/-- Bytes read whole by an assayer for an installation; none where a page fails or poison is met (R451). -/
def readWhole (s : State) (l ctx va n : Nat) : Option (List Byte) :=
  if pullFailed s (askSlice l) ctx va n needR then none
  else
    match readVirtual s (askSlice l) ctx va n needR with
    | some (bs, false) => some bs
    | _ => none

/-- The ranges that an installation reads on an assayer: the table, and, once that has been read, what it names. -/
def installRanges (s : State) (l ctx va : Nat) : List (Nat × Nat) :=
  match readWhole s l ctx va 512 with
  | none => [(va, 512)]
  | some bs =>
    let t := leNat bs
    [(va, 512), (bitsOf t 63 0, bitsOf t 95 64),
     (bitsOf t 191 128, if bitsOf t 191 128 == 0 then 0 else min (bitsOf t 207 192) 16384)].filter (fun r => r.2 != 0)

/-- Its reads beyond the module are sent, and whether they have been answered (R325). -/
def pullInstall (s : State) (l ctx va : Nat) : Bool × State :=
  let pull : List (Nat × Nat) → State → Bool × State := fun rs s =>
    rs.foldl (fun (a : Bool × State) r =>
      let q := pullVirtual a.2 (askSlice l) ctx r.1 r.2 needR
      (a.1 && q.1, q.2)) (true, s)
  let r := pull [(va, 512)] s
  if r.1 then pull (installRanges r.2 l ctx va) r.2 else r

def installPulled (s : State) (l ctx va : Nat) : State :=
  (installRanges s l ctx va).foldl (fun s r => pulled s (askSlice l) ctx r.1 r.2 needR) s

/-- What an installation reads: the handler table, the code range and the data image (R302). -/
def readTable (s : State) (l ctx va : Nat) : Option (Nat × List Byte × List Byte) :=
  match readWhole s l ctx va 512 with
  | none => none
  | some bs =>
    let t := leNat bs
    let n := if bitsOf t 191 128 == 0 then 0 else min (bitsOf t 207 192) 16384
    match readWhole s l ctx (bitsOf t 63 0) (bitsOf t 95 64), readWhole s l ctx (bitsOf t 191 128) n with
    | some code, some image => some (t, code, image)
    | _, _ => none

/-- The reads of an installation, as they are made. -/
def touchTable (s : State) (l ctx va : Nat) : State :=
  let s := touchWhole s l ctx va 512
  match readWhole s l ctx va 512 with
  | none => s
  | some bs =>
    let t := leNat bs
    let n := if bitsOf t 191 128 == 0 then 0 else min (bitsOf t 207 192) 16384
    touchWhole (touchWhole s l ctx (bitsOf t 63 0) (bitsOf t 95 64)) l ctx (bitsOf t 191 128) n

/-- The entries of a handler table (Table 15-3), at 4 × class + kind. -/
def tableEntriesOf (t : Nat) : Tab Nat :=
  (List.range 60).map (fun i => (i + 4, t / 2 ^ (256 + 64 * i) % 2 ^ 64))

/-- A context is installed on an assayer (R302); an installation that stood keeps its events. -/
def installOn (s : State) (l ctx : Nat) (t : Nat × List Byte × List Byte) : State :=
  let old := installOf s l ctx
  let cells : Mem := memWrite [] 0 t.2.2
  let i : Install :=
    { codebase := bitsOf t.1 63 0, codelen := bitsOf t.1 95 64, share := bitsOf t.1 99 96,
      entries := tableEntriesOf t.1, data := cells, dataPoison := [], pts := (s.ctx ctx).timestamp,
      queue := (old.map Install.queue).getD [], waiting := (old.map Install.waiting).getD [],
      disc := (old.map Install.disc).getD 0, overruns := [], disabled := [], used := 0, removing := false,
      measure := Config.digest (leBytes 512 t.1 ++ t.2.1 ++ t.2.2) }
  let s := s.modSlice l (fun x => { x with installs := tabPut x.installs ctx i })
  { s with attest := s.attest ++ [(ctx, t.1, leNat t.2.1, leNat t.2.2)] }

/-- A running handler of a context holds a change of its installation back. -/
def handlerOf (s : State) (l ctx : Nat) : Bool :=
  match (s.slice l).handler with
  | some h => h.ctx == ctx
  | none => false

/-- Installation (R302, R447): the assayers that pass install, the others stay as they were. -/
def installStart (ring seq p : Nat) (s : State) : State :=
  let ctx := cmdCtx p
  let ls := cmdSlices p
  let pull := ls.foldl (fun (a : Bool × State) l =>
    let q := pullInstall a.2 l ctx (cmdArg0 p)
    (a.1 && q.1, q.2)) (true, s)
  if ls.any (fun l => handlerOf s l ctx) then s
  else if !pull.1 then (if cmdStarted p then pull.2 else startCommand pull.2 ring seq p)
  else
    let s := ls.foldl (fun s l => touchTable s l ctx (cmdArg0 p)) pull.2
    let reads := ls.map (fun l => (l, readTable s l ctx (cmdArg0 p)))
    let s := ls.foldl (fun s l => installPulled s l ctx (cmdArg0 p)) s
    let full : Nat → Bool := fun l => 8 ≤ (s.slice l).installs.length && (installOf s l ctx).isNone
    let done := reads.foldl (fun s r =>
      match r.2 with
      | some t => if full r.1 then s else installOn s r.1 ctx t
      | none => s) s
    if reads.any (fun r => r.2.isNone) then endCommand done ring seq p 2 2
    else if ls.any full then endCommand done ring seq p 2 5
    else endCommand done ring seq p 0 0

def execInstallAssayers (ring : Nat) (s : State) : Host.Outcome State Fault Refusal :=
  withCommand ring 7 s (installStart ring) (installStart ring)

/-- Removal (R303): it completes when every named assayer has finished. -/
def removeGo (ring seq p : Nat) (s : State) : State :=
  if (cmdSlices p).any (fun l => (installOf s l (cmdCtx p)).isSome) then s else endCommand s ring seq p 0 0

def removeStart (ring seq p : Nat) (s : State) : State :=
  let ctx := cmdCtx p
  let s := (cmdSlices p).foldl (fun s l =>
    if handlerOf s l ctx then modInstall s l ctx (fun i => { i with removing := true }) else removeInstall s l ctx) s
  removeGo ring seq p (startCommand s ring seq p)

def execRemoveAssayers (ring : Nat) (s : State) : Host.Outcome State Fault Refusal :=
  withCommand ring 8 s (removeStart ring) (removeGo ring)

/-- Debug resume (R378): the crew returns when its context is not pre-empted and its partition has room. -/
def debugStart (ring seq p : Nat) (s : State) : State :=
  match heldCrew s (cmdCtx p) (cmdArg2 p) with
  | none => s
  | some (id, c0) =>
    let c := placeNamed s c0
    if (s.ctx c.ctx).preempt != .no || c.stranded || !fitsBack s id c then s
    else endCommand (returnCrew s id) ring seq p 0 0

def execDebugResume (ring : Nat) (s : State) : Host.Outcome State Fault Refusal :=
  withCommand ring 9 s (debugStart ring) (debugStart ring)

/-- Joining a module gang (R322). -/
def joinStart (ring seq p : Nat) (s : State) : State :=
  match joinLaunch s p with
  | none => s
  | some (l, _) =>
    let g := cmdArg2 p
    let s := s.modLaunch l (fun x => { x with gangs := tabPut x.gangs g { gangState x g with joined := joinList p } })
    endCommand s ring seq p 0 0

def execJoinModuleGang (ring : Nat) (s : State) : Host.Outcome State Fault Refusal :=
  withCommand ring 10 s (joinStart ring) (joinStart ring)

end Sys2Proof.Machine
end

