-- ==== Sys2Proof/Machine/Boards.lean ====
section
/-! DEFINITION. The housekeeping registers (R326, Tables 16-1, 17-1, 17-4, 17-5, 17-7), the islands and the power
controllers (R15, R17, R341), and the supervisor's stores to its queues (R337). -/

namespace Sys2Proof.Machine

/-- Base of the housekeeping range. -/
def houseBase : Nat := 0x20000000000

/-- The 512 bits of a context descriptor (Table 17-5). -/
def descImage (d : Desc) : Nat :=
  bitNat d.valid + atBit 1 (bitNat d.dbg) + atBit 16 d.sandbox + atBit 32 d.rootppn + atBit 72 d.grootppn +
    atBit 128 d.savebase + atBit 192 d.saveslot + atBit 208 d.savecnt + atBit 224 d.wdogdef + atBit 256 d.esave +
    atBit 320 d.svcq + atBit 384 d.dbgq + atBit 448 d.svcid + atBit 460 d.svchart

/-- A context descriptor from its 512 bits. -/
def descOf (n : Nat) : Desc :=
  { valid := n.testBit 0, dbg := n.testBit 1, sandbox := bitsOf n 31 16, rootppn := bitsOf n 71 32,
    grootppn := bitsOf n 111 72, savebase := bitsOf n 191 128, saveslot := bitsOf n 207 192, savecnt := bitsOf n 223 208,
    wdogdef := bitsOf n 255 224, esave := bitsOf n 319 256, svcq := bitsOf n 383 320, dbgq := bitsOf n 447 384,
    svcid := bitsOf n 459 448, svchart := bitsOf n 463 460 }

/-- A ring binding as a register (Table 17-4). -/
def bindImage (b : Binding) : Nat :=
  bitNat b.valid + atBit 1 (bitNat b.priv) + atBit 8 b.iocore + atBit 16 b.ctx

def bindOf (n : Nat) : Binding :=
  { valid := n.testBit 0, priv := n.testBit 1, iocore := bitsOf n 13 8, ctx := bitsOf n 27 16 }

/-- A peer window entry as a register (Table 16-1). -/
def windowImage (w : Window) : Nat := bitNat w.valid + atBit 1 w.die + atBit 3 w.ports.toNat + atBit 16 w.peer

def windowFrom (n : Nat) : Window :=
  { valid := n.testBit 0, die := bitsOf n 2 1, ports := BitVec.ofNat 4 (bitsOf n 6 3), peer := bitsOf n 31 16 }

/-- A core island with no resident crew is idle (R15). -/
def islandIdle (s : State) (core : Nat) : Bool := !s.crews.any (fun e => e.2.core == core && e.2.charged)

/-- An island is a core's. -/
def isCoreIsland (i : Nat) : Bool := i % 256 < 128

/-- An island register (Table 17-7): no crew is resident on a slice or router island, whose `IDLE` keeps its reset
value (DEDUCED, log 19). -/
def islandImage (s : State) (i : Nat) : Nat :=
  let x := s.island i
  let idle := !isCoreIsland i || islandIdle s (128 * (i / 256) + i % 256)
  x.ceil + atBit 4 x.step + atBit 8 (bitNat idle)

/-- A write of `CEIL` (R15, R341): a core island waits for the next evaluation, a slice or router island runs at its
ceiling; codes 14 and 15 are reserved and change nothing (DEDUCED, log 19). -/
def writeCeil (s : State) (i ceil : Nat) : State :=
  let x := s.island i
  if 1024 ≤ i || 13 < ceil then s
  else
    let step := if isCoreIsland i then x.step else ceil
    { s with islands := tabPut s.islands i { x with ceil := ceil, step := step } }

def execIslandCeilingWrite (island ceil : Nat) (s : State) : Host.Outcome State Fault Refusal :=
  .next (if s.boot.step < 6 then s else writeCeil s island ceil)

/-- A ring that a write binds, or binds anew, starts with its counters at 0 (R333). (DEDUCED, log 28) -/
def writeBinding (s : State) (r n : Nat) : State :=
  let fresh := n.testBit 0 && bindOf n != s.binding r
  let s := { s with bindings := tabPut s.bindings r (bindOf n) }
  if fresh then
    let s := unitWrite (s.setRing r { Ring.reset with epoch := (s.ring r).epoch + 1, woken := true }) (ringBase r + 0x3800) (leBytes 128 0)
    writeHead s r
  else s

/-- A write of 64 bits of a context's descriptor (R334). -/
def writeDesc (s : State) (ctx q : Nat) (v : Word) : State :=
  let old := descImage (s.desc ctx)
  let new := old % 2 ^ (64 * q) + 2 ^ (64 * q) * v.toNat + 2 ^ (64 * (q + 1)) * (old / 2 ^ (64 * (q + 1)))
  let s := if old.testBit 0 && !new.testBit 0 then dropDesc s ctx else s
  { s with descs := tabPut s.descs ctx (descOf new) }

/-- A write of a housekeeping register (R326); reserved addresses take nothing, and nothing is written before the
hypervisor runs (R449). -/
def writeHouse (s : State) (addr : Nat) (v : Word) : State :=
  let o := addr - houseBase
  let n := v.toNat
  if s.boot.step < 6 || addr < houseBase || o % 8 != 0 then s
  else if o == 0 then { s with hstn := BitVec.ofNat 32 n }
  else if o == 8 then { s with mymod := BitVec.ofNat 16 n }
  else if 0x1000 ≤ o && o < 0x1000 + 16 * 28 then
    (if o % 16 == 0 then { s with windows := tabPut s.windows ((o - 0x1000) / 16) (windowFrom n) } else s)
  else if 0x2000 ≤ o && o < 0x2000 + 8 * 64 then writeBinding s ((o - 0x2000) / 8) n
  else if 0x10000 ≤ o && o < 0x10000 + 8 * 1024 then writeCeil s ((o - 0x10000) / 8) (n % 16)
  else if 0x100000 ≤ o && o < 0x100000 + 64 * 4096 then writeDesc s ((o - 0x100000) / 64) (o % 64 / 8) v
  else s

/-- The value of a housekeeping register; none for a reserved address. -/
def readHouse (s : State) (addr : Nat) : Option Word :=
  let o := addr - houseBase
  let w : Nat → Option Word := fun n => some (BitVec.ofNat 64 n)
  if addr < houseBase || o % 8 != 0 then none
  else if o == 0 then w s.hstn.toNat
  else if o == 8 then w s.mymod.toNat
  else if 0x1000 ≤ o && o < 0x1000 + 16 * 28 then
    w (if o % 16 == 0 then windowImage (s.window ((o - 0x1000) / 16)) else 0)
  else if 0x2000 ≤ o && o < 0x2000 + 8 * 64 then w (bindImage (s.binding ((o - 0x2000) / 8)))
  else if 0x10000 ≤ o && o < 0x10000 + 8 * 1024 then w (islandImage s ((o - 0x10000) / 8))
  else if 0x100000 ≤ o && o < 0x100000 + 64 * 4096 then
    w (descImage (s.desc ((o - 0x100000) / 64)) / 2 ^ (64 * (o % 64 / 8)))
  else none

def execHousekeepingWrite (addr : Nat) (value : Word) (s : State) : Host.Outcome State Fault Refusal :=
  .next (writeHouse s addr value)

/-- Duties are counted in millionths: a core's weight 2.4 m + 2.0 v, in units of 10⁻⁷ W (R17). -/
def dutyWeight (duties : List (Nat × Nat × Nat)) (core : Nat) : Nat :=
  match duties.find? (fun d => d.1 == core) with
  | some (_, m, v) => 24 * min m 1000000 + 20 * min v 1000000
  | none => 0

/-- P summed over a chiplet's core islands at a step, in units of 10⁻⁷ / 625 W (R15, R17). -/
def powerAt (s : State) (die : Nat) (duties : List (Nat × Nat × Nat)) (step : Nat) : Nat :=
  (List.range 128).foldl (fun n i =>
    let core := 128 * die + i
    if islandIdle s core then n + 625 * 1000000
    else n + 625 * 5000000 + dutyWeight duties core * (12 + step) ^ 2) 0

/-- The highest common step within 525 W, never below the lowest (R17). -/
def commonStep (s : State) (die : Nat) (duties : List (Nat × Nat × Nat)) : Nat :=
  (((List.range 14).reverse).find? (fun g => powerAt s die duties g ≤ 625 * 5250000000)).getD 0

/-- The step that an evaluation grants a core island (R17): full clock to all, or one common step to those that are not
idle. An idle island keeps the step granted before, which the manual leaves open (DESIGN CHOICE, log 71). -/
def grantedStep (s : State) (common core : Nat) : Nat :=
  if common == 13 then 13 else if islandIdle s core then (s.island (coreIsland core)).grant else common

/-- One evaluation of a chiplet's power controller (R15, R17, R341): a core island runs at the lower of its ceiling and
the step granted. -/
def evaluatePower (s : State) (die : Nat) (duties : List (Nat × Nat × Nat)) : State :=
  let g := commonStep s die duties
  { s with
    evals := tabPut s.evals die (s.clock / 125000)
    islands := (List.range 128).foldl (fun t i =>
      let core := 128 * die + i
      let x := (tabGet t (coreIsland core)).getD Island.reset
      let grant := grantedStep s g core
      let y := { x with grant := grant, step := min x.ceil grant }
      if y == x then t else tabPut t (coreIsland core) y) s.islands }

/-- The duties of a chiplet's cores that are not idle: those given, and free ones for the rest (DESIGN CHOICE, log 71). -/
def dutiesOf (s : State) (die : Nat) (duties : List (Nat × Nat × Nat)) : List (Nat × Nat × Nat) × State :=
  (coresOf die).foldl (fun (a : List (Nat × Nat × Nat) × State) core =>
    if islandIdle s core || duties.any (fun d => d.1 == core) then a
    else
      let m := a.2.draw
      let v := m.2.draw
      (a.1 ++ [(core, Config.freeChoice m.1 % 1000001, Config.freeChoice v.1 % 1000001)], v.2)) (duties, s)

/-- The controller of a chiplet is to evaluate: once in every 100 µs (R17). -/
def powerDue (s : State) (die : Nat) : Bool := die < 4 && (tabGet s.evals die).getD 0 < s.clock / 125000

def execPowerEvaluation (die : Nat) (duties : List (Nat × Nat × Nat)) (s : State) : Host.Outcome State Fault Refusal :=
  if powerDue s die then
    let d := dutiesOf s die duties
    .next (evaluatePower d.2 die d.1)
  else .next s

/-- Record `index` of a queue has been written and its place not taken again (R337). -/
def queueHolds (s : State) (ctx : Nat) (debug : Bool) (index : Nat) : Bool :=
  let k := if debug then (s.ctx ctx).dbgSeq else (s.ctx ctx).svcSeq
  queueBase s ctx debug != 0 && index < k && k ≤ index + 128

/-- What the supervisor stores, it stores at the program timestamp of its application core (R111, R114). The hart is not
named for a store: that of the queue's interrupts is taken (DESIGN CHOICE, log 57). -/
def byAppCore (s : State) (hart : Nat) (f : State → State) : State :=
  let key := 32 + hart % 16
  let own := (tabGet s.outerPts key).getD 0
  let t := f { s with unitPts := own }
  { t with outerPts := tabPut t.outerPts key (max own t.unitPts), unitPts := s.unitPts }

/-- The supervisor stores `STATE` in a record (R337). -/
def storeState (s : State) (ctx : Nat) (debug : Bool) (index st : Nat) : State :=
  queueScan (byAppCore s (s.desc ctx).svchart (fun s =>
    pokeNat s (queueBase s ctx debug + 32 * (index % 128) + 24) 1 st)) ctx

/-- `STATE` 1 (R337). -/
def execSupervisorTake (ctx : Nat) (debug : Bool) (index : Nat) (s : State) : Host.Outcome State Fault Refusal :=
  .next (if queueHolds s ctx debug index then storeState s ctx debug index 1 else s)

/-- `STATE` 2, after the reply is written to the request block of an `svc` (R195, R337). The block's page is
found by the context's tables; a block that does not translate takes no reply. -/
def execSupervisorDone (ctx : Nat) (debug : Bool) (index : Nat) (reply : Word) (s : State) :
    Host.Outcome State Fault Refusal :=
  if queueHolds s ctx debug index then
    let rec_ := rawNat s (queueBase s ctx debug + 32 * (index % 128)) 32
    let s :=
      if bitsOf rec_ 35 32 != 0 then s
      else
        match translate s (askDie 0) ctx (bitsOf rec_ 191 128) needW with
        | .ok x => byAppCore (noteWalk s x.upd) (s.desc ctx).svchart (fun s => unitWrite s x.pa (wordBytes reply))
        | .error _ => s
    .next (storeState s ctx debug index 2)
  else .next s

end Sys2Proof.Machine
end

