-- ==== Sys2Proof/Machine/Boot.lean ====
section
/-! DEFINITION. Power, boot and attestation (R342, R343, R409, R436, R449 to R452). -/

namespace Sys2Proof.Machine

/-- The module without power: every state is lost (R342). What the outside world will do is kept (DESIGN CHOICE, log 1). -/
def unpowered (s : State) : State :=
  { State.reset with
    powered := false
    boot := { step := 0, fail := 0, bcopy := false, icopy := false, hcopy := false, nfence := 0 }
    agenda := s.agenda, actor := s.actor, free := s.free, nextId := s.nextId }

/-- The pseudo-channels and routers that boot finds failed (R409, R436, R449). -/
def bootChannels (b : BootInput) : List Nat := (b.fenced.filter (fun c => c < 768)).foldl setAdd []
def bootDead (b : BootInput) : List Nat := (b.routers.filter (fun r => r < 256)).foldl setAdd []

/-- The substitute of a router that did not start: as R415 chooses it among those that did. -/
def bootSubstitute (dead : List Nat) (router : Nat) : Option Nat :=
  let d := router / 64 * 64
  let far : Nat → Nat := fun r =>
    ((r % 8 - router % 8) + (router % 8 - r % 8)) + ((r % 64 / 8 - router % 64 / 8) + (router % 64 / 8 - r % 64 / 8))
  let live := ((List.range 64).map (fun r => d + r)).filter (fun r => !dead.contains r)
  (List.range 15).findSome? (fun n => live.find? (fun r => far r == n))

/-- A verifier accepts a copy (R449): its digest matches the signed manifest, the signature verifies, and its version is at
least the fused minimum. -/
def copyWhole (c : ImageCopy) : Bool := Config.digest c.bytes == c.manifest && c.signed
def copyAccepted (c : ImageCopy) (fused : BitVec 32) : Bool := copyWhole c && fused.toNat ≤ c.version.toNat

/-- The copy that runs, and whether it is copy B: copy A is tried first (R449). -/
def chosenCopy (i : Image) (fused : BitVec 32) : Option (ImageCopy × Bool) :=
  if copyAccepted i.a fused then some (i.a, false) else if copyAccepted i.b fused then some (i.b, true) else none

/-- Why neither copy verifies (Table 26-4): a signature or digest, or the version, of the copy tried last. -/
def imageFail (i : Image) (code : Nat) : Nat := if copyWhole i.b then code + 1 else code

/-- A boot stops at the step that it could not complete (R449). -/
def bootStop (s : State) (fail : Nat) : State := { s with boot := { s.boot with fail := fail }, booting := none }

/-- The firmware trains the HBM and the links (step 3): what fails is fenced, or harvested with its cores and a substitute,
and boot goes on (R409, R436, R449). -/
def bootTrain (s : State) (b : BootInput) : State :=
  let dead := bootDead b
  { s with
    boot := { s.boot with nfence := (bootChannels b).length + dead.length }
    fencedPc := bootChannels b, routersDown := dead, coresDown := dead.flatMap (fun r => [2 * r, 2 * r + 1])
    slices := dead.map (fun r => (r, { Slice.reset with substitute := bootSubstitute dead r })) }

/-- One step of Table 17-8 after the first: 2 brings up the boot firmware, 3 the I/O-core firmware, 4 zeroes the memory and
the clock, 5 trains the CXL ports, 6 brings up the hypervisor. A report's measurements are those of the copies that run
(R343, R451). -/
def bootStep (s : State) (b : BootInput) : State :=
  match s.boot.step with
  | 1 =>
    match chosenCopy b.boot b.fused with
    | none => bootStop s (imageFail b.boot 1)
    | some (c, second) =>
      { s with boot := { s.boot with step := 2, bcopy := second }, measured := s.measured ++ [Config.digest c.bytes] }
  | 2 =>
    let s := bootTrain s b
    match chosenCopy b.io b.fused with
    | none => bootStop s (imageFail b.io 3)
    | some (c, second) =>
      { s with boot := { s.boot with step := 3, icopy := second }, measured := s.measured ++ [Config.digest c.bytes] }
  | 3 => { s with boot := { s.boot with step := 4 }, mem := [], poison := [], latent := [], clock := 0 }
  | 4 => { s with boot := { s.boot with step := 5 } }
  | _ =>
    match chosenCopy b.hyp b.fused with
    | none => bootStop s (imageFail b.hyp 5)
    | some (c, second) =>
      { s with boot := { s.boot with step := 6, hcopy := second, fail := if b.keyOk then 0 else 7 }, booting := none
               measured := s.measured ++ [Config.digest c.bytes] }

/-- As time passes, a boot under way takes its next step (R342). -/
def bootOn (s : State) : State :=
  match s.booting with
  | some b => bootStep s b
  | none => s

/-- Power-up (R342): the rails rise, and every unit is as reset leaves it; a module that has power is not powered up
again. -/
def bootState (s : State) (b : BootInput) : State :=
  { State.reset with
    boot := { step := 1, fail := 0, bcopy := false, icopy := false, hcopy := false, nfence := 0 }
    booting := some b, keyOk := b.keyOk, measured := []
    agenda := s.agenda, actor := s.actor, free := s.free, nextId := s.nextId }

def execPowerUp (boot : BootInput) (s : State) : Host.Outcome State Fault Refusal :=
  .next (if s.powered then s else bootState s boot)

/-- Loss of power (R342). -/
def execPowerLoss (s : State) : Host.Outcome State Fault Refusal := .next (unpowered s)

/-- The measurements of the handler tables that a context's sandbox has installed (R302, R343). -/
def handlerMeasures (s : State) (ctx : Nat) : List Nat :=
  s.slices.flatMap (fun x =>
    (x.2.installs.filter (fun i => (s.desc i.1).sandbox == (s.desc ctx).sandbox)).map (fun i => i.2.measure))

/-- A report with its items and the signature over them (R343). -/
def attestation (s : State) (ctx : Nat) (nonce : List Byte) : Report :=
  let hs := handlerMeasures s ctx
  { ctx := ctx, accepted := true, measures := s.measured, handlers := hs, nonce := leNat nonce,
    signature := Config.sign (s.measured ++ hs ++ [leNat nonce]) }

/-- A request for an attestation report (R343, R451): one is given when the hypervisor runs, the identity key reads
whole and the nonce has 64 bytes; another request receives an error and no report. -/
def execAttestationRequest (ctx : Nat) (nonce : List Byte) (s : State) : Host.Outcome State Fault Refusal :=
  let ok : Bool := s.powered && s.boot.step == 6 && s.keyOk && nonce.length == 64
  let r : Report :=
    if ok then attestation s ctx nonce
    else { ctx := ctx, accepted := false, measures := [], handlers := [], nonce := 0, signature := 0 }
  .next { s with reports := s.reports ++ [r] }

end Sys2Proof.Machine
end

