-- ==== Sys2Proof/Machine/Divergence.lean ====
section
/-! DEFINITION. Divergence of a crew's splits: opening one, arrivals at a join, merges and lanes that exit
(R26 to R30, R180, R181, R183, R460). -/

namespace Sys2Proof.Machine

/-- A divergence, or one that it encloses, is the innermost open one (R86). -/
def Crew.chainHas (fuel : Nat) (c : Crew) (inn : Option Nat) (k : Nat) : Bool :=
  match fuel with
  | 0 => false
  | fuel + 1 =>
    match inn with
    | none => false
    | some d => d == k || c.chainHas fuel ((tabGet c.divs d).bind Divergence.enclosing) k

/-- Inside a divergence: it is in the chain of an innermost one. -/
def Crew.inside (c : Crew) (inn : Option Nat) (k : Nat) : Bool := c.chainHas 17 inn k

/-- The entries of the splits inside a divergence. -/
def Crew.insideSplits (c : Crew) (k : Nat) : Tab Split := c.splits.filter (fun e => c.inside e.2.innermost k)

/-- Every lane of a divergence that runs has arrived: its splits wait at its join, and it encloses no open
divergence (R29). -/
def Crew.allAtJoin (c : Crew) (k : Nat) : Bool :=
  (c.insideSplits k).all (fun e => e.2.state == .joinWait && e.2.innermost == some k) &&
    c.divs.all (fun d => d.1 == k || !c.inside d.2.enclosing k)

/-- A split table without some entries. -/
def Crew.dropSplits (c : Crew) (es : List Nat) : Crew :=
  { c with splits := es.foldl (fun t e => tabDel t e) c.splits }

/-- The lowest entry of a list, or the lowest free entry of the table. -/
def Crew.lowest (c : Crew) (es : List Nat) : Nat :=
  match es with
  | [] => (tabFree c.splits 16).getD 0
  | e :: r => r.foldl min e

/-- The handler's split goes on in another entry: by a merge of its own entry, or because its entry holds no
split any more (R52, R194). -/
def Crew.moveHandler (c : Crew) (es : List Nat) (k entry : Nat) (encl : Option Nat) : Crew :=
  match c.handler with
  | none => c
  | some (h, inn) =>
    if es.contains h || (c.split h).isNone then
      { c with handler := some (entry, if inn == some k then encl else inn) }
    else c

/-- What a completed arrival makes of a divergence (R29, R30): held lanes that have not run start at their
address; otherwise the arrived lanes go on as one split after the `join`, and the record frees. -/
def finishJoin (s : State) (c : Crew) (k : Nat) (d : Divergence) : Crew :=
  let ms := c.insideSplits k
  let es := ms.map Prod.fst
  let arrived := ms.foldl (fun m e => m ||| e.2.mask) d.arrived
  let clause := (ms.head?).bind (fun e => e.2.clause)
  let entry := c.lowest es
  let c1 := c.dropSplits es
  let new : Split :=
    { pc := 0, mask := arrived, state := .ready, innermost := d.enclosing, clause := none, awaitFlag := 0,
      wait := none, gang := 0, age := s.clock, waited := 0, left := 0, away := [], groups := [] }
  match d.resume with
  | some a =>
    let x := { new with pc := a, mask := d.waiting, innermost := some k }
    let c2 := (c1.moveHandler es 16 entry none).setSplit entry x
    { c2 with divs := tabPut c2.divs k { d with resume := none, waiting := 0, arrived := arrived } }
  | none =>
    let c2 := { c1 with divs := tabDel c1.divs k }
    if arrived == 0 then c2
    else
      let after := skipFrom s c (skipFrom s c (d.joinPc + 8) + 8)
      let cl := clause.map (fun q => { q with first := false })
      (c2.moveHandler es k entry d.enclosing).setSplit entry { new with pc := after, clause := cl }

/-- What splits that merge have outstanding goes on as that of the split they become: their accesses and messages are
accesses that its lanes have made (R31, R120). With no split left at the join, the arrived lanes' own are those of
entries that hold no split any more. -/
def inheritWork (s : State) (id : Nat) (c : Crew) (es : List Nat) (entry : Nat) : State :=
  let mine : Nat → Bool := fun e => if es.isEmpty then e < 16 && (c.split e).isNone else es.contains e
  { s with
    exts := s.exts.map (fun x => if x.2.crew == id && mine x.2.split then (x.1, { x.2 with split := entry }) else x)
    amsgs := s.amsgs.map (fun a => if a.2.crew == id && mine a.2.split then (a.1, { a.2 with split := entry }) else a) }

/-- Completes every divergence of a crew whose lanes have all arrived, innermost first. -/
def settleJoins (fuel : Nat) (s : State) (id : Nat) : State :=
  match fuel, s.crew id with
  | fuel + 1, some c =>
    match c.divs.find? (fun d => c.allAtJoin d.1) with
    | none => s
    | some (k, d) =>
      let es := (c.insideSplits k).map Prod.fst
      settleJoins fuel (inheritWork (s.setCrew id (finishJoin s c k d)) id c es (c.lowest es)) id
  | _, _ => s

/-- Removes lanes of a split from the crew (R26); an entry without lanes frees, and the divergences that it
was awaited in look again. -/
def Crew.dropLanes (c : Crew) (entry : Nat) (lanes : Mask) : Crew :=
  match c.split entry with
  | none => c
  | some x =>
    let m := x.mask &&& ~~~lanes
    if m != 0 then c.setSplit entry { x with mask := m }
    else
      let c1 := c.dropSplits [entry]
      match c.handler, x.innermost with
      | some (h, inn), some k =>
        if h == entry && inn != some k then
          match (c1.insideSplits k).head? with
          | some e => { c1 with handler := some (e.1, inn) }
          | none => c1
        else c1
      | _, _ => c1

/-- `br.div` with lanes that disagree (R180, R460): a new divergence in record `k`; the taken lanes keep the
entry, the others take a free one or are held. -/
def Crew.diverge (c : Crew) (entry k : Nat) (x : Split) (t f : Mask) (target next join clock : Nat) : Crew :=
  let tk : Split :=
    { x with pc := target, mask := t, innermost := some k, clause := none, state := .ready, age := clock
             away := [], groups := [] }
  match tabFree c.splits 16 with
  | some e =>
    let d : Divergence :=
      { joinPc := join, enclosing := x.innermost, serial := false, resume := none, waiting := 0, arrived := 0 }
    let fk : Split := { x with pc := next, mask := f, innermost := some k, state := .ready, age := clock,
                               clause := x.clause.map (fun q => { q with first := false }), away := [], groups := [] }
    ({ c with divs := tabPut c.divs k d }.setSplit entry tk).setSplit e fk
  | none =>
    let d : Divergence :=
      { joinPc := join, enclosing := x.innermost, serial := true, resume := some next, waiting := f, arrived := 0 }
    { c with divs := tabPut c.divs k d }.setSplit entry tk

/-- The crew's last lane has exited (R183): it leaves its ring, counts as arrived at its gangs, and drains or
retires. -/
def lastExit (s : State) (id : Nat) : State :=
  match s.crew id with
  | none => s
  | some c =>
    let s := leaveRing s c.core id
    let s := match c.launch with
      | some l => gangRelief s l c.gangs
      | none => s
    if crewBusy s id then s.modCrew id (fun c => { c with state := .draining }) else retireCrew s id

end Sys2Proof.Machine
end

