-- ==== Sys2Proof/Machine/Control.lean ====
section
/-! DEFINITION. The meanings of the control, flag, lamp, register, interrupt and request forms, of `waitc`, of
the spawning forms and of clause headers (R177 to R195, R158 to R161). -/

namespace Sys2Proof.Machine

/-- The immediate of a 128-bit form. -/
def Env.immW (e : Env) : Word := (e.f.ext.immVal).getD 0

/-- A label operand's target (R175). -/
def Env.label (e : Env) (off : Int) : Nat := (((e.pc : Int) + off) % 2 ^ 64).toNat

/-- The split goes to a clause header; its age stands or is renewed (R62, R64). -/
def Env.goto (e : Env) (s : State) (target : Nat) (fresh : Bool) : State :=
  s.modCrew e.id (fun c => c.modSplit e.entry (fun x =>
    let y := if fresh then x.freshReady s.clock else { x with state := .ready }
    { y with pc := target, clause := none }))

/-- `nop` (R177). -/
def nopForm (_ : Env) (s : State) : Res := .done s

/-- The address after the instruction at which decoding continues. -/
def Env.next (e : Env) (s : State) : Nat := skipFrom s e.c (e.pc + e.len)

/-- `brk n` (R178): without effect while the debug enable is clear; otherwise the crew is held after it. (DEDUCED, log 47) -/
def brkForm (e : Env) (s : State) : Res :=
  if !(s.desc e.ctx).dbg then .done s
  else
    let q : QRecord :=
      { kind := 1, split := e.entry, crewIndex := e.c.index, code := e.f.srca.toNat - 960, slot := 0xFFFF,
        addr := e.next s, svc := none }
    .jump (holdCrew (advance s e.id e.entry e.len) e.id .brk q)

/-- `br` (R179). (DEDUCED, log 46) -/
def brForm (e : Env) (s : State) : Res :=
  let r := e.uniVal s e.srcA
  let s := r.2
  let taken :=
    match e.var with
    | 0 => e.lanes.any e.cond
    | 1 => e.lanes.all e.cond
    | 2 => r.1 != 0
    | _ => r.1 == 0
  let t := e.label e.immW.toInt
  if !isHeader s e.c t then .exc s .rtarget
  else
    let s := e.endUses s
    if taken then .jump (e.goto s t false) else .done s

/-- The lanes of a bound lode's range (R282). -/
def Crew.lodeLanes (c : Crew) : Mask :=
  match c.lode with
  | some (w, q) => lowMask (2 ^ w * q)
  | none => 0

/-- `br.div` (R180): lanes that disagree while a lode is bound raise `RSPLIT`, or `RNEST` without a record. -/
def brDivForm (e : Env) (s : State) : Res :=
  let t := maskOf e.acting
  let f := e.x.mask &&& ~~~t
  let target := e.label (readInt true 32 (e.immW.toNat % 2 ^ 32))
  let join := e.label (readInt true 32 (e.immW.toNat / 2 ^ 32))
  let agree := t == 0 || f == 0
  if !agree && e.c.lode.isSome then .exc s .rsplit
  else if !isHeader s e.c target || !isHeader s e.c join then .exc s .rtarget
  else if f == 0 then .jump (e.goto s target false)
  else if t == 0 then .done s
  else
    match tabFree e.c.divs 16 with
    | none => .exc s .rnest
    | some k =>
      .jump (s.modCrew e.id (fun c => c.diverge e.entry k e.x t f target (e.next s) join s.clock))

/-- `join` (R181): it waits at the join label of its innermost open divergence. -/
def joinForm (e : Env) (s : State) : Res :=
  match e.x.innermost with
  | none => .done s
  | some k =>
    match tabGet e.c.divs k, e.x.clause with
    | some d, some cl =>
      if d.joinPc != cl.base then .exc s .rnest
      else .jump (settleJoins 17 (s.modCrew e.id (fun c => c.modSplit e.entry (fun x => { x with state := .joinWait }))) e.id)
    | _, _ => .exc s .rnest

/-- `call` (R182). -/
def callForm (e : Env) (s : State) : Res :=
  let t := e.label e.immW.toInt
  if !isHeader s e.c t then .exc s .rtarget
  else .jump (e.goto (e.putS s e.dst (BitVec.ofNat 64 (e.next s))) t false)

/-- `ret` (R182). -/
def retForm (e : Env) (s : State) : Res :=
  let r := e.uniVal s e.srcA
  if !isHeader r.2 e.c r.1.toNat then .exc r.2 .rtarget
  else .jump (e.goto (e.endUses r.2) r.1.toNat false)

/-- `exit` (R183). -/
def exitForm (e : Env) (s : State) : Res :=
  let m := maskOf e.acting
  if m &&& e.c.lodeLanes != 0 then .exc s .rsplit
  else
    let s := advance s e.id e.entry e.len
    let s := settleJoins 17 (s.modCrew e.id (fun c => c.dropLanes e.entry m)) e.id
    match s.crew e.id with
    | some c => if c.live == 0 then .jump (lastExit s e.id) else .jump s
    | none => .jump s

/-- `yield.cont` (R64, R184). -/
def yieldContForm (e : Env) (s : State) : Res :=
  let t := e.label e.immW.toInt
  if !isHeader s e.c t then .exc s .rtarget
  else if e.c.flags.getLsbD e.var then .jump (e.goto (e.observe s) t true)
  else
    .jump (s.modCrew e.id (fun c => c.modSplit e.entry (fun x =>
      { x with state := .contWait, awaitFlag := e.var, pc := t, clause := none })))

/-- `flg.rd` (R185). -/
def flgRdForm (e : Env) (s : State) : Res :=
  let s := if e.c.flags == 0 then s else e.observe s
  .done (e.putS s e.dst (BitVec.ofNat 64 e.c.flags.toNat))

/-- `flg.clr` (R185). -/
def flgClrForm (e : Env) (s : State) : Res :=
  .done (s.modCrew e.id (fun c => { c with flags := c.flags &&& ~~~(BitVec.ofNat 12 (2 ^ e.var)) }))

/-- The crew is a member of its core's ring. -/
def Env.member (e : Env) (s : State) : Bool := (s.core e.core).ring.contains e.id

/-- `lamp.join` (R187). -/
def lampJoinForm (e : Env) (s : State) : Res :=
  if !e.c.single then .exc s .rsplit
  else if e.c.kernel.lamp == 0 then .exc s .rlamp
  else .done (if e.c.kernel.lamp == 2 then joinRing s e.core e.id e.ctx else s)

/-- `lamp.take` (R46, R188). -/
def lampTakeForm (e : Env) (s : State) : Res :=
  if !e.c.single then .exc s .rsplit
  else if !e.member s then .exc s .rlamp
  else if e.holds s then .done s
  else .wait s .lampWait

/-- `lamp.pass` (R46, R188). -/
def lampPassForm (e : Env) (s : State) : Res :=
  if !e.c.single then .exc s .rsplit
  else if !e.holds s then .exc s .rlamp
  else .done (passLamp (e.fenced s 2) e.core)

/-- `csrr` (R192). -/
def csrrForm (e : Env) (s : State) : Res := .done (e.putS s e.dst (e.c.csr e.var))

/-- `csrw` (R192, Table 22-6). -/
def csrwForm (e : Env) (s : State) : Res :=
  let r := e.uniVal s e.srcA
  if e.var == 2 && r.1.getLsbD 0 && e.c.kernel.scount == 0 then .exc r.2 .ropnd
  else .done ((e.endUses r.2).modCrew e.id (fun c => c.setCsr e.var r.1))

/-- A post reaches a crew (R193): in its registers, or in its save area's header. What the poster accessed up to a
timestamp is ordered before the delivery. -/
def postInterrupt (s0 : State) (id : Nat) (c0 : Crew) (ts : Nat) : State :=
  let s := raiseEngTs s0 id ts
  let c := (s.crew id).getD c0
  if c.out then
    match c.slot with
    | some n =>
      let a := slotAddr s c.ctx n + 49
      pokeNat s a 1 (rawNat s a 1 ||| 0x20)
    | none => s
  else s.setCrew id { c with uintPend := true }

/-- The crew may receive a post (R193). -/
def Crew.postable (c : Crew) : Bool :=
  match c.state with
  | .resident | .swappedOut | .halted | .saved => true
  | _ => false

/-- `uint.post` (R193). -/
def uintPostForm (e : Env) (s : State) : Res :=
  let r := e.uniVal s e.srcA
  let s := e.endUses (e.fenced r.2 5)
  let target : Option (Nat × Crew) :=
    if e.var == 1 then (s.crew e.id).map (fun c => (e.id, c))
    else
      match e.c.launch with
      | none => none
      | some l => crewOf s l r.1.toNat
  match target with
  | some (id, c) =>
    if c.postable then .done (e.putS (postInterrupt s id c (((s.crew e.id).map Crew.pts).getD 0)) e.dst 1) else .done (e.putS s e.dst 0)
  | none => .done (e.putS s e.dst 0)

/-- `uint.ret` (R194, Table 22-6); a return register that names no clause header raises `RTARGET`. -/
def uintRetForm (e : Env) (s : State) : Res :=
  if !(e.c.uintRun && e.c.handler == some (e.entry, e.x.innermost)) then .exc s .rsplit
  else
    let r := e.uniVal s (.sreg (e.c.kernel.scount - 1))
    if !isHeader r.2 e.c r.1.toNat then .exc r.2 .rtarget
    else .jump ((e.goto r.2 r.1.toNat false).modCrew e.id (fun c => { c with uintRun := false, handler := none }))

/-- The request of an `svc` as it enters the service queue (Table 17-6). -/
def Env.svcRecord (e : Env) (block code : Nat) : QRecord :=
  { kind := 0, split := e.entry, crewIndex := e.c.index, code := code % 2 ^ 16, slot := e.c.slot.getD 0xFFFF,
    addr := block,
    svc := some { ctx := e.ctx, crew := e.id, flga := e.flagPair.1, flgb := e.flagPair.2, taken := false } }

/-- `svc` (R195, Table 22-6): it waits until every earlier access of the split is performed under `.sys`. -/
def svcForm (e : Env) (s : State) : Res :=
  let a := e.uniVal s e.srcA
  let b := e.uniVal a.2 e.srcB
  let s := b.2
  let va := a.1.toNat
  if va % 64 != 0 then e.laneTrap s (0, LaneFail.of .ralign (some va))
  else
    match e.xlate s va needRW with
    | .error f => e.laneTrap s (0, f)
    | .ok x =>
      if x.e.cmode != 0 then e.laneTrap s (0, ⟨.rperm, some va, some x.pa, none, []⟩)
      else if e.fenceWaits s 10 then .wait s .stalled
      else
        let s := e.obligeFlags (e.endUses (e.fenced (noteXlate s (askCore e.core) x) 10))
        if (s.desc e.ctx).svcq == 0 then .done (dischargeBoth s e.id e.flagPair.1 e.flagPair.2)
        else
          let s := s.modCrew e.id (fun c => { c with svcOut := c.svcOut + 1 })
          .done (queuePost s e.ctx false (e.svcRecord va b.1.toNat))

/-- Uniform registers that a `waitc` ends when it completes. -/
def Env.endsAtWait (e : Env) : List Nat :=
  let reg : Bool → Opnd → List Nat := fun m o =>
    match o with
    | .sreg n => if m then [n] else []
    | _ => []
  reg e.f.lua e.srcA ++ reg e.f.lub e.srcB

/-- `waitc` (R65, R186): the check is sent to the home, and the split waits for its answer. -/
def waitcForm (e : Env) (s : State) : Res :=
  let ad := e.address s.clock false 0
  let b := e.uniVal (e.dead s ad.1) e.srcB
  let s := b.2
  let va := (ad.2.map Addr.a).getD 0
  if va % 8 != 0 then e.laneTrap s (0, LaneFail.of .ralign (some va))
  else
    match e.xlate s va needR with
    | .error f => e.laneTrap s (0, f)
    | .ok x =>
      if !(isHbm x.pa || isHost x.pa) then e.laneTrap s (0, ⟨.rperm, some va, some x.pa, none, []⟩)
      else
        let w : Wait :=
          { va := va, pa := x.pa, cls := x.e.aclass, cmp := e.var, signed := typeSigned e.ty, comparand := b.1, dst := e.dst,
            inFlight := true, recheck := false, checkedAt := s.clock, ends := e.endsAtWait }
        .jump ((noteXlate s (askCore e.core) x).modCrew e.id (fun c => c.modSplit e.entry (fun y =>
          { y with state := .monitorWait, wait := some w })))

/-- The bytes of a lane's record from a run of registers, lowest register first (R38), and whether one was
dead. -/
def Env.record (e : Env) (clock : Nat) (o : Opnd) (n lane : Nat) : List Byte × Bool :=
  let at_ : Nat → Opnd := fun i =>
    match o with
    | .vreg r => .vreg (r + i)
    | o => o
  let rs := (List.range n).map (fun i => e.read clock (at_ i) lane)
  (rs.flatMap (fun r => wordBytes r.1), rs.any Prod.snd)

/-- `spawn` (R41, R189): a failed node keeps no spawner waiting (R398). -/
def spawnForm (e : Env) (s : State) : Res :=
  match nodeOf s e.ctx e.dst with
  | none => .exc s .ropnd
  | some nd =>
    let b := getBin s e.ctx e.dst e.die
    if e.acting.isEmpty then .done (e.endUses s)
    else if nd.high ≤ b.depth && !nodeFailed s e.ctx e.dst then
      let s := setBin s e.ctx e.dst e.die { b with raised := true }
      .wait (s.modCrew e.id (fun c => c.modSplit e.entry (fun x => { x with gang := e.dst }))) .binWait
    else
      let rs := e.acting.map (e.record s.clock e.srcA (nd.recSize / 8))
      let s := e.endUses (e.fenced (e.dead s (rs.any Prod.snd)) 5)
      .done (deposit s e.ctx e.dst e.die (rs.map Prod.fst))

/-- The header line of a slot (R190): aligned, coherent, with `R` and `W`. -/
def Env.slotHeader (e : Env) (s : State) (va : Nat) : Except LaneFail Xlate :=
  if va % 128 != 0 then .error (LaneFail.of .ralign (some va))
  else
    match e.xlate s va needRW with
    | .error f => .error f
    | .ok x => coherentOnly va x

/-- The lines of a record area: address and bytes (R42). -/
def recordLines (slot size : Nat) : List (Nat × Nat) :=
  (List.range ((size + 127) / 128)).map (fun i => (slot + 128 + 128 * i, min 128 (size - 128 * i)))

/-- The pieces of a slot's record as its home finds them: by the context's translation, or at the addresses that
follow the header where that fails. -/
def recordSegs (s : State) (ask : Asker) (ctx slot hpa size : Nat) : List (Nat × Nat) :=
  (recordLines slot size).map (fun g =>
    match translate s ask ctx g.1 needR with
    | .ok x => (x.pa, g.2)
    | .error _ => (hpa + (g.1 - slot), g.2))

/-- The atomic update of a slot's header (R43): the new header, and whether it fires. -/
def slotUpdate (delta : Nat) (node : Option Nat) (h : Nat) : Nat × Bool :=
  let cnt := (h % 2 ^ 32 + delta) % 2 ^ 32
  let h := h / 2 ^ 32 * 2 ^ 32 + cnt
  let h := match node with
    | some n => (h - bitsOf h 47 40 * 2 ^ 40 + n * 2 ^ 40) ||| 2 ^ 32
    | none => h
  let fire := h.testBit 32 && cnt == 0 && !h.testBit 33
  (if fire then h ||| 2 ^ 33 else h, fire)

/-- One update of a slot by a crew's lane, and the fire that may follow (R43). -/
def Env.updateSlot (e : Env) (s : State) (x : Xlate) (delta : Nat) (node : Option Nat) : State :=
  let s := noteXlate s (askCore e.core) x
  let r := ownerAtomic s (((s.crew e.id).map Crew.pts).getD 0) x.pa 8 (fun h => some (slotUpdate delta node h).1) (some (e.who 1 x))
  let s := e.raisePts r.2.2 r.2.1
  let u := slotUpdate delta node r.1.1
  if r.1.2 then countPoisonRead s e.die true
  else if u.2 then
    let n := bitsOf u.1 47 40
    let size := ((nodeOf s e.ctx n).map Node.recSize).getD 0
    slotFire s e.ctx n (ownerDie x.pa) x.pa (recordSegs s (askCore e.core) e.ctx x.va x.pa size)
  else s

/-- The checks of a lane of `nsig`. -/
def Env.signalCheck (e : Env) (s : State) (l : Nat) : Bool × Except LaneFail Xlate :=
  let r := e.address s.clock false l
  (r.1, e.slotHeader s ((r.2.map Addr.a).getD 0))

/-- A lane of `nsig`: its slot's count falls by one, or the addresses of a refusal, which nothing that the instruction does
in another lane changes: `s0` is the state before its updates. -/
def Env.signalLane (e : Env) (s0 s : State) (x : Xlate) : State × Option (Nat × Nat) :=
  match refusal s0 x e.core true with
  | some n => (e.noteRefused s x n 8 false, some (x.va, x.pa))
  | none => (e.updateSlot s x (2 ^ 32 - 1) none, none)

/-- `nsig` (R43, R190). -/
def nsigForm (e : Env) (s : State) : Res :=
  e.withLanes s e.acting (e.signalCheck s)
    (fun ls s =>
      let s := e.endUses (if ls.isEmpty then s else e.fenced s 5)
      let r := eachLane s ls (fun t _ x => e.signalLane s t x)
      lateOr r.1 r.2)

/-- The lines of the record area of an `npub` lane translate with `W` on coherent pages (R191). -/
def Env.recordArea (e : Env) (s : State) (gs : List (Nat × Nat)) : List (Except LaneFail Xlate) :=
  gs.map (fun g =>
    match e.xlate s g.1 needW with
    | .error f => .error f
    | .ok x => coherentOnly g.1 x)

/-- Stores a lane's record (R43): the first piece that is refused ends it. -/
def Env.storeRecord (e : Env) (s0 s : State) (bs : List Byte) (xs : List (Xlate × Nat)) : State × Option (Nat × Nat) :=
  match xs with
  | [] => (s, none)
  | (x, n) :: r =>
    let s := noteXlate s (askCore e.core) x
    match refusal s0 x e.core true with
    | some m => (e.noteRefused s x m n true, some (x.va, x.pa))
    | none =>
      let p := e.storeTaken s ((s.crew e.id).map Crew.pts |>.getD 0) 0 (bs.take n) x
      e.storeRecord s0 (settle (e.raisePts p.st p.pts) e.core p.cov) (bs.drop n) r

/-- The checks of a lane of `npub`: its count, and its slot's header and its record area together (R191). -/
def Env.publishCheck (e : Env) (s : State) (nd : Node) (l : Nat) :
    Bool × Except LaneFail (Xlate × List (Xlate × Nat) × Nat) :=
  let r := e.read s.clock e.srcA l
  let n := e.read s.clock e.srcB l
  let va := r.1.toNat
  (r.2 || n.2 || (e.record s.clock e.srcC (nd.recSize / 8) l).2,
    if n.1.toNat / 2 ^ 31 != 0 then .error (LaneFail.of .ropnd none)
    else
      let gs := recordLines va nd.recSize
      match firstFail (e.slotHeader s va :: e.recordArea s gs) with
      | .ok (x :: xs) => .ok (x, xs.zip (gs.map Prod.snd), n.1.toNat)
      | .ok [] => .error (LaneFail.of .rxlate (some va))
      | .error f => .error f)

/-- A lane of `npub`: it stores its record and then updates its slot, or the addresses of a refusal. -/
def Env.publishLane (e : Env) (recs : List (Nat × List Byte)) (s0 s : State) (l : Nat)
    (t : Xlate × List (Xlate × Nat) × Nat) : State × Option (Nat × Nat) :=
  match refusal s0 t.1 e.core true with
  | some n => (e.noteRefused s t.1 n 8 false, some (t.1.va, t.1.pa))
  | none =>
    let p := e.storeRecord s0 s (((recs.find? (fun r => r.1 == l)).map Prod.snd).getD []) t.2.1
    match p.2 with
    | some q => (p.1, some q)
    | none => (e.updateSlot p.1 t.1 t.2.2 (some e.dst), none)

/-- `npub` (R43, R191). -/
def npubForm (e : Env) (s : State) : Res :=
  match nodeOf s e.ctx e.dst with
  | none => .exc s .ropnd
  | some nd =>
    e.withLanes s e.acting (e.publishCheck s nd)
      (fun ls s =>
        let recs := ls.map (fun t => (t.1, (e.record s.clock e.srcC (nd.recSize / 8) t.1).1))
        let s := e.endUses (if ls.isEmpty then s else e.fenced s 5)
        let r := eachLane s ls (e.publishLane recs s)
        lateOr r.1 r.2)

/-- Delivery of a pending interrupt at a clause header (R52, R194): `RTARGET` where the handler register names no header.
The read of that register is one like any other (R366, R383). -/
def deliver (s : State) (id entry : Nat) (c : Crew) (x : Split) : State :=
  let n := c.kernel.scount
  let r := (c.sAt (n - 2)).read
  let h := r.1.toNat
  let dead := flagIf r.2 flagDEAD
  if n == 0 || !isHeader s c h then
    takeException (s.setCrew id (c.orSticky dead)) id entry
      { exc := .rtarget, lane := 0, va := none, pa := none, opc := 0, pc := x.pc, deferred := false }
  else
    (findGranules s id entry c [(false, n - 2, 0)]).modCrew id (fun c =>
      let c := { c with uintPend := false, uintRun := true, handler := some (entry, x.innermost), pts := max c.pts c.engTs }
      ((c.orSticky dead).writeS (n - 1) (BitVec.ofNat 64 x.pc)).setSplit entry { x with pc := h, clause := none, state := .ready })

/-- A split at a clause header (R158 to R161, R52, R62): an interrupt is delivered first; then the clause starts
unless a flag that `WAIT` names has an obligation. -/
def passHeader (h : Header) (id entry : Nat) (c : Crew) (x : Split) (s : State) : State :=
  let trap : Exc → State := fun e =>
    takeException s id entry { exc := e, lane := 0, va := none, pa := none, opc := 0, pc := x.pc, deferred := false }
  match checkWord (.clauseHeader h) with
  | some e => trap e
  | none =>
    if c.uintEn && c.uintPend && !c.uintRun then deliver s id entry c x
    else if c.waits h.wait then waitHere s id entry .stalled
    else
      let c := if h.wait == 0 then c else { c with pts := max c.pts c.engTs }
      let y : Split := { x with
        pc := x.pc + 8, state := .ready, age := if h.yld then s.clock else x.age,
        clause := some (headerClause h x.pc (x.pc + 4 * h.clen.toNat) true) }
      s.setCrew id (c.setSplit entry y)

/-- A clause header for the acting split. -/
def execClauseHeader (h : Header) (s : State) : Host.Outcome State Fault Refusal :=
  match s.actor with
  | .split id entry =>
    match s.crew id with
    | some c =>
      match c.split entry with
      | some x => .next (passHeader h id entry c x s)
      | none => .fault .noActor
    | none => .fault .noActor
  | _ => .fault .noActor

/-- The outstanding work of a Draining crew has completed (R183). -/
def execDrainEnd (crew : Nat) (s : State) : Host.Outcome State Fault Refusal :=
  match s.crew crew with
  | some c =>
    if c.state == .draining && !crewBusy s crew then .next (retireCrew s crew) else .next s
  | none => .next s

def execNop (f : Fields) (s : State) : Host.Outcome State Fault Refusal := issue (.nop f) nopForm s
def execBrk (f : Fields) (s : State) : Host.Outcome State Fault Refusal := issue (.brk f) brkForm s
def execBr (f : Fields) (s : State) : Host.Outcome State Fault Refusal := issue (.br f) brForm s
def execBrDiv (f : Fields) (s : State) : Host.Outcome State Fault Refusal := issue (.brDiv f) brDivForm s
def execJoin (f : Fields) (s : State) : Host.Outcome State Fault Refusal := issue (.join f) joinForm s
def execCall (f : Fields) (s : State) : Host.Outcome State Fault Refusal := issue (.call f) callForm s
def execRet (f : Fields) (s : State) : Host.Outcome State Fault Refusal := issue (.ret f) retForm s
def execExit (f : Fields) (s : State) : Host.Outcome State Fault Refusal := issue (.exit f) exitForm s
def execYieldCont (f : Fields) (s : State) : Host.Outcome State Fault Refusal := issue (.yieldCont f) yieldContForm s
def execFlgRd (f : Fields) (s : State) : Host.Outcome State Fault Refusal := issue (.flgRd f) flgRdForm s
def execFlgClr (f : Fields) (s : State) : Host.Outcome State Fault Refusal := issue (.flgClr f) flgClrForm s
def execLampJoin (f : Fields) (s : State) : Host.Outcome State Fault Refusal := issue (.lampJoin f) lampJoinForm s
def execLampTake (f : Fields) (s : State) : Host.Outcome State Fault Refusal := issue (.lampTake f) lampTakeForm s
def execLampPass (f : Fields) (s : State) : Host.Outcome State Fault Refusal := issue (.lampPass f) lampPassForm s
def execCsrr (f : Fields) (s : State) : Host.Outcome State Fault Refusal := issue (.csrr f) csrrForm s
def execCsrw (f : Fields) (s : State) : Host.Outcome State Fault Refusal := issue (.csrw f) csrwForm s
def execUintPost (f : Fields) (s : State) : Host.Outcome State Fault Refusal := issue (.uintPost f) uintPostForm s
def execUintRet (f : Fields) (s : State) : Host.Outcome State Fault Refusal := issue (.uintRet f) uintRetForm s
def execSvc (f : Fields) (s : State) : Host.Outcome State Fault Refusal := issue (.svc f) svcForm s
def execWaitc (f : Fields) (s : State) : Host.Outcome State Fault Refusal := issue (.waitc f) waitcForm s
def execSpawn (f : Fields) (s : State) : Host.Outcome State Fault Refusal := issue (.spawn f) spawnForm s
def execNsig (f : Fields) (s : State) : Host.Outcome State Fault Refusal := issue (.nsig f) nsigForm s
def execNpub (f : Fields) (s : State) : Host.Outcome State Fault Refusal := issue (.npub f) npubForm s

end Sys2Proof.Machine
end

