-- ==== Sys2Proof/Machine/Integer.lean ====
section
/-! DEFINITION. The meanings of the integer, packed and shape-record forms (R196 to R210). -/

namespace Sys2Proof.Machine

/-- The result of one lane: an n-bit value, its flags, and whether a source was dead. -/
structure LaneOut where
  lane : Nat
  v : Nat
  flags : Flags
  dead : Bool

/-- Flags of a list of lane results, with `DEAD` for dead reads (R383). -/
def laneFlags (rs : List LaneOut) : Flags := rs.foldl (fun f r => f ||| r.flags ||| flagIf r.dead flagDEAD) 0

/-- Writes vector results under the view, after the sources' values have ended (R80, R197, R198). -/
def Env.finishV (e : Env) (s : State) (signed : Bool) (n : Nat) (rs : List LaneOut) : Res :=
  let s := e.flag (e.endUses s) (laneFlags rs)
  .done (s.modCrew e.id (fun c => rs.foldl (fun c r =>
    c.setV e.dst r.lane (e.wrote (c.vAt e.dst r.lane) (e.result signed n (c.vAt e.dst r.lane) r.v))) c))

/-- Writes a uniform result in the same way. -/
def Env.finishS (e : Env) (s : State) (signed : Bool) (n : Nat) (r : LaneOut) : Res :=
  let s := e.flag (e.endUses s) (laneFlags [r])
  .done (s.modCrew e.id (fun c => c.setS e.dst (e.wrote (c.sAt e.dst) (e.result signed n (c.sAt e.dst) r.v))))

/-- Writes a uniform register whole, whatever the view (R206, R223). -/
def Env.finishWhole (e : Env) (s : State) (fl : Flags) (w : Word) : Res :=
  .done (e.putS (e.flag (e.endUses s) fl) e.dst w)

/-- Writes a predicate bit in each lane that acted (R206). -/
def Env.finishP (e : Env) (s : State) (rs : List LaneOut) : Res :=
  let s := e.flag (e.endUses s) (laneFlags rs)
  .done (e.putP s e.dst (rs.map (fun r => (r.lane, r.v != 0))))

/-- The integer operands of a lane (R197, R198). -/
def Env.intArgs (e : Env) (clock lane : Nat) : IntArgs × Bool :=
  let a := e.read clock e.srcA lane
  let b := e.read clock e.srcB lane
  let c := e.read clock e.srcC lane
  (⟨typeSigned e.ty, e.bits, e.elemOf e.ty e.srcA a.1, e.elemOf e.ty e.srcB b.1, e.elemOf e.ty e.srcC c.1,
    e.wholeOf e.srcB b.1, e.wholeOf e.srcC c.1⟩, a.2 || b.2 || c.2)

/-- One lane of an operation whose exact result is narrowed once (R135, R200). -/
def Env.intLane (e : Env) (clock : Nat) (op : IntArgs → Int) (lane : Nat) : LaneOut :=
  let a := e.intArgs clock lane
  let y := narrow e.f.sat (typeSigned e.ty) e.bits (op a.1)
  ⟨lane, y.1, flagIf y.2 flagSAT, a.2⟩

/-- The pseudocode of R200. -/
def intForm (op : IntArgs → Int) (e : Env) (s : State) : Res :=
  if e.form.uniform then e.finishS s (typeSigned e.ty) e.bits (e.intLane s.clock op 0)
  else e.finishV s (typeSigned e.ty) e.bits (e.acting.map (e.intLane s.clock op))

/-- `divs` works on the whole 64-bit value of source A; a view takes the sub-element, zero-extended, and writes
the low half of the result there (R204, DEDUCED log 13). -/
def divForm (e : Env) (s : State) : Res :=
  let lane : Nat → LaneOut := fun l =>
    let a := e.read s.clock e.srcA l
    let b := e.read s.clock e.srcB l
    let w := divSteps (e.var + 1) (e.elemOf e.ty e.srcB b.1) (BitVec.ofNat 64 (e.wholeOf e.srcA a.1))
    ⟨l, w.toNat, 0, a.2 || b.2⟩
  let n := if e.view.isSome then e.bits else 64
  if e.form.uniform then e.finishS s false n (lane 0) else e.finishV s false n (e.acting.map lane)

/-- `scmp` (R206): the result is written whole. -/
def scmpForm (e : Env) (s : State) : Res :=
  let a := e.intArgs s.clock 0
  e.finishWhole s (flagIf a.2 flagDEAD) (BitVec.ofNat 64 (bitNat (compareInt e.var a.1)))

/-- `vcmp` (R206). -/
def vcmpForm (e : Env) (s : State) : Res :=
  e.finishP s (e.acting.map (fun l =>
    let a := e.intArgs s.clock l
    ⟨l, bitNat (compareInt e.var a.1), 0, a.2⟩))

/-- `vsel` (R206): it acts in every lane of the mask, and reads both sources. -/
def vselForm (e : Env) (s : State) : Res :=
  e.finishV s (typeSigned e.ty) e.bits (e.lanes.map (fun l =>
    let a := e.intArgs s.clock l
    ⟨l, if e.cond l then a.1.a else a.1.b, 0, a.2⟩))

/-- `vplog` (R207). -/
def vplogForm (e : Env) (s : State) : Res :=
  let a := e.c.pAt e.f.srca.toNat
  let b := e.c.pAt e.f.srcb.toNat
  let op : Bool → Bool → Bool := fun x y =>
    match e.var with
    | 0 => x && y
    | 1 => x || y
    | 2 => x != y
    | 3 => x && !y
    | _ => !x
  .done (e.putP s e.dst (e.acting.map (fun l => (l, op (a.getLsbD l) (b.getLsbD l)))))

/-- A packed form: whole registers, with constants in every element (R208). -/
def packForm (op : Word → Word → Word → Word × Bool) (e : Env) (s : State) : Res :=
  e.finishV s false 64 (e.acting.map (fun l =>
    let a := e.read s.clock e.srcA l
    let b := e.read s.clock e.srcB l
    let c := e.read s.clock e.srcC l
    let y := op (e.srcA.spread true e.ty a.1) (e.srcB.spread true e.ty b.1) (e.srcC.spread true e.ty c.1)
    ⟨l, y.1.toNat, flagIf y.2 flagSAT, a.2 || b.2 || c.2⟩))

/-- A packed form of two elements. -/
def pack2 (op : Int → Int → Int) (e : Env) (s : State) : Res :=
  packForm (fun a b _ => packedMap e.f.sat (typeSigned e.ty) e.bits op a b) e s

/-- Coordinates of a shape form in a lane: beyond its count they read 0 (R209). -/
def Env.coords (e : Env) (lane : Nat) : List Int × Bool :=
  let rs := (List.range e.var).map (fun i =>
    let o : Opnd := if e.form.uniform then .sreg (e.f.srca.toNat + i) else .vreg (e.f.srca.toNat + i)
    e.read 0 o lane)
  (rs.map (fun r => coordOf r.1), rs.any Prod.snd)

/-- A form on a shape record that must be one an address can be formed through (Table 22-7). -/
def shapeForm (k : Shape → Res) (e : Env) (s : State) : Res :=
  let t := e.c.tAt e.f.srcb.toNat
  if shpBad t then .exc s .ropnd else k t

/-- `sadrt` and `vadrt` (R210). -/
def adrtForm (e : Env) (s : State) : Res :=
  shapeForm (fun t =>
    let lane : Nat → LaneOut := fun l =>
      let x := e.coords l
      ⟨l, (shpAdrt t x.1).toNat, 0, x.2⟩
    if e.form.uniform then e.finishS s false 64 (lane 0) else e.finishV s false 64 (e.acting.map lane)) e s

/-- `vinrt` (R209). -/
def vinrtForm (e : Env) (s : State) : Res :=
  shapeForm (fun t => e.finishP s (e.acting.map (fun l =>
    let x := e.coords l
    ⟨l, bitNat (shpInside t x.1), 0, x.2⟩))) e s

/-- `sshpr` (R209). -/
def sshprForm (e : Env) (s : State) : Res :=
  e.finishWhole s 0 (BitVec.ofNat 64 ((e.c.tAt e.f.srcb.toNat).toNat / 2 ^ (64 * e.var)))

/-- Writes a shape register from its value and a uniform source (`sshpw`, `sshpb`). -/
def shapeWrite (op : Shape → Word → Shape) (e : Env) (s : State) : Res :=
  let a := e.uniVal s e.srcA
  let s := e.endUses a.2
  .done (s.modCrew e.id (fun c => c.setT e.dst (op (c.tAt e.dst) a.1)))

/-- `sadd` (R202). -/
def execSadd (f : Fields) (s : State) : Host.Outcome State Fault Refusal :=
  issue (.sadd f) (intForm (fun x => x.ia + x.ib)) s

/-- `ssub` (R202). -/
def execSsub (f : Fields) (s : State) : Host.Outcome State Fault Refusal :=
  issue (.ssub f) (intForm (fun x => x.ia - x.ib)) s

/-- `smul` (R202). -/
def execSmul (f : Fields) (s : State) : Host.Outcome State Fault Refusal :=
  issue (.smul f) (intForm (fun x => x.ia * x.ib)) s

/-- `smulh` (R202). -/
def execSmulh (f : Fields) (s : State) : Host.Outcome State Fault Refusal :=
  issue (.smulh f) (intForm intMulh) s

/-- `smad` (R202). -/
def execSmad (f : Fields) (s : State) : Host.Outcome State Fault Refusal :=
  issue (.smad f) (intForm (fun x => x.ia * x.ib + x.ic)) s

/-- `sdivs` (R204). -/
def execSdivs (f : Fields) (s : State) : Host.Outcome State Fault Refusal :=
  issue (.sdivs f) divForm s

/-- `sand` (R202). -/
def execSand (f : Fields) (s : State) : Host.Outcome State Fault Refusal :=
  issue (.sand f) (intForm (fun x => ((x.a &&& x.b) : Nat))) s

/-- `sor` (R202). -/
def execSor (f : Fields) (s : State) : Host.Outcome State Fault Refusal :=
  issue (.sor f) (intForm (fun x => ((x.a ||| x.b) : Nat))) s

/-- `sxor` (R202). -/
def execSxor (f : Fields) (s : State) : Host.Outcome State Fault Refusal :=
  issue (.sxor f) (intForm (fun x => ((x.a ^^^ x.b) : Nat))) s

/-- `sandn` (R202). -/
def execSandn (f : Fields) (s : State) : Host.Outcome State Fault Refusal :=
  issue (.sandn f) (intForm intAndn) s

/-- `sshl` (R203). -/
def execSshl (f : Fields) (s : State) : Host.Outcome State Fault Refusal :=
  issue (.sshl f) (intForm intShl) s

/-- `sshr` (R203). -/
def execSshr (f : Fields) (s : State) : Host.Outcome State Fault Refusal :=
  issue (.sshr f) (intForm intShr) s

/-- `srol` (R203). -/
def execSrol (f : Fields) (s : State) : Host.Outcome State Fault Refusal :=
  issue (.srol f) (intForm intRol) s

/-- `sror` (R203). -/
def execSror (f : Fields) (s : State) : Host.Outcome State Fault Refusal :=
  issue (.sror f) (intForm intRor) s

/-- `smov` (R202). -/
def execSmov (f : Fields) (s : State) : Host.Outcome State Fault Refusal :=
  issue (.smov f) (intForm (fun x => x.b)) s

/-- `sbfx` (R205). -/
def execSbfx (f : Fields) (s : State) : Host.Outcome State Fault Refusal :=
  issue (.sbfx f) (intForm intBfx) s

/-- `sbfi` (R205). -/
def execSbfi (f : Fields) (s : State) : Host.Outcome State Fault Refusal :=
  issue (.sbfi f) (intForm intBfi) s

/-- `spopc` (R205). -/
def execSpopc (f : Fields) (s : State) : Host.Outcome State Fault Refusal :=
  issue (.spopc f) (intForm (fun x => popCount x.n x.a)) s

/-- `sclz` (R205). -/
def execSclz (f : Fields) (s : State) : Host.Outcome State Fault Refusal :=
  issue (.sclz f) (intForm intClz) s

/-- `sctz` (R205). -/
def execSctz (f : Fields) (s : State) : Host.Outcome State Fault Refusal :=
  issue (.sctz f) (intForm (fun x => trailZeros x.n x.a)) s

/-- `sbrev` (R205). -/
def execSbrev (f : Fields) (s : State) : Host.Outcome State Fault Refusal :=
  issue (.sbrev f) (intForm (fun x => revBits x.n x.a)) s

/-- `smin` (R205). -/
def execSmin (f : Fields) (s : State) : Host.Outcome State Fault Refusal :=
  issue (.smin f) (intForm (fun x => min x.ia x.ib)) s

/-- `smax` (R205). -/
def execSmax (f : Fields) (s : State) : Host.Outcome State Fault Refusal :=
  issue (.smax f) (intForm (fun x => max x.ia x.ib)) s

/-- `sabs` (R205). -/
def execSabs (f : Fields) (s : State) : Host.Outcome State Fault Refusal :=
  issue (.sabs f) (intForm (fun x => x.ia.natAbs)) s

/-- `scmp` (R206). -/
def execScmp (f : Fields) (s : State) : Host.Outcome State Fault Refusal :=
  issue (.scmp f) scmpForm s

/-- `ssel` (R205). -/
def execSsel (f : Fields) (s : State) : Host.Outcome State Fault Refusal :=
  issue (.ssel f) (intForm (fun x => if x.c != 0 then x.ia else x.ib)) s

/-- `vadd` (R202). -/
def execVadd (f : Fields) (s : State) : Host.Outcome State Fault Refusal :=
  issue (.vadd f) (intForm (fun x => x.ia + x.ib)) s

/-- `vsub` (R202). -/
def execVsub (f : Fields) (s : State) : Host.Outcome State Fault Refusal :=
  issue (.vsub f) (intForm (fun x => x.ia - x.ib)) s

/-- `vmul` (R202). -/
def execVmul (f : Fields) (s : State) : Host.Outcome State Fault Refusal :=
  issue (.vmul f) (intForm (fun x => x.ia * x.ib)) s

/-- `vmulh` (R202). -/
def execVmulh (f : Fields) (s : State) : Host.Outcome State Fault Refusal :=
  issue (.vmulh f) (intForm intMulh) s

/-- `vmad` (R202). -/
def execVmad (f : Fields) (s : State) : Host.Outcome State Fault Refusal :=
  issue (.vmad f) (intForm (fun x => x.ia * x.ib + x.ic)) s

/-- `vdivs` (R204). -/
def execVdivs (f : Fields) (s : State) : Host.Outcome State Fault Refusal :=
  issue (.vdivs f) divForm s

/-- `vand` (R202). -/
def execVand (f : Fields) (s : State) : Host.Outcome State Fault Refusal :=
  issue (.vand f) (intForm (fun x => ((x.a &&& x.b) : Nat))) s

/-- `vor` (R202). -/
def execVor (f : Fields) (s : State) : Host.Outcome State Fault Refusal :=
  issue (.vor f) (intForm (fun x => ((x.a ||| x.b) : Nat))) s

/-- `vxor` (R202). -/
def execVxor (f : Fields) (s : State) : Host.Outcome State Fault Refusal :=
  issue (.vxor f) (intForm (fun x => ((x.a ^^^ x.b) : Nat))) s

/-- `vandn` (R202). -/
def execVandn (f : Fields) (s : State) : Host.Outcome State Fault Refusal :=
  issue (.vandn f) (intForm intAndn) s

/-- `vshl` (R203). -/
def execVshl (f : Fields) (s : State) : Host.Outcome State Fault Refusal :=
  issue (.vshl f) (intForm intShl) s

/-- `vshr` (R203). -/
def execVshr (f : Fields) (s : State) : Host.Outcome State Fault Refusal :=
  issue (.vshr f) (intForm intShr) s

/-- `vrol` (R203). -/
def execVrol (f : Fields) (s : State) : Host.Outcome State Fault Refusal :=
  issue (.vrol f) (intForm intRol) s

/-- `vror` (R203). -/
def execVror (f : Fields) (s : State) : Host.Outcome State Fault Refusal :=
  issue (.vror f) (intForm intRor) s

/-- `vmov` (R202). -/
def execVmov (f : Fields) (s : State) : Host.Outcome State Fault Refusal :=
  issue (.vmov f) (intForm (fun x => x.b)) s

/-- `vbfx` (R205). -/
def execVbfx (f : Fields) (s : State) : Host.Outcome State Fault Refusal :=
  issue (.vbfx f) (intForm intBfx) s

/-- `vbfi` (R205). -/
def execVbfi (f : Fields) (s : State) : Host.Outcome State Fault Refusal :=
  issue (.vbfi f) (intForm intBfi) s

/-- `vpopc` (R205). -/
def execVpopc (f : Fields) (s : State) : Host.Outcome State Fault Refusal :=
  issue (.vpopc f) (intForm (fun x => popCount x.n x.a)) s

/-- `vclz` (R205). -/
def execVclz (f : Fields) (s : State) : Host.Outcome State Fault Refusal :=
  issue (.vclz f) (intForm intClz) s

/-- `vctz` (R205). -/
def execVctz (f : Fields) (s : State) : Host.Outcome State Fault Refusal :=
  issue (.vctz f) (intForm (fun x => trailZeros x.n x.a)) s

/-- `vbrev` (R205). -/
def execVbrev (f : Fields) (s : State) : Host.Outcome State Fault Refusal :=
  issue (.vbrev f) (intForm (fun x => revBits x.n x.a)) s

/-- `vmin` (R205). -/
def execVmin (f : Fields) (s : State) : Host.Outcome State Fault Refusal :=
  issue (.vmin f) (intForm (fun x => min x.ia x.ib)) s

/-- `vmax` (R205). -/
def execVmax (f : Fields) (s : State) : Host.Outcome State Fault Refusal :=
  issue (.vmax f) (intForm (fun x => max x.ia x.ib)) s

/-- `vabs` (R205). -/
def execVabs (f : Fields) (s : State) : Host.Outcome State Fault Refusal :=
  issue (.vabs f) (intForm (fun x => x.ia.natAbs)) s

/-- `vsel` (R206). -/
def execVsel (f : Fields) (s : State) : Host.Outcome State Fault Refusal :=
  issue (.vsel f) vselForm s

/-- `vcmp` (R206). -/
def execVcmp (f : Fields) (s : State) : Host.Outcome State Fault Refusal :=
  issue (.vcmp f) vcmpForm s

/-- `vplog` (R207). -/
def execVplog (f : Fields) (s : State) : Host.Outcome State Fault Refusal :=
  issue (.vplog f) vplogForm s

/-- `vpadd` (R208). -/
def execVpadd (f : Fields) (s : State) : Host.Outcome State Fault Refusal :=
  issue (.vpadd f) (pack2 (fun a b => a + b)) s

/-- `vpsub` (R208). -/
def execVpsub (f : Fields) (s : State) : Host.Outcome State Fault Refusal :=
  issue (.vpsub f) (pack2 (fun a b => a - b)) s

/-- `vpmul` (R208). -/
def execVpmul (f : Fields) (s : State) : Host.Outcome State Fault Refusal :=
  issue (.vpmul f) (pack2 (fun a b => a * b)) s

/-- `vpmin` (R208). -/
def execVpmin (f : Fields) (s : State) : Host.Outcome State Fault Refusal :=
  issue (.vpmin f) (pack2 min) s

/-- `vpmax` (R208). -/
def execVpmax (f : Fields) (s : State) : Host.Outcome State Fault Refusal :=
  issue (.vpmax f) (pack2 max) s

/-- `vpavg` (R208). -/
def execVpavg (f : Fields) (s : State) : Host.Outcome State Fault Refusal :=
  issue (.vpavg f) (pack2 avgInt) s

/-- `vpabd` (R208). -/
def execVpabd (f : Fields) (s : State) : Host.Outcome State Fault Refusal :=
  issue (.vpabd f) (fun e => packForm (fun a b _ => packedAbd (typeSigned e.ty) e.bits a b) e) s

/-- `vpshl` (R208). -/
def execVpshl (f : Fields) (s : State) : Host.Outcome State Fault Refusal :=
  issue (.vpshl f) (fun e => packForm (fun a b _ => packedShift true e.f.sat (typeSigned e.ty) e.bits a b) e) s

/-- `vpshr` (R208). -/
def execVpshr (f : Fields) (s : State) : Host.Outcome State Fault Refusal :=
  issue (.vpshr f) (fun e => packForm (fun a b _ => packedShift false false (typeSigned e.ty) e.bits a b) e) s

/-- `vpdot` (R208). -/
def execVpdot (f : Fields) (s : State) : Host.Outcome State Fault Refusal :=
  issue (.vpdot f) (fun e => packForm (packedDot e.f.sat (typeSigned e.ty)) e) s

/-- `vpack` (R208). -/
def execVpack (f : Fields) (s : State) : Host.Outcome State Fault Refusal :=
  issue (.vpack f) (fun e => packForm (fun a b _ => packedPack e.f.sat (typeSigned e.ty) e.bits a b) e) s

/-- `vunpk` (R208). -/
def execVunpk (f : Fields) (s : State) : Host.Outcome State Fault Refusal :=
  issue (.vunpk f) (fun e => packForm (fun a _ _ => (packedUnpack (typeSigned e.ty) e.bits e.var a, false)) e) s

/-- `sadrt` (R210). -/
def execSadrt (f : Fields) (s : State) : Host.Outcome State Fault Refusal :=
  issue (.sadrt f) adrtForm s

/-- `sshpr` (R209). -/
def execSshpr (f : Fields) (s : State) : Host.Outcome State Fault Refusal :=
  issue (.sshpr f) sshprForm s

/-- `sshpw` (R209). -/
def execSshpw (f : Fields) (s : State) : Host.Outcome State Fault Refusal :=
  issue (.sshpw f) (fun e => shapeWrite (fun t w => shpSetPart t e.var w) e) s

/-- `sshpb` (R209). -/
def execSshpb (f : Fields) (s : State) : Host.Outcome State Fault Refusal :=
  issue (.sshpb f) (shapeWrite shpAddBase) s

/-- `vadrt` (R210). -/
def execVadrt (f : Fields) (s : State) : Host.Outcome State Fault Refusal :=
  issue (.vadrt f) adrtForm s

/-- `vinrt` (R209). -/
def execVinrt (f : Fields) (s : State) : Host.Outcome State Fault Refusal :=
  issue (.vinrt f) vinrtForm s

end Sys2Proof.Machine
end

