-- ==== Sys2Proof/Machine/Special.lean ====
section
/-! DEFINITION. The estimates and special functions of Table 11-4 (R226, R227): the exact function value is
held as a natural times a power of two with a note that it lies strictly above it, which is enough for one
right rounding; where the manual gives only a bound, the implementation's estimate is taken if it keeps it. -/

namespace Sys2Proof

/-- A positive real: `m` × 2^`e`, exactly when `exact`, otherwise strictly between that and (m + 1) × 2^e. -/
structure Approx where
  m : Nat
  e : Int
  exact : Bool
  deriving DecidableEq, Repr

/-- The value to round: a strict excess is half a unit below the last place of a wide quotient. -/
def Approx.val (x : Approx) (neg : Bool) : FVal :=
  if x.exact then .fin neg x.m x.e else .fin neg (2 * x.m + 1) (x.e - 1)

/-- Fraction bits of the fixed-point work. -/
def fixBits : Nat := 320

/-- 1 in fixed point. -/
def fixOne : Nat := 2 ^ fixBits

/-- ⌊π × 2^320⌋. -/
def fixPi : Nat :=
  6710401180212168915155840974220003240804194089427148950727106424351713218671805380099500388914039

/-- ⌊ln 2 × 2^320⌋. -/
def fixLn2 : Nat :=
  1480553391661173448385607439722553250922680800745876974795605978609098082859138712941075737848984

def fixMul (a b : Nat) : Nat := a * b / fixOne

/-- exp(x) for 0 ≤ x < 1 in fixed point, by its power series. -/
def fixExp (x : Nat) : Nat :=
  ((List.range 90).foldl (fun (st : Nat × Nat) k =>
    let t := fixMul st.2 x / (k + 1)
    (st.1 + t, t)) (fixOne, fixOne)).1

/-- ln(y) for 1 ≤ y < 2 in fixed point: 2 artanh((y − 1) / (y + 1)). -/
def fixLn (y : Nat) : Nat :=
  let z := (y - fixOne) * fixOne / (y + fixOne)
  let z2 := fixMul z z
  2 * ((List.range 110).foldl (fun (st : Nat × Nat) k =>
    (st.1 + st.2 / (2 * k + 1), fixMul st.2 z2)) (0, z)).1

/-- sin(π t) for 0 ≤ t ≤ 1/2 in fixed point. -/
def fixSinPi (t : Nat) : Nat :=
  let x := fixMul t fixPi
  let x2 := fixMul x x
  let r := (List.range 50).foldl (fun (st : Nat × Nat × Nat) k =>
    let p := if k % 2 == 0 then (st.1 + st.2.2, st.2.1) else (st.1, st.2.1 + st.2.2)
    (p.1, p.2, fixMul st.2.2 x2 / ((2 * k + 2) * (2 * k + 3)))) (0, 0, x)
  r.1 - r.2.1

/-- m × 2^e in fixed point, truncated. -/
def toFix (m : Nat) (e : Int) : Nat :=
  if 0 ≤ e + fixBits then m * 2 ^ (e + fixBits).toNat else m / 2 ^ (-(e + fixBits)).toNat

def fixApprox (v : Nat) (k : Int) : Approx := ⟨v, k - fixBits, false⟩

/-- 1/a of a nonzero finite a: exact for a power of two. -/
def recipApprox (m : Nat) (e : Int) : Approx :=
  if m == 2 ^ Nat.log2 m then ⟨1, -(ilog2 m e), true⟩
  else
    let k := Nat.log2 m + 200
    ⟨2 ^ k / m, -(k : Int) - e, false⟩

/-- 1/√a of a positive finite a, exact where a is an even power of two. -/
def rsqrtApprox (m : Nat) (e : Int) : Approx :=
  let m' := if e % 2 == 0 then m else 2 * m
  let e' := if e % 2 == 0 then e else e - 1
  if m' == 2 ^ Nat.log2 m' && Nat.log2 m' % 2 == 0 then ⟨1, -((Nat.log2 m' : Int) / 2) - e' / 2, true⟩
  else
    let k := Nat.log2 m' + 200
    ⟨Nat.sqrt (2 ^ (2 * k) / m'), -(k : Int) - e' / 2, false⟩

/-- 2^a of a finite a: exact for an integral a; beyond ±2^20 the value is one that overflows or vanishes in
every format. -/
def exp2Approx (neg : Bool) (m : Nat) (e : Int) : Approx :=
  if m == 0 then ⟨1, 0, true⟩
  else if 20 < ilog2 m e then ⟨1, if neg then -(2 ^ 20) else 2 ^ 20, false⟩
  else if 0 ≤ e then
    let x : Int := (m * 2 ^ e.toNat : Nat)
    ⟨1, if neg then -x else x, true⟩
  else
    let fx := toFix m e
    let whole : Int := (fx / fixOne : Nat)
    let frac := fx % fixOne
    if frac == 0 && m % 2 ^ (-e).toNat == 0 then ⟨1, if neg then -whole else whole, true⟩
    else if neg then
      -- 2^-(whole + frac) = 2^(1 - frac) × 2^(-whole - 1)
      fixApprox (fixExp (fixMul (fixOne - frac) fixLn2)) (-whole - 1)
    else fixApprox (fixExp (fixMul frac fixLn2)) whole

/-- log2 of a positive finite a: sign and magnitude, exact for a power of two. -/
def log2Approx (m : Nat) (e : Int) : Bool × Approx :=
  let lg := ilog2 m e
  if m == 2 ^ Nat.log2 m then (lg < 0, ⟨lg.natAbs, 0, true⟩)
  else
    let y := toFix m (-(Nat.log2 m : Int))
    let f := fixLn y * fixOne / fixLn2
    let x : Int := lg * (fixOne : Nat) + (f : Nat)
    (x < 0, fixApprox x.natAbs 0)

/-- sin(π a) of a positive finite a that is not integral: sign and magnitude; exactly 1 at odd halves. -/
def sinPiApprox (m : Nat) (e : Int) : Bool × Approx :=
  -- a mod 2 in fixed point: e < 0 since a is not integral
  let r := toFix (m % 2 ^ ((-e).toNat + 1)) e
  let neg := fixOne ≤ r
  let r := r % fixOne
  let t := if 2 * r ≤ fixOne then r else fixOne - r
  if 2 * t == fixOne then (neg, ⟨1, 0, true⟩) else (neg, fixApprox (fixSinPi t) 0)

/-- tanh of a positive finite a. -/
def tanhApprox (m : Nat) (e : Int) : Approx :=
  if 8 ≤ ilog2 m e then ⟨fixOne - 1, -(fixBits : Int), false⟩
  else
    -- e^(-2a) = 2^(-2a / ln 2)
    let x := 2 * toFix m e * fixOne / fixLn2
    let whole := x / fixOne
    let frac := x % fixOne
    let u := fixExp (fixMul (fixOne - frac) fixLn2) / 2 ^ (whole + 1)
    fixApprox ((fixOne - u) * fixOne / (fixOne + u)) 0

/-- |c − x| ≤ 2^b for a finite c and a value x held with its strict excess: tested with one unit of x to
spare. -/
def withinAbs (c : FVal) (neg : Bool) (x : Approx) (b : Int) : Bool :=
  match c with
  | .fin n m e =>
    let k := min (min e x.e) b
    let cv : Int := (m * 2 ^ (e - k).toNat : Nat)
    let xv : Int := (x.m * 2 ^ (x.e - k).toNat : Nat)
    let u : Int := (2 ^ (x.e - k).toNat : Nat)
    let d := (if n then -cv else cv) - (if neg then -xv else xv)
    (d.natAbs : Int) + (if x.exact then 0 else u) ≤ (2 ^ (b - k).toNat : Nat)
  | _ => false

/-- What bounds an estimate (Table 11-4): a relative error of 2^−12 from the reciprocal or the reciprocal square
root of m × 2^e, two units in the last place, or an absolute error of 2^−22. -/
inductive Bound where
  | recip12 (m : Nat) (e : Int)
  | rsqrt12 (m : Nat) (e : Int)
  | ulp2
  | abs22
  deriving DecidableEq, Repr

/-- (1 − 2^−12)^k ≤ p × 2^e ≤ (1 + 2^−12)^k. -/
def nearOne (k p : Nat) (e : Int) : Bool :=
  !gtScaled (4095 ^ k) 0 p (e + 12 * k) && !gtScaled p (e + 12 * k) (4097 ^ k) 0

/-- The estimate c of a value x keeps the bound (Table 11-4). The relative error of c from 1/a is that of c·a
from 1, and from 1/√a it is at most 2^−12 exactly when c²·a lies between (1 − 2^−12)² and (1 + 2^−12)². -/
def Bound.keeps (b : Bound) (f : FFmt) (c : FVal) (neg : Bool) (x : Approx) : Bool :=
  match b with
  | .recip12 m e =>
    match c with
    | .fin n cm ce => n == neg && nearOne 1 (cm * m) (ce + e)
    | _ => false
  | .rsqrt12 m e =>
    match c with
    | .fin n cm ce => n == neg && nearOne 2 (cm * cm * m) (2 * ce + e)
    | _ => false
  | .ulp2 => withinAbs c neg x (max (ilog2 x.m x.e) (1 - f.bias) - f.mbits + 1)
  | .abs22 => withinAbs c neg x (-22)

/-- The result of an estimate form for a value that its format may round: the implementation's estimate if
it is finite, has the sign of the value and keeps the bound; otherwise the value correctly rounded. Flags
are against the exact value (R226). A value that rounds to overflow gives the rounded result, also where the largest
finite value would keep the bound (DESIGN CHOICE, log 84). -/
def estimated (slot t v : Nat) (f : FFmt) (b : Bound) (neg : Bool) (x : Approx) : Nat × Flags :=
  let r := roundVal f 0 false noRBits (x.val neg)
  if x.exact && b != .abs22 then r
  else if (r.2 &&& flagOF) != 0 then r
  else
    let c := Config.estimate slot t v % 2 ^ f.width
    if b.keeps f (f.decode c) neg x then (c, (r.2 &&& flagUF) ||| flagIf (!(x.exact && r.1 == c)) flagNX)
    else r

/-- Infinity of a format. -/
def infBits (f : FFmt) (neg : Bool) : Nat := f.infOr neg

/-- The formats whose special functions are correctly rounded (Table 11-4). -/
def isHalf (t : Nat) : Bool := t == 10 || t == 11

/-- `vfrcpe` on one element (Tables 11-4, 11-5). -/
def frcpe (t v : Nat) : Nat × Flags :=
  let f := ffmt t
  match f.decode v with
  | .nan s => (f.canonNaN, flagIf s flagNV)
  | .inf n => (f.signBits n, 0)
  | .fin n m e =>
    if m == 0 then (infBits f n, flagDZ)
    else
      let x := recipApprox m e
      if isHalf t then rneVal f (x.val n) else estimated 0x220 t v f (.recip12 m e) n x

/-- `vfrsqe` on one element. -/
def frsqe (t v : Nat) : Nat × Flags :=
  let f := ffmt t
  match f.decode v with
  | .nan s => (f.canonNaN, flagIf s flagNV)
  | .inf n => if n then (f.canonNaN, flagNV) else (0, 0)
  | .fin n m e =>
    if m == 0 then (infBits f n, flagDZ)
    else if n then (f.canonNaN, flagNV)
    else
      let x := rsqrtApprox m e
      if isHalf t then rneVal f (x.val false) else estimated 0x221 t v f (.rsqrt12 m e) false x

/-- `vfex2` on one element. -/
def fex2 (t v : Nat) : Nat × Flags :=
  let f := ffmt t
  match f.decode v with
  | .nan s => (f.canonNaN, flagIf s flagNV)
  | .inf n => if n then (0, 0) else (infBits f false, 0)
  | .fin n m e =>
    let x := exp2Approx n m e
    if isHalf t then rneVal f (x.val false) else estimated 0x224 t v f .ulp2 false x

/-- `vflg2` on one element. -/
def flg2 (t v : Nat) : Nat × Flags :=
  let f := ffmt t
  match f.decode v with
  | .nan s => (f.canonNaN, flagIf s flagNV)
  | .inf n => if n then (f.canonNaN, flagNV) else (infBits f false, 0)
  | .fin n m e =>
    if m == 0 then (infBits f true, flagDZ)
    else if n then (f.canonNaN, flagNV)
    else
      let x := log2Approx m e
      if x.2.m == 0 then (0, 0)
      else if isHalf t then rneVal f (x.2.val x.1)
      else if x.2.exact then rneVal f (x.2.val x.1)
      else
        -- a in [1/2, 2] has an absolute bound
        let near : Bool := -1 ≤ ilog2 m e && ilog2 m e < 1
        estimated 0x225 t v f (if near then .abs22 else .ulp2) x.1 x.2

/-- The value is an integer. -/
def isIntegral (m : Nat) (e : Int) : Bool := 0 ≤ e || m % 2 ^ (-e).toNat == 0

/-- `vfsinpi` on one element. -/
def fsinpi (t v : Nat) : Nat × Flags :=
  let f := ffmt t
  match f.decode v with
  | .nan s => (f.canonNaN, flagIf s flagNV)
  | .inf _ => (f.canonNaN, flagNV)
  | .fin n m e =>
    if isIntegral m e then (f.signBits n, 0)
    else
      let x := sinPiApprox m e
      let neg := x.1 != n
      if isHalf t then rneVal f (x.2.val neg) else estimated 0x226 t v f .abs22 neg x.2

/-- `vfcospi` on one element: cos(π a) = sin(π (|a| + 1/2)). -/
def fcospi (t v : Nat) : Nat × Flags :=
  let f := ffmt t
  match f.decode v with
  | .nan s => (f.canonNaN, flagIf s flagNV)
  | .inf _ => (f.canonNaN, flagNV)
  | .fin _ m e =>
    -- |a| + 1/2 exactly
    let k := min e (-1)
    let m' := m * 2 ^ (e - k).toNat + 2 ^ (-1 - k).toNat
    if isIntegral m' k then (0, 0)
    else
      let x := sinPiApprox m' k
      if isHalf t then rneVal f (x.2.val x.1) else estimated 0x227 t v f .abs22 x.1 x.2

/-- `vftanh` on one element. -/
def ftanh (t v : Nat) : Nat × Flags :=
  let f := ffmt t
  match f.decode v with
  | .nan s => (f.canonNaN, flagIf s flagNV)
  | .inf n => (f.signBits n + f.expField 0 + (f.bias.toNat * 2 ^ f.mbits), 0)
  | .fin n m e =>
    if m == 0 then (v, 0)
    else
      let x := tanhApprox m e
      if isHalf t then rneVal f (x.val n) else estimated 0x228 t v f .ulp2 n x

end Sys2Proof
end

