-- ==== Sys2Proof/Machine/Floating.lean ====
section
/-! DEFINITION. The meanings of the floating-point, conversion and cross-lane forms (R214 to R238). -/

namespace Sys2Proof.Machine

/-- Elements that a floating form computes: the view's, or all (R214). -/
def Env.elems (e : Env) (n : Nat) : List Nat :=
  match e.view with
  | some i => [i]
  | none => List.range (64 / n)

/-- Collects element results: under a view the one element's value, else the whole register, with the flags. -/
def Env.gather (e : Env) (n : Nat) (k : Nat → Nat × Flags) : Nat × Flags :=
  match e.view with
  | some i => k i
  | none =>
    let r := (List.range (64 / n)).foldl (fun (a : Word × Flags) i =>
      let y := k i
      (setElem n i a.1 y.1, a.2 ||| y.2)) (0, 0)
    (r.1.toNat, r.2)

/-- The width of what `gather` gives. -/
def Env.gatherBits (e : Env) (n : Nat) : Nat := if e.view.isSome then n else 64

/-- An elementwise floating form on patterns: `k` gets the patterns of a, b and c of one element (R216). -/
def floatForm (k : Env → Nat → Nat → Nat → Nat × Flags) (e : Env) (s : State) : Res :=
  let n := e.bits
  let lane : Nat → LaneOut := fun l =>
    let a := e.read s.clock e.srcA l
    let b := e.read s.clock e.srcB l
    let c := e.read s.clock e.srcC l
    let wa := e.srcA.spread false e.ty a.1
    let wb := e.srcB.spread false e.ty b.1
    let wc := e.srcC.spread false e.ty c.1
    let r := e.gather n (fun i => k e (elemAt n i wa) (elemAt n i wb) (elemAt n i wc))
    ⟨l, r.1, r.2, a.2 || b.2 || c.2⟩
  if e.form.uniform then e.finishS s false (e.gatherBits n) (lane 0)
  else e.finishV s false (e.gatherBits n) (e.acting.map lane)

/-- An operand's value after denormals-are-zero (R216). -/
def Env.val (e : Env) (v : Nat) : FVal := (ffmt e.ty).decode (dazed e.c.fpctl e.ty v)

/-- The single rounding of an exact result, with its flush (R140, R216). -/
def Env.round (e : Env) (x : FVal × Flags) : Nat × Flags :=
  let r := flushed e.c.fpctl e.ty (roundVal (ffmt e.ty) e.f.rnd.toNat false noRBits x.1)
  (r.1, r.2 ||| x.2)

/-- A rounding form of one exact expression (R218). -/
def roundForm (op : Nat → FVal → FVal → FVal → FVal × Flags) (e : Env) (s : State) : Res :=
  floatForm (fun e a b c => e.round (op e.f.rnd.toNat (e.val a) (e.val b) (e.val c))) e s

/-- ± (a × b) ± c, exact (R218): the product's sign and the addend's are turned as asked. -/
def fusedVal (negP negC : Bool) (mode : Nat) (a b c : FVal) : FVal × Flags :=
  let p := mulVal a b
  let q := if negP then p.1.neg else p.1
  let r := addVal mode q (if negC then c.neg else c)
  (r.1, p.2 ||| r.2)

/-- `fmin` and `fmax` (R219): neither rounded nor flushed. -/
def minMaxForm (wantMax : Bool) (e : Env) (s : State) : Res :=
  floatForm (fun e a b _ =>
    minMaxBits (ffmt e.ty) wantMax (e.var == 1) (dazed e.c.fpctl e.ty a) (dazed e.c.fpctl e.ty b)) e s

/-- A form on bits alone (R220, R225). -/
def bitForm (k : FFmt → Nat → Nat → Nat) (e : Env) (s : State) : Res :=
  floatForm (fun e a b _ => (k (ffmt e.ty) a b, 0)) e s

/-- A sign bit set from another pattern, on the bits alone. -/
def copySign (f : FFmt) (a b : Nat) : Nat := a % 2 ^ (f.width - 1) + f.signBits (f.signOf b)

/-- `frnd` (R221). -/
def rndForm (e : Env) (s : State) : Res :=
  floatForm (fun e a _ _ => rndBits (ffmt e.ty) e.f.rnd.toNat (dazed e.c.fpctl e.ty a)) e s

/-- An estimate or special function (R226, R227). -/
def estForm (k : Nat → Nat → Nat × Flags) (e : Env) (s : State) : Res :=
  floatForm (fun e a _ _ => flushed e.c.fpctl e.ty (k e.ty (dazed e.c.fpctl e.ty a))) e s

/-- `vfrcps`: 2 − a × b (Table 11-4). -/
def stepRcp (mode : Nat) (a b _c : FVal) : FVal × Flags := fusedVal true false mode a b (intVal 2)

/-- `vfrsqs`: (3 − a × b) / 2 (Table 11-4). -/
def stepRsq (mode : Nat) (a b _c : FVal) : FVal × Flags :=
  let r := fusedVal true false mode a b (intVal 3)
  (halfVal r.1, r.2)

/-- `vfdot2` (R222): each operand follows the control of its own type. The sum is taken as (C + first product) +
second product, so products +∞ and −∞ beside a quiet NaN C set no flag (DESIGN CHOICE, log 64). -/
def dotForm (e : Env) (s : State) : Res :=
  let t := e.f.ty2
  let val : Nat → Word → Nat → FVal := fun t w i =>
    (ffmt t).decode (dazed e.c.fpctl t (elemAt (typeBits t) i w))
  e.finishV s false 64 (e.acting.map (fun l =>
    let a := e.read s.clock e.srcA l
    let b := e.read s.clock e.srcB l
    let c := e.read s.clock e.srcC l
    let wa := e.srcA.spread false t a.1
    let wb := e.srcB.spread false t b.1
    let wc := e.srcC.spread false 9 c.1
    let r := (List.range 2).foldl (fun (acc : Word × Flags) j =>
      let p0 := mulVal (val t wa (2 * j)) (val t wb (2 * j))
      let p1 := mulVal (val t wa (2 * j + 1)) (val t wb (2 * j + 1))
      let s0 := addVal e.f.rnd.toNat (val 9 wc j) p0.1
      let s1 := addVal e.f.rnd.toNat s0.1 p1.1
      let y := flushed e.c.fpctl 9 (roundVal fF32 e.f.rnd.toNat false noRBits s1.1)
      (setElem 32 j acc.1 y.1, acc.2 ||| y.2 ||| p0.2 ||| p1.2 ||| s0.2 ||| s1.2)) (0, 0)
    ⟨l, r.1.toNat, r.2, a.2 || b.2 || c.2⟩))

/-- The comparison of element i of A and B (R223). -/
def Env.fcompare (e : Env) (clock lane : Nat) : (Bool × Flags) × Bool :=
  let a := e.read clock e.srcA lane
  let b := e.read clock e.srcB lane
  let i := e.view.getD 0
  let x := e.val (elemAt e.bits i (e.srcA.spread false e.ty a.1))
  let y := e.val (elemAt e.bits i (e.srcB.spread false e.ty b.1))
  (compareVal e.var x y, a.2 || b.2)

/-- `vfcmp` (R223). -/
def vfcmpForm (e : Env) (s : State) : Res :=
  e.finishP s (e.acting.map (fun l =>
    let r := e.fcompare s.clock l
    ⟨l, bitNat r.1.1, r.1.2, r.2⟩))

/-- `sfcmp` (R223): the result is written whole. -/
def sfcmpForm (e : Env) (s : State) : Res :=
  let r := e.fcompare s.clock 0
  e.finishWhole s (r.1.2 ||| flagIf r.2 flagDEAD) (BitVec.ofNat 64 (bitNat r.1.1))

/-- `vfcmpm` (R224). -/
def fcmpmForm (e : Env) (s : State) : Res :=
  floatForm (fun e a b _ =>
    let r := compareVal e.var (e.val a) (e.val b)
    (if r.1 then 2 ^ e.bits - 1 else 0, r.2)) e s

/-- Source and destination elements of a conversion (R228): pairs, and whether the rest of the destination is
kept. -/
def cvtPairs (wd ws g : Nat) : List (Nat × Nat) × Bool :=
  if wd < ws then ((List.range (64 / ws)).map (fun i => (i, g * (64 / ws) + i)), true)
  else if ws < wd then ((List.range (64 / wd)).map (fun i => (g * (64 / wd) + i, i)), false)
  else ((List.range (64 / wd)).map (fun i => (i, i)), false)

/-- The random bits of a result element (R141). -/
def rsrBits (wd i : Nat) (w : Word) : RBits := ⟨min 32 wd, w.toNat / 2 ^ (i * wd) % 2 ^ min 32 wd⟩

/-- A conversion keeps a part of its destination (Table 11-5). -/
def Env.convertsPart (e : Env) : Bool := (cvtPairs (typeBits e.ty) (typeBits e.f.ty2) e.var).2

/-- `vcvt` and `scvt` (R228 to R230): the new value of the destination from its old one. -/
def Env.convert (e : Env) (a b c old : Word) : Word × Flags :=
  let d := e.ty
  let t := e.f.ty2
  let wd := typeBits d
  let ws := typeBits t
  let ps := cvtPairs wd ws e.var
  let scale := if e.f.var2.testBit 0 then some (b.toNat % 256, typeScaled d) else none
  ps.1.foldl (fun (acc : Word × Flags) p =>
    let rb := if e.f.rnd == 5 then rsrBits wd p.2 c else noRBits
    let y := convertElem e.c.fpctl d t e.f.rnd.toNat e.f.sat rb scale (elemAt ws p.1 a)
    (setElem wd p.2 acc.1 y.1, acc.2 ||| y.2)) (if ps.2 then old else 0, 0)

/-- `vcvt` and `scvt`. A constant code as the random source has no source type for R79 to take it by: it is its 64-bit
value in two's complement (R141, R230, DESIGN CHOICE, log 85). -/
def cvtForm (e : Env) (s : State) : Res :=
  let srcs : Nat → (Word × Word × Word) × Bool := fun l =>
    let a := e.read s.clock e.srcA l
    let b := e.read s.clock e.srcB l
    let c := e.read s.clock e.srcC l
    ((e.srcA.spread false e.f.ty2 a.1, b.1, c.1), a.2 || b.2 || c.2)
  if e.form.uniform then
    let x := srcs 0
    let s := e.endUses (e.dead s x.2)
    let old := ((s.crew e.id).getD e.c).sAt e.dst
    let y := e.convert x.1.1 x.1.2.1 x.1.2.2 old.saved
    .done ((e.flag s y.2).modCrew e.id (fun c => c.setS e.dst (old.wrote e.convertsPart y.1)))
  else
    let xs := e.acting.map (fun l => (l, srcs l))
    let s := e.endUses (e.dead s (xs.any (fun x => x.2.2)))
    let c := (s.crew e.id).getD e.c
    let ys := xs.map (fun x => (x.1, e.convert x.2.1.1 x.2.1.2.1 x.2.1.2.2 (c.vAt e.dst x.1).saved))
    let fl := ys.foldl (fun f y => f ||| y.2.2) (0 : Flags)
    .done ((e.flag s fl).modCrew e.id (fun c => ys.foldl (fun c y =>
      c.setV e.dst y.1 ((c.vAt e.dst y.1).wrote e.convertsPart y.2.1)) c))

/-- `vperm` (R232). -/
def vpermForm (e : Env) (s : State) : Res :=
  let n := e.bits
  let i := e.view.getD 0
  let xs := e.acting.map (fun l =>
    let b := e.read s.clock e.srcB l
    let sel := b.1.toNat % 1024
    let el := b.1.toNat / 1024 % 8 % (64 / n)
    let ok := sel < e.c.lanes && e.x.mask.getLsbD sel
    let a := e.read s.clock e.srcA (if ok then sel else l)
    (l, elemAt n el (e.srcA.spread false e.ty a.1), ok, a.2 || b.2))
  let s := e.endUses (e.dead s (xs.any (fun x => x.2.2.2)))
  let s := s.modCrew e.id (fun c => xs.foldl (fun c x =>
    c.setV e.dst x.1 (e.wrote (c.vAt e.dst x.1) (setElem n i (c.vAt e.dst x.1).saved x.2.1))) c)
  .done (if e.var == 15 then s else e.putP s e.var (xs.map (fun x => (x.1, x.2.2.1))))

/-- `vmatch` (R233). -/
def vmatchForm (e : Env) (s : State) : Res :=
  let n := e.bits
  let xs := e.acting.map (fun l =>
    let a := e.read s.clock e.srcA l
    (l, elemAt n (e.view.getD 0) (e.srcA.spread false e.ty a.1), a.2))
  let mask : Nat × Nat × Bool → Nat := fun x =>
    (xs.filter (fun y => y.1 / 32 == x.1 / 32 && y.2.1 == x.2.1)).foldl (fun m y => m + 2 ^ (y.1 % 32)) 0
  let s := e.endUses (e.dead s (xs.any (fun x => x.2.2)))
  .done (e.putV s (xs.map (fun x => (e.dst, x.1, BitVec.ofNat 64 (mask x)))))

/-- `vvote` (R234). -/
def vvoteForm (e : Env) (s : State) : Res :=
  let p := e.c.pAt e.f.srca.toNat
  let h := e.acting.filter (fun l => p.getLsbD l)
  if e.var == 3 then
    let b := e.uniVal s e.srcB
    if 15 < b.1.toNat then .exc b.2 .ropnd
    else
      let q := b.1.toNat
      let v := (h.filter (fun l => l / 64 == q)).foldl (fun m l => m + 2 ^ (l % 64)) 0
      .done (e.putS (e.endUses b.2) e.dst (BitVec.ofNat 64 v))
  else
    let v := match e.var with
      | 0 => bitNat (!h.isEmpty)
      | 1 => bitNat (h.length == e.acting.length)
      | _ => h.length
    .done (e.putS s e.dst (BitVec.ofNat 64 v))

/-- One step of a reduction (R235): flush-to-zero applies to each floating step, that of `.min` and `.max` too,
though R219 leaves it out of `fmin` and `fmax` (DEDUCED, log 14). -/
def Env.redStep (e : Env) (a b : Nat) : Nat × Flags :=
  let t := e.ty
  let n := e.bits
  let sg := typeSigned t
  if 8 ≤ t then
    match e.var % 8 with
    | 0 =>
      let x := addVal e.f.rnd.toNat ((ffmt t).decode a) ((ffmt t).decode b)
      e.round x
    | 1 => flushed e.c.fpctl t (minMaxBits (ffmt t) false false a b)
    | _ => flushed e.c.fpctl t (minMaxBits (ffmt t) true false a b)
  else
    match e.var % 8 with
    | 0 => ((a + b) % 2 ^ n, 0)
    | 1 => (if readInt sg n a ≤ readInt sg n b then a else b, 0)
    | 2 => (if readInt sg n a ≤ readInt sg n b then b else a, 0)
    | 3 => (a &&& b, 0)
    | 4 => (a ||| b, 0)
    | _ => (a ^^^ b, 0)

/-- The identity of a reduction (R235). -/
def Env.redIdentity (e : Env) : Nat :=
  let t := e.ty
  let n := e.bits
  match e.var % 8 with
  | 1 => if 8 ≤ t then (ffmt t).infOr false else wrapInt n (maxInt (typeSigned t) n)
  | 2 => if 8 ≤ t then (ffmt t).infOr true else wrapInt n (minInt (typeSigned t) n)
  | 3 => 2 ^ n - 1
  | _ => 0

/-- Combines what is present (R149). -/
def Env.redBoth (e : Env) (x y : Option Nat × Flags) : Option Nat × Flags :=
  match x.1, y.1 with
  | some a, some b =>
    let r := e.redStep a b
    (some r.1, x.2 ||| y.2 ||| r.2)
  | some a, none => (some a, x.2 ||| y.2)
  | none, b => (b, x.2 ||| y.2)

/-- Node (h, j) of the tree over lane values (R149). -/
def Env.redNode (e : Env) (val : Nat → Option Nat × Flags) : Nat → Nat → Option Nat × Flags
  | 0, j => val j
  | h + 1, j => e.redBoth (e.redNode val h (2 * j)) (e.redNode val h (2 * j + 1))

/-- The combination over lanes 0 to k − 1 from the blocks of the set bits of k (R150). -/
def Env.redPrefix (e : Env) (val : Nat → Option Nat × Flags) (k : Nat) : Option Nat × Flags :=
  ((List.range 11).foldl (fun (a : (Option Nat × Flags) × Nat) i =>
    let h := 10 - i
    if k.testBit h then (e.redBoth a.1 (e.redNode val h (a.2 / 2 ^ h)), a.2 + 2 ^ h) else a) ((none, 0), 0)).1

/-- Lane values of element i, with denormals-are-zero (R235), and whether a source was dead. -/
def Env.redVals (e : Env) (clock : Nat) : List (Nat × Word × Bool) :=
  e.acting.map (fun l =>
    let a := e.read clock e.srcA l
    (l, e.srcA.spread false e.ty a.1, a.2))

/-- Element i of a present lane, as the tree takes it: a NaN operand stands as the canonical one and a signalling NaN
sets the invalid flag, also where no other lane is present (R137, R149). -/
def Env.redVal (e : Env) (xs : List (Nat × Word × Bool)) (i l : Nat) : Option Nat × Flags :=
  match tabGet xs l with
  | none => (none, 0)
  | some x =>
    let v := elemAt e.bits i x.1
    if 8 ≤ e.ty then
      let d := (ffmt e.ty).decode v
      if d.isNan then (some (ffmt e.ty).canonNaN, flagIf d.isSnan flagNV) else (some (dazed e.c.fpctl e.ty v), 0)
    else (some v, 0)

/-- `vred` (R235). -/
def vredForm (e : Env) (s : State) : Res :=
  let n := e.bits
  let xs := e.redVals s.clock
  let r := (List.range (64 / n)).foldl (fun (a : Word × Flags) i =>
    let y := e.redNode (e.redVal xs i) (5 + e.c.kernel.width) 0
    (setElem n i a.1 (y.1.getD e.redIdentity), a.2 ||| y.2)) (0, 0)
  let s := e.dead s (xs.any (fun x => x.2.2))
  e.finishWhole s r.2 r.1

/-- `vscan` (R236). -/
def vscanForm (e : Env) (s : State) : Res :=
  let n := e.bits
  let xs := e.redVals s.clock
  let ex := e.f.var.getLsbD 3
  let outs := e.acting.map (fun l =>
    (List.range (64 / n)).foldl (fun (a : LaneOut) i =>
      let y := e.redPrefix (e.redVal xs i) (if ex then l else l + 1)
      { a with v := (setElem n i (BitVec.ofNat 64 a.v) (y.1.getD e.redIdentity)).toNat, flags := a.flags ||| y.2 })
      ⟨l, 0, 0, false⟩)
  e.finishV (e.dead s (xs.any (fun x => x.2.2))) false 64 outs

/-- `vrdl` (R237, R238). -/
def vrdlForm (e : Env) (s : State) : Res :=
  let b := e.uniVal s e.srcB
  let l := b.1.toNat
  let a : Word × Bool := if l < e.c.lanes then e.read s.clock e.srcA l else (0, false)
  e.finishWhole b.2 (flagIf a.2 flagDEAD) a.1

/-- `vfadd` (R218). -/
def execVfadd (f : Fields) (s : State) : Host.Outcome State Fault Refusal :=
  issue (.vfadd f) (roundForm (fun m a b _ => addVal m a b)) s

/-- `vfsub` (R218). -/
def execVfsub (f : Fields) (s : State) : Host.Outcome State Fault Refusal :=
  issue (.vfsub f) (roundForm (fun m a b _ => addVal m a b.neg)) s

/-- `vfmul` (R218). -/
def execVfmul (f : Fields) (s : State) : Host.Outcome State Fault Refusal :=
  issue (.vfmul f) (roundForm (fun _ a b _ => mulVal a b)) s

/-- `vfma` (R218). -/
def execVfma (f : Fields) (s : State) : Host.Outcome State Fault Refusal :=
  issue (.vfma f) (roundForm (fusedVal false false)) s

/-- `vfms` (R218). -/
def execVfms (f : Fields) (s : State) : Host.Outcome State Fault Refusal :=
  issue (.vfms f) (roundForm (fusedVal false true)) s

/-- `vfnma` (R218). -/
def execVfnma (f : Fields) (s : State) : Host.Outcome State Fault Refusal :=
  issue (.vfnma f) (roundForm (fusedVal true false)) s

/-- `vfnms` (R218). -/
def execVfnms (f : Fields) (s : State) : Host.Outcome State Fault Refusal :=
  issue (.vfnms f) (roundForm (fusedVal true true)) s

/-- `vfmin` (R219). -/
def execVfmin (f : Fields) (s : State) : Host.Outcome State Fault Refusal :=
  issue (.vfmin f) (minMaxForm false) s

/-- `vfmax` (R219). -/
def execVfmax (f : Fields) (s : State) : Host.Outcome State Fault Refusal :=
  issue (.vfmax f) (minMaxForm true) s

/-- `vfneg` (R220). -/
def execVfneg (f : Fields) (s : State) : Host.Outcome State Fault Refusal :=
  issue (.vfneg f) (bitForm (fun f a _ => a ^^^ 2 ^ (f.width - 1))) s

/-- `vfabs` (R220). -/
def execVfabs (f : Fields) (s : State) : Host.Outcome State Fault Refusal :=
  issue (.vfabs f) (bitForm (fun f a _ => a % 2 ^ (f.width - 1))) s

/-- `vfcsgn` (R220). -/
def execVfcsgn (f : Fields) (s : State) : Host.Outcome State Fault Refusal :=
  issue (.vfcsgn f) (bitForm copySign) s

/-- `vfdot2` (R222). -/
def execVfdot2 (f : Fields) (s : State) : Host.Outcome State Fault Refusal :=
  issue (.vfdot2 f) dotForm s

/-- `vfrnd` (R221). -/
def execVfrnd (f : Fields) (s : State) : Host.Outcome State Fault Refusal :=
  issue (.vfrnd f) rndForm s

/-- `sfadd` (R218). -/
def execSfadd (f : Fields) (s : State) : Host.Outcome State Fault Refusal :=
  issue (.sfadd f) (roundForm (fun m a b _ => addVal m a b)) s

/-- `sfsub` (R218). -/
def execSfsub (f : Fields) (s : State) : Host.Outcome State Fault Refusal :=
  issue (.sfsub f) (roundForm (fun m a b _ => addVal m a b.neg)) s

/-- `sfmul` (R218). -/
def execSfmul (f : Fields) (s : State) : Host.Outcome State Fault Refusal :=
  issue (.sfmul f) (roundForm (fun _ a b _ => mulVal a b)) s

/-- `sfma` (R218). -/
def execSfma (f : Fields) (s : State) : Host.Outcome State Fault Refusal :=
  issue (.sfma f) (roundForm (fusedVal false false)) s

/-- `sfmin` (R219). -/
def execSfmin (f : Fields) (s : State) : Host.Outcome State Fault Refusal :=
  issue (.sfmin f) (minMaxForm false) s

/-- `sfmax` (R219). -/
def execSfmax (f : Fields) (s : State) : Host.Outcome State Fault Refusal :=
  issue (.sfmax f) (minMaxForm true) s

/-- `vfcmp` (R223). -/
def execVfcmp (f : Fields) (s : State) : Host.Outcome State Fault Refusal :=
  issue (.vfcmp f) vfcmpForm s

/-- `sfcmp` (R223). -/
def execSfcmp (f : Fields) (s : State) : Host.Outcome State Fault Refusal :=
  issue (.sfcmp f) sfcmpForm s

/-- `vfcmpm` (R224). -/
def execVfcmpm (f : Fields) (s : State) : Host.Outcome State Fault Refusal :=
  issue (.vfcmpm f) fcmpmForm s

/-- `vfclass` (R225). -/
def execVfclass (f : Fields) (s : State) : Host.Outcome State Fault Refusal :=
  issue (.vfclass f) (bitForm (fun f a _ => classMask f a)) s

/-- `vfrcpe` (R226). -/
def execVfrcpe (f : Fields) (s : State) : Host.Outcome State Fault Refusal :=
  issue (.vfrcpe f) (estForm frcpe) s

/-- `vfrsqe` (R226). -/
def execVfrsqe (f : Fields) (s : State) : Host.Outcome State Fault Refusal :=
  issue (.vfrsqe f) (estForm frsqe) s

/-- `vfrcps` (R226). -/
def execVfrcps (f : Fields) (s : State) : Host.Outcome State Fault Refusal :=
  issue (.vfrcps f) (roundForm stepRcp) s

/-- `vfrsqs` (R226). -/
def execVfrsqs (f : Fields) (s : State) : Host.Outcome State Fault Refusal :=
  issue (.vfrsqs f) (roundForm stepRsq) s

/-- `vfex2` (R226). -/
def execVfex2 (f : Fields) (s : State) : Host.Outcome State Fault Refusal :=
  issue (.vfex2 f) (estForm fex2) s

/-- `vflg2` (R226). -/
def execVflg2 (f : Fields) (s : State) : Host.Outcome State Fault Refusal :=
  issue (.vflg2 f) (estForm flg2) s

/-- `vfsinpi` (R226). -/
def execVfsinpi (f : Fields) (s : State) : Host.Outcome State Fault Refusal :=
  issue (.vfsinpi f) (estForm fsinpi) s

/-- `vfcospi` (R226). -/
def execVfcospi (f : Fields) (s : State) : Host.Outcome State Fault Refusal :=
  issue (.vfcospi f) (estForm fcospi) s

/-- `vftanh` (R226). -/
def execVftanh (f : Fields) (s : State) : Host.Outcome State Fault Refusal :=
  issue (.vftanh f) (estForm ftanh) s

/-- `vcvt` (R228). -/
def execVcvt (f : Fields) (s : State) : Host.Outcome State Fault Refusal :=
  issue (.vcvt f) cvtForm s

/-- `scvt` (R228). -/
def execScvt (f : Fields) (s : State) : Host.Outcome State Fault Refusal :=
  issue (.scvt f) cvtForm s

/-- `vperm` (R232). -/
def execVperm (f : Fields) (s : State) : Host.Outcome State Fault Refusal :=
  issue (.vperm f) vpermForm s

/-- `vmatch` (R233). -/
def execVmatch (f : Fields) (s : State) : Host.Outcome State Fault Refusal :=
  issue (.vmatch f) vmatchForm s

/-- `vvote` (R234). -/
def execVvote (f : Fields) (s : State) : Host.Outcome State Fault Refusal :=
  issue (.vvote f) vvoteForm s

/-- `vred` (R235). -/
def execVred (f : Fields) (s : State) : Host.Outcome State Fault Refusal :=
  issue (.vred f) vredForm s

/-- `vscan` (R236). -/
def execVscan (f : Fields) (s : State) : Host.Outcome State Fault Refusal :=
  issue (.vscan f) vscanForm s

/-- `vrdl` (R237). -/
def execVrdl (f : Fields) (s : State) : Host.Outcome State Fault Refusal :=
  issue (.vrdl f) vrdlForm s

end Sys2Proof.Machine
end

