-- ==== Sys2Proof/Machine/Lodes.lean ====
section
/-! DEFINITION. The meanings of the lode forms (R281 to R295, R386): lanes bound as the limbs of one long
integer. -/

namespace Sys2Proof.Machine

/-- What a lode form works on: limbs of a lode, lodes, bias. -/
structure LodeDesc where
  w : Nat
  q : Nat
  bias : Nat

/-- Bits of a lode. -/
def LodeDesc.n (d : LodeDesc) : Nat := 64 * d.w

/-- Width code, count, bias and reserved bits of a descriptor (Table 14-1). -/
def descWlog (d : Nat) : Nat := bitsOf d 3 0
def descQ (d : Nat) : Nat := bitsOf d 17 8 + 1
def descBias (d : Nat) : Nat := bitsOf d 48 32
def descReserved (d : Nat) : Bool := bitsOf d 7 4 != 0 || bitsOf d 31 18 != 0 || bitsOf d 63 49 != 0

/-- A lode's value in a vector register, unsigned (R281). -/
def Crew.lodeAt (c : Crew) (d : LodeDesc) (r j : Nat) : Nat :=
  (List.range d.w).foldl (fun n i => n + (c.vAt r (j * d.w + i)).read.1.toNat * 2 ^ (64 * i)) 0

/-- A limb of the lode is dead. -/
def Crew.lodeDead (c : Crew) (d : LodeDesc) (r j : Nat) : Bool :=
  (List.range d.w).any (fun i => (c.vAt r (j * d.w + i)).read.2)

/-- The two's complement reading (R281). -/
def lodeSx (d : LodeDesc) (x : Nat) : Int := readInt true d.n x

/-- Writes every limb of a lode. -/
def Crew.putLode (c : Crew) (d : LodeDesc) (r j v : Nat) : Crew :=
  (List.range d.w).foldl (fun c i =>
    c.setV r (j * d.w + i) (.live (BitVec.ofNat 64 (v / 2 ^ (64 * i))))) c

/-- What a lode form gives for one lode. -/
structure LodeOut where
  limbs : Option Nat
  uni : Option Word
  flags : Flags

/-- The uniform register named by `SRCC` directly (R284). -/
def Env.srccNum (e : Env) : Nat :=
  match e.f.ext with
  | .wide x => x.srcc.toNat
  | _ => 0

/-- The descriptor register. -/
def Env.descNum (e : Env) : Nat :=
  match e.f.ext with
  | .wide x => x.uni.toNat
  | _ => 0

/-- The lowest lane of a range that the split's mask lacks (R282). -/
def Env.missingLane (e : Env) (r : Mask) : Option Nat :=
  (List.range 1024).find? (fun l => r.getLsbD l && !e.x.mask.getLsbD l)

/-- The checks of a form that names a descriptor, in the order of R375, with the uniform bases it names (R285,
R286, Table 22-8). -/
def Env.withLode (e : Env) (s : State) (bases : List Nat) (k : LodeDesc → State → Res) : Res :=
  let r := e.uni e.descNum
  let s := e.dead s r.2
  let d := r.1.toNat
  let q := descQ d
  if bases.any (fun b => 1024 < b + q || e.c.kernel.scount < b + q) then .exc s .rreg
  else if bases.any (fun b => (List.range q).any (fun i => e.awaited s (.sreg (b + i), 1))) then .wait s .refuge
  else if !e.c.single then .exc s .rsplit
  else
    match e.c.lode with
    | none => .exc s .ropnd
    | some (wlog, bound) =>
      match e.missingLane e.c.lodeLanes with
      | some l => .trap s .rsplit l none none
      | none =>
        if descWlog d != wlog || bound < q || 64 * 2 ^ wlog < descBias d || descReserved d then .exc s .ropnd
        else k ⟨2 ^ wlog, q, descBias d⟩ s

/-- The common effect of a lode form: one result for each lode of the descriptor, sources read before any write
(R285); `vregs` are the lodes it reads and `sregs` the uniform bases it reads. -/
def Env.lodeApply (e : Env) (s : State) (d : LodeDesc) (ubase : Nat) (vregs sregs : List Nat)
    (op : Nat → LodeOut) : Res :=
  let js := List.range d.q
  let dead := js.any (fun j => vregs.any (fun r => e.c.lodeDead d r j) || sregs.any (fun b => (e.uni (b + j)).2))
  let outs := js.map (fun j => (j, op j))
  let fl := outs.foldl (fun f o => f ||| o.2.flags) (flagIf dead flagDEAD)
  let s := e.flag (e.endUses s) fl
  .done (s.modCrew e.id (fun c => outs.foldl (fun c o =>
    let c := match o.2.limbs with
      | some v => c.putLode d e.dst o.1 v
      | none => c
    match o.2.uni with
    | some w => c.writeS (ubase + o.1) w
    | none => c) c))

/-- A value outside the two's complement range of a lode. -/
def LodeDesc.outside (d : LodeDesc) (x : Int) : Bool := x < -(2 : Int) ^ (d.n - 1) || (2 : Int) ^ (d.n - 1) ≤ x

/-- `ladd` and `lsub` (R288). -/
def lodeSum (sub : Bool) (e : Env) (s : State) : Res :=
  let cb := e.srccNum
  let kind := e.var % 4
  let ci := e.f.var.getLsbD 2
  e.withLode s [cb] (fun d s =>
    e.lodeApply s d cb [e.f.srca.toNat, e.f.srcb.toNat] (if ci then [cb] else []) (fun j =>
      let a := e.c.lodeAt d e.f.srca.toNat j
      let b := e.c.lodeAt d e.f.srcb.toNat j
      let cin : Nat := if ci then (e.uni (cb + j)).1.toNat % 2 else 0
      let x : Int := if sub then (a : Int) - b - cin else (a : Int) + b + cin
      let carry : Bool := x < 0 || (2 : Int) ^ d.n ≤ x
      let sx : Int := if sub then lodeSx d a - lodeSx d b - cin else lodeSx d a + lodeSx d b + cin
      let lov : Bool :=
        match kind with
        | 0 => carry
        | 1 => d.outside sx
        | _ => false
      ⟨some (x % (2 : Int) ^ d.n).toNat, some (BitVec.ofNat 64 (bitNat carry)), flagIf lov flagLOV⟩))

/-- `lneg` (R289). -/
def lodeNeg (e : Env) (s : State) : Res :=
  e.withLode s [] (fun d s => e.lodeApply s d 0 [e.f.srca.toNat] [] (fun j =>
    let a := e.c.lodeAt d e.f.srca.toNat j
    ⟨some ((2 ^ d.n - a) % 2 ^ d.n), none, flagIf (a == 2 ^ (d.n - 1)) flagLOV⟩))

/-- `lshl` and `lshr` (R290): `op` takes the lode and the amount. -/
def lodeShift (op : LodeDesc → Nat → Nat → LodeOut) (e : Env) (s : State) : Res :=
  e.withLode s [] (fun d s =>
    let m := e.uni e.srccNum
    let s := e.dead s m.2
    if d.n ≤ m.1.toNat then .exc s .ropnd
    else e.lodeApply s d 0 [e.f.srca.toNat] [] (fun j => op d (e.c.lodeAt d e.f.srca.toNat j) m.1.toNat))

def lodeShl (d : LodeDesc) (a m : Nat) : LodeOut :=
  ⟨some (a * 2 ^ m % 2 ^ d.n), none, flagIf (2 ^ d.n ≤ a * 2 ^ m) flagLOV⟩

def lodeShr (signed : Bool) (d : LodeDesc) (a m : Nat) : LodeOut :=
  let v := if signed then (lodeSx d a / (2 : Int) ^ m % (2 : Int) ^ d.n).toNat else a / 2 ^ m
  ⟨some v, none, 0⟩

/-- `lcmp` (R291). -/
def lodeCmp (e : Env) (s : State) : Res :=
  e.withLode s [e.dst] (fun d s => e.lodeApply s d e.dst [e.f.srca.toNat, e.f.srcb.toNat] [] (fun j =>
    let a := e.c.lodeAt d e.f.srca.toNat j
    let b := e.c.lodeAt d e.f.srcb.toNat j
    let less : Bool := if e.var == 1 then lodeSx d a < lodeSx d b else a < b
    ⟨none, some (if less then BitVec.allOnes 64 else if a == b then 0 else 1), 0⟩))

/-- `lclz` (R291). -/
def lodeClz (e : Env) (s : State) : Res :=
  e.withLode s [e.dst] (fun d s => e.lodeApply s d e.dst [e.f.srca.toNat] [] (fun j =>
    let a := e.c.lodeAt d e.f.srca.toNat j
    ⟨none, some (BitVec.ofNat 64 (if a == 0 then d.n else d.n - 1 - Nat.log2 a)), 0⟩))

/-- `lmulw` and `lmacw` (R292). -/
def lodeMul (acc : Bool) (e : Env) (s : State) : Res :=
  let wb := e.srccNum
  e.withLode s [wb] (fun d s =>
    e.lodeApply s d wb (e.f.srca.toNat :: (if acc then [e.f.srcb.toNat] else [])) [wb] (fun j =>
      let p := e.c.lodeAt d e.f.srca.toNat j * (e.uni (wb + j)).1.toNat
      let x := if acc then e.c.lodeAt d e.f.srcb.toNat j + p else p
      ⟨some (x % 2 ^ d.n), some (BitVec.ofNat 64 (x / 2 ^ d.n)), 0⟩))

/-- trunc(p × 2^b) of one product and its flags (R293). -/
def laccTerm (bias : Nat) (x y : FVal) : Int × Flags :=
  match x, y with
  | .fin a m e, .fin b m' e' =>
    let p := m * m'
    let k := e + e' + (bias : Int)
    let mag := if 0 ≤ k then p * 2 ^ k.toNat else p / 2 ^ (-k).toNat
    let inexact : Bool := k < 0 && p % 2 ^ (-k).toNat != 0
    (if a != b then -(mag : Int) else (mag : Int), flagIf inexact flagNX)
  | _, _ => (0, flagNV)

/-- `lacc` (R293). -/
def lodeAcc (e : Env) (s : State) : Res :=
  let n := e.bits
  let fm := ffmt e.ty
  let ra := e.f.srca.toNat
  let rb := e.f.srcb.toNat
  e.withLode s [] (fun d s => e.lodeApply s d 0 [ra, rb, e.dst] [] (fun j =>
    let sum := (List.range d.w).foldl (fun (acc : Int × Flags) l =>
      let wa := (e.c.vAt ra (j * d.w + l)).read.1
      let wb := (e.c.vAt rb (j * d.w + l)).read.1
      (List.range (64 / n)).foldl (fun (acc : Int × Flags) i =>
        let t := laccTerm d.bias (fm.decode (elemAt n i wa)) (fm.decode (elemAt n i wb))
        (acc.1 + t.1, acc.2 ||| t.2)) acc) (0, 0)
    let x := lodeSx d (e.c.lodeAt d e.dst j) + sum.1
    ⟨some (x % (2 : Int) ^ d.n).toNat, none, sum.2 ||| flagIf (d.outside x) flagLOV⟩))

/-- `lround` (R294). -/
def lodeRound (e : Env) (s : State) : Res :=
  e.withLode s [e.dst] (fun d s => e.lodeApply s d e.dst [e.f.srca.toNat] [] (fun j =>
    let x := lodeSx d (e.c.lodeAt d e.f.srca.toNat j)
    let r := roundFin (ffmt e.ty) e.f.rnd.toNat e.f.sat noRBits (decide (x < 0)) x.natAbs (-(d.bias : Int))
    ⟨none, some (BitVec.ofNat 64 r.1), r.2⟩))

/-- The limits of a binding (R281, R386). (DEDUCED, log 39) -/
def bindBad (lanes d : Nat) : Bool :=
  let wl := descWlog d
  wl == 0 || 10 < wl || lanes < descQ d * 2 ^ wl || 512 < descQ d || 64 * 2 ^ wl < descBias d || descReserved d

/-- `lode.bind` (R281): its lanes are checked where the width and the count give a range of the crew. -/
def lodeBindForm (e : Env) (s : State) : Res :=
  let r := e.uniVal s e.srcB
  let s := r.2
  let d := r.1.toNat
  let span := descQ d * 2 ^ descWlog d
  let range : Mask := if 1024 < span then 0 else BitVec.ofNat 1024 (2 ^ span - 1)
  if !e.c.single then .exc s .rsplit
  else
    match (if e.c.lanes < span then none else e.missingLane range) with
    | some l => .trap s .rsplit l none none
    | none =>
      if bindBad e.c.lanes d then .exc s .ropnd
      else
        let s := e.putS (e.endUses s) e.dst r.1
        .done (s.modCrew e.id (fun c => { c with lode := some (descWlog d, descQ d) }))

/-- `lode.free` (R283, Table 22-8). -/
def lodeFreeForm (e : Env) (s : State) : Res :=
  if !e.c.single then .exc s .rsplit
  else
    match e.c.lode with
    | none => .exc s .ropnd
    | some _ =>
      match e.missingLane e.c.lodeLanes with
      | some l => .trap s .rsplit l none none
      | none => .done (s.modCrew e.id (fun c => { c with lode := none }))

/-- `lode.bind` (R281). -/
def execLodeBind (f : Fields) (s : State) : Host.Outcome State Fault Refusal :=
  issue (.lodeBind f) lodeBindForm s

/-- `lode.free` (R283). -/
def execLodeFree (f : Fields) (s : State) : Host.Outcome State Fault Refusal :=
  issue (.lodeFree f) lodeFreeForm s

/-- `ladd` (R288). -/
def execLadd (f : Fields) (s : State) : Host.Outcome State Fault Refusal :=
  issue (.ladd f) (lodeSum false) s

/-- `lsub` (R288). -/
def execLsub (f : Fields) (s : State) : Host.Outcome State Fault Refusal :=
  issue (.lsub f) (lodeSum true) s

/-- `lneg` (R289). -/
def execLneg (f : Fields) (s : State) : Host.Outcome State Fault Refusal :=
  issue (.lneg f) lodeNeg s

/-- `lshl` (R290). -/
def execLshl (f : Fields) (s : State) : Host.Outcome State Fault Refusal :=
  issue (.lshl f) (lodeShift lodeShl) s

/-- `lshr` (R290). -/
def execLshr (f : Fields) (s : State) : Host.Outcome State Fault Refusal :=
  issue (.lshr f) (lodeShift (lodeShr (f.var.getLsbD 0))) s

/-- `lcmp` (R291). -/
def execLcmp (f : Fields) (s : State) : Host.Outcome State Fault Refusal :=
  issue (.lcmp f) lodeCmp s

/-- `lclz` (R291). -/
def execLclz (f : Fields) (s : State) : Host.Outcome State Fault Refusal :=
  issue (.lclz f) lodeClz s

/-- `lmulw` (R292). -/
def execLmulw (f : Fields) (s : State) : Host.Outcome State Fault Refusal :=
  issue (.lmulw f) (lodeMul false) s

/-- `lmacw` (R292). -/
def execLmacw (f : Fields) (s : State) : Host.Outcome State Fault Refusal :=
  issue (.lmacw f) (lodeMul true) s

/-- `lacc` (R293). -/
def execLacc (f : Fields) (s : State) : Host.Outcome State Fault Refusal :=
  issue (.lacc f) lodeAcc s

/-- `lround` (R294). -/
def execLround (f : Fields) (s : State) : Host.Outcome State Fault Refusal :=
  issue (.lround f) lodeRound s

end Sys2Proof.Machine
end

