-- ==== Sys2Proof/Machine/Outside.lean ====
section
/-! DEFINITION. Accesses of the agents outside the compute cores: the host and PCIe functions through the CXL
stations, peers through the adits, and the application cores (R111, R112, R121, R130, R324, R325, R335, R365,
R371, R404, R441). -/

namespace Sys2Proof.Machine

/-- An agent outside the cores: its place in `outerPts`, its chiplet, and how records name it (Tables 21-4,
24-3). -/
structure Outer where
  key : Nat
  die : Nat
  path : Nat
  ukind : Nat
  unit : Nat
  deriving DecidableEq, Repr

/-- Each CXL station, adit and application core is an agent of its own (Table 06-1). Which adit a request arrives at, its
event says (DESIGN CHOICE, log 20). -/
def stationOuter (p : Nat) : Outer := ⟨p, p % 4, 12, 7, p⟩
def aditOuter (a : Nat) : Outer := ⟨16 + a, a / 4 % 4, 13, 6, a⟩
def appOuter (n : Nat) : Outer := ⟨32 + n, n / 4 % 4, 11, 8, n⟩

/-- How a record names it as the finder of an error. -/
def Outer.finder (o : Outer) : Finder := ⟨o.path, none, 0, none⟩

def Outer.pts (o : Outer) (s : State) : Nat := (tabGet s.outerPts o.key).getD 0
def Outer.raise (o : Outer) (s : State) (ts : Nat) : State :=
  { s with outerPts := tabPut s.outerPts o.key (max (o.pts s) ts) }

/-- A range in pieces within lines. -/
def lineParts (pa n : Nat) : List (Nat × Nat) :=
  if n == 0 then []
  else (List.range ((pa + n - 1) / 128 - pa / 128 + 1)).map (fun i =>
    let lo := max pa ((pa / 128 + i) * 128)
    (lo, min (pa + n) ((pa / 128 + i + 1) * 128) - lo))

/-- A refused access: an error response and one record of class 14 (R365, R404). A breach for which Table 24-1 has no code
has `REASON` 0 (DEDUCED, log 75). -/
def Outer.refuse (o : Outer) (s : State) (pa reason : Nat) : State :=
  { refuseOther s o.die o.ukind o.unit o.path none pa none reason with reply := .error }

/-- A refused read or atomic meets a fault, which is recorded with no consumer (R373). -/
def Outer.refuseRead (o : Outer) (s : State) (pa n reason : Nat) : State :=
  o.refuse (unconsumed s pa n o.finder) pa reason

/-- Loads of HBM by lines, each at its owner with the agent's timestamp (R115); `w` is what an access through a
context's tables carries (R299). -/
def Outer.loadHbm (o : Outer) (s : State) (pa n : Nat) (host : Bool) (w : Option Who := none) :
    (List Byte × Bool) × State :=
  (lineParts pa n).foldl (fun (a : (List Byte × Bool) × State) g =>
    let r := ownerLoad (detect a.2 g.1 g.2 o.finder) (o.pts a.2) g.1 g.2 w
    let s := o.raise r.2.2.2 r.2.1
    let s := if host then setLine s g.1 { lineOf s g.1 with hostCached := true } else s
    ((a.1.1 ++ r.1.1, a.1.2 || r.1.2), countPoisonRead s o.die r.1.2)) (([], false), s)

/-- Stores to HBM by lines (R115, R366): what they cover whole becomes clean, and a queue they touch is looked at
(R337). -/
def Outer.storeHbm (o : Outer) (s : State) (pa : Nat) (bs : List Byte) (w : Option Who := none) : State :=
  let s := (lineParts pa bs.length).foldl (fun s g =>
    let r := ownerStore s (o.pts s) g.1 ((bs.drop (g.1 - pa)).take g.2) w
    o.raise r.2 r.1) s
  queueHook (clearCovered s [(pa, bs.length)]) pa bs.length

/-- A range lies in HBM, or in the stockpile's absolute range. -/
def allHbm (pa n : Nat) : Bool := n != 0 && isHbm pa && isHbm (pa + n - 1)
def allStock (pa n : Nat) : Bool := n != 0 && isStockpile pa && isStockpile (pa + n - 1)

/-- A range meets a fenced pseudo-channel or bank group (R372, R409). -/
def meetsFence (s : State) (pa n : Nat) : Bool :=
  (lineParts pa n).any (fun g => fencedAt s g.1 || fencedAt s (g.1 + g.2 - 1))

/-- A range meets a page that is private to a core (R405). (DEDUCED, log 75) -/
def privateAt (s : State) (pa : Nat) (n : Nat := 1) : Bool :=
  (privAt s pa).isSome || (privAt s (pa + n - 1)).isSome

/-- Atomics on HBM at the owner (R123); a poisoned granule gives 0 and takes no write (Table 24-2). -/
def Outer.atomic (o : Outer) (s : State) (pa ty : Nat) (f : Nat → Option Nat) (w : Option Who := none) : State :=
  let n := atomSize ty
  if pa % n != 0 then { s with reply := .error }
  else if !allHbm pa n then o.refuseRead s pa n 0
  else if privateAt s pa then o.refuseRead s pa n 1
  else if meetsFence s pa n then o.refuseRead s pa n 5
  else
    let r := ownerAtomic (detect s pa n o.finder) (o.pts s) pa n f w
    let s := countPoisonRead (o.raise r.2.2 r.2.1) o.die r.1.2
    queueHook { s with reply := .data (leBytes n r.1.1) r.1.2 } pa n

/-- The types an atomic takes, with its operation (R249, Table 12-3). -/
def atomTypeOk (op ty : Nat) : Bool :=
  (4 ≤ ty && ty ≤ 7 && op ≤ 8) || (8 ≤ ty && ty ≤ 11 && op ≤ 2)

/-- A load, a store or an atomic of an outside agent to device memory. One that its range does not open to it, or on a
page private to a core, is refused (R365, R405; DEDUCED, log 75). -/
def Outer.access (o : Outer) (s : State) (pa : Nat) (op : ExtOp) (host : Bool) (w : Option Who := none) : State :=
  match op with
  | .load n =>
    if allHbm pa n then
      if privateAt s pa n then o.refuseRead s pa n 1
      else
        let r := o.loadHbm s pa n host w
        { r.2 with reply := .data r.1.1 r.1.2 }
    else if allStock pa n then
      let s := detect s pa n o.finder
      let r := readBytes s pa n
      { countPoisonRead s o.die r.2 with reply := .data r.1 r.2 }
    else o.refuseRead s pa n 0
  | .store bs =>
    if allHbm pa bs.length then
      if privateAt s pa bs.length then o.refuse s pa 1
      else if meetsFence s pa bs.length then o.refuse s pa 5
      else { o.storeHbm s pa bs w with reply := .done }
    else if allStock pa bs.length then
      if isSealed s pa || isSealed s (pa + bs.length - 1) then o.refuse s pa 0
      else if meetsFence s pa bs.length then o.refuse s pa 5
      else
        let s := clearCovered { s with mem := memWrite s.mem pa bs } [(pa, bs.length)]
        { s with reply := .done }
    else o.refuse s pa 0
  | .atom k ty v =>
    if atomTypeOk k ty then
      o.atomic s pa ty (fun old => some (updateWord k ty old (v.toNat % 2 ^ (8 * atomSize ty)))) w
    else s
  | .cas ty x v =>
    if ty == 6 || ty == 7 || ty == 4 || ty == 5 then
      o.atomic s pa ty (fun old =>
        if old == x.toNat % 2 ^ typeBits ty then some (v.toNat % 2 ^ typeBits ty) else none) w
    else s
  | _ => s

/-- The boot status word of Table 26-4. -/
def Boot.status (b : Boot) : Nat :=
  b.step % 16 + atBit 4 (b.fail % 16) + atBit 8 (bitNat b.bcopy) + atBit 9 (bitNat b.icopy) + atBit 10 (bitNat b.hcopy) +
    atBit 16 (b.nfence % 2 ^ 16)

/-- A read of the boot status word (R450). -/
def readStatus (s : State) : State := { s with reply := .data (leBytes 4 s.boot.status) false }

/-- A request at a linked port: the host reaches ranges 0 and 1 by loads and stores (R130, R323, R324, R342), and a drive
or another PCIe function reads range 0 (R325). The boot status word is read over the management interface at every step
(R450). -/
def execHostAccess (port : Nat) (addr : Nat) (op : ExtOp) (s : State) : Host.Outcome State Fault Refusal :=
  if op == .bootStatus then .next (readStatus s)
  else if 4 ≤ port || s.cxlDown.contains port || s.boot.step < 5 then .next s
  else
    match op with
    | .load _ | .store _ => .next ((stationOuter port).access s addr op true)
    | .ioLoad n =>
      .next (if allHbm addr n then (stationOuter port).access s addr (.load n) false else (stationOuter port).refuseRead s addr n 0)
    | _ => .next s

/-- A write from a drive or another PCIe function into range 0 (R325, R365, R448): one to a fenced pseudo-channel is
dropped and counted; one elsewhere, or to a private page, is refused. -/
def execIoDeviceWrite (port : Nat) (addr : Nat) (data : List Byte) (s : State) : Host.Outcome State Fault Refusal :=
  let o := stationOuter port
  if 4 ≤ port || s.cxlDown.contains port || s.boot.step < 5 || data.isEmpty then .next s
  else if !allHbm addr data.length then .next (o.refuse s addr 0)
  else
    .next ((lineParts addr data.length).foldl (fun s g =>
      if meetsFence s g.1 g.2 then errCount s o.die 5
      else if privateAt s g.1 g.2 then o.refuse s g.1 1
      else o.storeHbm s g.1 ((data.drop (g.1 - addr)).take g.2)) s)

/-- The 4096 requests of a source that a target keeps, for 10 ms (R441). -/
def keptReplies (s : State) : List PeerDone := s.peerDone.filter (fun d => s.clock < d.at_ + 12500000)

def noteReply (s : State) (source number : Nat) : State :=
  let mine := (keptReplies s).filter (fun d => d.source == source)
  let rest := (keptReplies s).filter (fun d => d.source != source)
  let mine := mine.drop (mine.length + 1 - 4096)
  { s with peerDone := rest ++ mine ++ [{ source := source, number := number, reply := s.reply, at_ := s.clock }] }

/-- A peer's request at an adit, which is an agent of its own (R111, R320, R321, R441): a duplicate is answered from the
record, another is performed once at the home; it must lie in HBM. Before HBM is trained and zeroed no adit takes one
(R342). -/
def execPeerRequest (source : PeerPort) (number : Nat) (addr : Nat) (op : ExtOp) (s : State) :
    Host.Outcome State Fault Refusal :=
  let adit := source.adit
  let peer := source.peer
  if 16 ≤ adit || s.aditsDown.contains adit || s.boot.step < 4 then .next s
  else
  match (keptReplies s).find? (fun d => d.source == peer && d.number == number) with
  | some d => .next { s with reply := d.reply }
  | none =>
    match op with
    | .load _ | .store _ | .atom _ _ _ | .cas _ _ _ =>
      .next (noteReply
        (if isStockpile addr then (aditOuter adit).refuseRead s addr 1 0 else (aditOuter adit).access s addr op false) peer number)
    | _ => .next s

/-- Place of an application core's copy of a line. -/
def outerKey (n pa : Nat) : Nat := 2 ^ 40 * n + pa / 128

/-- An application core's copy of a managed line, made from the home when it holds none (R121), with the timestamp of what
it reads (R120). -/
def outerCopy (s : State) (n pa : Nat) (w : Option Who := none) : Copy × State :=
  match tabGet s.outerCopies (outerKey n pa) with
  | some c => (c, s)
  | none =>
    let base := pa / 128 * 128
    let s := (homeRead (detectLine s pa 1 { (appOuter n).finder with path := 2 }) base 1 w).2
    ({ data := lineData s base, wts := (lineOf s base).wts, rts := 0, managed := true, dirty := 0, poison := lineMarks s base,
       flaw := 0 }, s)

def keepOuter (s : State) (n pa : Nat) (c : Copy) : State :=
  { s with outerCopies := tabPut s.outerCopies (outerKey n pa) c }

/-- Writes back the dirty bytes of an application core's copy (R121, R122, R413). -/
def cleanOuter (s : State) (n pa : Nat) : State :=
  match tabGet s.outerCopies (outerKey n pa) with
  | none => s
  | some c =>
    let base := pa / 128 * 128
    if c.dirty == 0 then s
    else
      let s := keepOuter s n pa { c with dirty := 0 }
      let o := appOuter n
      if unitFenced s base || privateAt s base then
        let gs := (List.range 4).foldl (fun m g =>
          if (List.range 32).any (fun i => c.dirty.getLsbD (32 * g + i)) then m + 2 ^ g else m) 0
        errRecord (if unitFenced s base then errCount s o.die 5 else s) o.die
          { cls := 14, sev := 1, addr := some base, vaddr := none, who := none, ukind := 8, unit := n,
            info := info24 6 gs (home s base) 6, split := 0, slot := none }
      else
        let s := writeBackBytes s base c.wts c.dirty (fun i =>
          let r := copyBytes c i 1
          (r.1.headD 0, r.2)) false
        queueHook s base 128

def dropOuter (s : State) (n pa : Nat) : State :=
  { s with outerCopies := tabDel s.outerCopies (outerKey n pa) }

/-- A copy of a line in a core is evicted: dirty bytes of a managed one go to its home (R121). Application core n
is named as core 512 + n. -/
def execManagedCopyEviction (core line : Nat) (s : State) : Host.Outcome State Fault Refusal :=
  if 512 ≤ core && core < 528 then .next (dropOuter (cleanOuter s (core - 512) (128 * line)) (core - 512) (128 * line))
  else
    match tabGet (s.core core).copies line with
    | none => .next s
    | some c =>
      let s := if c.managed then writeBackCopy s core line else s
      .next (s.modCore core (fun x => { x with copies := tabDel x.copies line }))

/-- Managed loads and stores of an application core, by lines (R121). -/
def outerLoad (s : State) (n pa size : Nat) (w : Option Who := none) : State :=
  let r := (lineParts pa size).foldl (fun (a : (List Byte × Bool) × State) g =>
    let c := outerCopy (asMode a.2 g.1 1) n g.1 w
    let q := copyBytes c.1 (g.1 % 128) g.2
    ((a.1.1 ++ q.1, a.1.2 || q.2), (appOuter n).raise (keepOuter c.2 n g.1 c.1) c.1.wts)) (([], false), s)
  { countPoisonRead r.2 (appOuter n).die r.1.2 with reply := .data r.1.1 r.1.2 }

def outerStore (s : State) (n pa : Nat) (bs : List Byte) (w : Option Who := none) : State :=
  let s := (lineParts pa bs.length).foldl (fun s g =>
    let c := outerCopy (asMode s g.1 1) n g.1 w
    let off := g.1 % 128
    let marks : BitVec 4 := (List.range 4).foldl (fun (m : BitVec 4) i =>
      if off ≤ 32 * i && 32 * i + 32 ≤ off + g.2 then m &&& ~~~(BitVec.ofNat 4 (2 ^ i)) else m) c.1.poison
    keepOuter c.2 n g.1 { c.1 with
      data := pokeLine c.1.data off ((bs.drop (g.1 - pa)).take g.2), dirty := c.1.dirty ||| maskAt 128 off g.2,
      wts := max c.1.wts ((appOuter n).pts s),
      poison := marks }) s
  { s with reply := .done }

/-- An access of an application core to the host range or a peer window leaves the module (R325): a read's data come with
its completion. A write of a host word re-evaluates the monitors on it (R65); a port that is down or a window with no port
refuses it (R441, R446). -/
def outerAway (s : State) (n ctx va addr : Nat) (op : ExtOp) : State :=
  let pull : Nat → List Byte → State := fun k data =>
    { sendExt s (otherExt s .appRead n ctx va addr k data) with reply := .sent }
  let put : List Byte → State := fun bs =>
    { extMonitors (sendExt s (otherExt s .appWrite n ctx va addr bs.length bs)) addr bs with reply := .done }
  let atom : Nat → Nat → Nat → List Byte → State := fun slot o ty data =>
    { sendExt s { otherExt s .appRead n ctx va addr (atomSize ty) data with slot := slot, op := o, ty := ty } with reply := .sent }
  match deadTarget s addr, op with
  | some r, _ => (appOuter n).refuse s addr r
  | none, .load k | none, .managedLoad k => pull k []
  | none, .store bs | none, .managedStore bs => put bs
  | none, .atom o ty v => atom 0x330 o ty (leBytes (atomSize ty) v.toNat)
  | none, .cas ty x v => atom 0x331 0 ty (leBytes (atomSize ty) x.toNat ++ leBytes (atomSize ty) v.toNat)
  | none, _ => { s with reply := .done }

/-- A load or a store of a housekeeping register (R326), which is an entry of 8 bytes: the manual gives no other access
size, and the model refuses one (DESIGN CHOICE, log 95). -/
def outerHouse (s : State) (n addr : Nat) (op : ExtOp) : State :=
  match op with
  | .load 8 =>
    match readHouse s addr with
    | some w => { s with reply := .data (wordBytes w) false }
    | none => (appOuter n).refuse s addr 0
  | .store bs =>
    if bs.length == 8 && (readHouse s addr).isSome then { writeHouse s addr (leWord bs) with reply := .done }
    else (appOuter n).refuse s addr 0
  | _ => (appOuter n).refuse s addr 0

/-- A housekeeping address. -/
def isHouse (addr : Nat) : Bool := houseBase ≤ addr && addr < houseBase + 0x1000000

/-- An access of an application core by device physical address, with a page's coherence mode where one is known (R121,
R335). -/
def outerPhysical (s : State) (n addr : Nat) (op : ExtOp) (w : Option Who) : State :=
  if isHost addr || isPeer addr then outerAway s n ((w.map Who.ctx).getD 0) ((w.map Who.va).getD addr) addr op
  else
    match op with
    | .managedLoad k =>
      if !allHbm addr k then (appOuter n).refuseRead s addr k 0
      else if privateAt s addr k then (appOuter n).refuseRead s addr k 1 else outerLoad s n addr k w
    | .managedStore bs =>
      if !allHbm addr bs.length then (appOuter n).refuse s addr 0
      else if privateAt s addr bs.length then (appOuter n).refuse s addr 1 else outerStore s n addr bs w
    | .clean => cleanOuter s n addr
    | .inval | .flush => dropOuter (cleanOuter s n addr) n addr
    | _ => (appOuter n).access s addr op false w

/-- The bytes that an access reads or writes. -/
def opSize (op : ExtOp) : Nat :=
  match op with
  | .load n | .managedLoad n | .ioLoad n => n
  | .store bs | .managedStore bs => bs.length
  | .atom _ ty _ | .cas ty _ _ => atomSize ty
  | .clean | .inval | .flush => 1
  | .bootStatus => 4

/-- What an access needs of its page (R93). -/
def opNeed (op : ExtOp) : Need :=
  match op with
  | .store _ | .managedStore _ => needW
  | .atom _ _ _ | .cas _ _ _ => needRW
  | _ => needR

/-- Why a guest's address gives no page: the walk fails, which is a page fault of the hart's own, or the page lacks a
permission (R335, R365). -/
inductive GuestStop where
  | fault (f : XFail)
  | denied (pa : Nat) (u : Upd)

/-- The page of an address of a guest, whose tables a context shares (R334, R335): a program's page needs `U`. -/
def guestPage (s : State) (ctx va : Nat) (user : Bool) (need : Need) : Except GuestStop (Nat × TlbEntry × Upd) :=
  if !(s.desc ctx).valid then .error (.fault (xfail .rxlate))
  else
    match walk s ctx va need.w (.guest user) with
    | .error f => .error (.fault f)
    | .ok (e, u) =>
      let pa := e.pa + va % 2 ^ e.log
      if (need.r && !e.r) || (need.w && !e.w) then .error (.denied pa u) else .ok (pa, e, u)

/-- A load or a store of a guest takes its page's coherence mode (R121, R335). A page whose `PBMT` is not 0 is not kept in
the core's caches, as Svpbmt has it (R92). -/
def opInMode (op : ExtOp) (cmode : Nat) : ExtOp :=
  match op, cmode with
  | .load n, 1 => .managedLoad n
  | .store bs, 1 => .managedStore bs
  | .managedLoad n, 0 => .load n
  | .managedStore bs, 0 => .store bs
  | op, _ => op

/-- An access of a guest (R299, R335, R336): it reaches what its two stages map and no housekeeping register (R326). One
event is an access within a page; a page fault goes to the hart with no record (DESIGN CHOICE, log 57), a lack of permission
is a violation (R365). -/
def guestAccess (s : State) (n ctx : Nat) (user : Bool) (va : Nat) (op : ExtOp) : State :=
  if 4096 < va % 4096 + opSize op then { s with reply := .error }
  else
    match guestPage s ctx va user (opNeed op) with
    | .error (.fault f) =>
      { walkPoison (noteWalk s f.upd) (appOuter n).die none 0 va f.poison with reply := .error }
    | .error (.denied pa u) =>
      { refuseOther (noteWalk s u) (appOuter n).die 8 n 11 (some (ctx, 0)) pa (some va) 0 with reply := .error }
    | .ok (pa, e, u) =>
      let s := noteWalk s u
      if isHouse pa || e.cmode == 2 || isAlias pa || (e.cmode == 3 && !isStockpile pa) then
        (appOuter n).refuse s pa (if e.cmode == 2 then 1 else 0)
      else
        let w : Who := { ctx := ctx, cls := e.aclass, va := va, origin := 4, core := 0x3FF, path := 11 }
        let mode := if e.pbmt == 0 then e.cmode else 0
        outerPhysical (if isHbm pa then asMode s pa e.cmode else s) n pa (opInMode op mode) (some w)

/-- The hart of an application core runs in a mode (R342, R449): the firmware once it is verified, the other cores once it
has started them, HS and VS modes once the hypervisor runs. -/
def appRuns (s : State) (n : Nat) (mode : AppMode) : Bool :=
  n < 16 && !cutOff s (n / 4) &&
    (match mode with
      | .machine => 3 ≤ s.boot.step || (s.boot.step == 2 && n == 0)
      | .hypervisor | .guest _ _ => 6 ≤ s.boot.step)

/-- An application core's access to device memory (R121, R326, R335, R336). (DESIGN CHOICE, log 57) -/
def execApplicationCoreAccess (appCore : AppHart) (addr : Nat) (op : ExtOp) (s : State) :
    Host.Outcome State Fault Refusal :=
  let n := appCore.core
  if !appRuns s n appCore.mode then .next s
  else if op == .bootStatus then
    .next (if appCore.mode == .machine then readStatus s else (appOuter n).refuse s addr 0)
  else
    match appCore.mode with
    | .guest ctx user => .next (guestAccess s n ctx user addr op)
    | _ => .next (if isHouse addr then outerHouse s n addr op else outerPhysical s n addr op none)

/-- An access of an agent outside the cores meets its stockpile group's refresh window: it waits until the window ends
(R110). -/
def eventWaits (s : State) (i : Instr) : Bool :=
  match i with
  | .hostAccess _ addr op => isStockpile addr && refreshing s addr && opSize op != 0
  | .applicationCoreAccess hart addr op =>
    (match hart.mode with
      | .guest ctx user =>
        (match guestPage s ctx addr user (opNeed op) with
          | .ok (pa, _, _) => isStockpile pa && refreshing s pa
          | .error _ => false)
      | _ => isStockpile addr && refreshing s addr)
  | _ => false

end Sys2Proof.Machine
end

