-- ==== Sys2Proof/Machine/Replies.lean ====
section
/-! DEFINITION. What returns to the cores and what memory does by itself: replies of assayers, checks of waits,
data and acknowledgements from beyond the module, error responses, page walks, fills and evictions
(R63, R65, R66, R94, R110, R116, R117, R121, R131, R253, R299, R374, R399, R404, R416). -/

namespace Sys2Proof.Machine

/-- The reply of an assayer reaches its crew (R253, R435), and is observed with the flag (R129). -/
def execAmsgReply (request : Nat) (s : State) : Host.Outcome State Fault Refusal :=
  match tabGet s.amsgs request with
  | none => .next s
  | some m =>
    match m.reply with
    | none => .next s
    | some (w, derr) =>
      let s := acceptMsg s (some request)
      let s := { s with amsgs := tabDel s.amsgs request }
      let s := pokeUniform s m.crew m.dst w
      let s := if derr then orSticky s m.crew flagDERR else s
      .next (discharge (raiseEngTs s m.crew m.pts) m.crew m.flga)

/-- Monitors that a slice holds, and those of one context (R65, R66). -/
def monitorRoom (s : State) (l ctx : Nat) : Bool :=
  let ms := (s.slice l).monitors
  ms.length < 512 && ms.countP (fun m => m.ctx == ctx) < 128

/-- A monitor is armed for a wait. -/
def armMonitor (s : State) (l crew entry ctx : Nat) (w : Wait) : State :=
  let m : Monitor :=
    { crew := crew, entry := entry, ctx := ctx, pa := w.pa, cmp := w.cmp, signed := w.signed, comparand := w.comparand }
  s.modSlice l (fun x => { x with
    monitors := x.monitors.filter (fun o => !(o.crew == crew && o.entry == entry)) ++ [m] })

/-- The word that a check of HBM compares, at its home with every partial of its line merged (R65, R66). -/
def checkWordAt (s : State) (c : Crew) (crew entry : Nat) (w : Wait) : (Word × Bool) × State :=
  let who : Who :=
    { ctx := c.ctx, cls := w.cls, va := w.va, origin := 0, core := c.core, path := 7, crew := some crew, split := entry }
  let s := mergeLine (joinBy (touchHome s w.pa (some who)) w.pa (some who)) w.pa c.pts true
  let r := homeRead s w.pa 8 (some who)
  ((leWord r.1.1, r.1.2), r.2)

/-- The wait of a split, if it stands in Monitor wait and its context is not pre-empted (R70). -/
def waitOf (s : State) (crew entry : Nat) : Option (Crew × Wait) :=
  match s.crew crew with
  | none => none
  | some c =>
    match c.split entry with
    | none => none
    | some x =>
      if x.state == .monitorWait && !c.stranded && (s.ctx c.ctx).preempt == .no && (c.state == .resident || c.state == .halted || c.state == .swappedOut) then
        x.wait.map (fun w => (c, w))
      else none

/-- A check has found a value at slice `l`: it completes the wait, or leaves a monitor armed or the re-check form (R65,
R66). A wait on host memory has both forms. -/
def checkedWait (s : State) (l : Nat) (crew entry : Nat) (c : Crew) (w : Wait) (v : Word × Bool) : State :=
  if compareWord w.cmp w.signed v.1 w.comparand then
    let s := s.modSlice l (fun x => { x with
      monitors := x.monitors.filter (fun o => !(o.crew == crew && o.entry == entry)) })
    let ts := if isHbm w.pa then (lineOf s w.pa).wts else 0
    observeLine (completeWait s crew entry v.1 ts v.2) crew w.pa
  else
    let has := (s.slice l).monitors.any (fun o => o.crew == crew && o.entry == entry)
    let arm := has || monitorRoom s l c.ctx
    let s := if has then s else if arm then armMonitor s l crew entry c.ctx w else s
    s.modCrew crew (fun c => c.modSplit entry (fun x =>
      { x with wait := some { w with inFlight := false, recheck := !arm || !isHbm w.pa, checkedAt := s.clock } }))

/-- A check of a host word is refused, or comes back with an error: the wait ends with 0 and its crew takes `RREMOTE`, as
for a load (R404, R446; DESIGN CHOICE, log 94). -/
def checkFailed (s : State) (crew entry : Nat) (w : Wait) : State :=
  let pc := (((s.crew crew).bind (fun c => c.split entry)).map Split.pc).getD 0
  let s := match home s w.pa with
    | some l => s.modSlice l (fun x => { x with
        monitors := x.monitors.filter (fun o => !(o.crew == crew && o.entry == entry)) })
    | none => s
  takeException (completeWait s crew entry 0 0 false) crew entry
    { exc := .rremote, lane := 0, va := some w.va, pa := some w.pa, opc := 0x368, pc := pc, deferred := true }

/-- A check of a host word leaves its home, which arms a monitor on the way, for its station (R65, R66, R325). -/
def sendCheck (s : State) (l : Nat) (crew entry : Nat) (c : Crew) (w : Wait) : State :=
  if s.exts.any (fun e => e.2.kind == .check && e.2.crew == crew && e.2.split == entry) then s
  else if (deadTarget s w.pa).isSome then checkFailed s crew entry w
  else
    let has := (s.slice l).monitors.any (fun o => o.crew == crew && o.entry == entry)
    let s := if !has && monitorRoom s l c.ctx then armMonitor s l crew entry c.ctx w else s
    let e := { otherExt s .check c.core c.ctx w.va w.pa 8 [] with
      crew := crew, split := entry, slot := 0x368, pc := ((c.split entry).map Split.pc).getD 0 }
    (sendExt s e).modCrew crew (fun c => c.modSplit entry (fun x =>
      { x with wait := some { w with inFlight := false, recheck := false, checkedAt := s.clock } }))

/-- The check of a wait at its home (R65, R66, R416). -/
def checkWait (s : State) (crew entry : Nat) : State :=
  match waitOf s crew entry with
  | none => s
  | some (c, w) =>
    match home s w.pa with
    | none => s
    | some l =>
      if isHbm w.pa then
        let v := checkWordAt s c crew entry w
        let hit := compareWord w.cmp w.signed v.1.1 w.comparand
        checkedWait (countPoisonRead v.2 (dieOfCore c.core) (hit && v.1.2)) l crew entry c w v.1
      else sendCheck s l crew entry c w

/-- The home's answer to a check (R65). -/
def execWaitcReply (crew entry : Nat) (s : State) : Host.Outcome State Fault Refusal :=
  match waitOf s crew entry with
  | some (_, w) => .next (if w.inFlight then checkWait s crew entry else s)
  | none => .next s

/-- A wait in re-check form is checked again every 2 µs (R66). -/
def execMonitorRecheck (crew entry : Nat) (s : State) : Host.Outcome State Fault Refusal :=
  match waitOf s crew entry with
  | some (_, w) =>
    .next (if !w.inFlight && w.recheck && w.checkedAt + 2500 ≤ s.clock then checkWait s crew entry else s)
  | none => .next s

/-- A slice checks its armed monitors against their words (R416); those on host words repeat their check. -/
def execMonitorAudit (slice : Nat) (s : State) : Host.Outcome State Fault Refusal :=
  .next ((s.slice slice).monitors.foldl (fun s m =>
    if isHbm m.pa then evalMonitors (mergeLine s m.pa s.unitPts true) m.pa else checkWait s m.crew m.entry) s)

/-- The chiplet of a requester, and how a record names it: `PATH`, `UKIND` and `UNIT` (Tables 21-4, 24-3). -/
def Ext.die (e : Ext) : Nat :=
  match e.kind with
  | .handler | .handlerWrite => dieOfSlice e.core
  | .appRead | .appWrite => e.core / 4 % 4
  | .sched => e.core
  | _ => dieOfCore e.core

def Ext.unit (e : Ext) : Nat × Nat × Nat :=
  match e.kind with
  | .handler | .handlerWrite => (10, 1, e.core)
  | .appRead | .appWrite => (11, 8, e.core)
  | .sched => (0, 1, 64 * e.core)
  | .vload | .uload | .fetch => (0, 0, e.core)
  | .check => (7, 0, e.core)
  | .unitRead | .unitWrite => (if e.lane < 16 then 8 else 9, 0, e.core)
  | _ => (1, 0, e.core)

/-- Poison that arrives from the host or a peer is detected on arrival: one record of class 15 (R364, R368, R410). It is
written where the reader is, whose window its counter is in. (DEDUCED, log 24) -/
def poisonArrived (s : State) (e : Ext) : State :=
  let crew := s.crew e.crew
  let mask := (List.range 4).foldl (fun m i =>
    let g := e.pa / 128 * 128 + 32 * i
    if g < e.pa + e.size && e.pa < g + 32 then m + 2 ^ i else m) 0
  errRecord s e.die
    { cls := 15, sev := 0, addr := some (e.pa / 32 * 32), vaddr := some e.va, who := crew.map (fun c => (c.ctx, c.index)),
      ukind := e.unit.2.1, unit := e.unit.2.2, info := info24 e.unit.1 mask (home s e.pa) 0, split := if 16 ≤ e.split then 0 else e.split,
      slot := crew.bind Crew.slot }

/-- Data reaches the destination of a load or an `atom` in its lane (R63, R243, R249); poison reads as zeros
with `DERR` (R367, Table 24-2). A crew that has retired takes nothing. -/
def deliverExt (s : State) (e : Ext) (bs : List Byte) (bad : Bool) : State :=
  let n := if e.kind == ExtKind.vatom || e.kind == ExtKind.uatom then atomSize e.ty else e.size
  let bs := if bad then List.replicate n 0 else (bs ++ List.replicate n 0).take n
  let ws : List (Nat × Word) :=
    match e.kind with
    | .vload | .uload => loadWords e.x2 e.ty bs
    | .vatom | .uatom => [(0, atomResult e.ty (leNat bs))]
    | _ => []
  let s := s.modCrew e.crew (fun c =>
    if c.state == .retired then c
    else
      match e.kind with
      | .vload | .vatom => ws.foldl (fun c w => c.setV (e.dst + w.1) e.lane (.live w.2)) c
      | .uload | .uatom => ws.foldl (fun c w => c.writeS (e.dst + w.1) w.2) c
      | _ => c)
  if bad then
    let s := orSticky s e.crew flagDERR
    if isStockpile e.pa then countPoisonRead s (dieOfCore e.core) true else poisonArrived s e
  else s

/-- An agent that waits takes the answer to its read: the data, or the reason of an error response (R325, R404). -/
def takeAway (e : Ext) (d : Option (List Byte × Bool)) (reason : Nat) (l : List Away) : List Away :=
  l.map (fun w => if w.pa == e.pa && w.size == e.size && !w.answered then { w with data := d, reason := reason } else w)

/-- Such an agent waits for a request's answer. -/
def Away.waits (e : Ext) (l : List Away) : Bool := l.any (fun w => w.pa == e.pa && w.size == e.size && !w.answered)

/-- The command of a hoist that made a request. -/
def Ext.command (e : Ext) (s : State) : Option (Nat × HoistCmd) :=
  (s.core e.core).hoist.find? (fun h => h.2.crew == e.crew && h.2.seq + 1 == e.dst)

/-- The answer reaches the agent that waits for it. -/
def giveAway (s : State) (e : Ext) (d : Option (List Byte × Bool)) (reason : Nat) : State :=
  match e.kind with
  | .unitRead =>
    s.modCore e.core (fun c =>
      if e.lane < 16 then
        { c with hoist := c.hoist.map (fun h =>
            if h.2.crew == e.crew && h.2.seq + 1 == e.dst then (h.1, { h.2 with away := takeAway e d reason h.2.away }) else h) }
      else
        { c with eng := c.eng.map (fun g => if g.crew == e.crew then { g with away := takeAway e d reason g.away } else g) })
  | .fetch => s.modCrew e.crew (fun c => c.modSplit e.split (fun x => { x with away := takeAway e d reason x.away }))
  | .handler => s.modSlice e.core (fun x => { x with
      handler := x.handler.map (fun h => if h.ctx == e.ctx then { h with away := takeAway e d reason h.away } else h) })
  | .sched => { s with away := takeAway e d reason s.away }
  | .appRead =>
    { s with reply := match d with
        | some r => .data (if r.2 then List.replicate e.size 0 else r.1.take e.size) r.2
        | none => .error }
  | _ => s

/-- Data arrive for an agent that waits for them; poison is recorded as it arrives. -/
def deliverAway (s : State) (e : Ext) (bs : List Byte) (bad : Bool) : State :=
  giveAway (if bad then poisonArrived s e else s) e (some ((if bad then List.replicate e.size 0 else bs), bad)) 0

/-- The launch of a crew completes once nothing that its crews did is outstanding (R55). -/
def settleFor (s : State) (crew : Nat) : State :=
  match (s.crew crew).bind Crew.launch with
  | some l => settleLaunch s l
  | none => s

/-- A request leaves the list of those outstanding (R50, R55, R131). -/
def dropExt (s : State) (request : Nat) (e : Ext) : State :=
  settleFor (settleHalt { s with exts := tabDel s.exts request } e.crew) e.crew

/-- A request is non-posted: data or an error come back for it. -/
def ExtKind.reads (k : ExtKind) : Bool :=
  match k with
  | .store | .unitWrite | .handlerWrite | .appWrite => false
  | _ => true

/-- A read of an agent that stands and waits for it. -/
def ExtKind.pulls (k : ExtKind) : Bool :=
  match k with
  | .unitRead | .fetch | .handler | .sched | .appRead => true
  | _ => false

/-- The answer to a check of a host word (R65, R66, Table 24-2). -/
def deliverCheck (s : State) (e : Ext) (bs : List Byte) (bad : Bool) : State :=
  let s := if bad then poisonArrived s e else s
  match waitOf s e.crew e.split with
  | some (c, w) =>
    if w.pa != e.pa || w.inFlight then s
    else
      match home s w.pa with
      | some l => checkedWait s l e.crew e.split c w (if bad then 0 else leWord bs, bad)
      | none => s
  | none => s

/-- The pattern that an atomic on host memory has written, given what it returned; none for a compare-and-swap
that did not write (R249, R250). -/
def Ext.written (e : Ext) (old : Nat) : Option Nat :=
  let n := atomSize e.ty
  let b := leNat (e.data.take n)
  if e.slot == 0x331 || e.slot == 0x333 then
    (if old == b then some (leNat (e.data.drop n)) else none)
  else some (updateWord e.op e.ty old b)

/-- A load's or an atomic's data return from beyond the module (R63, R131). The home of an `atom` to host memory
looks at its monitors (R65): the update's result is what the reply and the operand give. -/
def execLoadReturn (request : Nat) (data : List Byte) (bad : Bool) (s : State) : Host.Outcome State Fault Refusal :=
  match tabGet s.exts request with
  | none => .next s
  | some e =>
    if !e.kind.reads || isStockpile e.pa then .next s
    else
      let s :=
        if e.kind.pulls then deliverAway s e data bad
        else if e.kind == .check then deliverCheck s e data bad
        else deliverExt s e data bad
      let s :=
        if (e.kind == .vatom || e.kind == .uatom || (e.kind == .appRead && e.slot != 0)) && !bad then
          match e.written (leNat (data.take (atomSize e.ty))) with
          | some v => extMonitors s e.pa (leBytes (atomSize e.ty) v)
          | none => s
        else s
      .next (dropExt s request e)

/-- The acknowledgement of a write (R131). -/
def execWriteAcknowledgement (request : Nat) (s : State) : Host.Outcome State Fault Refusal :=
  match tabGet s.exts request with
  | none => .next s
  | some e => .next (if e.kind.reads then s else dropExt s request e)

/-- The record of an error response to a unit's request, with `DERR` for its issuer (R404). -/
def unitErrorRecord (s : State) (reason : Nat) (e : Ext) : State :=
  let path := if e.lane < 16 then 8 else 9
  unitFlags (unitRecord s ⟨e.core, e.ctx, e.crew, false, path, [], [], false, 0⟩ 14 1 path reason (some e.va) (some e.pa)) e.crew
    flagDERR

/-- An error response to a request of the hoist or the engine: a command that is still in flight fails (R420, R424); of an
engine instruction only the first such access writes a record (R427). -/
def unitError (s : State) (request reason : Nat) (e : Ext) : State :=
  if e.lane < 16 then
    match e.command s with
    | some (slot, h) => failCommand (unitErrorRecord s reason e) e.core slot h none none
    | none => unitErrorRecord s reason e
  else
    let mine : EngCmd → Bool := fun c =>
      c.crew == e.crew && (if e.kind == .unitRead then Away.waits e c.away else c.acks.contains request)
    match (s.core e.core).eng.zipIdx.find? (fun c => mine c.1) with
    | some (c, i) =>
      let t := if c.recorded then unitFlags s e.crew flagDERR else unitErrorRecord s reason e
      setEng t e.core i { c with recorded := true, away := takeAway e (some ([], true)) reason c.away }
    | none => unitErrorRecord s reason e

/-- The crew of a request takes the deferred `RREMOTE` (R365, R374): once for its instruction (R375). Its pre-emption may
then be complete (R399). -/
def crewError (s : State) (e : Ext) : State :=
  if e.told then settleFor (settleHalt s e.crew) e.crew
  else
    let s := settleFor (tellExts s e.crew e.split e.pc e.sentAt) e.crew
    let s := takeException s e.crew e.split
      { exc := .rremote, lane := e.lane, va := some e.va, pa := some e.pa, opc := e.slot, pc := e.pc, deferred := true }
    if (s.ctx e.ctx).preempt == .halted then settlePreempt (closeRing s e.core e.ctx) e.ctx else s

/-- An agent stands and waits for a request's answer. -/
def awaitsAnswer (s : State) (e : Ext) : Bool :=
  match e.kind with
  | .fetch => ((s.crew e.crew).bind (fun c => c.split e.split)).any (fun x => Away.waits e x.away)
  | .handler => (s.slice e.core).handler.any (fun h => h.ctx == e.ctx && Away.waits e h.away)
  | _ => false

/-- The record of an error response to another requester: one that waits for a crew's or a handler's own instruction is
written with that (R404, R434). -/
def otherError (s : State) (reason : Nat) (e : Ext) : State :=
  let who := match s.crew e.crew with
    | some c => some (c.ctx, c.index)
    | none => if e.kind == .handler || e.kind == .handlerWrite then some (e.ctx, 0) else none
  let va := if e.kind == .appRead || e.kind == .appWrite then none else some e.va
  let told := awaitsAnswer s e
  let s := giveAway s e none reason
  if told then s else refuseOther s e.die e.unit.2.1 e.unit.2.2 e.unit.1 who e.pa va reason

/-- An error response to a request (R365, R404): a load's or an atomic's lane receives 0, and the crew takes the
deferred `RREMOTE`, of which a crew that has retired leaves the record alone (R379). -/
def errorResponse (s : State) (request reason : Nat) (e : Ext) : State :=
  let s := { s with exts := tabDel s.exts request }
  match e.kind with
  | .unitRead | .unitWrite => settleFor (unitError s request reason e) e.crew
  | .vload | .uload | .vatom | .uatom => crewError (deliverExt s e [] false) e
  | .store => crewError s e
  | .check =>
    match waitOf s e.crew e.split with
    | some (_, w) => checkFailed s e.crew e.split w
    | none => otherError s reason e
  | _ => otherError s reason e

/-- The error responses that arise at a port (Table 24-1): a completion with an error status for a non-posted request to the
host, and an error reply of a peer. A posted write to the host range has been acknowledged as its station sent it on
(R448). -/
def responds (e : Ext) (reason : Nat) : Bool :=
  (isHost e.pa && e.kind.reads && reason == 2) || (isPeer e.pa && reason == 4)

def execRemoteErrorResponse (request reason : Nat) (s : State) : Host.Outcome State Fault Refusal :=
  match tabGet s.exts request with
  | none => .next s
  | some e => .next (if responds e reason then errorResponse s request reason e else s)

/-- A page walk ends on a chiplet (R94, R411): the shared TLB holds the entry and `A` and `D` are set, or the
translation fails. -/
def execPageWalkDone (die ctx : Nat) (va : Word) (write : Bool) (s : State) : Host.Outcome State Fault Refusal :=
  let ask := askDie die
  if 4 ≤ die || !(s.desc ctx).valid then .next s
  else
    match walk s ctx va.toNat write with
    | .error f => .next (noteFail s ask none 0 va.toNat f)
    | .ok (e, u) =>
      if write && !e.w then .next s
      else .next (noteXlate s ask ⟨va.toNat, e.pa + va.toNat % 2 ^ e.log, e, u⟩)

/-- A bank group's window has ended (R110): the reads that met it are performed. -/
def refreshDone (s : State) (die group : Nat) : State :=
  let mine : Ext → Bool := fun e =>
    isStockpile e.pa && (e.pa - 0x10000000000) / 0x100000000 == die &&
      (e.pa - 0x10000000000) % 0x100000000 / 0x8000000 == group && !refreshing s e.pa
  (s.exts.filter (fun r => mine r.2)).foldl (fun s r =>
    let s := detect s r.2.pa r.2.size ⟨0, some r.2.crew, r.2.split, some r.2.va⟩
    let d := readBytes s r.2.pa r.2.size
    let s := deliverExt s r.2 d.1 d.2
    dropExt s r.1 r.2) s

def execStockpileRefreshEnd (die group : Nat) (s : State) : Host.Outcome State Fault Refusal :=
  .next (refreshDone s die group)

/-- The program timestamp of a crew with a live split advances (R116). -/
def execProgramTimestampAdvance (crew : Nat) (s : State) : Host.Outcome State Fault Refusal :=
  .next (s.modCrew crew (fun c =>
    if c.state == .resident && !c.splits.isEmpty then { c with pts := c.pts + 1 } else c))

/-- A line that `as.pf` asked for arrives at its home, and a line of the same home may leave to make room
(R299, R309). -/
def execLineFill (line : Nat) (victim : Option Nat) (s : State) : Host.Outcome State Fault Refusal :=
  let s := match victim with
    | some v => if v != line && home s (128 * v) == home s (128 * line) then evictLine s v else s
    | none => s
  let asked := s.slices.findSome? (fun x => (x.2.prefetch.find? (fun p => p.1 == line)).map Prod.snd)
  match asked with
  | none => .next s
  | some (ctx, cls, va) =>
    let s := touchQuiet s (128 * line) ctx cls va
    .next { s with slices := s.slices.map (fun x =>
      (x.1, { x.2 with prefetch := x.2.prefetch.filter (fun p => p.1 != line) })) }

end Sys2Proof.Machine
end

