-- ==== Sys2Proof/Machine/Failure.lean ====
section
/-! DEFINITION. Faults in the fabric and in memory: failed routers and what is harvested with them (R415, R436 to
R439), links, adits, CXL ports and I/O cores (R404, R440, R441, R445, R446), and the scrubs (R368, R409). -/

namespace Sys2Proof.Machine

/-- The largest program timestamp of an agent in the package (R415). -/
def topPts (s : State) : Nat :=
  let crews := s.crews.foldl (fun m e => max m (max e.2.pts (max e.2.engTs e.2.redTs))) s.unitPts
  let outer := s.outerPts.foldl (fun m e => max m e.2) crews
  s.slices.foldl (fun m e => e.2.installs.foldl (fun m i => max m i.2.pts) m) outer

/-- The dirty granules of a line that a stash held are poisoned. (DEDUCED, log 31) -/
def poisonDirty (s : State) (l : MLine) : State :=
  (List.range 4).foldl (fun s i =>
    if l.dirty &&& maskAt 128 (32 * i) 32 == 0 then s else poisonRange s (l.pa / 128 * 128 + 32 * i) 32) s

/-- A line whose owning stash is gone is recovered at its home (R414, R436), which makes room for it (R12): both timestamps
become `smax`. -/
def recoverLine (s : State) (core entry : Nat) (l : MLine) : State :=
  let x := lineOf s l.pa
  if x.owner != some (core, entry) then s
  else
    let s := makeLineRoom s l.pa
    let top := match home s l.pa with
      | some h => (s.slice h).smax
      | none => 0
    poisonDirty (setLine s l.pa { x with owner := none, held := true, wts := top, rts := top }) l

/-- A core of a failed router is harvested (R436): what its stash owned is recovered, and all that it held is
lost. -/
def harvestCore (s : State) (core : Nat) : State :=
  let s := (s.core core).maps.foldl (fun s e => e.2.lines.foldl (fun s l => recoverLine s core e.1 l.2) s) s
  let s := s.setCore core Core.reset
  let its : Ext → Bool := fun e => e.unit.2.1 == 0 && e.core == core
  let lost := ((s.exts.filter (fun e => its e.2)).map (fun e => e.2.crew)).eraseDups
  let s := { s with coresDown := setAdd s.coresDown core
                    exts := s.exts.filter (fun e => !its e.2)
                    tlb := s.tlb.filter (fun e => e.place != .core core) }
  lost.foldl settleFor s

/-- A crew on a core is stranded with it (R439). -/
def Crew.strands (c : Crew) (cores : List Nat) : Bool :=
  cores.contains c.core && !c.stranded &&
    (match c.state with
     | .resident | .swappedOut | .halted | .saved => true
     | _ => false)

/-- The crews of harvested cores are stranded, with one record for each context (R439). -/
def strandCrews (s : State) (die : Nat) (cores : List Nat) : State :=
  let hit := s.crews.filter (fun e => e.2.strands cores)
  let ctxs := (hit.map (fun e => e.2.ctx)).eraseDups
  let s := hit.foldl (fun s e => s.modCrew e.1 (fun c => { c with stranded := true })) s
  ctxs.foldl (fun s ctx =>
    let n := hit.countP (fun e => e.2.ctx == ctx)
    errRecord s die { rec16 ctx 0 2 (n % 65536) none none 0 0 with cls := 8 }) s

/-- The substitute of a router's slice: the live router of its chiplet with the fewest hops from it, the lower
index on a tie (R415); none where no router of the chiplet lives. -/
def substituteFor (s : State) (router : Nat) : Option Nat :=
  let live := (List.range 64).filter (fun r => !s.routersDown.contains (64 * (router / 64) + r))
  (leastBy (fun r => hops (router % 64) r) live).map (fun r => 64 * (router / 64) + r)

/-- The slice that holds a partial of a line: slice 64c + fold of its chiplet, or that slice's substitute (R124, R415). -/
def partialSlice (s : State) (base : Nat) (p : Partial) : Nat := liveSlice s (64 * p.die + fold (localPa base / 128))

/-- The record of a partial that is lost (R410, R417): `PATH` 5, `PART` 1, the granules that it updated. -/
def partialRecord (s : State) (base : Nat) (p : Partial) (cls : Nat) : State :=
  let l := partialSlice s base p
  let a := base + p.off
  errRecord (poisonRange s a p.size) (dieOfSlice l)
    { cls := cls, sev := 0, addr := some (a / 32 * 32), vaddr := none, who := none, ukind := 1, unit := l,
      info := info24 5 (lineGranules base a p.size) (home s base) 0 + atBit 5 1, split := 0, slot := none }

/-- The partials that stood only in a harvested slice are lost, whichever slice is the home of their lines (R124, R415,
R417): each counts in class 15, with its record. (DEDUCED, log 31) -/
def losePartials (s : State) (l : Nat) : State :=
  s.lines.foldl (fun s e =>
    let base := 128 * e.1
    let out := e.2.partials.filter (fun p => partialSlice s base p == l)
    if out.isEmpty then s
    else
      let s := setLine s base { e.2 with partials := e.2.partials.filter (fun p => partialSlice s base p != l) }
      out.foldl (fun s p => partialRecord s base p 15) s) s

/-- A line of a harvested slice passes to the substitute (R415). What a stash owns stays as it is; the granules of dirty
data that only the slice held are poisoned in HBM (R438). The line is not held there, and takes the adoption's
timestamp. -/
def adoptLine (s : State) (line : Nat) : State :=
  match tabGet s.lines line with
  | none => s
  | some l =>
    let base := 128 * line
    if l.owner.isSome then s
    else
      let s := setLine s base { l with held := false, leased := false, record := none, dirty := 0 }
      (List.range 4).foldl (fun s g => if l.held && l.dirty.getLsbD g then poisonRange s (base + 32 * g) 32 else s) s

/-- The waits behind a harvested slice's monitors pass to the re-check form, with a first check at once (R416). -/
def loseMonitors (s : State) (die l : Nat) : State :=
  let ms := (s.slice l).monitors
  let s := s.modSlice l (fun x => { x with monitors := [] })
  ms.foldl (fun s m =>
    errCount (s.modCrew m.crew (fun c => c.modSplit m.entry (fun x =>
      { x with wait := x.wait.map (fun w => { w with inFlight := true, recheck := true }) }))) die 8) s

/-- A harvested slice's assayer: its contexts leave it, and each of its messages replies 0 with `DERR` (R435). -/
def loseAssayer (s : State) (l : Nat) : State :=
  let s := match (s.slice l).handler with
    | some h => if h.ev.kind == 3 && !h.replied then replyTo s h.ev.request 0 true else s
    | none => s
  let s := s.modSlice l (fun x => { x with handler := none, prefetch := [] })
  (s.slice l).installs.foldl (fun s i => removeInstall (dropEvents s l i.1 true) l i.1) s

/-- The slices that a harvested slice serves: its own and those that it stands in for. -/
def servedSlices (s : State) (l : Nat) : List Nat :=
  (s.slices.filter (fun e => e.1 != l && e.2.substitute == some l)).map Prod.fst ++ [l]

/-- A slice is harvested (R415, R416, R435): its substitute adopts its lines at timestamp `g`. -/
def harvestSlice (s : State) (l g : Nat) (sub : Option Nat) : State :=
  let die := dieOfSlice l
  let lines := (s.lines.map Prod.fst).filter (fun n => home s (128 * n) == some l)
  let served := servedSlices s l
  let s := lines.foldl adoptLine (losePartials s l)
  let s := loseAssayer (loseMonitors s die l) l
  let s := served.foldl (fun s k => s.modSlice k (fun x => { x with mts := max x.mts g, substitute := sub })) s
  match sub with
  | some t => s.modSlice t (fun x => { x with smax := max x.smax g })
  | none => s.modSlice l (fun x => { x with smax := max x.smax g })

/-- Routers of a chiplet fall out with their cores and slices (R436, R439, R440). -/
def harvestRouters (s : State) (routers : List Nat) : State :=
  let die := (routers.head?.getD 0) / 64
  let cores := routers.flatMap (fun r => [2 * r, 2 * r + 1])
  let s := { s with routersDown := routers.foldl setAdd s.routersDown }
  let s := cores.foldl harvestCore s
  let g := 1024 + topPts s
  let s := routers.foldl (fun s r => harvestSlice s r g (substituteFor s r)) s
  strandCrews s die cores

/-- A record about a unit that falls out (Table 21-4). -/
def unitOut (cls ukind unit info : Nat) : ErrRec :=
  { cls := cls, sev := 2, addr := none, vaddr := none, who := none, ukind := ukind, unit := unit, info := info,
    split := 0, slot := none }

/-- A router fails (R436): bits 23:16 of its record name the substitute (R415), 0xFF where none lives. -/
def execRouterFail (router : Nat) (s : State) : Host.Outcome State Fault Refusal :=
  if 256 ≤ router || s.routersDown.contains router then .next s
  else
    let s := harvestRouters s [router]
    .next (errRecord s (router / 64) (unitOut 8 2 router (atBit 16 ((substituteFor s router).getD 0xFF))))

/-- A flit or a request that a router held is sent again, and each is performed once (R438): masked, and counted in
class 6 (R364, R368). Here an access is performed when it is made, so nothing is outstanding in the mesh.
(DEDUCED, log 53) -/
def execMeshResend (router : Nat) (s : State) : Host.Outcome State Fault Refusal :=
  .next (if router < 256 then errCount s (router / 64) 6 else s)

/-- The chiplet in whose window a link's record stands: the first that its name gives. -/
def linkDie (link : Nat) : Nat :=
  match link with
  | 0 => 0
  | 1 => 1
  | 2 => 3
  | _ => 2

/-- The other units of a chiplet that is cut off fall out with its routers (R440): its pseudo-channels and bank groups, its
station, adits and I/O cores; nothing beyond it reaches them. (DEDUCED, log 30) -/
def cutUnits (s : State) (die : Nat) : State :=
  let all : Nat → List Nat → List Nat := fun n l => ((List.range n).map (fun i => n * die + i)).foldl setAdd l
  { s with fencedPc := all 192 s.fencedPc, fencedGroups := all 32 s.fencedGroups, cxlDown := all 1 s.cxlDown,
           aditsDown := all 4 s.aditsDown, ioDown := all 16 s.ioDown }

/-- A UCIe link is taken down (R440). A chiplet that no live link reaches is cut off and harvested. (DEDUCED, log 30) -/
def execUcieLinkDown (link : Nat) (s : State) : Host.Outcome State Fault Refusal :=
  if 4 ≤ link || s.linksDown.contains link then .next s
  else
    let s := { s with linksDown := setAdd s.linksDown link }
    let s := errRecord s (linkDie link) (unitOut 7 5 link 0)
    let cut := (List.range 4).filter (fun d => (linksOf d).contains link && cutOff s d)
    .next (cut.foldl (fun s d =>
      cutUnits (harvestRouters s (((List.range 64).map (fun r => 64 * d + r)).filter (fun r => !s.routersDown.contains r))) d) s)

/-- A request without a reply is sent again, up to 8 sends, 20 µs apart: masked, and counted in class 9 at the adits'
chiplet (R364, R368). Then the local adit answers it with an error, reason 4 of Table 24-1 (R441). -/
def execAditResend (request : Nat) (s : State) : Host.Outcome State Fault Refusal :=
  match tabGet s.exts request with
  | none => .next s
  | some e =>
    if !isPeer e.pa || s.clock < e.sentAt + 25000 * e.sends then .next s
    else if e.sends < 8 then
      .next (errCount { s with exts := tabPut s.exts request { e with sends := e.sends + 1 } } (s.window (windowOf e.pa)).die 9)
    else .next (errorResponse s request 4 e)

/-- An adit port's link goes down (R441). -/
def execAditPortDown (port : Nat) (s : State) : Host.Outcome State Fault Refusal :=
  if 16 ≤ port || s.aditsDown.contains port then .next s
  else
    .next (errRecord { s with aditsDown := setAdd s.aditsDown port } (port / 4) (unitOut 9 6 port 0))

/-- A non-posted request to the host without a completion within 50 ms (R404, reason 3). -/
def execCxlCompletionTimeout (request : Nat) (s : State) : Host.Outcome State Fault Refusal :=
  match tabGet s.exts request with
  | none => .next s
  | some e =>
    if isHost e.pa && e.kind.reads && e.sentAt + 62500000 ≤ s.clock then .next (errorResponse s request 3 e) else .next s

/-- A CXL port goes down or comes up (R446); one of a chiplet that is cut off stays down (R440). -/
def execCxlPortDown (port : Nat) (s : State) : Host.Outcome State Fault Refusal :=
  .next (if 4 ≤ port then s else { s with cxlDown := setAdd s.cxlDown port })

def execCxlPortUp (port : Nat) (s : State) : Host.Outcome State Fault Refusal :=
  .next (if cutOff s port then s else { s with cxlDown := setDel s.cxlDown port })

/-- An I/O core fails (R445): its rings pass to the lowest live one of its chiplet, which looks at them, with `HEAD` and
`CNEXT` as they stand. -/
def execIoCoreFail (ioCore : Nat) (s : State) : Host.Outcome State Fault Refusal :=
  if 64 ≤ ioCore || s.ioDown.contains ioCore then .next s
  else
    let rings := s.rings.map (fun r => if servedBy s r.1 == some ioCore then (r.1, { r.2 with woken := true }) else r)
    .next (errRecord { s with ioDown := setAdd s.ioDown ioCore, rings := rings } (ioCore / 16) (unitOut 17 9 ioCore 0))

/-- Uncorrectable data found by a scrub: its granule is poisoned, with one record (R364, R366, R410). -/
def scrubFound (s : State) (die cls ukind unit pa : Nat) : State :=
  let g := pa / 32 * 32
  let s := poisonRange s g 32
  errRecord s die
    { cls := cls, sev := 0, addr := some g, vaddr := none, who := none, ukind := ukind, unit := unit,
      info := info24 14 (2 ^ (g / 32 % 4)) (home s g) 0, split := 0, slot := none }

/-- A bank group's scrub within its refresh window (R110, R368): a correctable error counts, an uncorrectable one
poisons its granule. Addresses outside the group, and granules poisoned before, are no finding. -/
def execStockpileScrub (die group : Nat) (found : List (Nat × Bool)) (s : State) : Host.Outcome State Fault Refusal :=
  let base := 0x10000000000 + die * 0x100000000 + group * 0x8000000
  if 4 ≤ die || 32 ≤ group || !refreshing s base then .next s
  else
    .next (found.foldl (fun s f =>
      if f.1 < base || base + 0x8000000 ≤ f.1 || s.poison.contains (f.1 / 32) then s
      else if f.2 then scrubFound s die 4 4 (32 * die + group) f.1
      else errCount s die 4) s)

/-- A pseudo-channel is fenced, with one record (R409): no line's, so `HSLICE` is 0xFF (Table 24-3). -/
def fenceChannel (s : State) (die pc : Nat) : State :=
  if s.fencedPc.contains pc then s
  else errRecord { s with fencedPc := setAdd s.fencedPc pc } die (unitOut 5 3 pc (info24 0 0 none 0))

/-- An uncorrectable detection on a pseudo-channel: the 16th within one second fences it (R409). -/
def noteHit (s : State) (die pc : Nat) : State :=
  let hits := ((tabGet s.pcHits pc).getD []).filter (fun t => s.clock < t + 1250000000) ++ [s.clock]
  let s := { s with pcHits := tabPut s.pcHits pc hits }
  if 16 ≤ hits.length then fenceChannel s die pc else s

/-- The patrol scrub of HBM (R368, R409). -/
def execHbmPatrolScrub (found : List (Nat × Bool)) (s : State) : Host.Outcome State Fault Refusal :=
  .next (found.foldl (fun s f =>
    if !isHbm f.1 || s.poison.contains (f.1 / 32) || s.fencedPc.contains (pseudoChannel f.1) then s
    else
      let die := ownerDie f.1
      let pc := pseudoChannel f.1
      if f.2 then noteHit (scrubFound s die 5 3 pc f.1) die pc else errCount s die 5) s)

/-- A record of class 1 about a unit (R368, R410). -/
def sramRecord (s : State) (die ukind unit info : Nat) (pa : Option Nat) : State :=
  errRecord s die
    { cls := 1, sev := 0, addr := pa, vaddr := none, who := none, ukind := ukind, unit := unit, info := info, split := 0,
      slot := none }

/-- A granule of a register of a crew on its partition is lost; its next read finds that (R364, R368). -/
def strikeReg (s : State) (crew : Nat) (f : Crew → Crew) : State :=
  s.modCrew crew (fun c => if c.onCore then f c else c)

/-- A monitor's entry is lost: its wait passes to the re-check form, with a first check at once, and the loss is counted and
recorded in class 1 (R369, R416). -/
def strikeMonitor (s : State) (l index : Nat) : State :=
  match (s.slice l).monitors[index]? with
  | none => s
  | some m =>
    let s := s.modSlice l (fun x => { x with monitors := x.monitors.eraseIdx index })
    let s := s.modCrew m.crew (fun c => c.modSplit m.entry (fun x =>
      { x with wait := x.wait.map (fun w => { w with inFlight := true, recheck := true }) }))
    sramRecord s (dieOfSlice l) 1 l (info24 7 (granulesOf m.pa 8) (some l) 0) (some (m.pa / 32 * 32))

/-- A queued event is lost (R435): a message replies 0 with `DERR`, another event counts in `DISC`. -/
def strikeEvent (s : State) (l ctx index : Nat) : State :=
  match (installOf s l ctx).bind (fun i => i.queue[index]?) with
  | none => s
  | some e =>
    let s := modInstall s l ctx (fun i => { i with
      queue := i.queue.eraseIdx index
      disc := if e.kind == 3 then i.disc else min (i.disc + 1) (2 ^ 64 - 1) })
    let s := if e.kind == 3 then replyTo s e.request 0 true else s
    sramRecord (admitWaiting 24 s l ctx) (dieOfSlice l) 1 l (info24 10 0 (some l) 0) none

/-- A partial is lost (R417): the granules that it updated are poisoned, with one record, and it counts in class 15 too. -/
def strikePartial (s : State) (pa index : Nat) : State :=
  let x := lineOf s pa
  match x.partials[index]? with
  | none => s
  | some p =>
    let base := pa / 128 * 128
    let s := setLine s pa { x with partials := x.partials.eraseIdx index }
    partialRecord (s.count (dieOfSlice (partialSlice s base p)) 15 1) base p 1

/-- A line's timestamps are lost (R414): a stash that owns the line answers with them; otherwise both become `smax`, and a
line whose data are lost too is poisoned. -/
def strikeDirectory (s : State) (pa : Nat) (data : Bool) : State :=
  let base := pa / 128 * 128
  match home s base with
  | none => s
  | some l =>
    let x := lineOf s base
    if !isHbm base || !(x.held || x.owner.isSome) then s
    else
      let top := (s.slice l).smax
      let s := if x.owner.isSome then s else setLine s base { x with wts := top, rts := top }
      let lost : Bool := data && x.owner.isNone
      let s := if lost then poisonRange s base 128 else s
      sramRecord s (dieOfSlice l) 1 l (info24 15 (if lost then 15 else 0) (some l) 0 + atBit 4 1) (some base)

/-- A command to a unit of a core is dropped before it acts (class 11): its issuer sees a detected fault of the unit's own
kind (R368, R424, R427). -/
def strikeHoist (s : State) (core slot : Nat) : State :=
  match tabGet (s.core core).hoist slot with
  | none => s
  | some h => if h.ps == 0 && h.park.isNone then failCommand s core slot h (some (11, 0)) none else s

def strikeEngine (s : State) (core : Nat) : State :=
  match (engFree s core).find? (fun c => c.2.pos == 0) with
  | none => s
  | some (i, c) => finishEngine (unitFlags (unitRecord s (c.unit core) 11 0 9 0 none none) c.crew flagDERR) core i c

/-- A granule of a core's stash is lost (R364, R366): its bytes are poisoned, with one record. Those that hold an owned or a
private line are the line's own: their granules are lost, which the next read of them finds. -/
def strikeStash (s : State) (core g : Nat) : State :=
  let a := 32 * g
  let own : List (Nat × Nat) := (s.core core).maps.flatMap (fun e =>
    (e.2.lines.filter (fun l => l.2.filled && l.2.cmode != 1 && (l.2.cmode == 2 || (lineOf s l.2.pa).owner == some (core, e.1)))).flatMap
      (fun l => ((e.2.spots l.1).filter (fun t => e.2.phys t.1 < a + 32 && a < e.2.phys t.1 + t.2.2)).map
        (fun t => (l.2.pa, t.2.1 + (max a (e.2.phys t.1) - e.2.phys t.1)))))
  match own with
  | [] =>
    sramRecord (s.modCore core (fun c => { c with stashPoison := setMarks c.stashPoison a 32 })) (dieOfCore core) 0 core
      (info24 2 (2 ^ (g % 4)) none 0) none
  | l =>
    let new := (l.filter (fun p => !s.poison.contains ((p.1 + p.2) / 32))).map (fun p => (p.1 + p.2) / 32)
    { s with latent := new.foldl setAdd s.latent }

/-- A bank group fails and is fenced, with one record (R372): its granules read as poisoned, and writes into it are
refused. -/
def fenceGroup (s : State) (die group : Nat) : State :=
  let u := 32 * die + group
  if 4 ≤ die || 32 ≤ group || s.fencedGroups.contains u then s
  else errRecord { s with fencedGroups := setAdd s.fencedGroups u } die (unitOut 4 4 u (info24 0 0 none 0))

/-- A granule of a line in an application core's caches is lost (class 17 of R368): it is poisoned there, with one
record. -/
def strikeCache (s : State) (n line granule : Nat) : State :=
  let pa := 128 * line + 32 * granule
  match tabGet s.outerCopies (outerKey n pa) with
  | none => s
  | some c =>
    if 16 ≤ n || 4 ≤ granule then s
    else
      errRecord { s with outerCopies := tabPut s.outerCopies (outerKey n pa) { c with poison := c.poison ||| BitVec.ofNat 4 (2 ^ granule) } } (n / 4)
        { cls := 17, sev := 0, addr := some pa, vaddr := none, who := none, ukind := 8, unit := n,
          info := info24 11 (2 ^ granule) (home s pa) 0, split := 0, slot := none }

/-- A fault arises in a unit (R364, R368). Faults of storage are found as they arise, but for those of registers, which a
read finds; those of class 2, and a dropped access, befall an instruction that executes (DEDUCED, log 69). -/
def strikeUnit (s : State) (f : HwFault) : State :=
  match f with
  | .masked die cls => if die < 4 && [1, 2, 4, 5, 6, 7, 9, 17].contains cls then errCount s die cls else s
  | .vreg crew n lane => strikeReg s crew (fun c => if n < c.kernel.vcount && lane < c.lanes then c.setV n lane (.bad true) else c)
  | .sreg crew n => strikeReg s crew (fun c => if n < c.kernel.scount then c.setS n (.bad true) else c)
  | .otherReg crew g => strikeReg s crew (fun c =>
      if g < 576 && !(240 ≤ g && g < 256) then { c with lost := tabPut c.lost g true } else c)
  | .accPair core tile pair =>
    if 2048 ≤ pair || (tabGet (s.core core).accCtx tile).isNone then s
    else s.modCore core (fun c => { c with accLost := tabPut c.accLost (2048 * tile + pair) true })
  | .macroBlock core b =>
    if 512 ≤ core || 32 ≤ b then s
    else s.modCore core (fun c => { c with macros := { c.macros with lost := setAdd c.macros.lost b } })
  | .stash core g => if 512 ≤ core || 16384 ≤ g then s else strikeStash s core g
  | .l2 pa =>
    if !isHbm pa || !(lineOf s pa).held || granuleBad s pa then s
    else
      sramRecord (poisonRange s pa 1) (ownerDie pa) 1 ((home s pa).getD 0xFF) (info24 2 (2 ^ (pa / 32 % 4)) (home s pa) 0)
        (some (pa / 32 * 32))
  | .assayerData l ctx g =>
    if (installOf s l ctx).isNone || 2048 ≤ g then s
    else
      sramRecord (modInstall s l ctx (fun i => { i with dataPoison := setAdd i.dataPoison g })) (dieOfSlice l) 1 l
        (info24 10 0 (some l) 0) none
  | .hoistDropped core slot => strikeHoist s core slot
  | .engineDropped core => strikeEngine s core
  | .monitor l index => strikeMonitor s l index
  | .queueEntry l ctx index => strikeEvent s l ctx index
  | .partialLost pa index => strikePartial s pa index
  | .directory pa data => strikeDirectory s pa data
  | .channel pc => if pc < 768 then fenceChannel s (pc / 192) pc else s
  | .bankGroup die group => fenceGroup s die group
  | .reevalDropped l => s.modSlice l (fun x => { x with dropEval := true })
  | .appCache n line g => strikeCache s n line g
  | .datapath _ _ _ | .engine _ | .accessDropped _ _ => s

/-- The instruction that a split issues next, as it will stand when it executes. -/
def nextEnv (s : State) (crew entry : Nat) : Option Env :=
  match s.crew crew with
  | none => none
  | some c =>
    match c.split entry with
    | none => none
    | some x =>
      match fetchSplit s c x with
      | .instr i _ _ => envOf i { s with actor := .split crew entry }
      | .bad _ _ _ _ => none

/-- The instruction of a split has executed: the split went on, or is gone. -/
def wentOn (c d : Crew) (entry : Nat) : Bool := (c.split entry).map Split.pc != (d.split entry).map Split.pc

/-- The lodes that a lode form writes, as granules of all their limbs, and its uniform results (R285, R431). -/
def Env.lodeResults (e : Env) : List (Bool × Nat × Nat) :=
  let w := 2 ^ ((e.c.lode.map Prod.fst).getD 0)
  let q := descQ (e.uni e.descNum).1.toNat
  let limbs : List (Bool × Nat × Nat) := (List.range (w * q)).map (fun l => (true, e.dst, l))
  let unis : Nat → List (Bool × Nat × Nat) := fun b => (List.range q).map (fun j => (false, b + j, 0))
  match e.slot with
  | 0x2C2 | 0x2C3 | 0x2C9 | 0x2CA => limbs ++ unis e.srccNum
  | 0x2C7 | 0x2C8 | 0x2CC => unis e.dst
  | _ => limbs

/-- The register granules to which an instruction writes its result, in the lanes of a word where one is given (R200, R431). -/
def Env.results (e : Env) (s : State) (word : Option Nat) : List (Bool × Nat × Nat) :=
  if lodeSlot e.slot then e.lodeResults
  else
    let ls := (if e.form.pred then e.acting else e.lanes).filter (fun l => word.all (fun w => l / 32 == w))
    match (e.named s).head? with
    | some (.vreg n, k) => (List.range k).flatMap (fun i => ls.map (fun l => (true, n + i, l)))
    | some (.sreg n, k) => if e.acts then (List.range k).map (fun i => (false, n + i, 0)) else []
    | _ => []

/-- An instruction that accesses memory, a stash or a page: `ld` to `ssts`, `atom` to `satomCas`, `red` and `sred`. -/
def accessSlot (slot : Nat) : Bool :=
  (0x300 ≤ slot && slot ≤ 0x307) || (0x330 ≤ slot && slot ≤ 0x333) || slot == 0x350 || slot == 0x351

/-- Registers that differ, as their values; a source that has ended with its last use is no result (R80). -/
def changedRegs (c d : Crew) (word : Nat) : List (Bool × Nat × Nat) :=
  let lanes := (List.range 32).map (fun i => 32 * word + i)
  let news : RegVal → RegVal → Bool := fun a b => a != b && b != .dead
  (List.range d.kernel.vcount).flatMap (fun n =>
      (lanes.filter (fun l => l < d.lanes && news (c.vAt n l) (d.vAt n l))).map (fun l => (true, n, l))) ++
    ((List.range d.kernel.scount).filter (fun n => news (c.sAt n) (d.sAt n))).map (fun n => (false, n, 0))

/-- Register granules become zeros. -/
def Crew.zeroed (d : Crew) (l : List (Bool × Nat × Nat)) : Crew :=
  l.foldl (fun d g => if g.1 then d.setV g.2.1 g.2.2 (.live 0) else d.setS g.2.1 (.live 0)) d

/-- The predicates and masks that an instruction has written hold zeros, a predicate in the word's lanes. -/
def Crew.zeroedPreds (c d : Crew) (word : Nat) : Crew :=
  let hit := ((List.range 15).filter (fun n => d.pAt n != c.pAt n))
  let ks := ((List.range 16).filter (fun n => d.kAt n != c.kAt n))
  let d := hit.foldl (fun (d : Crew) n => d.setP n (d.pAt n &&& ~~~ maskAt 1024 (32 * word) 32)) d
  { d with k := ks.foldl (fun k n => tabPut k n 0) d.k }

/-- The word of a split's result that failed its check twice is written as zeros, with `DERR` and a record of class 2
(R367, R368): of a lode form every limb of the lodes that it writes, and its uniform results (R431). -/
def zeroResult (s t : State) (crew entry word : Nat) : State :=
  match s.crew crew, t.crew crew, nextEnv s crew entry with
  | some c, some d, some e =>
    if !wentOn c d entry then t
    else
      let rs := if lodeSlot e.slot then [] else changedRegs c d word
      let rs := rs ++ (if 0x300 ≤ e.slot && e.slot < 0x3E0 then [] else e.results s (some word))
      let z := c.zeroedPreds d word
      if rs.isEmpty && z == d then t
      else errRecord (orSticky (t.setCrew crew (z.zeroed rs)) crew flagDERR) (dieOfCore c.core) (crewRec c 2 0 0 none none entry)
  | _, _, _ => t

/-- An access that its receiver drops before it acts (class 11 of R368): nothing is performed, what it would have delivered is
zeros, and its issuer has `DERR` and a record (R367). An instruction of another kind is not struck. -/
def dropAccess (s t : State) (crew entry : Nat) : State :=
  match s.crew crew, t.crew crew, nextEnv s crew entry with
  | some c, some d, some e =>
    if !wentOn c d entry || !accessSlot e.slot || d.state != .resident then t
    else
      let d := d.zeroed (e.results s none)
      errRecord (orSticky (s.setCrew crew d) crew flagDERR) (dieOfCore c.core)
        (crewRec c 11 0 (info24 (if (e.results s none).isEmpty then 1 else 0) 0 none 0) none none entry)
  | _, _, _ => t

/-- The accumulators that a step of the engine has written hold zeros and count as poisoned (R367, R368). -/
def zeroStep (s t : State) (core : Nat) : State :=
  match engRow s core with
  | none => t
  | some (_, c) =>
    let hit := ((t.core core).acc.filter (fun e => tabGet (s.core core).acc e.1 != some e.2)).map Prod.fst
    if hit.isEmpty then t
    else
      let t := t.modCore core (fun co => { co with acc := co.acc.filter (fun e => !hit.contains e.1) })
      let t := poisonTiles t core (hit.map (fun k => k / 4096)).eraseDups
      unitFlags (unitRecord t (c.unit core) 2 0 9 0 none none) c.crew flagDERR

end Sys2Proof.Machine
end

