-- ==== Sys2Proof/Machine/Gangs.lean ====
section
/-! DEFINITION. Gang barriers and collectives (R32, R36, R254 to R256, R322, R393, R394). -/

namespace Sys2Proof.Machine

/-- The gang that a form names, when the crew may use it (R254, Table 22-9): local name, and the gang table's
entry. -/
def Env.gang (e : Env) (s : State) (n : Nat) : Option (Nat × GangName × GangEntry) :=
  match e.c.launch with
  | none => none
  | some l =>
    if e.c.kernel.gangs ≤ n then none
    else
      match e.c.gangs[n]?, s.launch l with
      | some g, some x =>
        match x.gtab[g.table]? with
        | some t => if t.res then some (l, g, t) else none
        | none => none
      | _, _ => none

/-- Changes a gang name of a crew. -/
def Crew.modGang (c : Crew) (n : Nat) (f : GangName → GangName) : Crew :=
  { c with gangs := (List.range c.gangs.length).filterMap (fun i =>
      (c.gangs[i]?).map (fun g => if i == n then f g else g)) }

/-- The crew arrives at its current phase (R36): what it accessed before is ordered before what any member does after the
phase. -/
def Env.arrive (e : Env) (s : State) (l n : Nat) (g : GangName) (bar : Bool) : State :=
  let s := gangTs (e.fenced s 3) l g.table g.phase (((s.crew e.id).map Crew.pts).getD 0)
  let s := s.modCrew e.id (fun c => c.modGang n (fun g => { g with arrived := true, bar := bar }))
  checkGang s l g.table g.phase

/-- `gbar.arr` (R254). -/
def gbarArrForm (e : Env) (s : State) : Res :=
  if !e.c.single then .exc s .rsplit
  else
    match e.gang s e.var with
    | none => .exc s .rgang
    | some (l, g, _) => if g.arrived then .exc s .rgang else .done (e.arrive s l e.var g false)

/-- The crew waits in Gang wait on a gang. -/
def Env.waitGang (e : Env) (s : State) (table : Nat) : Res :=
  .wait (s.modCrew e.id (fun c => c.modSplit e.entry (fun x => { x with gang := table }))) .gangWait

/-- The phase advances (R36): the crew's later accesses come after those of the members before their arrivals. -/
def Env.nextPhase (e : Env) (s : State) (l n : Nat) (g : GangName) : State :=
  let ts := gangPts s l g.table g.phase
  s.modCrew e.id (fun c =>
    { c with pts := max c.pts ts }.modGang n (fun g => { g with phase := g.phase + 1, arrived := false, bar := false }))

/-- `gbar.wait` (R254, R393). -/
def gbarWaitForm (e : Env) (s : State) : Res :=
  if !e.c.single then .exc s .rsplit
  else
    match e.gang s e.var with
    | none => .exc s .rgang
    | some (l, g, _) =>
      if !g.arrived then .exc s .rgang
      else if isBroken s l g.table then
        .done (e.putS (e.nextPhase s l e.var g) e.dst (BitVec.ofNat 64 (2 ^ 63 + g.phase % 2 ^ 32)))
      else if allArrived s l g.table g.phase then
        .done (e.putS (e.nextPhase s l e.var g) e.dst (BitVec.ofNat 64 (g.phase % 2 ^ 32)))
      else e.waitGang s g.table

/-- The gang name of a collective, and its operation code (R240). -/
def Env.collName (e : Env) : Nat := e.f.var2 % 4
def Env.collOp (e : Env) : Nat := e.f.var2 / 4

/-- A `.peer` collective needs a join that covers the gang (Table 22-9). -/
def peerOk (s : State) (l table scope : Nat) : Bool :=
  scope != 8 ||
    (match s.launch l with
      | some x => !(gangState x table).joined.isEmpty
      | none => false)

/-- Members before this module's own, and all members, of a collective (R322). For a join list that does not name this
module, or gives it another `COUNT` than its gang's, the manual states nothing: the list is taken as it is, and the local
members come after those that it puts before them, or after all (DESIGN CHOICE, log 88). -/
def gangSpan (s : State) (x : Launch) (table count scope : Nat) : Nat × Nat :=
  if scope != 8 then (0, count)
  else
    let j := (gangState x table).joined
    let before := (j.takeWhile (fun m => m.1 != s.mymod.toNat)).foldl (fun n m => n + m.2) 0
    (before, j.foldl (fun n m => n + m.2) 0)

/-- The collectives issued by members that now wait (R256): a crew off its partition issues again. -/
def liveIssues (s : State) (l table : Nat) : List CollIssue :=
  match s.launch l with
  | none => []
  | some x => (gangState x table).issues.filter (fun i =>
      match s.crew i.crew with
      | some c => c.state == .resident && !c.stranded && c.splits.any (fun p => p.2.state == .gangWait && p.2.gang == table)
      | none => false)

/-- Replaces the issues of a gang. -/
def setIssues (s : State) (l table : Nat) (is : List CollIssue) : State :=
  s.modLaunch l (fun x => { x with gangs := tabPut x.gangs table { gangState x table with issues := is } })

/-- Every member of the gang has issued. -/
def allIssued (s : State) (l table : Nat) (g : GangEntry) : Bool :=
  (List.range g.count).all (fun r => (liveIssues s l table).any (fun i => i.rank == r))

/-- Two members' collectives do not match (R394). -/
def mismatch (a b : CollIssue) : Bool :=
  a.form != b.form || a.op != b.op || a.ty != b.ty || a.chunk != b.chunk || a.scope != b.scope

/-- A `coll.bar` at `.gang`, which uses its gang's phase (R256). -/
def CollIssue.onPhase (i : CollIssue) : Bool := i.form == 3 && i.scope == 3

/-- A split goes on after the collective at which it waited: the values marked last-use end (R80). -/
def passColl (s : State) (i : CollIssue) (table : Nat) : State :=
  match s.crew i.crew with
  | none => s
  | some c0 =>
    let c := i.ends.foldl (fun (c : Crew) n => c.setS n .dead) c0
    match c.splits.find? (fun p => p.2.state == .gangWait && p.2.gang == table) with
    | none => s
    | some (e, x) =>
      let cl := x.clause.map (fun k => { k with first := false })
      let y := { x.freshReady s.clock with pc := skipFrom s c (x.pc + 12), clause := cl }
      let pass : GangName → GangName := fun g =>
        if i.onPhase then { g with colls := g.colls + 1, phase := g.phase + 1, arrived := false, bar := false }
        else { g with colls := g.colls + 1 }
      let gs := c.gangs.map (fun g => if g.table == table then pass g else g)
      s.setCrew i.crew { c.setSplit e y with gangs := gs, idleFor := none }

/-- Members whose collectives do not match (R394): all return, the member of highest rank is ended, and one
record is written. -/
def collMismatch (s : State) (l table : Nat) : State :=
  let is := liveIssues s l table
  let s := is.foldl (fun s i => passColl s i table) (setIssues s l table [])
  let top := is.foldl (fun (a : Option CollIssue) i =>
    match a with
    | none => some i
    | some b => if b.rank < i.rank then some i else some b) none
  match top with
  | none => s
  | some i =>
    match s.crew i.crew with
    | none => s
    | some c =>
      let s := endCrew s i.crew
      errRecord s (dieOfCore c.core) { crewRec c 16 0 0x21 none none 0 with slot := c.slot }

/-- The pages of a collective's range (R255, Table 22-9): coherent, readable for the source and writable for the
destination. (DEDUCED, log 43) -/
def Env.collPages (e : Env) (s : State) (va n : Nat) (need : Need) : List (Except LaneFail Xlate) :=
  (pagesOf va n).map (fun v =>
    match e.xlate s v need with
    | .error f => .error f
    | .ok x => coherentOnly v x)

/-- Ranges overlap. -/
def overlap (a n b m : Nat) : Bool := a < b + m && b < a + n

/-- The uniform registers that the instruction ends. -/
def Env.endingRegs (e : Env) (s : State) : List Nat :=
  (e.marked s).flatMap (fun r =>
    match r.1 with
    | .sreg n => (List.range r.2).map (fun i => n + i)
    | _ => [])

/-- The member issues its collective and waits (R256). -/
def Env.issueColl (e : Env) (s : State) (l : Nat) (g : GangName) (t : GangEntry) (form src dst chunk : Nat) : Res :=
  let i : CollIssue :=
    { crew := e.id, rank := g.rank, k := g.colls, form := form, op := e.collOp, ty := e.ty, chunk := chunk,
      scope := e.var, src := src, dst := dst, ends := e.endingRegs s }
  let old := ((s.launch l).map (fun x => (gangState x g.table).issues)).getD []
  let s := setIssues s l g.table (old.filter (fun j => j.crew != e.id) ++ [i])
  let s := s.modCrew e.id (fun c => c.modSplit e.entry (fun x => { x with gang := g.table, state := .gangWait }))
  let is := liveIssues s l g.table
  if allIssued s l g.table t && is.any (fun j => is.any (fun k => mismatch j k)) then
    .jump (collMismatch s l g.table)
  else .jump s

/-- `coll.ag`, `coll.rs` and `coll.a2a` (R255). `form` is 0, 1 or 2. -/
def collForm (form : Nat) (e : Env) (s : State) : Res :=
  if !e.c.single then .exc s .rsplit
  else
    match e.gang s e.collName with
    | none => .exc s .rgang
    | some (l, g, t) =>
      if !peerOk s l g.table e.var then .exc s .rgang
      else
        let a := e.uniVal s e.srcA
        let b := e.uniVal a.2 e.srcB
        let c := e.uniVal b.2 e.srcC
        let s := c.2
        let n := c.1.toNat
        let src := a.1.toNat
        let dst := b.1.toNat
        let m := match s.launch l with
          | some x => (gangSpan s x g.table t.count e.var).2
          | none => t.count
        let srcN := if form == 0 then n else m * n
        let dstN := if form == 1 then n else m * n
        if n % 128 != 0 || n == 0 || 2 ^ 24 < n || overlap src srcN dst dstN then .exc s .ropnd
        else if src % 128 != 0 then e.laneTrap s (0, LaneFail.of .ralign (some src))
        else if dst % 128 != 0 then e.laneTrap s (0, LaneFail.of .ralign (some dst))
        else
          match firstFail (e.collPages s src srcN needR ++ e.collPages s dst dstN needW) with
          | .error f => e.laneTrap s (0, f)
          | .ok xs =>
            let s := xs.foldl (fun s x => noteXlate s (askCore e.core) x) s
            if isBroken s l g.table then .done (e.endUses s)
            else if e.fenceWaits s e.var then .wait s .stalled
            else e.issueColl (e.fenced s e.var) l g t form src dst n

/-- The member's barrier at `.gang` is over: it is no longer among its gang's issues. -/
def Env.leaveBar (e : Env) (s : State) (l n : Nat) (g : GangName) : State :=
  let old := ((s.launch l).map (fun x => (gangState x g.table).issues)).getD []
  let s := if old.any (fun j => j.crew == e.id) then setIssues s l g.table (old.filter (fun j => j.crew != e.id)) else s
  (e.nextPhase s l n g).modCrew e.id (fun c => c.modGang n (fun g => { g with colls := g.colls + 1 }))

/-- `coll.bar` (R256): under `.gang` it is a barrier of the gang's phase, and like every collective it can fail to match
those of other members (R394). -/
def collBarForm (e : Env) (s : State) : Res :=
  if !e.c.single then .exc s .rsplit
  else
    match e.gang s e.collName with
    | none => .exc s .rgang
    | some (l, g, t) =>
      if !peerOk s l g.table e.var || (e.var != 8 && g.arrived && !g.bar) then .exc s .rgang
      else if e.var == 8 then
        if isBroken s l g.table then .done s
        else if e.fenceWaits s 8 then .wait s .stalled
        else e.issueColl (e.fenced s 8) l g t 3 0 0 0
      else
        let s := if g.bar then s else e.arrive s l e.collName g true
        if isBroken s l g.table || allArrived s l g.table g.phase then .done (e.leaveBar s l e.collName g)
        else e.issueColl s l g t 3 0 0 0

/-- Bytes of a member's range at a virtual address, line by line as loads at the owner (R112, R115, R124), with poison,
and the timestamp that the loads reach; zeros where the page no longer translates. (DESIGN CHOICE, log 50) -/
def collRead (fuel : Nat) (s : State) (i : CollIssue) (c : Crew) (pts va n : Nat) : (List Byte × Bool) × Nat × State :=
  match fuel with
  | 0 => (([], false), pts, s)
  | fuel + 1 =>
    if n == 0 then (([], false), pts, s)
    else
      let k := min n (128 - va % 128)
      match translate s (askCore c.core) c.ctx va needR with
      | .error _ =>
        let r := collRead fuel s i c pts (va + k) (n - k)
        ((List.replicate k 0 ++ r.1.1, r.1.2), r.2)
      | .ok x =>
        let w : Who := { ctx := c.ctx, cls := x.e.aclass, va := x.va, origin := 0, core := c.core, crew := some i.crew }
        let q := ownerLoad s pts x.pa k (some w)
        let r := collRead fuel q.2.2.2 i c (max pts q.2.1) (va + k) (n - k)
        ((q.1.1 ++ r.1.1, q.1.2 || r.1.2), r.2)

/-- The bytes of a chunk of another module's member, which its own module supplies: free, and the same for every member
here that receives them (R322, DESIGN CHOICE log 50). -/
def remoteChunk (base m rank j n : Nat) : List Byte :=
  (List.range n).map (fun i =>
    let k := (rank * m + j) * n + i
    BitVec.ofNat 8 ((Config.freeWord (base + k / 8)).toNat / 2 ^ (8 * (k % 8))))

/-- Chunk `j` of the source of a rank (Table 12-4). -/
def sourceChunk (s : State) (is : List CollIssue) (base before m pts rank j n : Nat) : (List Byte × Bool) × Nat × State :=
  match is.find? (fun i => i.rank + before == rank) with
  | none => ((remoteChunk base m rank j n, false), pts, s)
  | some i =>
    match s.crew i.crew with
    | none => ((List.replicate n 0, false), pts, s)
    | some c => collRead (n / 128 + 1) s i c pts (i.src + j * n) n

/-- Combines two chunks element by element (R255): the operation codes are those of Table 12-3. -/
def combineChunks (op ty : Nat) (a b : List Byte) : List Byte :=
  let n := typeBits ty / 8
  (List.range (a.length / n)).flatMap (fun i =>
    let x := leNat ((a.drop (n * i)).take n)
    let y := leNat ((b.drop (n * i)).take n)
    leBytes n (updateElem op ty x y))

/-- The tree of R149 over present leaves 0 to n − 1. -/
def treeAll {α : Type} (fuel : Nat) (f : α → α → α) (l : List α) : List α :=
  match fuel with
  | 0 => l
  | fuel + 1 => if l.length ≤ 1 then l else treeAll fuel f (treeLevel f l)

/-- What a rank's destination receives (Table 12-4), and whether poison was read. -/
def collResult (s : State) (is : List CollIssue) (base before m pts form op ty n r : Nat) :
    (List Byte × Bool) × Nat × State :=
  let chunks := (List.range m).foldl (fun (a : List (List Byte × Bool) × Nat × State) j =>
    let q := sourceChunk a.2.2 is base before m a.2.1 j (if form == 0 then 0 else r) n
    (a.1 ++ [q.1], q.2)) ([], pts, s)
  let bad := chunks.1.any Prod.snd
  if form == 1 then
    (((treeAll 64 (combineChunks op ty) (chunks.1.map Prod.fst)).headD [], bad), chunks.2)
  else ((chunks.1.flatMap Prod.fst, bad), chunks.2)

/-- Writes a destination by lines, as stores at the homes; the addresses of a refused line (R409). -/
def collWrite (fuel : Nat) (s : State) (c : Crew) (pts va : Nat) (bs : List Byte) :
    Nat × State × Option (Nat × Nat) :=
  match fuel with
  | 0 => (pts, s, none)
  | fuel + 1 =>
    if bs.isEmpty then (pts, s, none)
    else
      let rest := bs.drop 128
      match translate s (askCore c.core) c.ctx va needW with
      | .error _ => collWrite fuel s c pts (va + 128) rest
      | .ok x =>
        match refusal s x c.core true with
        | some _ =>
          let r := collWrite fuel s c pts (va + 128) rest
          (r.1, r.2.1, some (x.va, x.pa))
        | none =>
          let w : Who := { ctx := c.ctx, cls := x.e.aclass, va := x.va, origin := 1, core := c.core }
          let line := bs.take 128
          let r := ownerStore s pts x.pa line (some w)
          collWrite fuel (settle r.2 c.core [.mem x.pa line.length]) c (max pts r.1) (va + 128) rest

/-- The largest timestamp of the members, and the members at one timestamp: what any of them accessed before the
collective comes before what any does after it (R256). -/
def memberPts (s : State) (is : List CollIssue) : Nat :=
  is.foldl (fun p i => max p (((s.crew i.crew).map Crew.pts).getD 0)) 0
def levelPts (s : State) (is : List CollIssue) (ts : Nat) : State :=
  is.foldl (fun s i => s.modCrew i.crew (fun c => { c with pts := max c.pts ts })) s

/-- The move of a collective (R255, R256), from sources as they stood: each member's destination, then the
members at one timestamp. -/
def moveColl (s : State) (is : List CollIssue) (before m : Nat) : State × List (Nat × Nat × Nat) :=
  let base := s.free
  let n := (is.head?.map CollIssue.chunk).getD 0
  let s := { s with free := base + m * m * (n / 8) }
  let res := is.foldl (fun (a : List (CollIssue × List Byte × Bool) × Nat × State) i =>
    let q := collResult a.2.2 is base before m a.2.1 i.form i.op i.ty i.chunk (i.rank + before)
    (a.1 ++ [(i, q.1.1, q.1.2)], q.2)) ([], memberPts s is, s)
  let done := res.1.foldl (fun (a : Nat × State × List (Nat × Nat × Nat)) t =>
    match a.2.1.crew t.1.crew with
    | none => a
    | some c =>
      let w := collWrite (t.2.1.length / 128 + 1) a.2.1 c a.1 t.1.dst t.2.1
      let s := if t.2.2 then orSticky (countPoisonRead w.2.1 (dieOfCore c.core) true) t.1.crew flagDERR else w.2.1
      (w.1, s, match w.2.2 with
        | some q => a.2.2 ++ [(t.1.crew, q.1, q.2)]
        | none => a.2.2)) (res.2.1, res.2.2, [])
  (levelPts done.2.1 is done.1, done.2.2)

/-- The entry and program counter at which a crew's single split stands. -/
def splitPlace (c : Crew) : Nat × Nat :=
  match c.splits with
  | [] => (0, 0)
  | (e, x) :: _ => (e, x.pc)

/-- A collective completes once every member has issued it (R256); refused lines raise `RREMOTE` with their
members. -/
def execCollectiveComplete (launch gang : Nat) (s : State) : Host.Outcome State Fault Refusal :=
  match s.launch launch with
  | none => .next s
  | some x =>
    match x.gtab[gang]? with
    | none => .next s
    | some g =>
      let is := liveIssues s launch gang
      if g.count == 0 || !allIssued s launch gang g || is.any CollIssue.onPhase then .next s
      else
        let span := gangSpan s x gang g.count ((is.head?.map CollIssue.scope).getD 3)
        let form := (is.head?.map CollIssue.form).getD 0
        let s := setIssues s launch gang []
        let r := if form == 3 then (levelPts s is (memberPts s is), []) else moveColl s is span.1 span.2
        let places := is.map (fun i => (i.crew, ((r.1.crew i.crew).map splitPlace).getD (0, 0)))
        let s := is.foldl (fun s i => passColl s i gang) r.1
        .next (r.2.foldl (fun s f =>
          let p := ((places.find? (fun q => q.1 == f.1)).map Prod.snd).getD (0, 0)
          takeException s f.1 p.1
            { exc := .rremote, lane := 0, va := some f.2.1, pa := some f.2.2, opc := 0x3C8 + form, pc := p.2, deferred := true }) s)

def execGbarArr (f : Fields) (s : State) : Host.Outcome State Fault Refusal := issue (.gbarArr f) gbarArrForm s
def execGbarWait (f : Fields) (s : State) : Host.Outcome State Fault Refusal := issue (.gbarWait f) gbarWaitForm s
def execCollAg (f : Fields) (s : State) : Host.Outcome State Fault Refusal := issue (.collAg f) (collForm 0) s
def execCollRs (f : Fields) (s : State) : Host.Outcome State Fault Refusal := issue (.collRs f) (collForm 1) s
def execCollA2a (f : Fields) (s : State) : Host.Outcome State Fault Refusal := issue (.collA2a f) (collForm 2) s
def execCollBar (f : Fields) (s : State) : Host.Outcome State Fault Refusal := issue (.collBar f) collBarForm s

end Sys2Proof.Machine
end

