-- ==== Sys2Proof/Machine/Stash.lean ====
section
/-! DEFINITION. The meanings of `smap`, `sunmap` and `sflush` and of the end of their write-backs (R100 to R104,
R246, R247, R412, R413, R462 to R464, Table 22-9). -/

namespace Sys2Proof.Machine

/-- The stash range of a mapping is read or written by an engine instruction (R247). -/
def EngCmd.touches (c : EngCmd) (m : Mapping) : Bool :=
  shpTouches c.shp1 m.base (m.base + m.taken) || shpTouches c.shp2 m.base (m.base + m.taken)

/-- A request on the core's mappings that arrived before the split's own waits to be performed (R246). -/
def Env.requestsBefore (e : Env) (s : State) : Bool :=
  let own := e.pending s 3
  ((s.core e.core).reqs.takeWhile (fun q => some q != own)).any (fun q => q.kind != 2 && !q.captured && q.live s)

/-- The 32 bytes of a descriptor, the timestamp and the state. A read beyond the module is a request like any load's
(R131, R325); `sent` also says that it is still away, or that a refresh window holds the read back. (DEDUCED, log 35) -/
def Env.descBytes (e : Env) (s : State) (t : Target) : LaneGot × Nat × State :=
  match t with
  | .glob x =>
    if (refusal s x e.core false).isSome then e.loadLane s e.c.pts 32 0 t
    else if isHost x.pa || isPeer x.pa then
      match e.x.away.find? (fun w => w.pa == x.pa && w.size == 32) with
      | some w =>
        if w.reason != 0 then (.refused x.va x.pa, e.c.pts, s)
        else
          match w.data with
          | some d => (.data d.1 d.2, e.c.pts, s.caughtIf d.2)
          | none => (.sent, e.c.pts, s)
      | none =>
        let s := sendExt (noteXlate s (askCore e.core) x) (e.ext .fetch 0 x 32 [] s.clock) (some (e.who 0 x))
        (.sent, e.c.pts, s.modCrew e.id (fun c => c.modSplit e.entry (fun y =>
          { y with away := y.away ++ [⟨x.pa, 32, none, 0⟩] })))
    else if refreshing s (stockPa e.die x.pa) then (.sent, e.c.pts, s)
    else e.loadLane s e.c.pts 32 0 t
  | t => e.loadLane s e.c.pts 32 0 t

/-- A mapping's mode over one page: a pinned or double mapping needs a coherent or private page, a double one also `W`
(Table 05-4, R464). -/
def Env.pinPage (e : Env) (s : State) (d : MapDesc) (va : Nat) : Except LaneFail Xlate :=
  match e.xlate s va needR with
  | .error f => .error f
  | .ok x =>
    if (x.e.cmode != 0 && x.e.cmode != 2) || (d.mode == 2 && !x.e.w) then .error ⟨.rperm, some va, some x.pa, none, []⟩
    else .ok x

/-- A mirror's page must translate and be readable only at its lines' first touch; Table 05-4 forbids the mirror itself over
a managed page outside HBM and over a region that is not sealed. -/
def Env.mirrorPage (e : Env) (s : State) (va : Nat) : Except LaneFail (Option Xlate) :=
  let no : Nat → Except LaneFail (Option Xlate) := fun pa => .error ⟨.rperm, some va, some pa, none, []⟩
  match translate s (askCore e.core) e.ctx va ⟨false, false, false⟩ with
  | .ok x => if x.e.cmode == 1 && !isHbm x.pa then no x.pa else .ok (some x)
  | .error f =>
    match f.pa with
    | some pa => if isAlias pa || isStockpile pa then no pa else .ok none
    | none => .ok none

/-- The addresses of a mirror's global range, one to a page. -/
def mirrorVas (d : MapDesc) : List Nat :=
  if d.fsize == 0 then pagesOf d.gbase d.slen
  else
    ((List.range d.ecount).flatMap (fun i => pagesOf (d.gbase + d.foff + i * d.estride) d.field)).foldl (fun l v =>
      if l.getLast?.any (fun u => u / 4096 == v / 4096) then l else l ++ [v]) []

/-- The pages that a mapping covers under its mode: what a pinned or double mapping fetches, and the failure of step 5 of
R375 (Table 05-4, Table 22-9). -/
def Env.pinPages (e : Env) (s : State) (d : MapDesc) : Except LaneFail (List Xlate) :=
  match d.mode with
  | 3 => .ok []
  | 0 =>
    match (mirrorVas d).findSome? (fun v =>
      match e.mirrorPage s v with
      | .error f => some f
      | .ok _ => none) with
    | some f => .error f
    | none => .ok []
  | _ => firstFail ((rangeLines d).map (e.pinPage s d))

/-- `smap` with a well-formed descriptor (R103, R246). -/
def Env.mapWith (e : Env) (s : State) (d : MapDesc) (pts : Nat) : Res :=
  let warm := (warmMap s e.core e.ctx e.id d).isSome
  match (if warm then Except.ok [] else e.pinPages s d) with
  | .error f => e.laneTrap s (0, f)
  | .ok xs =>
    match xs.findSome? (fun x => (refusal s x e.core false).map (fun r => (x, r))) with
    | some x =>
      let s := e.noteRefused (noteXlate s (askCore e.core) x.1) x.1 x.2 128 false
      .late (e.putS (e.endUses s) e.dst (smapResult 2 0 0)) 0 (some x.1.va) (some x.1.pa)
    | none =>
      let s := xs.foldl (fun s x => noteXlate s (askCore e.core) x) (e.endUses s)
      let r := doSmap s e.core e.ctx e.id e.c.kernel.affin pts d xs (e.who 0)
      -- only a mapping that is made accesses its pages (R103, R405)
      let s := if r.1.toNat % 4 < 2 then xs.foldl (fun s x => claimPriv s x e.core) r.2.2 else r.2.2
      .done (e.putS (e.raisePts s r.2.1) e.dst r.1)

/-- `smap` (R246): the requests of a core are performed in order of arrival, and one that waits for those before it or
for its descriptor keeps its place. A poisoned descriptor reads as zeros, which no descriptor may be; `ROPND` leaves no
`DERR` (R374). -/
def smapForm (e : Env) (s : State) : Res :=
  let hold : State → Res := fun s => .wait (e.keepRequest s (e.request s 3 0)) .stalled
  if e.tensorBad false then .exc s .ropnd
  else if e.requestsBefore s then hold s
  else
    e.withLanes s [0] (fun l => e.target s false 32 needR l) (fun ts s =>
      match ts with
      | [] => .exc s .ropnd
      | t :: _ =>
        match e.descBytes s t.2 with
        | (.sent, _, s1) => hold s1
        | (.refused va pa, _, s1) =>
          .late (e.putS (e.endUses (e.dropRequest s1 3)) e.dst (smapResult 0 0 0)) 0 (some va) (some pa)
        | (.data bs bad, pts, s1) =>
          if bad then .exc (countPoisonRead s1 e.die true) .ropnd
          else if descBad (leNat bs) then .exc s1 .ropnd
          else e.mapWith (e.dropRequest s1 3) (decodeDesc (leNat bs)) pts)

/-- No command, instruction, earlier request or exchange holds a request on a mapping back (R247, R418). -/
def captureReady (s : State) (core : Nat) (before : List StashReq) (r : StashReq) : Bool :=
  match tabGet (s.core core).maps r.entry with
  | none => true
  | some m =>
    (s.core core).hoist.all (fun h => !h.2.touches m) &&
    (s.core core).eng.all (fun c => !c.touches m) &&
    before.all (fun q => q.kind == 2 || q.captured || !q.live s) &&
    !(r.kind == 0 && (s.core core).reqs.any (fun q => q.kind == 2 && q.live s && q.entry == r.entry))

/-- The lines of a request's mapping are captured and written back, and its release is discharged (R247). -/
def capture (s : State) (core : Nat) (r : StashReq) : State :=
  let who := (s.crew r.crew).map (fun c => (c.ctx, c.index))
  let s := if r.kind == 0 then endMap s core r.entry who else flushMap s core r.entry who
  discharge s r.crew r.flgb

/-- `sunmap` and `sflush` (R247, Table 22-9): the split is Stalled until its request can be captured; without a
mapping at the base both obligations are discharged at once. (DEDUCED, log 22) -/
def unmapForm (kind : Nat) (e : Env) (s : State) : Res :=
  let a := e.uniVal s e.srcA
  let s := a.2
  match mapAt s e.core e.ctx (a.1.toNat % 2 ^ 19) with
  | none =>
    let s := e.obligeFlags (e.endUses (e.dropRequest s kind))
    .done (dischargeBoth s e.id e.flagPair.1 e.flagPair.2)
  | some (entry, _) =>
    let r := e.request s kind entry
    let own := e.pending s kind
    if captureReady s e.core ((s.core e.core).reqs.takeWhile (fun q => some q != own)) r then
      let s := e.obligeFlags (e.endUses (e.dropRequest s kind))
      let s := s.modCore e.core (fun c => { c with reqs := c.reqs ++ [{ r with captured := true }] })
      .done (capture s e.core r)
    else .wait (e.keepRequest s r) .stalled

/-- The lines of a captured write-back are performed at their homes, which discharges the completion (R247). -/
def stashWritebackDone (s : State) (core index : Nat) : State :=
  match (s.core core).reqs[index]? with
  | none => s
  | some r =>
    if r.captured then
      let s := s.modCore core (fun c => { c with reqs := c.reqs.take index ++ c.reqs.drop (index + 1) })
      discharge s r.crew r.flga
    else s

def execSmap (f : Fields) (s : State) : Host.Outcome State Fault Refusal := issue (.smap f) smapForm s
def execSunmap (f : Fields) (s : State) : Host.Outcome State Fault Refusal := issue (.sunmap f) (unmapForm 0) s
def execSflush (f : Fields) (s : State) : Host.Outcome State Fault Refusal := issue (.sflush f) (unmapForm 1) s
def execStashWritebackDone (core index : Nat) (s : State) : Host.Outcome State Fault Refusal :=
  .next (stashWritebackDone s core index)

end Sys2Proof.Machine
end

