-- ==== Sys2Proof/Machine/Dispatch.lean ====
section
/-! DEFINITION. The dispatch of every instruction and event to its meaning. -/

namespace Sys2Proof.Machine

def exec (i : Instr) (s : State) : Host.Outcome State Fault Refusal :=
  match i with
  | .nop f => Sys2Proof.Machine.execNop f s
  | .brk f => Sys2Proof.Machine.execBrk f s
  | .br f => Sys2Proof.Machine.execBr f s
  | .brDiv f => Sys2Proof.Machine.execBrDiv f s
  | .join f => Sys2Proof.Machine.execJoin f s
  | .call f => Sys2Proof.Machine.execCall f s
  | .ret f => Sys2Proof.Machine.execRet f s
  | .exit f => Sys2Proof.Machine.execExit f s
  | .drainEnd crew => Sys2Proof.Machine.execDrainEnd crew s
  | .yieldCont f => Sys2Proof.Machine.execYieldCont f s
  | .flgRd f => Sys2Proof.Machine.execFlgRd f s
  | .flgClr f => Sys2Proof.Machine.execFlgClr f s
  | .lampJoin f => Sys2Proof.Machine.execLampJoin f s
  | .lampTake f => Sys2Proof.Machine.execLampTake f s
  | .lampPass f => Sys2Proof.Machine.execLampPass f s
  | .csrr f => Sys2Proof.Machine.execCsrr f s
  | .csrw f => Sys2Proof.Machine.execCsrw f s
  | .uintPost f => Sys2Proof.Machine.execUintPost f s
  | .uintRet f => Sys2Proof.Machine.execUintRet f s
  | .svc f => Sys2Proof.Machine.execSvc f s
  | .waitc f => Sys2Proof.Machine.execWaitc f s
  | .spawn f => Sys2Proof.Machine.execSpawn f s
  | .nsig f => Sys2Proof.Machine.execNsig f s
  | .npub f => Sys2Proof.Machine.execNpub f s
  | .clauseHeader h => Sys2Proof.Machine.execClauseHeader h s
  | .sadd f => Sys2Proof.Machine.execSadd f s
  | .ssub f => Sys2Proof.Machine.execSsub f s
  | .smul f => Sys2Proof.Machine.execSmul f s
  | .smulh f => Sys2Proof.Machine.execSmulh f s
  | .smad f => Sys2Proof.Machine.execSmad f s
  | .sdivs f => Sys2Proof.Machine.execSdivs f s
  | .sand f => Sys2Proof.Machine.execSand f s
  | .sor f => Sys2Proof.Machine.execSor f s
  | .sxor f => Sys2Proof.Machine.execSxor f s
  | .sandn f => Sys2Proof.Machine.execSandn f s
  | .sshl f => Sys2Proof.Machine.execSshl f s
  | .sshr f => Sys2Proof.Machine.execSshr f s
  | .srol f => Sys2Proof.Machine.execSrol f s
  | .sror f => Sys2Proof.Machine.execSror f s
  | .smov f => Sys2Proof.Machine.execSmov f s
  | .scmp f => Sys2Proof.Machine.execScmp f s
  | .sbfx f => Sys2Proof.Machine.execSbfx f s
  | .sbfi f => Sys2Proof.Machine.execSbfi f s
  | .spopc f => Sys2Proof.Machine.execSpopc f s
  | .sclz f => Sys2Proof.Machine.execSclz f s
  | .sctz f => Sys2Proof.Machine.execSctz f s
  | .sbrev f => Sys2Proof.Machine.execSbrev f s
  | .smin f => Sys2Proof.Machine.execSmin f s
  | .smax f => Sys2Proof.Machine.execSmax f s
  | .sabs f => Sys2Proof.Machine.execSabs f s
  | .ssel f => Sys2Proof.Machine.execSsel f s
  | .vadd f => Sys2Proof.Machine.execVadd f s
  | .vsub f => Sys2Proof.Machine.execVsub f s
  | .vmul f => Sys2Proof.Machine.execVmul f s
  | .vmulh f => Sys2Proof.Machine.execVmulh f s
  | .vmad f => Sys2Proof.Machine.execVmad f s
  | .vdivs f => Sys2Proof.Machine.execVdivs f s
  | .vand f => Sys2Proof.Machine.execVand f s
  | .vor f => Sys2Proof.Machine.execVor f s
  | .vxor f => Sys2Proof.Machine.execVxor f s
  | .vandn f => Sys2Proof.Machine.execVandn f s
  | .vshl f => Sys2Proof.Machine.execVshl f s
  | .vshr f => Sys2Proof.Machine.execVshr f s
  | .vrol f => Sys2Proof.Machine.execVrol f s
  | .vror f => Sys2Proof.Machine.execVror f s
  | .vmov f => Sys2Proof.Machine.execVmov f s
  | .vbfx f => Sys2Proof.Machine.execVbfx f s
  | .vbfi f => Sys2Proof.Machine.execVbfi f s
  | .vpopc f => Sys2Proof.Machine.execVpopc f s
  | .vclz f => Sys2Proof.Machine.execVclz f s
  | .vctz f => Sys2Proof.Machine.execVctz f s
  | .vbrev f => Sys2Proof.Machine.execVbrev f s
  | .vmin f => Sys2Proof.Machine.execVmin f s
  | .vmax f => Sys2Proof.Machine.execVmax f s
  | .vabs f => Sys2Proof.Machine.execVabs f s
  | .vsel f => Sys2Proof.Machine.execVsel f s
  | .vcmp f => Sys2Proof.Machine.execVcmp f s
  | .vplog f => Sys2Proof.Machine.execVplog f s
  | .vpadd f => Sys2Proof.Machine.execVpadd f s
  | .vpsub f => Sys2Proof.Machine.execVpsub f s
  | .vpmul f => Sys2Proof.Machine.execVpmul f s
  | .vpmin f => Sys2Proof.Machine.execVpmin f s
  | .vpmax f => Sys2Proof.Machine.execVpmax f s
  | .vpavg f => Sys2Proof.Machine.execVpavg f s
  | .vpabd f => Sys2Proof.Machine.execVpabd f s
  | .vpshl f => Sys2Proof.Machine.execVpshl f s
  | .vpshr f => Sys2Proof.Machine.execVpshr f s
  | .vpdot f => Sys2Proof.Machine.execVpdot f s
  | .vpack f => Sys2Proof.Machine.execVpack f s
  | .vunpk f => Sys2Proof.Machine.execVunpk f s
  | .sadrt f => Sys2Proof.Machine.execSadrt f s
  | .sshpr f => Sys2Proof.Machine.execSshpr f s
  | .sshpw f => Sys2Proof.Machine.execSshpw f s
  | .sshpb f => Sys2Proof.Machine.execSshpb f s
  | .vadrt f => Sys2Proof.Machine.execVadrt f s
  | .vinrt f => Sys2Proof.Machine.execVinrt f s
  | .vfadd f => Sys2Proof.Machine.execVfadd f s
  | .vfsub f => Sys2Proof.Machine.execVfsub f s
  | .vfmul f => Sys2Proof.Machine.execVfmul f s
  | .vfma f => Sys2Proof.Machine.execVfma f s
  | .vfms f => Sys2Proof.Machine.execVfms f s
  | .vfnma f => Sys2Proof.Machine.execVfnma f s
  | .vfnms f => Sys2Proof.Machine.execVfnms f s
  | .vfmin f => Sys2Proof.Machine.execVfmin f s
  | .vfmax f => Sys2Proof.Machine.execVfmax f s
  | .vfneg f => Sys2Proof.Machine.execVfneg f s
  | .vfabs f => Sys2Proof.Machine.execVfabs f s
  | .vfcsgn f => Sys2Proof.Machine.execVfcsgn f s
  | .vfdot2 f => Sys2Proof.Machine.execVfdot2 f s
  | .vfrnd f => Sys2Proof.Machine.execVfrnd f s
  | .sfadd f => Sys2Proof.Machine.execSfadd f s
  | .sfsub f => Sys2Proof.Machine.execSfsub f s
  | .sfmul f => Sys2Proof.Machine.execSfmul f s
  | .sfma f => Sys2Proof.Machine.execSfma f s
  | .sfmin f => Sys2Proof.Machine.execSfmin f s
  | .sfmax f => Sys2Proof.Machine.execSfmax f s
  | .vfcmp f => Sys2Proof.Machine.execVfcmp f s
  | .sfcmp f => Sys2Proof.Machine.execSfcmp f s
  | .vfcmpm f => Sys2Proof.Machine.execVfcmpm f s
  | .vfclass f => Sys2Proof.Machine.execVfclass f s
  | .vfrcpe f => Sys2Proof.Machine.execVfrcpe f s
  | .vfrsqe f => Sys2Proof.Machine.execVfrsqe f s
  | .vfrcps f => Sys2Proof.Machine.execVfrcps f s
  | .vfrsqs f => Sys2Proof.Machine.execVfrsqs f s
  | .vfex2 f => Sys2Proof.Machine.execVfex2 f s
  | .vflg2 f => Sys2Proof.Machine.execVflg2 f s
  | .vfsinpi f => Sys2Proof.Machine.execVfsinpi f s
  | .vfcospi f => Sys2Proof.Machine.execVfcospi f s
  | .vftanh f => Sys2Proof.Machine.execVftanh f s
  | .vcvt f => Sys2Proof.Machine.execVcvt f s
  | .scvt f => Sys2Proof.Machine.execScvt f s
  | .vperm f => Sys2Proof.Machine.execVperm f s
  | .vmatch f => Sys2Proof.Machine.execVmatch f s
  | .vvote f => Sys2Proof.Machine.execVvote f s
  | .vred f => Sys2Proof.Machine.execVred f s
  | .vscan f => Sys2Proof.Machine.execVscan f s
  | .vrdl f => Sys2Proof.Machine.execVrdl f s
  | .ld f => Sys2Proof.Machine.execLd f s
  | .st f => Sys2Proof.Machine.execSt f s
  | .lds f => Sys2Proof.Machine.execLds f s
  | .sts f => Sys2Proof.Machine.execSts f s
  | .sld f => Sys2Proof.Machine.execSld f s
  | .sst f => Sys2Proof.Machine.execSst f s
  | .slds f => Sys2Proof.Machine.execSlds f s
  | .ssts f => Sys2Proof.Machine.execSsts f s
  | .smap f => Sys2Proof.Machine.execSmap f s
  | .sunmap f => Sys2Proof.Machine.execSunmap f s
  | .sflush f => Sys2Proof.Machine.execSflush f s
  | .stashWritebackDone core index => Sys2Proof.Machine.execStashWritebackDone core index s
  | .cwb f => Sys2Proof.Machine.execCwb f s
  | .cinv f => Sys2Proof.Machine.execCinv f s
  | .atom f => Sys2Proof.Machine.execAtom f s
  | .atomCas f => Sys2Proof.Machine.execAtomCas f s
  | .satom f => Sys2Proof.Machine.execSatom f s
  | .satomCas f => Sys2Proof.Machine.execSatomCas f s
  | .red f => Sys2Proof.Machine.execRed f s
  | .sred f => Sys2Proof.Machine.execSred f s
  | .fence f => Sys2Proof.Machine.execFence f s
  | .amsg f => Sys2Proof.Machine.execAmsg f s
  | .amsgReply request => Sys2Proof.Machine.execAmsgReply request s
  | .gbarArr f => Sys2Proof.Machine.execGbarArr f s
  | .gbarWait f => Sys2Proof.Machine.execGbarWait f s
  | .collAg f => Sys2Proof.Machine.execCollAg f s
  | .collRs f => Sys2Proof.Machine.execCollRs f s
  | .collA2a f => Sys2Proof.Machine.execCollA2a f s
  | .collBar f => Sys2Proof.Machine.execCollBar f s
  | .hcp f => Sys2Proof.Machine.execHcp f s
  | .hgth f => Sys2Proof.Machine.execHgth f s
  | .hsct f => Sys2Proof.Machine.execHsct f s
  | .hcmp f => Sys2Proof.Machine.execHcmp f s
  | .hpub f => Sys2Proof.Machine.execHpub f s
  | .hpubExchange core entry => Sys2Proof.Machine.execHpubExchange core entry s
  | .cwait f => Sys2Proof.Machine.execCwait f s
  | .hoistRowDone core slot ahead => Sys2Proof.Machine.execHoistRowDone core slot ahead s
  | .hoistWatchdogExpire core slot => Sys2Proof.Machine.execHoistWatchdogExpire core slot s
  | .mld f => Sys2Proof.Machine.execMld f s
  | .mmul f => Sys2Proof.Machine.execMmul f s
  | .mzero f => Sys2Proof.Machine.execMzero f s
  | .mrd f => Sys2Proof.Machine.execMrd f s
  | .mred f => Sys2Proof.Machine.execMred f s
  | .mwait f => Sys2Proof.Machine.execMwait f s
  | .mkw f => Sys2Proof.Machine.execMkw f s
  | .mkr f => Sys2Proof.Machine.execMkr f s
  | .bselTopk f => Sys2Proof.Machine.execBselTopk f s
  | .mmulRowCommit core => Sys2Proof.Machine.execMmulRowCommit core s
  | .engineInsnDone core => Sys2Proof.Machine.execEngineInsnDone core s
  | .lodeBind f => Sys2Proof.Machine.execLodeBind f s
  | .lodeFree f => Sys2Proof.Machine.execLodeFree f s
  | .ladd f => Sys2Proof.Machine.execLadd f s
  | .lsub f => Sys2Proof.Machine.execLsub f s
  | .lneg f => Sys2Proof.Machine.execLneg f s
  | .lshl f => Sys2Proof.Machine.execLshl f s
  | .lshr f => Sys2Proof.Machine.execLshr f s
  | .lcmp f => Sys2Proof.Machine.execLcmp f s
  | .lclz f => Sys2Proof.Machine.execLclz f s
  | .lmulw f => Sys2Proof.Machine.execLmulw f s
  | .lmacw f => Sys2Proof.Machine.execLmacw f s
  | .lacc f => Sys2Proof.Machine.execLacc f s
  | .lround f => Sys2Proof.Machine.execLround f s
  | .asEvt rd => Sys2Proof.Machine.execAsEvt rd s
  | .asLd rd rs1 => Sys2Proof.Machine.execAsLd rd rs1 s
  | .asSt rs1 rs2 => Sys2Proof.Machine.execAsSt rs1 rs2 s
  | .asCas rd rs1 rs2 rs3 => Sys2Proof.Machine.execAsCas rd rs1 rs2 rs3 s
  | .asPf rs1 rs2 => Sys2Proof.Machine.execAsPf rs1 rs2 s
  | .asWake rs1 => Sys2Proof.Machine.execAsWake rs1 s
  | .asMsg rd rs1 => Sys2Proof.Machine.execAsMsg rd rs1 s
  | .asTlb rd rs1 => Sys2Proof.Machine.execAsTlb rd rs1 s
  | .asLeft rd => Sys2Proof.Machine.execAsLeft rd s
  | .asDone => Sys2Proof.Machine.execAsDone s
  | .handlerDispatch slice => Sys2Proof.Machine.execHandlerDispatch slice s
  | .handlerBudgetExpire slice => Sys2Proof.Machine.execHandlerBudgetExpire slice s
  | .acceptLaunch ring => Sys2Proof.Machine.execAcceptLaunch ring s
  | .claimCrews die count => Sys2Proof.Machine.execClaimCrews die count s
  | .placeCrew crew => Sys2Proof.Machine.execPlaceCrew crew s
  | .placeClosure die => Sys2Proof.Machine.execPlaceClosure die s
  | .warmWaitExpire crew => Sys2Proof.Machine.execWarmWaitExpire crew s
  | .reservationStart crew => Sys2Proof.Machine.execReservationStart crew s
  | .binTimerExpire ctx node die => Sys2Proof.Machine.execBinTimerExpire ctx node die s
  | .binStallTimer crew => Sys2Proof.Machine.execBinStallTimer crew s
  | .swapOut crew => Sys2Proof.Machine.execSwapOut crew s
  | .swapIn crew => Sys2Proof.Machine.execSwapIn crew s
  | .monitorRecheck crew entry => Sys2Proof.Machine.execMonitorRecheck crew entry s
  | .monitorAudit slice => Sys2Proof.Machine.execMonitorAudit slice s
  | .waitcReply crew entry => Sys2Proof.Machine.execWaitcReply crew entry s
  | .stockpileRefreshEnd die group => Sys2Proof.Machine.execStockpileRefreshEnd die group s
  | .crewHalt ctx => Sys2Proof.Machine.execCrewHalt ctx s
  | .crewSave core ctx => Sys2Proof.Machine.execCrewSave core ctx s
  | .saveDelayTimer crew => Sys2Proof.Machine.execSaveDelayTimer crew s
  | .crewRestore ctx => Sys2Proof.Machine.execCrewRestore ctx s
  | .crewWatchdogExpire crew => Sys2Proof.Machine.execCrewWatchdogExpire crew s
  | .kick ring => Sys2Proof.Machine.execKick ring s
  | .completionRecord ring => Sys2Proof.Machine.execCompletionRecord ring s
  | .noOperation ring => Sys2Proof.Machine.execNoOperation ring s
  | .seal ring => Sys2Proof.Machine.execSeal ring s
  | .unseal ring => Sys2Proof.Machine.execUnseal ring s
  | .preempt ring => Sys2Proof.Machine.execPreempt ring s
  | .resume ring => Sys2Proof.Machine.execResume ring s
  | .invalidateTranslations ring => Sys2Proof.Machine.execInvalidateTranslations ring s
  | .installAssayers ring => Sys2Proof.Machine.execInstallAssayers ring s
  | .removeAssayers ring => Sys2Proof.Machine.execRemoveAssayers ring s
  | .debugResume ring => Sys2Proof.Machine.execDebugResume ring s
  | .joinModuleGang ring => Sys2Proof.Machine.execJoinModuleGang ring s
  | .powerEvaluation die duties => Sys2Proof.Machine.execPowerEvaluation die duties s
  | .collectiveComplete launch gang => Sys2Proof.Machine.execCollectiveComplete launch gang s
  | .macroSelfTest core failing => Sys2Proof.Machine.execMacroSelfTest core failing s
  | .loadReturn request data bad => Sys2Proof.Machine.execLoadReturn request data bad s
  | .pageWalkDone die ctx va write => Sys2Proof.Machine.execPageWalkDone die ctx va write s
  | .remoteErrorResponse request reason => Sys2Proof.Machine.execRemoteErrorResponse request reason s
  | .contextInvalidate ctx => Sys2Proof.Machine.execContextInvalidate ctx s
  | .supervisorTake ctx debug index => Sys2Proof.Machine.execSupervisorTake ctx debug index s
  | .supervisorDone ctx debug index reply => Sys2Proof.Machine.execSupervisorDone ctx debug index reply s
  | .islandCeilingWrite island ceil => Sys2Proof.Machine.execIslandCeilingWrite island ceil s
  | .housekeepingWrite addr value => Sys2Proof.Machine.execHousekeepingWrite addr value s
  | .hostAccess port addr op => Sys2Proof.Machine.execHostAccess port addr op s
  | .peerRequest source number addr op => Sys2Proof.Machine.execPeerRequest source number addr op s
  | .ioDeviceWrite port addr data => Sys2Proof.Machine.execIoDeviceWrite port addr data s
  | .cxlCompletionTimeout request => Sys2Proof.Machine.execCxlCompletionTimeout request s
  | .cxlPortDown port => Sys2Proof.Machine.execCxlPortDown port s
  | .routerFail router => Sys2Proof.Machine.execRouterFail router s
  | .meshResend router => Sys2Proof.Machine.execMeshResend router s
  | .ucieLinkDown link => Sys2Proof.Machine.execUcieLinkDown link s
  | .aditResend request => Sys2Proof.Machine.execAditResend request s
  | .aditPortDown port => Sys2Proof.Machine.execAditPortDown port s
  | .ioCoreFail ioCore => Sys2Proof.Machine.execIoCoreFail ioCore s
  | .stockpileScrub die group found => Sys2Proof.Machine.execStockpileScrub die group found s
  | .hbmPatrolScrub found => Sys2Proof.Machine.execHbmPatrolScrub found s
  | .powerUp boot => Sys2Proof.Machine.execPowerUp boot s
  | .attestationRequest ctx nonce => Sys2Proof.Machine.execAttestationRequest ctx nonce s
  | .writeAcknowledgement request => Sys2Proof.Machine.execWriteAcknowledgement request s
  | .programTimestampAdvance crew => Sys2Proof.Machine.execProgramTimestampAdvance crew s
  | .managedCopyEviction core line => Sys2Proof.Machine.execManagedCopyEviction core line s
  | .lineFill line victim => Sys2Proof.Machine.execLineFill line victim s
  | .engineWatchdogExpire core => Sys2Proof.Machine.execEngineWatchdogExpire core s
  | .cxlPortUp port => Sys2Proof.Machine.execCxlPortUp port s
  | .powerLoss => Sys2Proof.Machine.execPowerLoss s
  | .applicationCoreAccess appCore addr op => Sys2Proof.Machine.execApplicationCoreAccess appCore addr op s

end Sys2Proof.Machine
end

