-- ==== Sys2Proof/Machine/Turns.lean ====
section
/-! DEFINITION. The turns of a run (DESIGN CHOICE, log 1): a split that fetches and issues, a handler that issues, time that
passes, an event that happens; what a lock holds back (R306); the round that a module runs when nothing else is
asked of it; and the placing of a word where the next step fetches it. -/

namespace Sys2Proof.Machine

/-- A crew's splits take passes (R61, R72, R439). -/
def mayPass (s : State) (c : Crew) : Bool :=
  c.state == .resident && !c.stranded && ((s.ctx c.ctx).preempt == .no || (s.ctx c.ctx).preempt == .asked)

/-- A split may issue (R61). -/
def maySplit (s : State) (c : Crew) (x : Split) : Bool := mayPass s c && x.state == .ready

/-- A split in Issuing takes its next pass (R61, R62): with the last one it is Ready, at the age it had. -/
def Split.passed (x : Split) : Split :=
  if x.left ≤ 1 then { x with state := .ready, left := 0, waited := 0 } else { x with left := x.left - 1, waited := 0 }

/-- The physical address of code, where its page translates; the own stockpile by its alias (R108). -/
def codeAt (s : State) (c : Crew) (pc : Nat) : Option (Xlate × Nat) :=
  match translate s (askCore c.core) c.ctx pc needX with
  | .ok x => some (x, stockPa (dieOfCore c.core) x.pa)
  | .error _ => none

/-- The code at an address lies in a stockpile group that is refreshing: its fetch waits (R110). -/
def codeWaits (s : State) (c : Crew) (pc : Nat) : Bool :=
  match codeAt s c pc with
  | some (_, pa) => refreshing s pa
  | none => false

/-- The fetch of `n` bytes of code: their translation (R94), the read at the home (R299, DESIGN CHOICE log 12), the
errors that it finds, and poison consumed (R367). -/
def noteFetch (s : State) (crew entry : Nat) (c : Crew) (pc n : Nat) : State :=
  match translate s (askCore c.core) c.ctx pc needX with
  | .error f => noteFail s (askCore c.core) (some crew) entry pc f
  | .ok x =>
    let s := noteXlate s (askCore c.core) x
    let pa := stockPa (dieOfCore c.core) x.pa
    let w : Who := { ctx := c.ctx, cls := x.e.aclass, va := pc, origin := 0, core := c.core, crew := some crew, split := entry }
    let s := if isHbm pa then (homeRead s pa n (some w)).2 else detectBy s pa n (some w)
    match codeBytes s c pc n with
    | some (_, true) => orSticky (countPoisonRead (s.caughtIf (isHost x.pa || isPeer x.pa)) (dieOfCore c.core) true) crew flagDERR
    | _ => s

/-- The state in which a fetched instruction executes: the split stands at it, in its clause, and acts; it has
received a pass (R62). -/
def atInstr (s : State) (crew entry pc : Nat) (clause : Option Clause) : State :=
  { s.modCrew crew (fun c => c.modSplit entry (fun x => { x with pc := pc, clause := clause, waited := 0 })) with
    actor := .split crew entry }

/-- The bytes of an instruction that has no operands' bits of its own: a clause header is 8 bytes long. -/
def fetchLen (i : Instr) : Nat :=
  match i.word with
  | some (_, f) => 4 * unitsOf f.ext.lenCode
  | none => 8

/-- The pieces of a range of code that lie in host memory or a peer window: virtual address, physical address, size. -/
def codeBeyond (s : State) (c : Crew) (lo n : Nat) : List (Nat × Nat × Nat) :=
  (pagesOf lo n).flatMap (fun v => piecesBeyond s (askCore c.core) c.ctx v (min (lo + n) ((v / 4096 + 1) * 4096) - v) needX)

/-- The code that a split fetches at its place: its fetch block and the next one, within its kernel's (R157, R158). -/
def codeNear (s : State) (c : Crew) (x : Split) : List (Nat × Nat × Nat) :=
  let lo := max c.codeBase (x.pc / 32 * 32)
  codeBeyond s c lo (min c.codeEnd (x.pc / 32 * 32 + 64) - lo)

/-- An instruction that looks for clause headers, from the kernel's first one on (R158, R161): a header, or a form of the
control group. -/
def followsClauses (s : State) (c : Crew) (x : Split) : Bool :=
  match fetchSplit s c x with
  | .instr i _ clause => clause.isNone || (match i.word with | some (slot, _) => slot < 0x020 | none => true)
  | .bad _ _ _ _ => false

/-- The code beyond the module that a split waits for: what it fetches, and for an instruction that looks for clause headers
all the code (R325, DESIGN CHOICE log 12). -/
def codeWants (s : State) (c : Crew) (x : Split) : List (Nat × Nat × Nat) :=
  let near := codeNear s c x
  let got : Bool := near.all (fun p => x.away.any (fun w => w.pa == p.2.1 && w.size == p.2.2 && w.answered))
  if !got then near
  else if x.clause.isNone || followsClauses s c x then near ++ codeBeyond s c c.codeBase c.kernel.codelen
  else near

/-- Such a read is made for a split: a port that is down refuses it at once (R441, R446). -/
def pullCode (s : State) (crew entry : Nat) (c : Crew) (p : Nat × Nat × Nat) : State :=
  let note : Nat → State → State := fun r s => s.modCrew crew (fun c => c.modSplit entry (fun x =>
    { x with away := x.away ++ [⟨p.2.1, p.2.2, none, r⟩] }))
  match deadTarget s p.2.1 with
  | some r => note r s
  | none => note 0 (sendExt s { otherExt s .fetch c.core c.ctx p.1 p.2.1 p.2.2 [] with crew := crew, split := entry })

/-- What a split's turn does before it fetches, where its code lies beyond the module: it waits for its reads; one that is
refused at its place ends in `RREMOTE` (R325, R404). None where the fetch goes on. -/
def fetchBeyond (s : State) (crew entry : Nat) (c : Crew) (x : Split) : Option State :=
  let wants := codeWants s c x
  let held : Nat × Nat × Nat → Option Away := fun p => x.away.find? (fun w => w.pa == p.2.1 && w.size == p.2.2)
  match (codeNear s c x).find? (fun p => (held p).any (fun w => w.reason != 0)) with
  | some p => some (takeException s crew entry
      { exc := .rremote, lane := 0, va := some x.pc, pa := some p.2.1, opc := 0, pc := x.pc, deferred := true })
  | none =>
    if wants.all (fun p => (held p).any Away.answered) then none
    else some (waitHere ((wants.filter (fun p => (held p).isNone)).foldl (fun s p => pullCode s crew entry c p) s) crew entry .stalled)

/-- The words of a mask that are not empty: the passes of a vector instruction (R24). -/
def wordsOf (m : Mask) : Nat := (List.range 32).countP (fun w => m.extractLsb' (32 * w) 32 != 0)

/-- What follows an instruction of a split: reads beyond the module that were its own are used up once the split stands
elsewhere (R325), and one whose vector instruction has more passes to take is Issuing (R24, R61). Its effect is whole at its
first pass. (DESIGN CHOICE, log 54) -/
def issued (t : State) (crew entry : Nat) (x : Split) (i : Instr) : State :=
  match (t.crew crew).bind (fun c => c.split entry) with
  | none => t
  | some y =>
    let t := if y.pc == x.pc || (y.away.isEmpty && y.groups.isEmpty) then t
      else t.modCrew crew (fun c => c.modSplit entry (fun x => { x with away := [], groups := [] }))
    let n := wordsOf x.mask
    if i.word.isNone || i.form.uniform || n ≤ 1 || y.pc == x.pc || y.state != .ready || y.mask != x.mask then t
    else t.modCrew crew (fun c => c.modSplit entry (fun x => { x with state := .issuing, left := n - 1 }))

/-- A split's turn: it fetches, decodes and executes, or takes the exception of its fetch (R156 to R158, R374 to
R376); in Issuing it takes its next pass (R62). A turn of a split that may not issue does nothing. -/
def splitTurn (s : State) (crew entry : Nat) : Host.Outcome State Fault Refusal :=
  match s.crew crew with
  | none => .next s
  | some c =>
    match c.split entry with
    | none => .next s
    | some x =>
      if mayPass s c && x.state == .issuing then .next (s.modCrew crew (fun c => c.modSplit entry Split.passed))
      else if !maySplit s c x then .next s
      else
        match fetchBeyond s crew entry c x with
        | some t => .next t
        | none =>
          match fetchSplit s c x with
          | .instr i pc clause =>
            if codeWaits s c pc then .next (waitHere s crew entry .stalled)
            else
              (match exec i (atInstr (noteFetch s crew entry c pc (fetchLen i)) crew entry pc clause) with
                | .next t => .next (issued t crew entry x i)
                | o => o)
          | .bad e pc opc pa =>
            .next (takeException (noteFetch s crew entry c pc 4) crew entry
              { exc := e, lane := 0, va := some pc, pa := pa, opc := opc, pc := pc, deferred := false })

/-- A handler's turn: one instruction after a stall of some cycles (R297, R305). -/
def handlerStep (s : State) (slice stall : Nat) : Host.Outcome State Fault Refusal :=
  match handlerTurn s slice stall with
  | .idle => .next s
  | .ends s => .next s
  | .run i s => exec i { s with actor := .handler slice }

/-- Cycles of an island in `n` reference cycles from now: its clock is 0.60 + 0.05 s GHz against 1.25 GHz (R5, R15,
Table 17-7). -/
def islandCycles (s : State) (island n : Nat) : Nat :=
  let k := 12 + (s.island island).step
  (s.clock + n) * k / 25 - s.clock * k / 25

/-- What a timestamp gains at least in `n` reference cycles: 1 in every 4 cycles of the agent's island (R116). -/
def islandQuarters (s : State) (island n : Nat) : Nat :=
  let k := 12 + (s.island island).step
  (s.clock + n) * k / 25 / 4 - s.clock * k / 25 / 4

/-- The watchdog of a crew counts (R391). -/
def Crew.counts (c : Crew) : Bool :=
  c.state == .resident && !c.stranded && c.splits.any (fun e =>
    match e.2.state with
    | .ready | .issuing | .stalled | .refuge | .joinWait => true
    | _ => false)

/-- Work in flight on a core ages (class 12 of Table 21-2): a parked command is not stuck, nor is an engine instruction that
waits for an earlier one; `free` gives the places of those that may run (R275). -/
def Core.ages (c : Core) (free : List Nat) (n : Nat) : Core :=
  { c with hoist := c.hoist.map (fun h => if h.2.park.isSome then h else (h.1, { h.2 with idle := h.2.idle + n }))
           eng := c.eng.zipIdx.map (fun e => if free.contains e.2 then { e.1 with idle := e.1.idle + n } else e.1) }

/-- A split as cycles pass: it waits for a pass in Ready and Issuing (R62). -/
def Split.passes (x : Split) (cycles : Nat) : Split :=
  if x.state == .ready || x.state == .issuing then { x with waited := x.waited + cycles } else x

/-- A crew as cycles pass: its watchdog counts (R391), its idle time (R67) and its splits' waits for a pass (R62), and
with a live split its timestamps rise (R116). -/
def Crew.passes (c : Crew) (cycles quarters : Nat) : Crew :=
  let here : Bool := c.state == .resident
  let live : Bool := here && !c.splits.isEmpty
  { c with
    wdogCount := if c.counts then c.wdogCount + cycles else c.wdogCount
    idleFor := if here then c.idleFor.map (· + cycles) else c.idleFor
    splits := if here then c.splits.map (fun e => (e.1, e.2.passes cycles)) else c.splits
    pts := if live then c.pts + quarters else c.pts
    engTs := if live then c.engTs + quarters else c.engTs }

/-- A running handler's timestamp rises (R116). -/
def Slice.passes (x : Slice) (quarters : Nat) : Slice :=
  match x.handler with
  | none => x
  | some h =>
    match tabGet x.installs h.ctx with
    | none => x
    | some i => { x with installs := tabPut x.installs h.ctx { i with pts := i.pts + quarters } }

/-- Time passes: for crews and cores in cycles of their islands, for handlers in those of their slices (R305), for
agents outside the cores in reference cycles, which are no fewer than those of any island. (DEDUCED, log 27)
(DESIGN CHOICE, log 58) -/
def passTime (s : State) (n : Nat) : State :=
  let gain := (s.clock + n) / 4 - s.clock / 4
  { s with
    crews := s.crews.map (fun e =>
      (e.1, e.2.passes (islandCycles s (coreIsland e.2.core) n) (islandQuarters s (coreIsland e.2.core) n)))
    slices := s.slices.map (fun e =>
      (e.1, (e.2.passes (islandQuarters s (sliceIsland e.1) n)).stalls (islandCycles s (sliceIsland e.1) n)))
    cores := s.cores.map (fun e => (e.1, e.2.ages ((engFree s e.1).map Prod.fst) (islandCycles s (coreIsland e.1) n)))
    unitPts := s.unitPts + gain
    outerPts := s.outerPts.map (fun e => (e.1, e.2 + gain))
    clock := s.clock + n }

/-- The lines locked by running message handlers, with their slices (R306). -/
def locksOf (s : State) : List (Nat × Nat) :=
  s.slices.filterMap (fun e => (e.2.handler.bind Handler.lock).map (fun n => (e.1, n)))

/-- The copies of a line, and the places where a stash images it. -/
def copiesOf (s : State) (line : Nat) : List (Nat × Copy) :=
  s.cores.filterMap (fun e => (tabGet e.2.copies line).map (fun c => (e.1, c)))

def imagesOf (s : State) (line : Nat) : List (Nat × Nat × Nat × MLine) :=
  s.cores.flatMap (fun e => e.2.maps.flatMap (fun m =>
    (m.2.lines.filter (fun l => l.2.pa / 128 == line)).map (fun l => (e.1, m.1, l))))

/-- A step has reached a line's home: its entry, bytes, marks, copies or images differ. -/
def reached (s t : State) (line : Nat) : Bool :=
  tabGet s.lines line != tabGet t.lines line || memRead s.mem (128 * line) 128 != memRead t.mem (128 * line) 128 ||
    (List.range 4).any (fun i => granuleBad s (128 * line + 32 * i) != granuleBad t (128 * line + 32 * i)) ||
    (copiesOf t line).any (fun c => !(copiesOf s line).contains c) ||
    (imagesOf t line).any (fun c => !(imagesOf s line).contains c)

/-- The core that acts in a turn: a split's, or that of a hoist or an engine. -/
def actingCore (s : State) (turn : Turn) : Option Nat :=
  match turn with
  | .split crew _ => (s.crew crew).map Crew.core
  | .event (.hoistRowDone core _ _) | .event (.mmulRowCommit core) | .event (.engineInsnDone core) => some core
  | _ => none

/-- The acting core's stash owns the line, and serves the access itself (R114, R306). -/
def servesItself (s : State) (turn : Turn) (line : Nat) : Bool :=
  match (lineOf s (128 * line)).owner with
  | some (core, _) => actingCore s turn == some core
  | none => false

/-- The acting handler holds the lock itself. -/
def ownLock (turn : Turn) (slice : Nat) : Bool :=
  match turn with
  | .handler l _ => l == slice
  | _ => false

/-- The record of an error that a read found (R369, Tables 21-4, 24-3), in the window of the chiplet that holds the
granule; HBM's 16th within a second fences its pseudo-channel (R409). Bytes that a stash holds for a line that it owns are
the stash's (class 1). -/
def recordFind (s : State) (f : Find) : State :=
  let crew := f.by_.crew.bind s.crew
  let die := ownerDie f.pa
  let rec_ : Nat → Nat → Nat → ErrRec := fun cls ukind unit =>
    { cls := cls, sev := 0, addr := some f.pa, vaddr := f.by_.va, who := crew.map (fun c => (c.ctx, c.index)),
      ukind := ukind, unit := unit, info := info24 f.by_.path f.gmask (home s f.pa) 0, split := f.by_.split,
      slot := crew.bind Crew.slot }
  if isHbm f.pa && stashOwned s f.pa then
    let core := (((lineOf s f.pa).owner).map Prod.fst).getD 0
    errRecord s (dieOfCore core) (rec_ 1 0 core)
  else if isHbm f.pa then
    let pc := pseudoChannel f.pa
    noteHit (errRecord s die (rec_ 5 3 pc)) die pc
  else
    let o := f.pa - 0x10000000000
    let d := o / 0x100000000
    errRecord s d (rec_ 4 4 (32 * d + o % 0x100000000 / 0x8000000))

/-- What a step found, and what it has to record and to count, is recorded with it (R369): the bound of 10 µs is met at
once. -/
def flushFinds (s : State) : State :=
  let t : State := { s with finds := [], caught := 0, errs := [], counts := [] }
  let t := s.errs.foldl (fun t e => errRecord t e.1 e.2) (s.finds.foldl recordFind t)
  s.counts.foldl (fun t e => errCounts t (e.1 / 32) (e.1 % 32) e.2) t

/-- A granule comes to hold an uncorrectable error (R364): nothing shows until a read or a scrub finds it. -/
def strikeGranule (s : State) (pa : Nat) : State :=
  if (isHbm pa || isStockpile pa) && !s.poison.contains (pa / 32) then { s with latent := setAdd s.latent (pa / 32) } else s

/-- One turn of a module that has power. An instruction of a crew or a handler is no event. A fault of a datapath
strikes the result of the step made (R364, R367). -/
def turnOf (s : State) (turn : Turn) : Host.Outcome State Fault Refusal :=
  match turn with
  | .split crew entry => splitTurn s crew entry
  | .handler slice stall => handlerStep s slice stall
  | .time n => .next (bootOn (passTime s n))
  | .flaw pa => .next (strikeGranule s pa)
  | .event i => if (encode i).isSome then .next s else exec i { s with actor := .none }
  | .hw (.datapath crew entry word) =>
    (match splitTurn s crew entry with
      | .next t => .next (zeroResult s t crew entry word)
      | o => o)
  | .hw (.accessDropped crew entry) =>
    (match splitTurn s crew entry with
      | .next t => .next (dropAccess s t crew entry)
      | o => o)
  | .hw (.engine core) =>
    (match exec (.mmulRowCommit core) { s with actor := .none } with
      | .next t => .next (zeroStep s t core)
      | o => o)
  | .hw f => .next (strikeUnit s f)

/-- The state in which a turn is tried for whether it reaches a line's home: the home holds nothing of the line. -/
def homeless (s : State) (line : Nat) : State :=
  setLine s (128 * line) { lineOf s (128 * line) with held := false, owner := none }

/-- A turn reaches a line's home: it fetches the line there, or changes what the home holds (R306). -/
def reachesHome (s t : State) (turn : Turn) (line : Nat) : Bool :=
  reached s t line ||
    (match turnOf (homeless s line) turn with
      | .next u => (lineOf u (128 * line)).held
      | _ => false)

/-- A lock holds a turn back: the turn would reach the home of a line that another handler has locked (R306). Time
passes by no access. -/
def lockBars (s t : State) (turn : Turn) : Bool :=
  (locksOf s).any (fun k => !ownLock turn k.1 && !servesItself s turn k.2 && reachesHome s t turn k.2)

/-- A turn waits: for a lock (R306), or an agent outside the cores for a refresh window's end (R110). -/
def turnWaits (s t : State) (turn : Turn) : Bool :=
  lockBars s t turn ||
    (match turn with
      | .event i => eventWaits s i
      | _ => false)

/-- An access from outside the module's own units: two equal ones are two accesses. -/
def fromOutside (turn : Turn) : Bool :=
  match turn with
  | .event (.hostAccess _ _ _) | .event (.peerRequest _ _ _ _) | .event (.applicationCoreAccess _ _ _)
  | .event (.ioDeviceWrite _ _ _) => true
  | _ => false

/-- A turn that waits is made again later, after those that waited before it; a split is Stalled meanwhile.
(DEDUCED, log 29) -/
def heldBack (s : State) (turn : Turn) : State :=
  let s := { s with held := if s.held.contains turn && !fromOutside turn then s.held else s.held ++ [turn] }
  match turn with
  | .split crew entry => waitHere s crew entry .stalled
  | _ => s

/-- When a lock is released or time has passed, the turns that wait are next, in their order of arrival (R306). -/
def releaseHeld (s t : State) (turn : Turn) : State :=
  let free : Bool := (locksOf s).any (fun k => !(locksOf t).contains k) || (match turn with | .time _ => true | _ => false)
  if free && !t.held.isEmpty then { t with agenda := t.held ++ t.agenda, held := [] } else t

/-- A split of the crew with the split made Ready, to try whether its cause has cleared. -/
def readied (s : State) (crew entry : Nat) : State :=
  s.modCrew crew (fun c => c.modSplit entry (fun x => { x with state := .ready }))

/-- The cause of a Stalled split, or of one in the refuge, has cleared: its next turn would not end in the same wait
(R61, R63). -/
def cleared (s : State) (crew entry : Nat) (c : Crew) (x : Split) : Bool :=
  let p := readied s crew entry
  maySplit s c { x with state := .ready } &&
    (match splitTurn p crew entry with
      | .next t =>
        ((t.crew crew).bind (fun c => c.split entry)).map Split.state != some x.state && !lockBars p t (.split crew entry)
      | _ => true)

/-- A split that waits for its own cause alone is Ready once that has cleared: from Stalled with a new age, from the
refuge with the one it had (R61, R62). -/
def Split.lookedAt (s : State) (crew : Nat) (c : Crew) (e : Nat × Split) : Nat × Split :=
  match e.2.state with
  | .stalled => if cleared s crew e.1 c e.2 then (e.1, e.2.freshReady s.clock) else e
  | .refuge => if cleared s crew e.1 c e.2 then (e.1, { e.2 with state := .ready, waited := 0 }) else e
  | _ => e

/-- Every Stalled split and every one in the refuge is looked at again. -/
def relook (s : State) : State :=
  { s with crews := s.crews.map (fun e =>
      (e.1, { e.2 with splits := e.2.splits.map (Split.lookedAt s e.1 e.2) })) }

/-- What follows a turn: the records of what it found, the turns that it lets go on, and the splits whose cause it has
cleared. -/
def settleTurn (s t : State) (turn : Turn) : State := relook (releaseHeld s (flushFinds t) turn)

/-- The outcome of a turn, unless it waits. -/
def underLocks (s : State) (turn : Turn) (o : Host.Outcome State Fault Refusal) : Host.Outcome State Fault Refusal :=
  match o with
  | .next t => .next (if turnWaits s t turn then heldBack s turn else settleTurn s t turn)
  | .fault f => .fault f
  | .refused r => .refused r

/-- A split has waited 128 cycles for a pass (R62). -/
def Split.boosted (x : Split) : Bool := 128 ≤ x.waited

/-- Whom a partition chooses of two splits (R62): a boosted one first, the one boosted earlier; then effective
priority, age, the crew's placement, the table entry. -/
def issueBefore (s : State) (a b : Nat × Crew × Nat × Split) : Bool :=
  let key : Nat × Crew × Nat × Split → List Nat := fun e => [e.2.1.placedAt, e.2.2.1, e.1]
  let full : Nat × Crew × Nat × Split → List Nat := fun e => [7 - effPrio s e.2.1, e.2.2.2.age] ++ key e
  let wa := a.2.2.2.waited
  let wb := b.2.2.2.waited
  if a.2.2.2.boosted || b.2.2.2.boosted then (if wa == wb then compare (key a) (key b) != .gt else decide (wb < wa))
  else compare (full a) (full b) != .gt

/-- Splits that compete for a pass, in order (R61). -/
def readySplits (s : State) : List (Nat × Crew × Nat × Split) :=
  let all := s.crews.flatMap (fun e => (e.2.splits.filter (fun x =>
    mayPass s e.2 && (x.2.state == .ready || x.2.state == .issuing))).map (fun x => (e.1, e.2, x.1, x.2)))
  all.foldl (fun l e => insertBy (issueBefore s) e l) []

/-- A split's next instruction is a uniform one; in Issuing it has passes of a vector instruction to take. -/
def nextUniform (s : State) (e : Nat × Crew × Nat × Split) : Bool :=
  e.2.2.2.state != .issuing &&
    (match fetchSplit s e.2.1 e.2.2.2 with
      | .instr i _ _ => i.form.uniform
      | .bad _ _ _ _ => false)

/-- The sides of the partitions that choose, each with its splits in order: a vector pass and a uniform one (R62). -/
def issueSides (s : State) : List (List (Nat × Crew × Nat × Split)) :=
  let all := (readySplits s).map (fun e => ((e.2.1.core, e.2.1.part, nextUniform s e), e))
  ((all.map Prod.fst).eraseDups).map (fun k => (all.filter (fun e => e.1 == k)).map Prod.snd)

/-- The splits that take a pass or issue in a cycle, one of each side (R24, R62). Of two splits of one crew the lower entry
comes first, so that it is the one reported (R379). -/
def issueChoices (s : State) : List Turn :=
  let first := (issueSides s).filterMap List.head?
  let lower : Nat × Crew × Nat × Split → Nat × Crew × Nat × Split → Bool := fun a b => a.1 != b.1 || a.2.2.1 ≤ b.2.2.1
  (first.foldl (fun l e => insertBy lower e l) []).map (fun e => Turn.split e.1 e.2.2.1)

/-- What a crew may need beside its splits' turns. -/
def crewEvents (s : State) (id : Nat) (c : Crew) : List Instr :=
  match c.state with
  | .pending => [.placeCrew id, .warmWaitExpire id, .reservationStart id, .binStallTimer id]
  | .draining => [.drainEnd id]
  | .swappedOut => [.swapIn id] ++ (c.splits.filter (fun x => x.2.wait.isSome)).flatMap (fun x =>
      [Instr.waitcReply id x.1, .monitorRecheck id x.1])
  | .halted => [.saveDelayTimer id]
  | .resident =>
    (c.splits.filter (fun x => x.2.wait.isSome)).flatMap (fun x => [Instr.waitcReply id x.1, .monitorRecheck id x.1]) ++
      (if budgetOf s c ≤ c.wdogCount then [Instr.crewWatchdogExpire id] else []) ++
      (if c.idle then [Instr.swapOut id] else [])
  | _ => []

/-- What a core's units do next (R264, R275, R279, R247, R127). -/
def coreEvents (core : Nat) (c : Core) : List Instr :=
  (c.hoist.filter (fun h => h.2.park.isNone)).map (fun h => Instr.hoistRowDone core h.1 ⟨0, []⟩) ++
    (if c.eng.isEmpty then [] else [Instr.mmulRowCommit core, .engineInsnDone core]) ++
    (List.range c.reqs.length).map (fun i => Instr.stashWritebackDone core i) ++
    (c.reqs.filter (fun r => r.kind == 2)).map (fun r => Instr.hpubExchange core r.entry)

/-- What a ring's I/O core does next (R329, R330, R332). -/
def ringEvents (s : State) (ring : Nat) : List Instr :=
  let r := s.ring ring
  let cmd : List Instr := match r.command with
    | none => []
    | some (_, p) =>
      if typeBarred s ring (p % 256) then [.noOperation ring]
      else
      match p % 256 with
      | 0 => [.noOperation ring]
      | 2 => [.seal ring]
      | 3 => [.unseal ring]
      | 4 => [.preempt ring]
      | 5 => [.resume ring]
      | 6 => [.invalidateTranslations ring]
      | 7 => [.installAssayers ring]
      | 8 => [.removeAssayers ring]
      | 9 => [.debugResume ring]
      | 10 => [.joinModuleGang ring]
      | _ => []
  (if r.woken then [Instr.kick ring] else []) ++ [.acceptLaunch ring] ++ cmd ++ (if r.held.isEmpty then [] else [Instr.completionRecord ring])

/-- What a context asks of its cores (R50, R51, R70), and its bins' timers (R39). -/
def ctxEvents (s : State) (ctx : Nat) (x : Ctx) : List Instr :=
  (match x.preempt with
   | .no => []
   | .asked => [Instr.crewHalt ctx]
   | .halted => (coresToSave s ctx).map (fun core => Instr.crewSave core ctx)
   | .saved => if x.resume then [Instr.crewRestore ctx] else []) ++
    (x.bins.filter (fun b => b.2.timer.isSome)).map (fun b => Instr.binTimerExpire ctx (b.1 / 4) (b.1 % 4))

/-- Launches whose crews are still to be claimed, by their chiplets (R54, R55, R58). -/
def claimEvents (s : State) : List Instr :=
  if s.launches.all (fun l => l.2.done || l.2.ncrew ≤ l.2.next) then []
  else (List.range 4).flatMap (fun d => [Instr.claimCrews d 1, .placeClosure d]) ++
    (s.launches.filter (fun l => l.2.claimable s && l.2.headSince + 16384 ≤ s.clock)).map (fun l => Instr.reservationStart l.1)

/-- Collectives that wait for their move (R256). -/
def gangEvents (s : State) : List Instr :=
  s.launches.flatMap (fun l => (l.2.gangs.filter (fun g => !g.2.issues.isEmpty)).map
    (fun g => Instr.collectiveComplete l.1 g.1))

/-- Bank groups whose window has just ended, while somebody could wait for one (R110). -/
def refreshEvents (s : State) : List Instr :=
  if s.crews.isEmpty then []
  else (List.range 4).map (fun d => Instr.stockpileRefreshEnd d ((s.clock / 2500 + 8 * d + 31) % 32))

/-- Power controllers whose evaluation is due (R17). -/
def powerEvents (s : State) : List Instr :=
  ((List.range 4).filter (powerDue s)).map (fun d => Instr.powerEvaluation d [])

/-- The turns of a round that nobody outside asked for (DESIGN CHOICE, log 1): the splits that the partitions choose, every handler,
what the units of the module have to do, and time. -/
def roundOf (s : State) : List Turn :=
  let chosen := issueChoices s
  let handlers := (s.slices.filter (fun e => e.2.handler.isSome)).map (fun e => Turn.handler e.1 0)
  let idle := (s.slices.filter (fun e => e.2.handler.isNone && e.2.installs.any (fun i => !i.2.queue.isEmpty))).map
    (fun e => Instr.handlerDispatch e.1)
  let events : List Instr :=
    s.crews.flatMap (fun e => crewEvents s e.1 e.2) ++ s.cores.flatMap (fun e => coreEvents e.1 e.2) ++
      (s.amsgs.filter (fun e => e.2.reply.isSome)).map (fun e => Instr.amsgReply e.1) ++ idle ++
      s.rings.flatMap (fun e => ringEvents s e.1) ++ s.ctxs.flatMap (fun e => ctxEvents s e.1 e.2) ++
      claimEvents s ++ gangEvents s ++ refreshEvents s ++ powerEvents s
  chosen ++ handlers ++ events.map Turn.event ++ [.time 1]

/-- The next turn. Without power nothing but a power-up happens (R342). -/
def runTurn (s : State) : Host.Outcome State Fault Refusal :=
  match s.agenda with
  | [] => if s.powered then .next { s with agenda := roundOf s } else .fault .noPower
  | turn :: rest =>
    let s : State := { s with agenda := rest }
    if s.powered then underLocks s turn (turnOf s turn)
    else
      match turn with
      | .event (.powerUp b) => execPowerUp b s
      | _ => .next s

/-- Where a placed word stands for a crew (DESIGN CHOICE, log 1): a clause header at the start of the code, so that the first
instruction begins a fetch block (R157). -/
def placeKobj : Nat := 0x1000
def placeHeader : Nat := 0x1054
def placeInstr : Nat := 0x1060

/-- A translation of the page of the placed code. -/
def placeEntry (at_ : TlbAt) : TlbEntry :=
  { place := at_, ctx := 0, page := 1, log := 12, pa := 0x1000, r := true, w := true, x := true, u := true,
    dirty := true, aclass := 0, cmode := 0, pbmt := 0, owner := none }

/-- The kernel of the placed code. -/
def placeKernel : Kernel :=
  { kobj := placeKobj, width := 0, vregs := 64, sregs := 64, accs := 0, lamp := 0, gangs := 0, rowctr := 0,
    stash := 0, wdog := 0, affin := 0, codeoff := placeHeader - placeKobj, codelen := 256 }

/-- The crew that runs a placed word of some bytes: its one split stands at the word. A clause header stands at the
start of the code, another instruction fills a clause of its own. -/
def placeCrewFor (s : State) (w n : Nat) : Crew :=
  let header : Bool := w % 4 == 0
  let split : Split :=
    { pc := if header then placeHeader else placeInstr, mask := lowMask 32, state := .ready, innermost := none,
      clause := if header then none else some { base := placeHeader, stop := placeInstr + n, flga := 15, flgb := 15, first := true }
      awaitFlag := 0, wait := none, gang := 0, age := s.clock, waited := 0, left := 0, away := [], groups := [] }
  { Crew.fresh 0 0 none none [] placeKernel 0 s.clock with
    state := .resident, splits := [(0, split)], p := [(0, lowMask 32)] }

/-- Places a crew's word and the crew that runs it. -/
def placeForCrew (s : State) (w : Nat) : State :=
  let n := 4 * unitsOf (w % 4)
  let header : Bool := w % 4 == 0
  let head := 2 ^ 14 * 15 + 2 ^ 18 * 15 + 2 ^ 22 * (3 + n / 4)
  let mem := memWrite s.mem placeHeader (leBytes 8 (if header then w else head))
  let mem := if header then mem else memWrite mem placeInstr (leBytes n w)
  let d := s.fresh
  { d.2.setCrew d.1 (placeCrewFor s w n) with
    mem := mem, tlb := placeEntry (.core 0) :: s.tlb, agenda := .split d.1 0 :: s.agenda }

/-- Places an assayer's word and the handler that runs it. -/
def placeForHandler (s : State) (w : Nat) : State :=
  let ev : AsEvent :=
    { kind := 0, cls := 1, origin := 0, dirty := false, va := 0, arg := 0, crewIndex := 0, core := 0, time := s.clock,
      request := none }
  let inst : Install :=
    { codebase := 0x1000, codelen := 4096, share := 1, measure := 0, entries := [(4, 0x1000)], data := [], dataPoison := [], pts := 0,
      queue := [], waiting := [], disc := 0, overruns := [], disabled := [], used := 0, removing := false }
  let h : Handler :=
    { ctx := 0, ev := ev, entry := 0x1000, regs := [], pc := 0x1000, lastPc := 0x1000, cycles := 0, ahead := 0, replied := false,
      lock := none, loadDst := 0, away := [] }
  let x := s.slice 0
  { s.setSlice 0 { x with installs := tabPut x.installs 0 inst, handler := some h } with
    mem := memWrite s.mem 0x1000 (leBytes 4 w), tlb := placeEntry (.assayer 0) :: s.tlb, agenda := .handler 0 0 :: s.agenda }

/-- Places an instruction where the next step fetches it: 32 bits are an assayer's word, more are a crew's. -/
def placeWord (s : State) (nbits w : Nat) : State :=
  if nbits ≤ 32 then placeForHandler s w else placeForCrew s w

end Sys2Proof.Machine
end

