-- ==== Sys2Proof/Machine/Step.lean ====
section
/-! DEFINITION. The step of the machine: the next turn of its agenda (DESIGN CHOICE, log 1), and the placing of a word where that
turn fetches it. -/

namespace Sys2Proof.Machine

/-- One step: the head of the agenda, or the filling of an empty agenda with a round. (DESIGN CHOICE, log 32) -/
def step (s : State) : Host.Outcome State Fault Refusal := runTurn s

/-- The state with an instruction of `nbits` bits `w` stored where the next step fetches it (DESIGN CHOICE, log 1). -/
def State.withFetchWord (s : State) (nbits w : Nat) : State := placeWord s nbits w

end Sys2Proof.Machine
end

