-- ==== Sys2Proof/Safety.lean ====
section
/-! DEFINITION. What counts as a safe run: runs of the machine, the form that every memory of a state keeps, and the
place of a state among those that a run can leave. -/

namespace Sys2Proof.Machine

/-- A run of some steps from a state to a state, none of which stops. -/
inductive Run : Nat → State → State → Prop where
  | stop (s : State) : Run 0 s s
  | more {n : Nat} {s t u : State} : Run n s t → step t = .next u → Run (n + 1) s u

/-- Every byte memory of a state is in its canonical form: memory, the stashes, the assayers' data memories. -/
def State.memOk (s : State) : Prop :=
  Memory.wf s.mem = true ∧ (∀ c ∈ s.cores, Memory.wf c.2.stash = true) ∧
    (∀ l ∈ s.slices, ∀ i ∈ l.2.installs, Memory.wf i.2.data = true)

/-- A state from which a step stops: it has no power and nothing asks for any (R342). -/
def State.dark (s : State) : Prop := s.powered = false ∧ s.agenda = []

/-- A run is safe when no step of it stops but in the dark. -/
def Safe (s : State) : Prop := ∀ n t, Run n s t → t.dark ∨ ∃ u, step t = .next u

/-- The state with a turn put before its agenda. -/
def State.asked (s : State) (turn : Turn) : State := { s with agenda := turn :: s.agenda }

/-- A crew's instruction is at issue for the acting split, passes the checks of R375 that come before its own, awaits
no register, acts where it is a predicated uniform form, finds the lamp held where it needs it, and reads no register
whose bits are lost (R366): its own meaning decides what happens. -/
structure Runs (i : Instr) (s : State) (e : Env) : Prop where
  env : envOf i s = some e
  checks : e.firstCheck i s = none
  ready : e.mustAwait s = false
  acts : (e.form.uniform && e.form.pred && !condSlot e.slot && !e.acts) = false
  lamp : (e.form.engine && !e.holds s) = false
  intact : e.meetsLost s = false

/-- The crew once the values of its marked sources have ended (R80). -/
def Env.spent (e : Env) (s : State) : Crew := ((e.endUses s).crew e.id).getD e.c

/-- Nothing but the table of crews differs. -/
def OnlyCrews (s t : State) : Prop := t = { s with crews := t.crews }

/-- A crew's registers and controls, all but its splits and the time since when it idles. -/
structure SameRegs (c d : Crew) : Prop where
  v : d.v = c.v
  s : d.s = c.s
  p : d.p = c.p
  k : d.k = c.k
  t : d.t = c.t
  acc : d.acc = c.acc
  flags : d.flags = c.flags
  obl : d.obl = c.obl
  fpctl : d.fpctl = c.fpctl
  sticky : d.sticky = c.sticky
  uintEn : d.uintEn = c.uintEn
  uintPend : d.uintPend = c.uintPend
  uintRun : d.uintRun = c.uintRun
  handler : d.handler = c.handler
  pts : d.pts = c.pts
  engTs : d.engTs = c.engTs
  divs : d.divs = c.divs
  gangs : d.gangs = c.gangs
  lode : d.lode = c.lode
  state : d.state = c.state
  kernel : d.kernel = c.kernel
  core : d.core = c.core
  ctx : d.ctx = c.ctx

/-- From `s` to `t` one crew's registers changed: they are those of `c`, and nothing else differs but where the crew's
splits stand. -/
def CrewBecomes (id : Nat) (s t : State) (c : Crew) : Prop :=
  OnlyCrews s t ∧ (∀ d, d ≠ id → t.crew d = s.crew d) ∧ ∃ d, t.crew id = some d ∧ SameRegs c d

/-- What a uniform destination holds after a result under the view (R197, R198, R366). -/
def Env.newS (e : Env) (s : State) (signed : Bool) (n v : Nat) : RegVal :=
  e.wrote ((e.spent s).sAt e.dst) (e.result signed n ((e.spent s).sAt e.dst) v)

/-- What a lane of a vector destination holds after one. -/
def Env.newV (e : Env) (s : State) (signed : Bool) (n l v : Nat) : RegVal :=
  e.wrote ((e.spent s).vAt e.dst l) (e.result signed n ((e.spent s).vAt e.dst l) v)

/-- A uniform instruction's result: its destination holds `r` and nothing else, its marked sources have ended, the flags
have joined `STICKY`. -/
def UniformResult (e : Env) (s t : State) (r : RegVal) (fl : Flags) : Prop :=
  CrewBecomes e.id s t (((e.spent s).orSticky fl).setS e.dst r)

/-- A vector instruction's results: lane l of its destination holds `val l` for every lane of `ls`, every other lane of
every register what it held once the marked sources had ended, and the flags have joined `STICKY`. -/
def VectorResult (e : Env) (s t : State) (ls : List Nat) (val : Nat → RegVal) (fl : Flags) : Prop :=
  ∃ c, CrewBecomes e.id s t c ∧ c = { (e.spent s).orSticky fl with v := c.v } ∧
    ∀ r l, l < 1024 → c.vAt r l = if r = e.dst ∧ l ∈ ls then val l else (e.spent s).vAt r l

/-- A predicate's results: bit l of the destination is `val l` for every lane of `ls`, and every other bit of every
predicate stays; `p15` ignores writes. A granule of the destination whose bits are lost and that is not written whole stays
lost (R366), and only its bits are left open here. -/
def PredicateResult (e : Env) (s t : State) (n : Nat) (ls : List Nat) (val : Nat → Bool) (fl : Flags) : Prop :=
  ∃ c, CrewBecomes e.id s t c ∧ c = { (e.spent s).orSticky fl with p := c.p, lost := c.lost } ∧
    ((e.spent s).lost = [] → c.lost = []) ∧
    ∀ k l, l < 1024 → (k = n → tabGet c.lost (16 * n + l / 64) = none) → (c.pAt k).getLsbD l =
      if k = n ∧ k ≠ 15 ∧ l ∈ ls then val l else ((e.spent s).pAt k).getLsbD l

/-- A lode form runs on the lodes of a descriptor (R285): the registers that it names by number exist and hold no data on
their way, the crew is one split, a lode is bound whose lanes are all in the mask, and the descriptor is within the
binding. The lanes lie in a register, as `lode.bind` leaves them (R281). -/
structure LodeRuns (i : Instr) (s : State) (e : Env) (bases : List Nat) (d : LodeDesc) : Prop where
  runs : Runs i s e
  held : ∀ b ∈ bases, b + d.q ≤ 1024 ∧ b + d.q ≤ e.c.kernel.scount ∧
    ∀ k, k < d.q → e.awaited (e.dead s (e.uni e.descNum).2) (.sreg (b + k), 1) = false
  single : e.c.single = true
  bound : ∃ n q, e.c.lode = some (n, q) ∧ descWlog (e.uni e.descNum).1.toNat = n ∧ d.w = 2 ^ n ∧ d.q ≤ q
  lanes : e.missingLane e.c.lodeLanes = none
  count : descQ (e.uni e.descNum).1.toNat = d.q
  bias : descBias (e.uni e.descNum).1.toNat = d.bias ∧ d.bias ≤ 64 * d.w
  clean : descReserved (e.uni e.descNum).1.toNat = false
  fits : d.w * d.q ≤ 1024

/-- A lode form's results: where it writes lodes, lode j of its destination holds `val j`; where it writes uniform
registers, `base` + j holds `uni j`; every other lane and register is what it was once the marked sources had ended, and
the flags have joined `STICKY`. -/
def LodeResult (e : Env) (s t : State) (d : LodeDesc) (val : Option (Nat → Nat)) (base : Nat) (uni : Option (Nat → Word))
    (fl : Flags) : Prop :=
  ∃ c, CrewBecomes e.id s t c ∧ c = { (e.spent s).orSticky fl with v := c.v, s := c.s } ∧
    (∀ r l, l < 1024 → c.vAt r l =
      match val with
      | some f =>
        if r = e.dst ∧ l < d.w * d.q then .live (BitVec.ofNat 64 (f (l / d.w) / 2 ^ (64 * (l % d.w))))
        else (e.spent s).vAt r l
      | none => (e.spent s).vAt r l) ∧
    ∀ k, c.sAt k =
      match uni with
      | some f => if base ≤ k ∧ k < base + d.q then .live (f (k - base)) else (e.spent s).sAt k
      | none => (e.spent s).sAt k

/-- A lode form reads a dead register: its descriptor, a limb of a lode, a uniform register (R285, R383). -/
def Env.lodeReadsDead (e : Env) (d : LodeDesc) (vregs sregs : List Nat) : Bool :=
  (e.uni e.descNum).2 ||
    (List.range d.q).any (fun j => vregs.any (fun r => e.c.lodeDead d r j) || sregs.any (fun b => (e.uni (b + j)).2))

/-- The uniform integer instructions and their operations on exact integers (Tables 10-1, 10-2). -/
def uniformInteger : List ((Fields → Instr) × (IntArgs → Int)) :=
  [(.sadd, fun x => x.ia + x.ib), (.ssub, fun x => x.ia - x.ib), (.smul, fun x => x.ia * x.ib), (.smulh, intMulh),
   (.smad, fun x => x.ia * x.ib + x.ic), (.sand, fun x => ((x.a &&& x.b) : Nat)), (.sor, fun x => ((x.a ||| x.b) : Nat)),
   (.sxor, fun x => ((x.a ^^^ x.b) : Nat)), (.sandn, intAndn), (.sshl, intShl), (.sshr, intShr), (.srol, intRol),
   (.sror, intRor), (.smov, fun x => x.b), (.sbfx, intBfx), (.sbfi, intBfi), (.spopc, fun x => popCount x.n x.a),
   (.sclz, intClz), (.sctz, fun x => trailZeros x.n x.a), (.sbrev, fun x => revBits x.n x.a),
   (.smin, fun x => min x.ia x.ib), (.smax, fun x => max x.ia x.ib), (.sabs, fun x => x.ia.natAbs),
   (.ssel, fun x => if x.c != 0 then x.ia else x.ib)]

/-- The vector integer instructions and their operations. -/
def vectorInteger : List ((Fields → Instr) × (IntArgs → Int)) :=
  [(.vadd, fun x => x.ia + x.ib), (.vsub, fun x => x.ia - x.ib), (.vmul, fun x => x.ia * x.ib), (.vmulh, intMulh),
   (.vmad, fun x => x.ia * x.ib + x.ic), (.vand, fun x => ((x.a &&& x.b) : Nat)), (.vor, fun x => ((x.a ||| x.b) : Nat)),
   (.vxor, fun x => ((x.a ^^^ x.b) : Nat)), (.vandn, intAndn), (.vshl, intShl), (.vshr, intShr), (.vrol, intRol),
   (.vror, intRor), (.vmov, fun x => x.b), (.vbfx, intBfx), (.vbfi, intBfi), (.vpopc, fun x => popCount x.n x.a),
   (.vclz, intClz), (.vctz, fun x => trailZeros x.n x.a), (.vbrev, fun x => revBits x.n x.a),
   (.vmin, fun x => min x.ia x.ib), (.vmax, fun x => max x.ia x.ib), (.vabs, fun x => x.ia.natAbs)]

/-- The packed instructions, by what each gives for its fields and three whole sources (Table 10-3). -/
def packedForms : List ((Fields → Instr) × (Env → Word → Word → Word → Word × Bool)) :=
  [(.vpadd, fun e a b _ => packedMap e.f.sat (typeSigned e.ty) e.bits (fun x y => x + y) a b),
   (.vpsub, fun e a b _ => packedMap e.f.sat (typeSigned e.ty) e.bits (fun x y => x - y) a b),
   (.vpmul, fun e a b _ => packedMap e.f.sat (typeSigned e.ty) e.bits (fun x y => x * y) a b),
   (.vpmin, fun e a b _ => packedMap e.f.sat (typeSigned e.ty) e.bits min a b),
   (.vpmax, fun e a b _ => packedMap e.f.sat (typeSigned e.ty) e.bits max a b),
   (.vpavg, fun e a b _ => packedMap e.f.sat (typeSigned e.ty) e.bits (fun x y => (x + y + 1) / 2) a b),
   (.vpabd, fun e a b _ => packedAbd (typeSigned e.ty) e.bits a b),
   (.vpshl, fun e a b _ => packedShift true e.f.sat (typeSigned e.ty) e.bits a b),
   (.vpshr, fun e a b _ => packedShift false false (typeSigned e.ty) e.bits a b),
   (.vpdot, fun e a b c => packedDot e.f.sat (typeSigned e.ty) a b c),
   (.vpack, fun e a b _ => packedPack e.f.sat (typeSigned e.ty) e.bits a b),
   (.vunpk, fun e a _ _ => (packedUnpack (typeSigned e.ty) e.bits e.var a, false))]

/-- The elementwise floating instructions, by what each gives for the patterns of one element of its three sources
(Tables 11-1 to 11-4): vector forms, then uniform ones. -/
def vectorFloat : List ((Fields → Instr) × (Env → Nat → Nat → Nat → Nat × Flags)) :=
  [(.vfadd, fun e a b _ => e.round (addVal e.f.rnd.toNat (e.val a) (e.val b))),
   (.vfsub, fun e a b _ => e.round (addVal e.f.rnd.toNat (e.val a) (e.val b).neg)),
   (.vfmul, fun e a b _ => e.round (mulVal (e.val a) (e.val b))),
   (.vfma, fun e a b c => e.round (fusedVal false false e.f.rnd.toNat (e.val a) (e.val b) (e.val c))),
   (.vfms, fun e a b c => e.round (fusedVal false true e.f.rnd.toNat (e.val a) (e.val b) (e.val c))),
   (.vfnma, fun e a b c => e.round (fusedVal true false e.f.rnd.toNat (e.val a) (e.val b) (e.val c))),
   (.vfnms, fun e a b c => e.round (fusedVal true true e.f.rnd.toNat (e.val a) (e.val b) (e.val c))),
   (.vfmin, fun e a b _ => minMaxBits (ffmt e.ty) false (e.var == 1) (dazed e.c.fpctl e.ty a) (dazed e.c.fpctl e.ty b)),
   (.vfmax, fun e a b _ => minMaxBits (ffmt e.ty) true (e.var == 1) (dazed e.c.fpctl e.ty a) (dazed e.c.fpctl e.ty b)),
   (.vfneg, fun e a _ _ => (a ^^^ 2 ^ ((ffmt e.ty).width - 1), 0)),
   (.vfabs, fun e a _ _ => (a % 2 ^ ((ffmt e.ty).width - 1), 0)),
   (.vfcsgn, fun e a b _ => (copySign (ffmt e.ty) a b, 0)),
   (.vfrnd, fun e a _ _ => rndBits (ffmt e.ty) e.f.rnd.toNat (dazed e.c.fpctl e.ty a)),
   (.vfcmpm, fun e a b _ =>
     (if (compareVal e.var (e.val a) (e.val b)).1 then 2 ^ e.bits - 1 else 0, (compareVal e.var (e.val a) (e.val b)).2)),
   (.vfclass, fun e a _ _ => (classMask (ffmt e.ty) a, 0)),
   (.vfrcpe, fun e a _ _ => flushed e.c.fpctl e.ty (frcpe e.ty (dazed e.c.fpctl e.ty a))),
   (.vfrsqe, fun e a _ _ => flushed e.c.fpctl e.ty (frsqe e.ty (dazed e.c.fpctl e.ty a))),
   (.vfrcps, fun e a b c => e.round (stepRcp e.f.rnd.toNat (e.val a) (e.val b) (e.val c))),
   (.vfrsqs, fun e a b c => e.round (stepRsq e.f.rnd.toNat (e.val a) (e.val b) (e.val c))),
   (.vfex2, fun e a _ _ => flushed e.c.fpctl e.ty (fex2 e.ty (dazed e.c.fpctl e.ty a))),
   (.vflg2, fun e a _ _ => flushed e.c.fpctl e.ty (flg2 e.ty (dazed e.c.fpctl e.ty a))),
   (.vfsinpi, fun e a _ _ => flushed e.c.fpctl e.ty (fsinpi e.ty (dazed e.c.fpctl e.ty a))),
   (.vfcospi, fun e a _ _ => flushed e.c.fpctl e.ty (fcospi e.ty (dazed e.c.fpctl e.ty a))),
   (.vftanh, fun e a _ _ => flushed e.c.fpctl e.ty (ftanh e.ty (dazed e.c.fpctl e.ty a)))]

def uniformFloat : List ((Fields → Instr) × (Env → Nat → Nat → Nat → Nat × Flags)) :=
  [(.sfadd, fun e a b _ => e.round (addVal e.f.rnd.toNat (e.val a) (e.val b))),
   (.sfsub, fun e a b _ => e.round (addVal e.f.rnd.toNat (e.val a) (e.val b).neg)),
   (.sfmul, fun e a b _ => e.round (mulVal (e.val a) (e.val b))),
   (.sfma, fun e a b c => e.round (fusedVal false false e.f.rnd.toNat (e.val a) (e.val b) (e.val c))),
   (.sfmin, fun e a b _ => minMaxBits (ffmt e.ty) false (e.var == 1) (dazed e.c.fpctl e.ty a) (dazed e.c.fpctl e.ty b)),
   (.sfmax, fun e a b _ => minMaxBits (ffmt e.ty) true (e.var == 1) (dazed e.c.fpctl e.ty a) (dazed e.c.fpctl e.ty b))]

/-- What a lane of an elementwise floating form gives (R214, R216): the value and its width, and its flags. -/
def Env.floatLane (e : Env) (clock l : Nat) (k : Env → Nat → Nat → Nat → Nat × Flags) : Nat × Flags :=
  let a := e.srcA.spread false e.ty (e.read clock e.srcA l).1
  let b := e.srcB.spread false e.ty (e.read clock e.srcB l).1
  let c := e.srcC.spread false e.ty (e.read clock e.srcC l).1
  e.gather e.bits (fun i => k e (elemAt e.bits i a) (elemAt e.bits i b) (elemAt e.bits i c))

/-- A lane reads a dead register among its three sources (R383). -/
def Env.readsDead (e : Env) (clock l : Nat) : Bool :=
  (e.read clock e.srcA l).2 || (e.read clock e.srcB l).2 || (e.read clock e.srcC l).2

/-- The flags of a list of lanes. -/
def joinFlags (ls : List Nat) (fl : Nat → Flags) : Flags := ls.foldl (fun f l => f ||| fl l) 0

end Sys2Proof.Machine
end

