-- ==== Sys2Proof/Certificates/Slice0/Obligations.lean ====
section
/-! DEFINITION. The obligations: what the model must be proved to do, each with the rules of the spec it comes from. -/

open Sys2Proof Sys2Proof.Machine

/-! Encoding. -/

/-- Decoding the words of any well-formed instruction gives it back, with every operand at every value that the encoding
admits (R156, R162 to R167, R307). -/
def Obligations.DecodeOfEncode : Prop :=
  ∀ (i : Instr) (c : Code), i.WellFormed → encode i = some c → decodeCode c = some i

/-- What decodes is well formed, and encoding it gives the word back, bit for bit: no bit of a crew's word is dropped.
The custom words of the assayers: what decodes encodes to the word itself, and no word decodes to anything but an
assayer form (R307, Table 15-4). -/
def Obligations.EncodeOfDecode : Prop :=
  (∀ (w : Nat) (i : Instr), decodeCrewWord w = .ok i →
     i.WellFormed ∧ encode i = some ⟨32 * unitsOf (w % 4), w % 2 ^ (32 * unitsOf (w % 4))⟩) ∧
  (∀ (w : Nat) (i : Instr), decodeAssayerWord w = some i → w < 2 ^ 32 ∧ w % 128 = 0x0B ∧ encode i = some ⟨32, w⟩)

/-- Words whose bits the spec writes out decode to what it says they are: the `hgth` of R453, the words of Table 22-5,
an `as.done`. A slot that no entry assigns raises `RSLOT`, whatever stands in the other fields; the slots 0x001 to
0x006 are among them (R381). -/
def Obligations.WrittenOutWords : Prop :=
  ((∃ f, decodeTableWord 64 (0x04001E05 + 2 ^ 32 * 0x00003C00) = some (.hgth f) ∧ f.dst = 1 ∧ f.srca = 16 ∧ f.srcb = 0 ∧
     f.pred = 15 ∧ f.pneg = false ∧ f.ext = .short) ∧
   decodeCrewWord (0x00000005 + 2 ^ 32 * 0x00003C00) = .error .rslot ∧
   decodeCrewWord (0x00C0C401 + 2 ^ 32 * 0x01203C04) = .error .rfield ∧
   decodeCrewWord (0x01404711 + 2 ^ 32 * 0x00493C06) = .error .rlen ∧
   decodeCrewWord 0x007FC000 = .error .rclause ∧
   (∃ f, decodeCrewWord (0x00000003 + 2 ^ 32 * 0x00003C00 + 2 ^ 64 * 0x123456789ABCDEF0) = .ok (.nop f)) ∧
   decodeAssayerWord 0x0400700B = some .asDone) ∧
  ((∀ w : Nat, w % 4 ≠ 0 → rowOf (w / 4 % 1024) = none → decodeCrewWord w = .error .rslot) ∧
   ∀ n, 1 ≤ n → n ≤ 6 → rowOf n = none)

/-! The step. -/

/-- A step whose turn is a split's runs the instruction that stands at the split's program counter: in a clause, within
its fetch block, on a page that the core may fetch from, in no group that refreshes and with no read of code on its way, the
bytes are decoded and executed. What the step adds is that the fetch is noted in the TLB and at the home, that the split
acts, that a split with more passes to take is Issuing, that errors which its reads found are recorded, and that splits
whose cause it has cleared are Ready. -/
def Obligations.StepRunsDecoded : Prop :=
  ∀ (s t : State) (id entry n : Nat) (c : Crew) (x : Split) (k : Clause) (y : Xlate) (i : Instr) (bs : List Byte)
    (bad : Bool),
    s.powered = true → locksOf s = [] → s.crew id = some c → c.split entry = some x → maySplit s c x = true →
    x.clause = some k → x.pc % 4 = 0 → x.pc % 32 < 24 → c.inCode x.pc = true →
    translate s (askCore c.core) c.ctx x.pc needX = .ok y → codeBytes s c x.pc (min 16 (blockLeft x.pc)) = some (bs, bad) →
    decodeBytes bs = .ok (i, n) → leNat bs % 4 ≠ 0 → x.pc + n ≤ k.stop → codeWaits s c x.pc = false →
    placeBad s c k (wordSlot (leNat bs)) x.pc n = false → fetchBeyond s id entry c x = none →
    exec i (atInstr (noteFetch s id entry c x.pc n) id entry x.pc (some k)) = .next t →
    step (s.asked (.split id entry)) = .next (settleTurn s (issued t id entry x i) (.split id entry))

/-- A step whose turn is an event of the opcode table executes it, unless its access meets a refresh window; one that
names a word which agents issue does nothing (DESIGN CHOICE, log 1). A step whose turn is a handler's runs the custom
word that the handler fetches (R297, R305). -/
def Obligations.StepRunsEventsAndHandlers : Prop :=
  (∀ (s t : State) (i : Instr), s.powered = true → locksOf s = [] → eventWaits s i = false →
     (encode i = none → exec i { s with actor := .none } = .next t →
       step (s.asked (.event i)) = .next (settleTurn s t (.event i))) ∧
     ((encode i).isSome = true → step (s.asked (.event i)) = .next (settleTurn s s (.event i)))) ∧
  (∀ (s t u : State) (slice stall : Nat) (i : Instr), s.powered = true → locksOf s = [] →
     handlerTurn s slice stall = .run i u → exec i { u with actor := .handler slice } = .next t →
     step (s.asked (.handler slice stall)) = .next (settleTurn s t (.handler slice stall)))

/-- An empty agenda is filled, and nothing else happens (the model's own scheduler, DESIGN CHOICE log 1); without power a step with an
empty agenda stops, and any turn but a power-up passes without effect (R342). -/
def Obligations.StepOfAgenda : Prop :=
  ∀ s : State,
    (s.agenda = [] → s.powered = true → step s = .next { s with agenda := roundOf s }) ∧
    (s.agenda = [] → s.powered = false → step s = .fault .noPower) ∧
    (∀ b, s.powered = false → step (s.asked (.event (.powerUp b))) = .next (bootState s b)) ∧
    ∀ turn, s.powered = false → (∀ b, turn ≠ .event (.powerUp b)) → step (s.asked turn) = .next s

/-- No step of a module with power stops. -/
def Obligations.PoweredStepsGoOn : Prop := ∀ s : State, s.powered = true → ∃ t, step s = .next t

/-- The memories of every state that a step leaves are in their canonical form when those of the state before are. -/
def Obligations.MemoriesStayCanonical : Prop :=
  ∀ s t : State, s.memOk → step s = .next t → t.memOk

/-- After reset: HBM and the stashes are zero and every memory is canonical, `%clock` is 0, every ring is unbound, every
context invalid and every stockpile region loading, and the module has power (R342, Table 17-8). -/
def Obligations.ResetState : Prop :=
  State.reset.memOk ∧ State.reset.powered = true ∧ State.reset.clock = 0 ∧ (∀ a, memGet State.reset.mem a = 0) ∧
  (∀ c a, memGet (State.reset.core c).stash a = 0) ∧ (∀ r, (State.reset.binding r).valid = false) ∧
  (∀ c, (State.reset.desc c).valid = false) ∧ State.reset.sealed = [] ∧ State.reset.crews = [] ∧
  State.reset.launches = [] ∧ State.reset.boot.step = 6

/-! Arithmetic. Each statement says what an instruction leaves when it runs: its result, and that nothing else differs
but where the crew's splits stand, the ended sources and `STICKY` (R80, R148). -/

/-- Each uniform integer instruction writes its operation's exact result, narrowed once, to its destination, under the
view (R135, R197, R198, R200). Each vector integer instruction does so in every acting lane, and in no other. -/
def Obligations.IntegerResults : Prop :=
  (∀ p ∈ uniformInteger, ∀ (f : Fields) (s : State) (e : Env), Runs (p.1 f) s e →
     let a := e.intArgs s.clock 0
     let y := narrow e.f.sat (typeSigned e.ty) e.bits (p.2 a.1)
     ∃ t, exec (p.1 f) s = .next t ∧
       UniformResult e s t (e.newS s (typeSigned e.ty) e.bits y.1)
         (flagIf y.2 flagSAT ||| flagIf a.2 flagDEAD)) ∧
  (∀ p ∈ vectorInteger, ∀ (f : Fields) (s : State) (e : Env), Runs (p.1 f) s e →
     let y : Nat → Nat × Bool := fun l => narrow e.f.sat (typeSigned e.ty) e.bits (p.2 (e.intArgs s.clock l).1)
     ∃ t, exec (p.1 f) s = .next t ∧
       VectorResult e s t e.acting (fun l => e.newV s (typeSigned e.ty) e.bits l (y l).1)
         (joinFlags e.acting (fun l => flagIf (y l).2 flagSAT ||| flagIf (e.intArgs s.clock l).2 flagDEAD)))

/-- A narrowed value fits its width; one that fits its format is kept; with saturation a value beyond an end of the
format becomes that end, and otherwise the low bits remain (R135). -/
def Obligations.NarrowingIsExactOrSaturates : Prop :=
  ∀ (sat sg : Bool) (n : Nat) (x : Int), 0 < n →
    (narrow sat sg n x).1 < 2 ^ n ∧
    ((minInt sg n ≤ x ∧ x ≤ maxInt sg n) → readInt sg n (narrow sat sg n x).1 = x ∧ (narrow sat sg n x).2 = false) ∧
    (sat = true → maxInt sg n < x → readInt sg n (narrow sat sg n x).1 = maxInt sg n ∧ (narrow sat sg n x).2 = true) ∧
    (sat = true → x < minInt sg n → readInt sg n (narrow sat sg n x).1 = minInt sg n ∧ (narrow sat sg n x).2 = true) ∧
    (sat = false → ((narrow sat sg n x).1 : Int) = x % 2 ^ n ∧ (narrow sat sg n x).2 = false)

/-- `sdivs` and `vdivs` make `VAR` + 1 steps of the restoring division on the value of source A (R204). Two
instructions of 16 steps make 32, and 32 steps on a dividend leave the quotient in the low half and the remainder in
the high half; a divisor of 0 leaves 0xFFFF_FFFF and the dividend (R204). -/
def Obligations.DivideSteps : Prop :=
  (∀ (f : Fields) (s : State) (e : Env),
     let v : Nat → Word := fun l =>
       divSteps (e.var + 1) (e.elemOf e.ty e.srcB (e.read s.clock e.srcB l).1)
         (BitVec.ofNat 64 (e.wholeOf e.srcA (e.read s.clock e.srcA l).1))
     let d : Nat → Bool := fun l => (e.read s.clock e.srcA l).2 || (e.read s.clock e.srcB l).2
     let n := if e.view.isSome then e.bits else 64
     (Runs (.sdivs f) s e → ∃ t, exec (.sdivs f) s = .next t ∧
       UniformResult e s t (e.newS s false n (v 0).toNat) (flagIf (d 0) flagDEAD)) ∧
     (Runs (.vdivs f) s e → ∃ t, exec (.vdivs f) s = .next t ∧
       VectorResult e s t e.acting (fun l => e.newV s false n l (v l).toNat)
         (joinFlags e.acting (fun l => flagIf (d l) flagDEAD)))) ∧
  (∀ a b : Nat, a < 2 ^ 32 → b < 2 ^ 32 →
     let two := (divSteps 16 b (divSteps 16 b (BitVec.ofNat 64 a))).toNat
     (0 < b → two = a % b * 2 ^ 32 + a / b) ∧ (b = 0 → two = a * 2 ^ 32 + 0xFFFFFFFF))

/-- Each packed instruction combines whole registers element by element in every acting lane (R208). -/
def Obligations.PackedResults : Prop :=
  ∀ p ∈ packedForms, ∀ (f : Fields) (s : State) (e : Env), Runs (p.1 f) s e →
    let y : Nat → Word × Bool := fun l =>
      p.2 e (e.srcA.spread true e.ty (e.read s.clock e.srcA l).1) (e.srcB.spread true e.ty (e.read s.clock e.srcB l).1)
        (e.srcC.spread true e.ty (e.read s.clock e.srcC l).1)
    ∃ t, exec (p.1 f) s = .next t ∧
      VectorResult e s t e.acting (fun l => e.newV s false 64 l (y l).1.toNat)
        (joinFlags e.acting (fun l => flagIf (y l).2 flagSAT ||| flagIf (e.readsDead s.clock l) flagDEAD))

/-- `scmp` writes 1 or 0, whole; `vcmp` writes a predicate in the acting lanes; `vsel` acts in every lane of the mask
and takes A where the predicate holds and B elsewhere (R206); `vplog` combines two predicates (R207). -/
def Obligations.CompareSelectCombine : Prop :=
  ∀ (f : Fields) (s : State) (e : Env),
    (Runs (.scmp f) s e → ∃ t, exec (.scmp f) s = .next t ∧
      UniformResult e s t (.live (if compareInt e.var (e.intArgs s.clock 0).1 then 1 else 0))
        (flagIf (e.intArgs s.clock 0).2 flagDEAD)) ∧
    (Runs (.vcmp f) s e → ∃ t, exec (.vcmp f) s = .next t ∧
      PredicateResult e s t e.dst e.acting (fun l => compareInt e.var (e.intArgs s.clock l).1)
        (joinFlags e.acting (fun l => flagIf (e.intArgs s.clock l).2 flagDEAD))) ∧
    (Runs (.vsel f) s e → ∃ t, exec (.vsel f) s = .next t ∧
      VectorResult e s t e.lanes
        (fun l => e.newV s (typeSigned e.ty) e.bits l
          (if e.cond l then (e.intArgs s.clock l).1.a else (e.intArgs s.clock l).1.b))
        (joinFlags e.lanes (fun l => flagIf (e.intArgs s.clock l).2 flagDEAD))) ∧
    (Runs (.vplog f) s e → ∃ t c, exec (.vplog f) s = .next t ∧ CrewBecomes e.id s t c ∧ c = { e.c with p := c.p } ∧
      ∀ k l, l < 1024 → (c.pAt k).getLsbD l =
        if k = e.dst ∧ k ≠ 15 ∧ l ∈ e.acting then
          (let x := (e.c.pAt e.f.srca.toNat).getLsbD l
           let y := (e.c.pAt e.f.srcb.toNat).getLsbD l
           match e.var with
           | 0 => x && y
           | 1 => x || y
           | 2 => x != y
           | 3 => x && !y
           | _ => !x)
        else (e.c.pAt k).getLsbD l)

/-- The shape forms: an address and a test of extents in each lane, a word of a record, a record changed; a record that
no address can be formed through raises `ROPND` (R209, R210, Table 22-7). -/
def Obligations.ShapeResults : Prop :=
  ∀ (f : Fields) (s : State) (e : Env),
    let r := e.c.tAt e.f.srcb.toNat
    let xs : Nat → List Int × Bool := e.coords
    (Runs (.sadrt f) s e → shpBad r = false → ∃ t, exec (.sadrt f) s = .next t ∧
      UniformResult e s t (e.newS s false 64 (shpAdrt r (xs 0).1).toNat)
        (flagIf (xs 0).2 flagDEAD)) ∧
    (Runs (.vadrt f) s e → shpBad r = false → ∃ t, exec (.vadrt f) s = .next t ∧
      VectorResult e s t e.acting (fun l => e.newV s false 64 l (shpAdrt r (xs l).1).toNat)
        (joinFlags e.acting (fun l => flagIf (xs l).2 flagDEAD))) ∧
    (Runs (.vinrt f) s e → shpBad r = false → ∃ t, exec (.vinrt f) s = .next t ∧
      PredicateResult e s t e.dst e.acting (fun l => shpInside r (xs l).1)
        (joinFlags e.acting (fun l => flagIf (xs l).2 flagDEAD))) ∧
    (Runs (.sadrt f) s e → shpBad r = true → exec (.sadrt f) s = .next (settleRes e (.exc s .ropnd))) ∧
    (Runs (.vadrt f) s e → shpBad r = true → exec (.vadrt f) s = .next (settleRes e (.exc s .ropnd))) ∧
    (Runs (.vinrt f) s e → shpBad r = true → exec (.vinrt f) s = .next (settleRes e (.exc s .ropnd))) ∧
    (Runs (.sshpr f) s e → ∃ t, exec (.sshpr f) s = .next t ∧
      UniformResult e s t (.live (BitVec.ofNat 64 (r.toNat / 2 ^ (64 * e.var)))) 0) ∧
    (∀ w, w = (e.read s.clock e.srcA 0).1 →
      let c := (e.spent (e.dead s (e.read s.clock e.srcA 0).2))
      (Runs (.sshpw f) s e → ∃ t, exec (.sshpw f) s = .next t ∧
        CrewBecomes e.id s t { c with t := tabPut c.t e.dst (shpSetPart (c.tAt e.dst) e.var w) }) ∧
      (Runs (.sshpb f) s e → ∃ t, exec (.sshpb f) s = .next t ∧
        CrewBecomes e.id s t { c with t := tabPut c.t e.dst (shpAddBase (c.tAt e.dst) w) }))

/-! Floating point. -/

/-- Each elementwise vector floating instruction gives, in every acting lane, what its exact expression rounds to
once, element by element (R140, R214 to R227). Each uniform floating instruction does so for its registers. -/
def Obligations.FloatResults : Prop :=
  (∀ p ∈ vectorFloat, ∀ (f : Fields) (s : State) (e : Env), Runs (p.1 f) s e →
     ∃ t, exec (p.1 f) s = .next t ∧
       VectorResult e s t e.acting
         (fun l => e.newV s false (e.gatherBits e.bits) l (e.floatLane s.clock l p.2).1)
         (joinFlags e.acting (fun l => (e.floatLane s.clock l p.2).2 ||| flagIf (e.readsDead s.clock l) flagDEAD))) ∧
  (∀ p ∈ uniformFloat, ∀ (f : Fields) (s : State) (e : Env), Runs (p.1 f) s e →
     ∃ t, exec (p.1 f) s = .next t ∧
       UniformResult e s t (e.newS s false (e.gatherBits e.bits) (e.floatLane s.clock 0 p.2).1)
         ((e.floatLane s.clock 0 p.2).2 ||| flagIf (e.readsDead s.clock 0) flagDEAD))

/-- `vfneg` inverts the sign bit of every element that it takes, `vfabs` clears it and `vfcsgn` takes it from source B;
every other bit, a NaN's payload among them, is kept, and no flag is set (R220). -/
def Obligations.SignForms : Prop :=
  ∀ (f : Fields) (s : State) (e : Env), 8 ≤ e.ty → e.ty ≤ 11 →
    let place : Nat → Nat := fun j => (match e.view with | some i => e.bits * i | none => 0) + j
    let a : Nat → Nat → Bool := fun l j => (e.srcA.spread false e.ty (e.read s.clock e.srcA l).1).getLsbD (place j)
    let b : Nat → Nat → Bool := fun l j => (e.srcB.spread false e.ty (e.read s.clock e.srcB l).1).getLsbD (place j)
    let gives : Instr → (Nat → Nat → Bool) → Prop := fun i sign =>
      Runs i s e → ∃ (t : State) (w : Nat → Nat), exec i s = .next t ∧
        VectorResult e s t e.acting (fun l => e.newV s false (e.gatherBits e.bits) l (w l))
          (joinFlags e.acting (fun l => flagIf (e.readsDead s.clock l) flagDEAD)) ∧
        ∀ l j, j < e.gatherBits e.bits →
          (w l).testBit j = if j % e.bits = e.bits - 1 then sign l j else a l j
    gives (.vfneg f) (fun l j => !a l j) ∧ gives (.vfabs f) (fun _ _ => false) ∧ gives (.vfcsgn f) b

/-- `vfdot2` rounds c + a₀b₀ + a₁b₁ once for each half (R222); `vfcmp` writes a predicate in the acting lanes and
`sfcmp` 1 or 0, whole, with the comparison's flags (R223). `vcvt` and `scvt` convert each element of the source and
write the destination from its old value (R228 to R230). -/
def Obligations.DotCompareConvertResults : Prop :=
  (∀ (f : Fields) (s : State) (e : Env),
     (Runs (.vfdot2 f) s e →
       let val : Nat → Word → Nat → FVal := fun t w i => (ffmt t).decode (dazed e.c.fpctl t (elemAt (typeBits t) i w))
       let half : Nat → Nat → Nat × Flags := fun l j =>
         let wa := e.srcA.spread false e.f.ty2 (e.read s.clock e.srcA l).1
         let wb := e.srcB.spread false e.f.ty2 (e.read s.clock e.srcB l).1
         let wc := e.srcC.spread false 9 (e.read s.clock e.srcC l).1
         let p := mulVal (val e.f.ty2 wa (2 * j)) (val e.f.ty2 wb (2 * j))
         let q := mulVal (val e.f.ty2 wa (2 * j + 1)) (val e.f.ty2 wb (2 * j + 1))
         let x := addVal e.f.rnd.toNat (val 9 wc j) p.1
         let y := addVal e.f.rnd.toNat x.1 q.1
         let r := flushed e.c.fpctl 9 (roundVal fF32 e.f.rnd.toNat false noRBits y.1)
         (r.1, r.2 ||| p.2 ||| q.2 ||| x.2 ||| y.2)
       ∃ (t : State) (w : Nat → Word), exec (.vfdot2 f) s = .next t ∧
         VectorResult e s t e.acting (fun l => e.newV s false 64 l (w l).toNat)
           (joinFlags e.acting (fun l => (half l 0).2 ||| (half l 1).2 ||| flagIf (e.readsDead s.clock l) flagDEAD)) ∧
         ∀ l j, j < 2 → elemAt 32 j (w l) = (half l j).1 % 2 ^ 32) ∧
     (Runs (.vfcmp f) s e → ∃ t, exec (.vfcmp f) s = .next t ∧
       PredicateResult e s t e.dst e.acting (fun l => (e.fcompare s.clock l).1.1)
         (joinFlags e.acting (fun l => (e.fcompare s.clock l).1.2 ||| flagIf (e.fcompare s.clock l).2 flagDEAD))) ∧
     (Runs (.sfcmp f) s e → ∃ t, exec (.sfcmp f) s = .next t ∧
       UniformResult e s t (.live (if (e.fcompare s.clock 0).1.1 then 1 else 0))
         ((e.fcompare s.clock 0).1.2 ||| flagIf (e.fcompare s.clock 0).2 flagDEAD))) ∧
  (∀ (f : Fields) (s : State) (e : Env),
     let y : Nat → Word → Word × Flags := fun l old =>
       e.convert (e.srcA.spread false e.f.ty2 (e.read s.clock e.srcA l).1) (e.read s.clock e.srcB l).1
         (e.read s.clock e.srcC l).1 old
     (Runs (.scvt f) s e → ∃ t, exec (.scvt f) s = .next t ∧
       UniformResult e s t (((e.spent s).sAt e.dst).wrote e.convertsPart (y 0 ((e.spent s).sAt e.dst).saved).1)
         ((y 0 ((e.spent s).sAt e.dst).saved).2 ||| flagIf (e.readsDead s.clock 0) flagDEAD)) ∧
     (Runs (.vcvt f) s e → ∃ t, exec (.vcvt f) s = .next t ∧
       VectorResult e s t e.acting
         (fun l => ((e.spent s).vAt e.dst l).wrote e.convertsPart (y l ((e.spent s).vAt e.dst l).saved).1)
         (joinFlags e.acting (fun l => (y l ((e.spent s).vAt e.dst l).saved).2 ||| flagIf (e.readsDead s.clock l) flagDEAD))))

/-! Across lanes. -/

/-- `vperm` gives each acting lane an element of the lane that B selects, where that lane exists and is in the mask,
and writes to the predicate `VAR` whether it does (R232); `vmatch` gives the lanes of its group with an equal value
(R233). `vvote` (R234): whether any acting lane's predicate holds, whether all do, how many do, or 64 of them as bits;
`vrdl` reads one lane, and 0 beyond the crew's lanes (R237). -/
def Obligations.CrossLaneResults : Prop :=
  (∀ (f : Fields) (s : State) (e : Env),
     (Runs (.vperm f) s e →
       let sel : Nat → Nat := fun l => (e.read s.clock e.srcB l).1.toNat
       let ok : Nat → Bool := fun l => sel l % 1024 < e.c.lanes && e.x.mask.getLsbD (sel l % 1024)
       let src : Nat → Word × Bool := fun l => e.read s.clock e.srcA (if ok l then sel l % 1024 else l)
       let out : Nat → Nat := fun l =>
         elemAt e.bits (sel l / 1024 % 8 % (64 / e.bits)) (e.srcA.spread false e.ty (src l).1)
       let old := e.spent s
       ∃ t c, exec (.vperm f) s = .next t ∧ CrewBecomes e.id s t c ∧
         c = { old.orSticky (flagIf (e.acting.any (fun l => (src l).2 || (e.read s.clock e.srcB l).2)) flagDEAD) with
               v := c.v, p := c.p } ∧
         (∀ r l, l < 1024 → c.vAt r l =
           if r = e.dst ∧ l ∈ e.acting then e.wrote (old.vAt e.dst l) (setElem e.bits (e.view.getD 0) (old.vAt e.dst l).saved (out l))
           else old.vAt r l) ∧
         ∀ k l, l < 1024 → (c.pAt k).getLsbD l =
           if k = e.var ∧ k ≠ 15 ∧ l ∈ e.acting then ok l else (old.pAt k).getLsbD l) ∧
     (Runs (.vmatch f) s e →
       let v : Nat → Nat := fun l =>
         elemAt e.bits (e.view.getD 0) (e.srcA.spread false e.ty (e.read s.clock e.srcA l).1)
       ∃ (t : State) (w : Nat → Word), exec (.vmatch f) s = .next t ∧
         VectorResult e s t e.acting (fun l => .live (w l))
           (flagIf (e.acting.any (fun l => (e.read s.clock e.srcA l).2)) flagDEAD) ∧
         ∀ l ∈ e.acting, ∀ j, j < 64 →
           ((w l).getLsbD j = true ↔ j < 32 ∧ l / 32 * 32 + j ∈ e.acting ∧ v (l / 32 * 32 + j) = v l))) ∧
  (∀ (f : Fields) (s : State) (e : Env),
     let h := e.acting.filter (fun l => (e.c.pAt e.f.srca.toNat).getLsbD l)
     (Runs (.vvote f) s e → e.var ≠ 3 → ∃ t, exec (.vvote f) s = .next t ∧
       CrewBecomes e.id s t (e.c.writeS e.dst
         (match e.var with
          | 0 => if h.isEmpty then 0 else 1
          | 1 => if h.length = e.acting.length then 1 else 0
          | _ => BitVec.ofNat 64 h.length))) ∧
     (Runs (.vvote f) s e → e.var = 3 →
       let b := e.read s.clock e.srcB 0
       (b.1.toNat ≤ 15 → ∃ t w, exec (.vvote f) s = .next t ∧ UniformResult e s t (.live w) (flagIf b.2 flagDEAD) ∧
         ∀ j, j < 64 → (w.getLsbD j = true ↔ 64 * b.1.toNat + j ∈ h)) ∧
       (15 < b.1.toNat → exec (.vvote f) s = .next (settleRes e (.exc (e.dead s b.2) .ropnd)))) ∧
     (Runs (.vrdl f) s e →
       let b := e.read s.clock e.srcB 0
       let a := if b.1.toNat < e.c.lanes then e.read s.clock e.srcA b.1.toNat else (0, false)
       ∃ t, exec (.vrdl f) s = .next t ∧ UniformResult e s t (.live a.1) (flagIf b.2 flagDEAD ||| flagIf a.2 flagDEAD)))

/-- `vred` writes for each element the value at the root of the tree over the acting lanes, or the identity where none
acts (R149, R235); `vscan` gives each acting lane the combination of the lanes up to it, or before it (R150, R236). -/
def Obligations.ReduceAndScanResults : Prop :=
  ∀ (f : Fields) (s : State) (e : Env),
    let xs := e.redVals s.clock
    let dead := flagIf (xs.any (fun x => x.2.2)) flagDEAD
    (Runs (.vred f) s e →
      let y : Nat → Option Nat × Flags := fun i => e.redNode (e.redVal xs i) (5 + e.c.kernel.width) 0
      ∃ t w, exec (.vred f) s = .next t ∧
        UniformResult e s t (.live w) (joinFlags (List.range (64 / e.bits)) (fun i => (y i).2) ||| dead) ∧
        ∀ i, i < 64 / e.bits → elemAt e.bits i w = (y i).1.getD e.redIdentity % 2 ^ e.bits) ∧
    (Runs (.vscan f) s e →
      let y : Nat → Nat → Option Nat × Flags := fun l i =>
        e.redPrefix (e.redVal xs i) (if e.f.var.getLsbD 3 then l else l + 1)
      ∃ (t : State) (w : Nat → Word), exec (.vscan f) s = .next t ∧
        VectorResult e s t e.acting (fun l => e.newV s false 64 l (w l).toNat)
          (joinFlags e.acting (fun l => joinFlags (List.range (64 / e.bits)) (fun i => (y l i).2)) ||| dead) ∧
        ∀ l ∈ e.acting, ∀ i, i < 64 / e.bits →
          elemAt e.bits i (w l) = (y l i).1.getD e.redIdentity % 2 ^ e.bits)

/-! Issue and exceptions. -/

/-- A breach of clause structure, of the encoding or of a register limit is taken before anything else that the
instruction does: the exception named, at the instruction, with no effect of it (R374, R375). -/
def Obligations.ChecksComeFirst : Prop :=
  ∀ (i : Instr) (s : State) (e : Env) (x : Exc), envOf i s = some e → e.firstCheck i s = some x →
    exec i s = .next (takeException s e.id e.entry
      { exc := x, lane := 0, va := none, pa := none, opc := e.slot, pc := e.pc, deferred := false })

/-- An instruction that names a register whose data are on their way leaves its split in the refuge, with nothing else
changed (R61, R63); a uniform form whose predicate selects no lane only ends its marked sources (R80, R200); a form of
the matrix engine without the lamp raises `RLAMP` (R388). -/
def Obligations.WhatHoldsAnInstructionBack : Prop :=
  ∀ (i : Instr) (s : State) (e : Env), envOf i s = some e → e.firstCheck i s = none →
    (e.mustAwait s = true → exec i s = .next (noteIdle (waitHere s e.id e.entry .refuge) e.id)) ∧
    (e.mustAwait s = false → e.form.uniform = true → e.form.pred = true → condSlot e.slot = false → e.acts = false →
      ∃ t, exec i s = .next t ∧ CrewBecomes e.id s t (e.spent s)) ∧
    (e.mustAwait s = false → e.form.engine = true → e.acts = true → e.holds s = false →
      exec i s = .next (settleRes e (.exc s .rlamp)))

/-- An instruction exception (R376): with no debug queue the crew is ended. With one, the crew is held as faulted with
its break record: it is Halted while loads of its own are on their way, and else it is saved in its slot and the
record goes to the debug queue. A crew that is out already only takes the hold. The codes that the spec records in the
error window are recorded there first, with class 14 and `SEV` 1 (R376). -/
def Obligations.ExceptionEntry : Prop :=
  (∀ (s : State) (id entry : Nat) (c : Crew) (x : Trap), s.crew id = some c → c.state ≠ .retired →
     excRecorded x.exc = false →
     let q : QRecord :=
       { kind := 1, split := entry, crewIndex := c.index, code := x.brkCode, slot := 0xFFFF, addr := x.pc, svc := none }
     let held : Crew := { c with hold := .fault, pendBrk := c.pendBrk ++ [q], drain := c.state == .draining || c.drain }
     ((s.desc c.ctx).dbgq = 0 → takeException s id entry x = endCrew s id) ∧
     ((s.desc c.ctx).dbgq ≠ 0 → c.out = true →
       takeException s id entry x = postBreak (s.setCrew id { held with state := .saved }) id) ∧
     ((s.desc c.ctx).dbgq ≠ 0 → c.out = false → awaitsLoads s id = true →
       takeException s id entry x = s.setCrew id { held with state := .halted }) ∧
     ((s.desc c.ctx).dbgq ≠ 0 → c.out = false → awaitsLoads s id = false → ∀ n, findSlot (s.setCrew id held) held = .slot n →
       takeException s id entry x = postBreak (saveInto (s.setCrew id held) id n held .saved) id)) ∧
  ((∀ x : Exc, excRecorded x = true ↔ x.code = 10 ∨ x.code = 11 ∨ x.code = 12 ∨ x.code = 17) ∧
   ∀ (s : State) (id entry : Nat) (c : Crew) (x : Trap), s.crew id = some c → c.state ≠ .retired →
     excRecorded x.exc = true → (s.desc c.ctx).dbgq = 0 →
     takeException s id entry x =
       endCrew (errRecord s (dieOfCore c.core) { crewRec c 14 1 (x.info entry) (x.pa.map (fun a => a / 32 * 32)) x.va entry with slot := c.slot }) id)

/-! Control. -/

/-- `nop` completes with no effect: in each of its three forms the split goes on after its units, and nothing else
changes (R177). -/
def Obligations.NopHasNoEffect : Prop :=
  ∀ (f : Fields) (s : State) (e : Env), Runs (.nop f) s e →
    ∃ t, exec (.nop f) s = .next t ∧ t = settleRes e (.done s) ∧ CrewBecomes e.id s t e.c ∧
      e.len = 4 * unitsOf f.ext.lenCode ∧
      ∀ (c : Crew) (x : Split), s.crew e.id = some c → c.split e.entry = some x → ∃ (d : Crew) (y : Split),
        t.crew e.id = some d ∧ d.split e.entry = some y ∧ y.pc = skipFrom s c (x.pc + e.len) ∧ y.mask = x.mask ∧
        y.state = .ready

/-- Registers of the crew that a form reads or writes whole: `csrr` and `csrw` (R192), the flags (R185), the mask
registers of the matrix engine (R276). `FPCTL` keeps its four defined bits of what `csrw` writes, `STICKY` its nine,
`UIE` only bit 0, and the program timestamp none: it reads back so (R147, R192, Table 22-6). -/
def Obligations.ControlRegisters : Prop :=
  (∀ (f : Fields) (s : State) (e : Env),
     let a := e.read s.clock e.srcA 0
     let c := e.spent (e.dead s a.2)
     (Runs (.csrr f) s e → ∃ t, exec (.csrr f) s = .next t ∧
       CrewBecomes e.id s t (e.c.writeS e.dst (e.c.csr e.var))) ∧
     (Runs (.csrw f) s e → ¬(e.var = 2 ∧ a.1.getLsbD 0 = true ∧ e.c.kernel.scount = 0) →
       ∃ t, exec (.csrw f) s = .next t ∧ CrewBecomes e.id s t (c.setCsr e.var a.1)) ∧
     (Runs (.csrw f) s e → e.var = 2 ∧ a.1.getLsbD 0 = true ∧ e.c.kernel.scount = 0 →
       exec (.csrw f) s = .next (settleRes e (.exc (e.dead s a.2) .ropnd))) ∧
     (Runs (.flgClr f) s e → ∃ t, exec (.flgClr f) s = .next t ∧
       CrewBecomes e.id s t { e.c with flags := e.c.flags &&& ~~~(BitVec.ofNat 12 (2 ^ e.var)) }) ∧
     (Runs (.flgRd f) s e → ∃ t, exec (.flgRd f) s = .next t ∧
       CrewBecomes e.id s t
         ({ e.c with pts := if e.c.flags = 0 then e.c.pts else max e.c.pts e.c.engTs }.writeS e.dst
           (BitVec.ofNat 64 e.c.flags.toNat)))) ∧
  (∀ (c : Crew) (w : Word),
     ((c.setCsr 0 w).csr 0).toNat = w.toNat % 16 ∧ ((c.setCsr 1 w).csr 1).toNat = w.toNat % 512 ∧
     ((c.setCsr 2 w).csr 2).toNat = w.toNat % 2 + 2 * bitNat c.uintPend + 4 * bitNat c.uintRun ∧ c.setCsr 3 w = c ∧
     ∀ n m, n < 4 → m < 4 → n ≠ m → (c.setCsr n w).csr m = c.csr m)

/-- `mkw` writes source A to `kD` and `mkr` writes `kA` to `sD`, and neither needs the lamp (R276). -/
def Obligations.MaskRegisters : Prop :=
  (∀ f w r, (Instr.mkw f).word = some w ∨ (Instr.mkr f).word = some w → rowOf w.1 = some r → r.form.engine = false) ∧
  ∀ (f : Fields) (s : State) (e : Env),
    let a := e.read s.clock e.srcA 0
    let c := e.spent (e.dead s a.2)
    (Runs (.mkw f) s e → ∃ t, exec (.mkw f) s = .next t ∧
      CrewBecomes e.id s t (c.setK e.dst a.1)) ∧
    (Runs (.mkr f) s e → ∃ t, exec (.mkr f) s = .next t ∧
      CrewBecomes e.id s t (e.c.writeS e.dst (e.c.kAt e.f.srca.toNat)))

/-- A branch, a call and a return go to a clause header of the kernel, or raise `RTARGET`; a branch that is not taken
goes on (R179, R182). -/
def Obligations.BranchCallReturn : Prop :=
  ∀ (f : Fields) (s : State) (e : Env),
    let a := e.read s.clock e.srcA 0
    let s1 := e.dead s a.2
    let there := e.label e.immW.toInt
    let taken : Bool := match e.var with
      | 0 => e.lanes.any e.cond
      | 1 => e.lanes.all e.cond
      | 2 => a.1 != 0
      | _ => a.1 == 0
    (Runs (.br f) s e → isHeader s1 e.c there = true → exec (.br f) s = .next (settleRes e
      (if taken then .jump (e.goto (e.endUses s1) there false) else .done (e.endUses s1)))) ∧
    (Runs (.br f) s e → isHeader s1 e.c there = false → exec (.br f) s = .next (settleRes e (.exc s1 .rtarget))) ∧
    (Runs (.call f) s e → isHeader s e.c there = true → exec (.call f) s = .next (settleRes e
      (.jump (e.goto (e.putS s e.dst (BitVec.ofNat 64 (e.next s))) there false)))) ∧
    (Runs (.call f) s e → isHeader s e.c there = false → exec (.call f) s = .next (settleRes e (.exc s .rtarget))) ∧
    (Runs (.ret f) s e → isHeader s1 e.c a.1.toNat = true → exec (.ret f) s = .next (settleRes e
      (.jump (e.goto (e.endUses s1) a.1.toNat false)))) ∧
    (Runs (.ret f) s e → isHeader s1 e.c a.1.toNat = false → exec (.ret f) s = .next (settleRes e (.exc s1 .rtarget)))

/-- `br.div` (R180): lanes that agree go one way, and a divergence opens where they do not; with no record free it
raises `RNEST`, and with a lode bound `RSPLIT`. `join` (R181) has no effect outside a divergence; at the join label of
its innermost one the split waits for the others. -/
def Obligations.DivergeAndJoin : Prop :=
  ∀ (f : Fields) (s : State) (e : Env),
    let t := maskOf e.acting
    let n := e.x.mask &&& ~~~t
    let target := e.label (readInt true 32 (e.immW.toNat % 2 ^ 32))
    let joined := e.label (readInt true 32 (e.immW.toNat / 2 ^ 32))
    (Runs (.brDiv f) s e → isHeader s e.c target = true → isHeader s e.c joined = true →
      (n = 0 → exec (.brDiv f) s = .next (settleRes e (.jump (e.goto s target false)))) ∧
      (t = 0 → n ≠ 0 → exec (.brDiv f) s = .next (settleRes e (.done s))) ∧
      (t ≠ 0 → n ≠ 0 → e.c.lode.isSome = true → exec (.brDiv f) s = .next (settleRes e (.exc s .rsplit))) ∧
      (t ≠ 0 → n ≠ 0 → e.c.lode = none → tabFree e.c.divs 16 = none →
        exec (.brDiv f) s = .next (settleRes e (.exc s .rnest))) ∧
      (t ≠ 0 → n ≠ 0 → e.c.lode = none → ∀ k, tabFree e.c.divs 16 = some k →
        exec (.brDiv f) s = .next (settleRes e
          (.jump (s.modCrew e.id (fun c => c.diverge e.entry k e.x t n target (e.next s) joined s.clock)))))) ∧
    (Runs (.join f) s e → e.x.innermost = none → ∃ u, exec (.join f) s = .next u ∧ CrewBecomes e.id s u e.c) ∧
    (Runs (.join f) s e → ∀ k d cl, e.x.innermost = some k → tabGet e.c.divs k = some d → e.x.clause = some cl →
      exec (.join f) s = .next (settleRes e
        (if d.joinPc = cl.base then
          .jump (settleJoins 17 (s.modCrew e.id (fun c => c.modSplit e.entry (fun x => { x with state := .joinWait }))) e.id)
         else .exc s .rnest)))

/-- `exit` removes the acting lanes, and the crew's last lane ends it (R183); `brk` is without effect while the debug
enable is clear, and else holds the crew after it with its record (R178); `yield.cont` goes to its label at once when
its flag is set, and waits for it otherwise (R64, R184). -/
def Obligations.ExitBreakYield : Prop :=
  ∀ (f : Fields) (s : State) (e : Env),
    let gone := maskOf e.acting
    let s1 := settleJoins 17 ((advance s e.id e.entry e.len).modCrew e.id (fun c => c.dropLanes e.entry gone)) e.id
    (Runs (.exit f) s e → gone &&& e.c.lodeLanes = 0 → ∀ c, s1.crew e.id = some c →
      exec (.exit f) s = .next (noteIdle (if c.live == 0 then lastExit s1 e.id else s1) e.id)) ∧
    (Runs (.exit f) s e → gone &&& e.c.lodeLanes ≠ 0 → exec (.exit f) s = .next (settleRes e (.exc s .rsplit))) ∧
    (Runs (.brk f) s e → (s.desc e.ctx).dbg = false → ∃ t, exec (.brk f) s = .next t ∧ CrewBecomes e.id s t e.c) ∧
    (Runs (.brk f) s e → (s.desc e.ctx).dbg = true → exec (.brk f) s = .next (noteIdle
      (holdCrew (advance s e.id e.entry e.len) e.id .brk
        { kind := 1, split := e.entry, crewIndex := e.c.index, code := e.f.srca.toNat - 960, slot := 0xFFFF,
          addr := e.next s, svc := none }) e.id)) ∧
    (Runs (.yieldCont f) s e → isHeader s e.c (e.label e.immW.toInt) = true →
      (e.c.flags.getLsbD e.var = true → exec (.yieldCont f) s = .next (noteIdle
        (e.goto (e.observe s) (e.label e.immW.toInt) true) e.id)) ∧
      (e.c.flags.getLsbD e.var = false → exec (.yieldCont f) s = .next (noteIdle
        (s.modCrew e.id (fun c => c.modSplit e.entry (fun x => { x with
          state := .contWait, awaitFlag := e.var, pc := e.label e.immW.toInt, clause := none }))) e.id)))

/-- The lamp (R46, R187, R188): `lamp.join` makes a crew whose kernel asks for it a member of its core's ring, a
member that holds the lamp passes it on, and one that takes it goes on when it holds it and waits when it does not.
Each needs a crew of one split, and `RLAMP` stands for the rest. Interrupts of a crew (R193, R194): `uint.post` marks
its target pending and gives 1, or 0 where there is none to receive it; `uint.ret` in the handler goes to the header
that the return register names, and elsewhere raises `RSPLIT`. -/
def Obligations.LampAndInterruptForms : Prop :=
  (∀ (f : Fields) (s : State) (e : Env), e.c.single = true →
     (Runs (.lampJoin f) s e → e.c.kernel.lamp ≠ 0 → exec (.lampJoin f) s = .next (settleRes e (.done
       (if e.c.kernel.lamp = 2 then joinRing s e.core e.id e.ctx else s)))) ∧
     (Runs (.lampJoin f) s e → e.c.kernel.lamp = 0 → exec (.lampJoin f) s = .next (settleRes e (.exc s .rlamp))) ∧
     (Runs (.lampTake f) s e → e.member s = true → exec (.lampTake f) s = .next (settleRes e
       (if e.holds s then .done s else .wait s .lampWait))) ∧
     (Runs (.lampTake f) s e → e.member s = false → exec (.lampTake f) s = .next (settleRes e (.exc s .rlamp))) ∧
     (Runs (.lampPass f) s e → e.holds s = true →
       exec (.lampPass f) s = .next (settleRes e (.done (passLamp (e.fenced s 2) e.core)))) ∧
     (Runs (.lampPass f) s e → e.holds s = false → exec (.lampPass f) s = .next (settleRes e (.exc s .rlamp)))) ∧
  (∀ (f : Fields) (s : State) (e : Env),
     let a := e.read s.clock e.srcA 0
     let s1 := e.endUses (e.fenced (e.dead s a.2) 5)
     let pts := ((s1.crew e.id).map Crew.pts).getD 0
     (Runs (.uintPost f) s e → e.var = 1 → ∀ c, s1.crew e.id = some c → c.postable = true →
       exec (.uintPost f) s = .next (settleRes e (.done (e.putS (postInterrupt s1 e.id c pts) e.dst 1)))) ∧
     (∀ (u : State) (id : Nat) (c : Crew) (ts : Nat), u.crew id = some c → c.state ≠ .retired → c.out = false →
       ∃ d, (postInterrupt u id c ts).crew id = some d ∧ d = { c with uintPend := true, engTs := max c.engTs ts }) ∧
     (Runs (.uintPost f) s e → e.var ≠ 1 → ∀ l id c, e.c.launch = some l → crewOf s1 l a.1.toNat = some (id, c) →
       exec (.uintPost f) s = .next (settleRes e
         (.done (if c.postable then e.putS (postInterrupt s1 id c pts) e.dst 1 else e.putS s1 e.dst 0)))) ∧
     (Runs (.uintPost f) s e → e.var ≠ 1 → ∀ l, e.c.launch = some l → crewOf s1 l a.1.toNat = none →
       exec (.uintPost f) s = .next (settleRes e (.done (e.putS s1 e.dst 0)))) ∧
     (Runs (.uintRet f) s e → e.c.uintRun = true → e.c.handler = some (e.entry, e.x.innermost) →
       let r := e.read s.clock (.sreg (e.c.kernel.scount - 1)) 0
       let s2 := e.dead s r.2
       isHeader s2 e.c r.1.toNat = true → exec (.uintRet f) s = .next (settleRes e
         (.jump ((e.goto s2 r.1.toNat false).modCrew e.id (fun c => { c with uintRun := false, handler := none }))))) ∧
     (Runs (.uintRet f) s e → e.c.uintRun = false ∨ e.c.handler ≠ some (e.entry, e.x.innermost) →
       exec (.uintRet f) s = .next (settleRes e (.exc s .rsplit))))

/-- `svc` posts its request to the service queue once the split's earlier accesses are performed, and discharges its
flags at once where the context has no queue (R195); `waitc` sends its check and waits for the answer (R65, R186). -/
def Obligations.RequestForms : Prop :=
  ∀ (f : Fields) (s : State) (e : Env),
    let a := e.read s.clock e.srcA 0
    let b := e.read s.clock e.srcB 0
    (∀ x, let s1 := e.dead (e.dead s a.2) b.2
      let s2 := e.obligeFlags (e.endUses (e.fenced (noteXlate s1 (askCore e.core) x) 10))
      Runs (.svc f) s e → a.1.toNat % 64 = 0 → e.xlate s1 a.1.toNat needRW = .ok x → x.e.cmode = 0 →
      (e.fenceWaits s1 10 = true → exec (.svc f) s = .next (settleRes e (.wait s1 .stalled))) ∧
      (e.fenceWaits s1 10 = false → (s2.desc e.ctx).svcq = 0 →
        exec (.svc f) s = .next (settleRes e (.done (dischargeBoth s2 e.id e.flagPair.1 e.flagPair.2)))) ∧
      (e.fenceWaits s1 10 = false → (s2.desc e.ctx).svcq ≠ 0 →
        exec (.svc f) s = .next (settleRes e (.done
          (queuePost (s2.modCrew e.id (fun c => { c with svcOut := c.svcOut + 1 })) e.ctx false
            (e.svcRecord a.1.toNat b.1.toNat)))))) ∧
    (∀ ad d x, let s1 := e.dead (e.dead s d) b.2
      Runs (.waitc f) s e → e.address s.clock false 0 = (d, some ad) → ad.a % 8 = 0 →
      e.xlate s1 ad.a needR = .ok x → isHbm x.pa = true ∨ isHost x.pa = true →
      exec (.waitc f) s = .next (settleRes e (.jump
        ((noteXlate s1 (askCore e.core) x).modCrew e.id (fun c => c.modSplit e.entry (fun y => { y with
          state := .monitorWait
          wait := some
            { va := ad.a, pa := x.pa, cls := x.e.aclass, cmp := e.var, signed := typeSigned e.ty, comparand := b.1, dst := e.dst,
              inFlight := true, recheck := false, checkedAt := s1.clock, ends := e.endsAtWait } }))))))

/-- `spawn` deposits a record for each acting lane in its node's bin, or raises the bin's flag and waits where the bin
of a node that has not failed stands at its high mark (R41, R189, R398); `nsig` and `npub` update the slot of each acting lane in ascending order, `npub`
after it has stored the lane's record (R43, R190, R191). Each completes in every acting lane that is not refused beyond
the core. -/
def Obligations.SpawnAndDependenceForms : Prop :=
  ∀ (f : Fields) (s : State) (e : Env),
    (∀ nd, Runs (.spawn f) s e → nodeOf s e.ctx e.dst = some nd →
      let b := getBin s e.ctx e.dst e.die
      let rs := e.acting.map (e.record s.clock e.srcA (nd.recSize / 8))
      (e.acting = [] → ∃ t, exec (.spawn f) s = .next t ∧ t = settleRes e (.done (e.endUses s))) ∧
      (e.acting ≠ [] → b.depth < nd.high ∨ nodeFailed s e.ctx e.dst = true → ∃ t, exec (.spawn f) s = .next t ∧ t = settleRes e (.done
        (deposit (e.endUses (e.fenced (e.dead s (rs.any Prod.snd)) 5)) e.ctx e.dst e.die (rs.map Prod.fst)))) ∧
      (e.acting ≠ [] → nd.high ≤ b.depth → nodeFailed s e.ctx e.dst = false → exec (.spawn f) s = .next (settleRes e (.wait
        ((setBin s e.ctx e.dst e.die { b with raised := true }).modCrew e.id (fun c =>
          c.modSplit e.entry (fun x => { x with gang := e.dst }))) .binWait)))) ∧
    (∀ d ls, Runs (.nsig f) s e → checkLanes e.acting (e.signalCheck s) = (d, .ok ls) →
      let s1 := e.endUses (if ls.isEmpty then e.dead s d else e.fenced (e.dead s d) 5)
      let r := eachLane s1 ls (fun t _ x => e.signalLane s1 t x)
      ((∀ t ∈ ls, refusal s1 t.2 e.core true = none) →
        ∃ t, exec (.nsig f) s = .next t ∧ t = settleRes e (.done r.1)) ∧
      (∀ q, r.2 = some q → exec (.nsig f) s = .next (settleRes e (.late r.1 q.1 (some q.2.1) (some q.2.2))))) ∧
    (∀ nd d ls, Runs (.npub f) s e → nodeOf s e.ctx e.dst = some nd →
      checkLanes e.acting (e.publishCheck s nd) = (d, .ok ls) →
      let recs := ls.map (fun t => (t.1, (e.record s.clock e.srcC (nd.recSize / 8) t.1).1))
      let s1 := e.endUses (if ls.isEmpty then e.dead s d else e.fenced (e.dead s d) 5)
      let r := eachLane s1 ls (e.publishLane recs s1)
      ((∀ t ∈ ls, refusal s1 t.2.1 e.core true = none ∧ ∀ x ∈ t.2.2.1, refusal s1 x.1 e.core true = none) →
        ∃ t, exec (.npub f) s = .next t ∧ t = settleRes e (.done r.1)) ∧
      (∀ q, r.2 = some q → exec (.npub f) s = .next (settleRes e (.late r.1 q.1 (some q.2.1) (some q.2.2))))) ∧
    (∀ i ∈ [Instr.spawn f, .npub f], Runs i s e → nodeOf s e.ctx e.dst = none →
      exec i s = .next (settleRes e (.exc s .ropnd)))

/-! Memory. Every lane's address is checked before the first access (R375); the lanes then act in ascending order. -/

/-- Loads (R243): what each lane's load came to reaches its registers, and the crew's timestamp rises; a refused lane
raises the deferred `RREMOTE` (R404). A load that meets a stash line on its way in a refresh window, or a store of its
split to the same bytes that is still on its way, waits first (R110, R244). Stores (R243). -/
def Obligations.LoadsAndStores : Prop :=
  (∀ p ∈ [(Instr.ld, false), (.lds, true), (.sld, false), (.slds, true)], ∀ (f : Fields) (s : State) (e : Env),
     Runs (p.1 f) s e → e.tensorBad false = false → ∀ d ts,
       checkLanes e.memLanes (e.target s p.2 e.moveBytes needR) = (d, .ok ts) →
       let r := e.loadAll (e.endUses (e.dead s d)) e.moveBytes ts
       let u := e.poisoned (r.1.foldl e.takeLoad (e.raisePts r.2.2 r.2.1)) (r.1.countP (fun g => g.2.bad))
       let waits := ts.any (fun t => e.targetWaits (e.dead s d) e.moveBytes false t.2 || e.storesAhead (e.dead s d) t.2)
       let held := e.waitFills (e.dead s d) (ts.flatMap (fun t => e.fillReads (e.dead s d) e.moveBytes false t.2))
       (waits = true → exec (p.1 f) s = .next (settleRes e (.wait held .stalled))) ∧
       (waits = false → firstRefused r.1 = none → exec (p.1 f) s = .next (settleRes e (.done u))) ∧
       ∀ l va pa, waits = false → firstRefused r.1 = some (l, va, pa) →
         exec (p.1 f) s = .next (settleRes e (.late u l (some va) (some pa)))) ∧
  (∀ p ∈ [(Instr.st, false), (.sts, true), (.sst, false), (.ssts, true)], ∀ (f : Fields) (s : State) (e : Env),
     Runs (p.1 f) s e → e.tensorBad false = false → ∀ d ts,
       checkLanes e.memLanes (e.storeCheck s p.2) = (d, .ok ts) →
       let r := e.storeAll (e.endUses (e.dead s d)) ts
       let u := hostWords (e.raisePts (settle r.1.st e.core r.1.cov) r.1.pts) e.core ts
       let waits := ts.any (fun t => e.targetWaits (e.dead s d) e.moveBytes true t.2.1)
       let held := e.waitFills (e.dead s d) (ts.flatMap (fun t => e.fillReads (e.dead s d) e.moveBytes true t.2.1))
       (waits = true → exec (p.1 f) s = .next (settleRes e (.wait held .stalled))) ∧
       (waits = false → r.2 = none → exec (p.1 f) s = .next (settleRes e (.done u))) ∧
       ∀ l va pa, waits = false → r.2 = some (l, va, pa) → exec (p.1 f) s = .next (settleRes e (.late u l (some va) (some pa))))

/-- Atomics and compare-and-swap (R249, R250): each lane's register receives the old pattern; reductions (R125, R251):
one update for each address leaves the core. -/
def Obligations.AtomicForms : Prop :=
  (∀ p ∈ [(Instr.atom, false), (.satom, false), (.atomCas, true), (.satomCas, true)],
    ∀ (f : Fields) (s : State) (e : Env), Runs (p.1 f) s e → e.tensorBad true = false → ∀ d ts,
      checkLanes e.memLanes (e.atomCheck s) = (d, .ok ts) →
      let r := e.atomAll (if p.2 then casStep else e.opStep) (e.endUses (e.dead s d)) ts
      firstRefused r.1 = none →
      exec (p.1 f) s = .next (settleRes e
        (.done (e.poisoned (r.1.foldl e.takeAtom r.2) (r.1.countP (fun g => g.2.bad)))))) ∧
  ∀ p ∈ [Instr.red, .sred], ∀ (f : Fields) (s : State) (e : Env), Runs (p f) s e → e.tensorBad true = false → ∀ d ts,
    checkLanes e.memLanes (e.redCheck s) = (d, .ok ts) →
    let r := eachLane (e.endUses (e.dead s d)) (e.redUpdates ts) (fun s l t => e.redOne s l t.1 t.2)
    r.2 = none → exec (p f) s = .next (settleRes e (.done r.1))

/-- The first lane whose check fails raises its exception, at the instruction and with none of its effects but those
of the failed address's own table walk (R374, R375). A lane's address must be a multiple of the size it moves, and one
that is not raises `RALIGN` with the address; an element outside its extents makes no access (R107, R241, Table 22-9).
-/
def Obligations.LaneChecks : Prop :=
  (∀ (f : Fields) (s : State) (e : Env) (d : Bool) (l : Nat) (x : LaneFail), e.tensorBad false = false →
     let trap := Host.Outcome.next (settleRes e (.trap (walkPoison (noteWalk (e.dead s d) x.upd) e.die (some e.id) e.entry (x.va.getD 0) x.poison) x.exc l
       x.va x.pa))
     (∀ p ∈ [(Instr.ld, false), (.lds, true), (.sld, false), (.slds, true)], Runs (p.1 f) s e →
       checkLanes e.memLanes (e.target s p.2 e.moveBytes needR) = (d, .error (l, x)) → exec (p.1 f) s = trap) ∧
     (∀ p ∈ [(Instr.st, false), (.sts, true), (.sst, false), (.ssts, true)], Runs (p.1 f) s e →
       checkLanes e.memLanes (e.storeCheck s p.2) = (d, .error (l, x)) → exec (p.1 f) s = trap)) ∧
  (∀ (e : Env) (s : State) (stash : Bool) (n l : Nat) (need : Need) (d : Bool),
     (∀ ad, e.address s.clock stash l = (d, some ad) → ad.a % n ≠ 0 →
       e.target s stash n need l = (d, .error (LaneFail.of .ralign (some ad.a)))) ∧
     (e.address s.clock stash l = (d, none) → e.target s stash n need l = (d, .ok .nothing)))

/-- A uniform store to HBM, on a coherent or private page, in a state whose memory has its canonical form: the bytes at
the address that the operand forms hold the source's low bytes, lowest first, and every other byte of memory is what it
was (R115, R243, R405). Where updates are held for lines the store may let them join memory (R124): here none is. -/
def Obligations.StoreWritesItsBytesOnly : Prop :=
  ∀ (f : Fields) (s : State) (e : Env) (d : Bool) (x : Xlate), Runs (.sst f) s e → Memory.wf s.mem = true →
    e.x2 = false → e.tensorBad false = false → e.target s false e.moveBytes needW 0 = (d, .ok (.glob x)) → x.upd = [] →
    isHbm x.pa = true → x.e.cmode ≠ 1 → (∀ a, (lineOf s a).partials = []) →
    refusal (noteXlate (e.endUses (e.dead s (d || (e.storeData s.clock 0).2))) (askCore e.core) x) x e.core true = none →
    ∃ t, exec (.sst f) s = .next t ∧ ∀ a, memGet t.mem a =
      if x.pa ≤ a ∧ a < x.pa + e.moveBytes then ((wordBytes (e.read s.clock e.srcB 0).1).getD (a - x.pa) 0)
      else memGet s.mem a

/-- A uniform load from the stockpile: the destination holds the bytes at the address that the operand forms, extended
by the type, and every byte of memory is what it was (R109, R110, R243). -/
def Obligations.StockpileLoadReads : Prop :=
  ∀ (f : Fields) (s : State) (e : Env) (d : Bool) (x : Xlate), Runs (.sld f) s e → e.x2 = false →
    e.tensorBad false = false → e.target s false e.moveBytes needR 0 = (d, .ok (.glob x)) → x.upd = [] →
    isStockpile x.pa = true → refreshing s x.pa = false → e.storesAhead s (.glob x) = false → s.latent = [] → x.e.cmode = 3 →
    (readBytes s x.pa e.moveBytes).2 = false →
    ∃ t c, exec (.sld f) s = .next t ∧ (∀ a, memGet t.mem a = memGet s.mem a) ∧ t.crew e.id = some c ∧
      c.sAt e.dst = .live (extendTo64 (typeSigned e.ty) (typeBits e.ty) (leNat (memRead s.mem x.pa e.moveBytes))) ∧
      (∀ k, k ≠ e.dst → c.sAt k = (e.spent s).sAt k) ∧ (∀ r l, c.vAt r l = (e.spent s).vAt r l) ∧
      ∀ k, c.pAt k = e.c.pAt k

/-- The managed-page forms, the fence and messages (R120, R122, R248, R252, R253): `cwb` and `cinv` clean the lines of
their range that lie on pages other than coherent ones; a fence waits for the requests that its scope covers and then raises what it orders; a message goes to its
slice when one there takes it, and is answered 0 at once when none does. -/
def Obligations.CleanFenceMessage : Prop :=
  ∀ (f : Fields) (s : State) (e : Env),
    let b := e.read s.clock e.srcB 0
    (∀ p ∈ [(Instr.cwb, false), (.cinv, true)], Runs (p.1 f) s e → ∀ d ad, e.address s.clock false 0 = (d, some ad) →
      let s1 := e.dead (e.dead s b.2) d
      let n := ad.a % 128 + max b.1.toNat 1
      b.1.toNat ≤ 2 ^ 32 →
      (e.cleanScope ≤ 2 → exec (p.1 f) s = .next (settleRes e (.done (e.endUses s1)))) ∧
      ∀ xs, 2 < e.cleanScope → translateAll s1 (askCore e.core) e.ctx needR (pagesOf (ad.a / 128 * 128) n) = .ok xs →
        ∃ hit : Nat → Bool, exec (p.1 f) s = .next (settleRes e (.done
          (cleanLines (xs.foldl (fun s x => noteXlate s (askCore e.core) x) (e.endUses s1)) e.core hit p.2))) ∧
          ∀ pa, hit pa = true ↔ ∃ x ∈ xs, x.e.cmode ≠ 0 ∧ x.pa / 4096 = pa / 4096 ∧
            ad.a / 128 * 128 ≤ x.va / 4096 * 4096 + pa % 4096 ∧ x.va / 4096 * 4096 + pa % 4096 < ad.a / 128 * 128 + n) ∧
    (Runs (.fence f) s e → exec (.fence f) s = .next (settleRes e
      (if e.fenceWaits s e.var then .wait s .stalled else .done (e.fenced s e.var)))) ∧
    (Runs (.amsg f) s e → ∀ d ad x l, e.address s.clock false 0 = (d, some ad) → ad.a % 8 = 0 →
      let s1 := e.dead (e.dead s b.2) d
      e.xlate s1 ad.a needR = .ok x → x.e.cmode = 0 →
      let s2 := e.obligeFlags (e.endUses (noteXlate s1 (askCore e.core) x))
      home s2 x.pa = some l → exec (.amsg f) s = .next (settleRes e (.done
        (if takesMessages s2 l e.ctx x.e.aclass then e.sendMessage s2 l x b.1
         else dischargeBoth (e.putS s2 e.dst 0) e.id e.flagPair.1 e.flagPair.2))))

/-! Gangs. -/

/-- Barriers of a gang (R36, R254, R393): arrival is noted once in a phase; the wait ends with the phase number when
every member has arrived, with bit 63 set when the gang is broken, and else the crew waits; a crew whose gang is not
resident, or that does not arrive and wait in turn, takes `RGANG`. A collective is issued when its ranges are lines,
do not overlap and translate, and its member waits (R255, R256, Table 22-9), once its requests under its scope are
performed; it completes once every member has issued: the members' destinations are written and all go on. -/
def Obligations.BarriersAndCollectives : Prop :=
  (∀ (f : Fields) (s : State) (e : Env) (l : Nat) (g : GangName) (x : GangEntry), e.c.single = true →
     (Runs (.gbarArr f) s e → e.gang s e.var = some (l, g, x) → exec (.gbarArr f) s = .next (settleRes e
       (if g.arrived then .exc s .rgang else .done (e.arrive s l e.var g false)))) ∧
     (Runs (.gbarWait f) s e → e.gang s e.var = some (l, g, x) → exec (.gbarWait f) s = .next (settleRes e
       (if !g.arrived then .exc s .rgang
        else if isBroken s l g.table then
          .done (e.putS (e.nextPhase s l e.var g) e.dst (BitVec.ofNat 64 (2 ^ 63 + g.phase % 2 ^ 32)))
        else if allArrived s l g.table g.phase then
          .done (e.putS (e.nextPhase s l e.var g) e.dst (BitVec.ofNat 64 (g.phase % 2 ^ 32)))
        else e.waitGang s g.table))) ∧
     (Runs (.collBar f) s e → e.gang s e.collName = some (l, g, x) → peerOk s l g.table e.var = true → e.var ≠ 8 →
       ¬(g.arrived = true ∧ g.bar = false) →
       let s1 := if g.bar then s else e.arrive s l e.collName g true
       exec (.collBar f) s = .next (settleRes e
         (if isBroken s1 l g.table || allArrived s1 l g.table g.phase then .done (e.leaveBar s1 l e.collName g)
          else e.issueColl s1 l g x 3 0 0 0))) ∧
     (∀ p ∈ [(Instr.gbarArr f, e.var), (.gbarWait f, e.var), (.collBar f, e.collName), (.collAg f, e.collName),
         (.collRs f, e.collName), (.collA2a f, e.collName)], Runs p.1 s e → e.gang s p.2 = none →
       exec p.1 s = .next (settleRes e (.exc s .rgang)))) ∧
  ((∀ p ∈ [(Instr.collAg, 0), (.collRs, 1), (.collA2a, 2)], ∀ (f : Fields) (s : State) (e : Env) (l : Nat) (g : GangName)
       (t : GangEntry) (y : Launch) (xs : List Xlate), Runs (p.1 f) s e → e.c.single = true →
       e.gang s e.collName = some (l, g, t) → peerOk s l g.table e.var = true →
       let a := e.read s.clock e.srcA 0
       let b := e.read s.clock e.srcB 0
       let c := e.read s.clock e.srcC 0
       let s1 := e.dead (e.dead (e.dead s a.2) b.2) c.2
       s1.launch l = some y →
       let m := (gangSpan s1 y g.table t.count e.var).2
       let n := c.1.toNat
       let srcN := if p.2 = 0 then n else m * n
       let dstN := if p.2 = 1 then n else m * n
       n % 128 = 0 → 0 < n → n ≤ 2 ^ 24 → a.1.toNat % 128 = 0 → b.1.toNat % 128 = 0 →
       overlap a.1.toNat srcN b.1.toNat dstN = false →
       firstFail (e.collPages s1 a.1.toNat srcN needR ++ e.collPages s1 b.1.toNat dstN needW) = .ok xs →
       let s2 := xs.foldl (fun s x => noteXlate s (askCore e.core) x) s1
       exec (p.1 f) s = .next (settleRes e
         (if isBroken s2 l g.table then .done (e.endUses s2)
          else if e.fenceWaits s2 e.var then .wait s2 .stalled
          else e.issueColl (e.fenced s2 e.var) l g t p.2 a.1.toNat b.1.toNat n))) ∧
   ∀ (s : State) (l k : Nat) (x : Launch) (g : GangEntry), s.launch l = some x → x.gtab[k]? = some g → g.count ≠ 0 →
     allIssued s l k g = true →
     let is := liveIssues s l k
     let span := gangSpan s x k g.count ((is.head?.map CollIssue.scope).getD 3)
     is.any CollIssue.onPhase = false →
     let s1 := setIssues s l k []
     let r := if (is.head?.map CollIssue.form).getD 0 = 3 then (levelPts s1 is (memberPts s1 is), []) else moveColl s1 is span.1 span.2
     r.2 = [] → exec (.collectiveComplete l k) s = .next (is.foldl (fun s i => passColl s i k) r.1))

/-! The hoist, the stash and the matrix engine. -/

/-- A well-formed `hcp`, `hgth` or `hsct` takes a slot with its control block, its records and the rows' indexes as they
stand at issue (R259 to R262); `hcmp` takes one with its buffer and its capacity (R266). -/
def Obligations.HoistCommandsPost : Prop :=
  ∀ (f : Fields) (s : State) (e : Env) (n : Nat),
    (∀ i ∈ [Instr.hcp f, .hgth f, .hsct f], Runs i s e →
      let b := e.block.1
      let s1 := e.dead s e.block.2
      let lanes := blkIdx b == 1 && e.slot != opHcp
      let src := e.c.tAt e.f.srcb.toNat
      let dst := e.c.tAt e.dst
      (blkRcen b = true → e.holdsCtr s1 (blkRcnt b) = true) → (lanes = true → e.opndOk (.vreg (blkIreg b)) 1 = true) →
      blkBad e.slot e.c.lanes b src dst = false → (blkIdx b = 2 → blkIbase b % 4 = 0) → e.slotFor s1 = some n →
      let k := if lanes && blkLoops b != 0 then blkCnt b 0 else 0
      let skip := if lanes then e.skipMask else 0
      let read := (List.range k).map (fun l =>
        if skip.getLsbD l then ((0 : Word), false) else e.read s.clock (.vreg (blkIreg b)) l)
      let s2 := e.dead (e.slotFound s1) (read.any Prod.snd)
      exec i s = .next (settleRes e (.done (e.post s2 n { e.command src dst b with
        index := read.map (fun r => BitVec.ofNat 32 (r.1.toNat % 2 ^ 32)), skip := skip })))) ∧
    (Runs (.hcmp f) s e →
      let a := e.read s.clock e.srcA 0
      let c := e.read s.clock e.srcC 0
      let s1 := e.dead (e.dead s a.2) c.2
      let src := e.c.tAt e.f.srcb.toNat
      shpBad src = false → shpSpace src = true → shpNdim src = 1 → shpBits src ≠ 4 → a.1.toNat % 128 = 0 →
      e.slotFor s1 = some n →
      exec (.hcmp f) s = .next (settleRes e (.done
        (e.post (e.slotFound s1) n { e.command src 0 [] with buf := a.1.toNat, cap := c.1.toNat })))) ∧
    (∀ i ∈ [Instr.hcp f, .hgth f, .hsct f], Runs i s e → e.block.2 = false →
      (blkRcen e.block.1 = true → e.holdsCtr s (blkRcnt e.block.1) = true) →
      blkIdx e.block.1 ≠ 1 → blkIdx e.block.1 ≠ 2 →
      blkBad e.slot e.c.lanes e.block.1 (e.c.tAt e.f.srcb.toNat) (e.c.tAt e.dst) = false → e.slotFor s = none →
      exec i s = .next (settleRes e (.wait (e.slotWait s) .stalled)))

/-- `cwait` goes on when the counter has reached its operand, in the order of 32-bit numbers, having observed the rows
counted, and waits until then (R268); `hpub` exchanges a double mapping's halves when no command posted before it still writes the hidden one, and
waits until then; the exchange of a split that waited discharges both flags and lets it go on (R127, R267, R418). -/
def Obligations.CounterWaitAndPublish : Prop :=
  ∀ (f : Fields) (s : State) (e : Env),
    (Runs (.cwait f) s e →
      let b := e.read s.clock e.srcB 0
      let s1 := e.dead s b.2
      let v : Nat := ((tabGet (s1.core e.core).ctrs e.var).map (fun r => r.value.toNat)).getD 0
      let left : Nat := (v + 2 ^ 32 - b.1.toNat % 2 ^ 32) % 2 ^ 32
      let ts := ((tabGet (s1.core e.core).ctrs e.var).map RowCtr.ts).getD 0
      (left < 2 ^ 31 → exec (.cwait f) s = .next (settleRes e (.done (e.raisePts (e.observe (e.endUses s1)) ts)))) ∧
      (2 ^ 31 ≤ left → exec (.cwait f) s = .next (settleRes e (.wait s1 .stalled)))) ∧
    (∀ k m, Runs (.hpub f) s e →
      let a := e.read s.clock e.srcA 0
      let s1 := e.dead s a.2
      let r := e.request s1 2 k
      let s2 := raiseEng (e.obligeFlags (e.endUses (e.dropRequest s1 2))) e.id e.c.pts
      mapAt s1 e.core e.ctx (a.1.toNat % 2 ^ 19) = some (k, m) → m.desc.mode = 2 →
      (hiddenDone s1 e.core r.before m = true → exec (.hpub f) s = .next (settleRes e
        (.done (dischargeBoth (exchange s2 e.core k e.id m) e.id r.flgb r.flga)))) ∧
      (hiddenDone s1 e.core r.before m = false →
        exec (.hpub f) s = .next (settleRes e (.wait (e.keepRequest s1 r) .stalled)))) ∧
    ∀ core k r m, (s.core core).reqs.find? (fun r => r.kind == 2 && r.entry == k && r.live s) = some r →
      tabGet (s.core core).maps k = some m → hiddenDone s core r.before m = true →
      let s1 := (s.modCore core (fun c => { c with reqs := c.reqs.filter (fun q => q != r) })).modCrew r.crew r.take
      let s2 := raiseEng s1 r.crew (((s1.crew r.crew).map Crew.pts).getD 0)
      let s3 := dischargeBoth (exchange s2 core k r.crew m) r.crew r.flgb r.flga
      exec (.hpubExchange core k) s = .next (noteIdle (advance s3 r.crew r.split r.len) r.crew)

/-- A row of a copy completes: its elements are moved, the rows ahead that the turn names take their elements, the
counter rises by one and the committed position passes it, or the command finishes with its last row (R264); where an
element ahead cannot be reached, the command fails (R420); a row that has begun keeps the index that it read (R262); a
command that makes no progress for 2^20 cycles fails with `DERR` (R424). A row's commitment raises the counter that
the block enables by one and no other (R264). -/
def Obligations.HoistRows : Prop :=
  (∀ (s s1 : State) (core slot : Nat) (h : HoistCmd) (ahead : Ahead), tabGet (s.core core).hoist slot = some h →
     h.park = none →
     (stopped s h.ctx = false → mayBegin s core h = true → h.opc ≠ opHcmp →
       let b := beginRow s core h h.pc
       copyRow b.2 core b.1 b.1.pc = .ok s1 →
       let r := runAhead s1 core b.1 ahead
       (r.fail = none → exec (.hoistRowDone core slot ahead) s = .next (commitRow r.st core slot r.h)) ∧
       ∀ f, r.fail = some f → exec (.hoistRowDone core slot ahead) s = .next (failRow core slot r.h f)) ∧
     (stopped s h.ctx = false → mayBegin s core h = true → h.opc = opHcmp → ∀ n carry ends,
       compressRow s core h h.pc = .ok (s1, n, carry, ends) →
       exec (.hoistRowDone core slot ahead) s = .next
         (if ends then finishCommand s1 core slot { h with blocks := n }
          else commitRow s1 core slot { h with blocks := n, carry := carry })) ∧
     (h.opc ≠ opHcp → blkLoops h.block ≠ 0 → blkIdx h.block = 2 → ∀ v, tabGet h.kept h.pc = some v →
       rowIndex s core h h.pc = .ok (some (signExt 32 v.1), v.2, s)) ∧
     (2 ^ 20 ≤ h.idle → exec (.hoistWatchdogExpire core slot) s = .next (failCommand s core slot h (some (12, 0)) none))) ∧
  (∀ (s : State) (core : Nat) (h : HoistCmd) (k : Nat) (r : RowCtr), tabGet (s.core core).ctrs k = some r →
     tabGet ((addCounter s core h 1).core core).ctrs k =
       some (if h.opc ≠ opHcmp ∧ blkRcen h.block = true ∧ k = blkRcnt h.block then
         { r with value := r.value + 1, ts := max r.ts (engPts s h.crew) } else r))

/-- The stash (R103, R246, R247): a read descriptor that is well formed is mapped; `sunmap` and `sflush` capture their
mapping's lines when nothing holds the request back and wait until then, and discharge both flags at once where no
mapping stands at the base; `smap` waits while a request that arrived before it is open; the end of the write-back discharges the completion. -/
def Obligations.StashForms : Prop :=
  ∀ (f : Fields) (s : State) (e : Env),
    (∀ d t bs pts s1, Runs (.smap f) s e → e.tensorBad false = false → e.requestsBefore s = false →
      e.target s false 32 needR 0 = (d, .ok t) →
      e.descBytes (e.dead s d) t = (.data bs false, pts, s1) → descBad (leNat bs) = false →
      exec (.smap f) s = .next (settleRes e (e.mapWith (e.dropRequest s1 3) (decodeDesc (leNat bs)) pts))) ∧
    (Runs (.smap f) s e → e.tensorBad false = false → e.requestsBefore s = true →
      exec (.smap f) s = .next (settleRes e (.wait (e.keepRequest s (e.request s 3 0)) .stalled))) ∧
    (∀ s1 d pts, (warmMap s1 e.core e.ctx e.id d).isSome = true →
      let r := doSmap (e.endUses s1) e.core e.ctx e.id e.c.kernel.affin pts d [] (e.who 0)
      e.mapWith s1 d pts = .done (e.putS (e.raisePts r.2.2 r.2.1) e.dst r.1)) ∧
    (∀ p ∈ [(Instr.sunmap f, 0), (.sflush f, 1)], Runs p.1 s e →
      let a := e.read s.clock e.srcA 0
      let s1 := e.dead s a.2
      let s2 := e.obligeFlags (e.endUses (e.dropRequest s1 p.2))
      (mapAt s1 e.core e.ctx (a.1.toNat % 2 ^ 19) = none →
        exec p.1 s = .next (settleRes e (.done (dischargeBoth s2 e.id e.flagPair.1 e.flagPair.2)))) ∧
      ∀ k m, mapAt s1 e.core e.ctx (a.1.toNat % 2 ^ 19) = some (k, m) →
        let r := e.request s1 p.2 k
        exec p.1 s = .next (settleRes e
          (if captureReady s1 e.core
              ((s1.core e.core).reqs.takeWhile (fun q => some q != e.pending s1 p.2)) r then
            .done (capture (s2.modCore e.core (fun c => { c with reqs := c.reqs ++ [{ r with captured := true }] }))
              e.core r)
           else .wait (e.keepRequest s1 r) .stalled))) ∧
    ∀ core n r, (s.core core).reqs[n]? = some r → r.captured = true →
      exec (.stashWritebackDone core n) s = .next (discharge
        (s.modCore core (fun c => { c with reqs := c.reqs.take n ++ c.reqs.drop (n + 1) })) r.crew r.flga)

/-- An instruction of the matrix engine whose operands are as Table 22-10 asks enters the engine's queue, and one that
finds four there waits (R269 to R275). -/
def Obligations.EngineInstructionsEnqueue : Prop :=
  ∀ (f : Fields) (s : State) (e : Env),
    let k := (s.core e.core).macros
    (Runs (.mld f) s e →
      let tb := e.c.tAt e.f.srca.toNat
      let scl := sclOf e.f 2
      let ts := if scl then e.c.tAt e.f.srcb.toNat else 0
      shpBad tb = false → shpFmt tb = typeFmt e.ty → (scl = true → shpBad ts = false ∧ shpFmt ts = 1) →
      exec (.mld f) s = .next (settleRes e
        (e.enqueue s tb ts 0 0 [] (fun m => { m with issuedArr := e.var % 4, issuedType := e.ty })))) ∧
    (Runs (.mmul f) s e →
      let ta := e.c.tAt e.f.srca.toNat
      let scl := sclOf e.f 0
      let ts := if scl then e.c.tAt e.srccNum else 0
      let tiles := e.c.acc.drop e.dst
      shpBad ta = false → shpSpace ta = true → shpNdim ta = 1 →
      (scl = true → shpBad ts = false ∧ shpSpace ts = true ∧ shpNdim ts = 1) → (e.ty = 11 ↔ k.issuedType = 11) →
      shpExt ta 1 ≤ 2048 → shpExt ta 1 * arrN k.issuedArr (k.issuedType == 11) ≤ regionSize tiles →
      exec (.mmul f) s = .next (settleRes e (e.enqueue s ta ts (e.c.kAt e.f.srcb.toNat) 0 tiles id))) ∧
    (Runs (.mzero f) s e → e.var < 8 → e.dst + e.var + 1 ≤ e.c.kernel.accs →
      exec (.mzero f) s = .next (settleRes e
        (e.enqueue s 0 0 0 0 ((e.c.acc.drop e.dst).take (e.var + 1)) id))) ∧
    (Runs (.mrd f) s e →
      let td := e.c.tAt e.dst
      let tiles := e.c.acc.drop e.f.srca.toNat
      let v : Word × Bool := if e.f.uv then e.uni e.descNum else (0, false)
      shpBad td = false → shpSpace td = true → shpNdim td = 1 → shpFmt td = typeFmt e.ty →
      shpExt td 0 * shpExt td 1 ≤ regionSize tiles →
      exec (.mrd f) s = .next (settleRes e
        (e.enqueue (e.dead s v.2) td 0 (BitVec.ofNat 64 (v.1.toNat % 256)) (v.1.toNat % 256) tiles id))) ∧
    (Runs (.mred f) s e →
      let td := e.c.tAt e.dst
      let tiles := e.c.acc.drop e.f.srca.toNat
      shpBad td = false → shpSpace td = false → shpNdim td = 1 → shpFmt td = 9 →
      shpExt td 0 * shpExt td 1 ≤ regionSize tiles →
      exec (.mred f) s = .next (settleRes e (e.enqueue s td 0 0 0 tiles id))) ∧
    (∀ t1 t2 mask scale tiles m, (s.core e.core).eng.length < 4 →
      let c : EngCmd :=
        { crew := e.id, ctx := e.ctx, insn := encodeFields e.slot e.f, shp1 := t1, shp2 := t2, mask := mask, scale := scale,
          tiles := tiles, arr := k.issuedArr, btype := k.issuedType, pos := 0, flga := e.flagPair.1, flgb := e.flagPair.2,
          released := false, derr := false, recorded := false, idle := 0, away := [], groups := [],
          acks := [] }
      e.enqueue s t1 t2 mask scale tiles m = .done
        ((raiseEng (e.obligeFlags (e.endUses s)) e.id e.c.pts).modCore e.core (fun co =>
          { co with eng := co.eng ++ [c], macros := m co.macros }))) ∧
    ∀ t1 t2 mask scale tiles m, 4 ≤ (s.core e.core).eng.length →
      e.enqueue s t1 t2 mask scale tiles m = .wait s .stalled

/-- `mwait` completes, of a member of the ring of whose instructions the engine holds none: it goes on to the next
instruction, having observed the crew's work on the engine (R120, R275); it waits while one is there, and raises `RLAMP`
outside the ring (R388). `bsel.topk` completes where its operand is no reserved one, its list is aligned, and every element
that it reads and every entry that it writes stands in a mapping of the crew, waits for nothing and meets no refusal: row
after row it reads the scores, writes the kept blocks' list and its mask register, and settles what the list covers
(R277, R406). -/
def Obligations.EngineWaitAndSelect : Prop :=
  ∀ (f : Fields) (s : State) (e : Env),
    (Runs (.mwait f) s e → e.id ∈ (s.core e.core).ring → (∀ c ∈ (s.core e.core).eng, c.crew ≠ e.id) →
      exec (.mwait f) s = .next (settleRes e (.done (e.observe s)))) ∧
    (Runs (.bselTopk f) s e →
      let a := e.read s.clock e.srcA 0
      let b := e.read s.clock e.srcB 0
      let s1 := e.dead (e.dead s a.2) b.2
      let t := topkOf b.1.toNat e.dst
      let base := a.1.toNat % 2 ^ 19
      let r := (List.range (t.nq + 1)).foldl (e.topRow t base) (e.endUses s1, 0, [])
      t.bad = false → t.list % 8 = 0 →
      (∀ p ∈ t.reads (e.bits / 8) base, ∃ x, e.spot s1 p (e.bits / 8) false = .ok x ∧
        e.targetWaits s1 (e.bits / 8) false x = false ∧ e.spotRefused s1 p (e.bits / 8) false = none) →
      (∀ p ∈ t.writes, ∃ x, e.spot s1 p 2 true = .ok x ∧ e.targetWaits s1 2 true x = false ∧
        e.spotRefused s1 p 2 true = none) →
      exec (.bselTopk f) s = .next (settleRes e (.done (e.poisoned (settle r.1 e.core r.2.2) r.2.1)))) ∧
    (Runs (.mwait f) s e → e.id ∈ (s.core e.core).ring → (∃ c ∈ (s.core e.core).eng, c.crew = e.id) →
      exec (.mwait f) s = .next (settleRes e (.wait s .stalled))) ∧
    (Runs (.mwait f) s e → e.id ∉ (s.core e.core).ring →
      exec (.mwait f) s = .next (settleRes e (.exc s .rlamp))) ∧
    ∀ (t : TopK) (base q : Nat) (a : State × Nat × List Cover),
      let d : Env := { e with c := (a.1.crew e.id).getD e.c }
      let got := d.topLoad a.1 (t.scores (d.bits / 8) base q)
      ∃ (u : State) (cov : List Cover), e.topRow t base a q = (u.modCrew e.id (fun c =>
        c.setK (e.dst + q) (blockMask (d.topPick t got.1))), a.2.1 + got.1.countP Prod.snd, a.2.2 ++ cov)

/-- The engine's own steps: a fed row commits; an instruction that may act takes its steps in order and leaves after
the last one with its obligations discharged, once its updates are performed; one that makes no progress for 2^20
cycles leaves with `DERR` and a record, and what it had still to write is poisoned (R275, R279, R427); a passing
self-test forgets what fed, and a failing one fences its sub-array (R429). Of several instructions that may act, which
one does is left open (DESIGN CHOICE, log 4). Each step of `mzero` makes a tile's elements +0 and unpoisoned, and
leaves every other element of the core's accumulators (R272, R428). -/
def Obligations.EngineSteps : Prop :=
  (∀ (s : State) (core i : Nat) (c : EngCmd),
     let a : State → EngAcc := fun s => ⟨s, 0, 0, c.recorded, none, []⟩
     (engRow s core = some (i, c) → (s.core core).macros.harvested = false → ∀ row, nextRow c = some row →
       let r := mmulRow core c row (a s)
       let d := { c with pos := row + 1, recorded := r.1.recorded, idle := 0, away := [], groups := [] }
       let s1 := mmulPoison (unitFlags (r.1.settle (c.unit core)) c.crew r.2) core d
       let last := (nextRow d).isNone
       r.1.hold = none →
       exec (.mmulRowCommit core) s = .next (setEng (if last && !c.released then discharge s1 c.crew c.flgb else s1) core i
         { d with released := c.released || last })) ∧
     (∀ s', engTurn s core = some (i, c, s') → c.slot ≠ 0x391 →
       ¬(c.slot = 0x390 ∧ (s'.core core).macros.harvested = true) →
       let r := engineStep core c c.pos (a s')
       let s1 := unitFlags (r.1.settle (c.unit core)) c.crew r.2
       let d := { c with pos := c.after, recorded := r.1.recorded, idle := 0, away := [], groups := [],
                         acks := c.acks ++ r.1.acks }
       (c.over = false → r.1.hold = none → exec (.engineInsnDone core) s =
         .next (if d.over then completeEngine s1 core i d else setEng s1 core i d)) ∧
       (c.over = true → exec (.engineInsnDone core) s = .next (completeEngine s' core i c))) ∧
     (engineAwaits s c = false → completeEngine s core i c =
       finishEngine (if wideScope c.scope then raiseCtx s c.ctx (engPts s c.crew) else s) core i c) ∧
     (∀ s', engTurn s core = some (i, c, s') → c.slot = 0x391 →
       exec (.engineInsnDone core) s = .next (finishEngine (mmulPoison s' core c) core i c)) ∧
     (∀ s', engTurn s core = some (i, c, s') → c.slot = 0x390 → (s'.core core).macros.harvested = true →
       exec (.engineInsnDone core) s = .next (finishEngine (poisonBlocks s' core c) core i c)) ∧
     ((engFree s core).find? (fun d => 2 ^ 20 ≤ d.2.idle) = some (i, c) → exec (.engineWatchdogExpire core) s =
       .next (finishEngine (unitFlags (abandonEngine
         (if c.recorded then s else unitRecord s (c.unit core) 12 0 9 0 none none) core c) c.crew flagDERR) core i c)) ∧
     ((s.core core).eng = [] → (s.core core).macros.harvested = false →
       exec (.macroSelfTest core none) s =
         .next (s.modCore core (fun co => { co with macros := { co.macros with fed := [], outs := [] } })) ∧
       ∀ m sub, m < 8 → sub < 5 → (s.core core).macros.fenced.contains (m, sub) = false →
         exec (.macroSelfTest core (some (m, sub))) s = .next (fenceSub s core m sub))) ∧
  (∀ (s : State) (core : Nat) (c : EngCmd) (p k : Nat), p < c.tiles.length →
     accGet ((mzeroStep s core c p).core core) k =
       (if k / 4096 = c.tiles.getD p 8 then 0 else accGet (s.core core) k) ∧
     ∀ t, t ∈ ((mzeroStep s core c p).core core).accPoison ↔ t ∈ (s.core core).accPoison ∧ t ≠ c.tiles.getD p 8)

/-! Lodes. -/

/-- A lode's value is below 2^N, and writing a lode of a register gives it back, limb for limb, and leaves every other
lode of every register (R281). -/
def Obligations.LodesHoldIntegers : Prop :=
  ∀ (c : Crew) (d : LodeDesc) (r j v : Nat), 0 < d.w → j * d.w + d.w ≤ 1024 →
    c.lodeAt d r j < 2 ^ d.n ∧ (c.putLode d r j v).lodeAt d r j = v % 2 ^ d.n ∧
    ∀ r' j', j' * d.w + d.w ≤ 1024 → (r', j') ≠ (r, j) → (c.putLode d r j v).lodeAt d r' j' = c.lodeAt d r' j'

/-- `lneg` writes (2^N − A) mod 2^N to each lode, sets `LOV` when A = 2^(N−1), and writes no uniform register (R289). -/
def Obligations.NegatedLodes : Prop :=
  ∀ (f : Fields) (s : State) (e : Env) (d : LodeDesc), LodeRuns (.lneg f) s e [] d →
    let a := e.c.lodeAt d e.f.srca.toNat
    ∃ t, exec (.lneg f) s = .next t ∧
      LodeResult e s t d (some (fun j => (2 ^ d.n - a j) % 2 ^ d.n)) 0 none
        (joinFlags (List.range d.q) (fun j => flagIf (a j == 2 ^ (d.n - 1)) flagLOV) |||
          flagIf (e.lodeReadsDead d [e.f.srca.toNat] []) flagDEAD)

/-- `lcmp` writes all ones for less, 0 for equal and 1 for greater, unsigned or by the two's complement reading; `lclz`
writes the number of leading zeros of each lode, N for a zero one; neither sets a flag but `DEAD` (R291, R383). -/
def Obligations.ComparedLodes : Prop :=
  ∀ (f : Fields) (s : State) (e : Env) (d : LodeDesc),
    let a := e.c.lodeAt d e.f.srca.toNat
    let b := e.c.lodeAt d e.f.srcb.toNat
    (LodeRuns (.lcmp f) s e [e.dst] d → ∃ (t : State) (u : Nat → Word), exec (.lcmp f) s = .next t ∧
      LodeResult e s t d none e.dst (some u) (flagIf (e.lodeReadsDead d [e.f.srca.toNat, e.f.srcb.toNat] []) flagDEAD) ∧
      ∀ j, (e.var = 1 →
          (u j = 0xFFFFFFFFFFFFFFFF ↔ lodeSx d (a j) < lodeSx d (b j)) ∧ (u j = 1 ↔ lodeSx d (b j) < lodeSx d (a j))) ∧
        (e.var ≠ 1 → (u j = 0xFFFFFFFFFFFFFFFF ↔ a j < b j) ∧ (u j = 1 ↔ b j < a j)) ∧ (u j = 0 ↔ a j = b j)) ∧
    (LodeRuns (.lclz f) s e [e.dst] d → ∃ (t : State) (u : Nat → Nat), exec (.lclz f) s = .next t ∧
      LodeResult e s t d none e.dst (some (fun j => BitVec.ofNat 64 (u j)))
        (flagIf (e.lodeReadsDead d [e.f.srca.toNat] []) flagDEAD) ∧
      ∀ j, (a j = 0 → u j = d.n) ∧ (a j ≠ 0 → u j < d.n ∧ 2 ^ (d.n - 1 - u j) ≤ a j ∧ a j < 2 ^ (d.n - u j)))

/-- `ladd` and `lsub` write the sum or the difference mod 2^N and a carry or borrow of 1 or 0 in the uniform register of
each lode, and set `LOV` as the kind asks (R288); `lmulw` and `lmacw` write the low N bits of A × u, plus B, and the 64
bits above them (R292). -/
def Obligations.LodeSumsAndProducts : Prop :=
  ∀ (f : Fields) (s : State) (e : Env) (d : LodeDesc),
    let a := e.c.lodeAt d e.f.srca.toNat
    let b := e.c.lodeAt d e.f.srcb.toNat
    let u : Nat → Nat := fun j => (e.uni (e.srccNum + j)).1.toNat
    (∀ p ∈ [(Instr.ladd, (1 : Int)), (.lsub, -1)], LodeRuns (p.1 f) s e [e.srccNum] d →
      let cin : Nat → Int := fun j => if e.f.var.getLsbD 2 then u j % 2 else 0
      let x : Nat → Int := fun j => a j + p.2 * (b j + cin j)
      let y : Nat → Int := fun j => lodeSx d (a j) + p.2 * (lodeSx d (b j) + cin j)
      let carry : Nat → Bool := fun j => x j < 0 || (2 : Int) ^ d.n ≤ x j
      ∃ t, exec (p.1 f) s = .next t ∧
        LodeResult e s t d (some (fun j => (x j % (2 : Int) ^ d.n).toNat)) e.srccNum
          (some (fun j => if carry j then 1 else 0))
          (joinFlags (List.range d.q) (fun j =>
              flagIf (match e.var % 4 with | 0 => carry j | 1 => d.outside (y j) | _ => false) flagLOV) |||
            flagIf (e.lodeReadsDead d [e.f.srca.toNat, e.f.srcb.toNat] (if e.f.var.getLsbD 2 then [e.srccNum] else []))
              flagDEAD)) ∧
    (LodeRuns (.lmulw f) s e [e.srccNum] d → ∃ t, exec (.lmulw f) s = .next t ∧
      LodeResult e s t d (some (fun j => a j * u j % 2 ^ d.n)) e.srccNum
        (some (fun j => BitVec.ofNat 64 (a j * u j / 2 ^ d.n)))
        (flagIf (e.lodeReadsDead d [e.f.srca.toNat] [e.srccNum]) flagDEAD)) ∧
    (LodeRuns (.lmacw f) s e [e.srccNum] d → ∃ t, exec (.lmacw f) s = .next t ∧
      LodeResult e s t d (some (fun j => (b j + a j * u j) % 2 ^ d.n)) e.srccNum
        (some (fun j => BitVec.ofNat 64 ((b j + a j * u j) / 2 ^ d.n)))
        (flagIf (e.lodeReadsDead d [e.f.srca.toNat, e.f.srcb.toNat] [e.srccNum]) flagDEAD))

/-- `lshl` and `lshr` shift each lode by the amount of a uniform register, and an amount of N or more raises `ROPND`
(R290); `lacc` adds the exact products of the lanes' elements, and `lround` rounds each lode once (R293, R294). -/
def Obligations.LodeShiftsAndRounding : Prop :=
  ∀ (f : Fields) (s : State) (e : Env) (d : LodeDesc),
    let a := e.c.lodeAt d e.f.srca.toNat
    let m := e.uni e.srccNum
    (LodeRuns (.lshl f) s e [] d → m.1.toNat < d.n → ∃ t, exec (.lshl f) s = .next t ∧
      LodeResult e s t d (some (fun j => a j * 2 ^ m.1.toNat % 2 ^ d.n)) 0 none
        (joinFlags (List.range d.q) (fun j => flagIf (2 ^ d.n ≤ a j * 2 ^ m.1.toNat) flagLOV) |||
          flagIf (e.lodeReadsDead d [e.f.srca.toNat] [] || m.2) flagDEAD)) ∧
    (LodeRuns (.lshr f) s e [] d → m.1.toNat < d.n → ∃ t, exec (.lshr f) s = .next t ∧
      LodeResult e s t d (some (fun j =>
          if e.f.var.getLsbD 0 then (lodeSx d (a j) / (2 : Int) ^ m.1.toNat % (2 : Int) ^ d.n).toNat
          else a j / 2 ^ m.1.toNat)) 0 none
        (flagIf (e.lodeReadsDead d [e.f.srca.toNat] [] || m.2) flagDEAD)) ∧
    (∀ i ∈ [Instr.lshl f, .lshr f], LodeRuns i s e [] d → d.n ≤ m.1.toNat →
      exec i s = .next (settleRes e (.exc (e.dead (e.dead s (e.uni e.descNum).2) m.2) .ropnd))) ∧
    (LodeRuns (.lacc f) s e [] d →
      let term : Nat → Nat → Nat → Int × Flags := fun j l i =>
        laccTerm d.bias
          ((ffmt e.ty).decode (elemAt e.bits i (e.c.vAt e.f.srca.toNat (j * d.w + l)).read.1))
          ((ffmt e.ty).decode (elemAt e.bits i (e.c.vAt e.f.srcb.toNat (j * d.w + l)).read.1))
      let all : Nat → List (Int × Flags) := fun j =>
        (List.range d.w).flatMap (fun l => (List.range (64 / e.bits)).map (term j l))
      let x : Nat → Int := fun j => lodeSx d (e.c.lodeAt d e.dst j) + ((all j).map Prod.fst).sum
      ∃ t, exec (.lacc f) s = .next t ∧
        LodeResult e s t d (some (fun j => (x j % (2 : Int) ^ d.n).toNat)) 0 none
          (joinFlags (List.range d.q) (fun j =>
              ((all j).foldl (fun g y => g ||| y.2) 0) ||| flagIf (d.outside (x j)) flagLOV) |||
            flagIf (e.lodeReadsDead d [e.f.srca.toNat, e.f.srcb.toNat, e.dst] []) flagDEAD)) ∧
    (LodeRuns (.lround f) s e [e.dst] d →
      let r : Nat → Nat × Flags := fun j =>
        roundFin (ffmt e.ty) e.f.rnd.toNat e.f.sat noRBits (decide (lodeSx d (a j) < 0)) (lodeSx d (a j)).natAbs
          (-(d.bias : Int))
      ∃ t, exec (.lround f) s = .next t ∧
        LodeResult e s t d none e.dst (some (fun j => BitVec.ofNat 64 (r j).1))
          (joinFlags (List.range d.q) (fun j => (r j).2) |||
            flagIf (e.lodeReadsDead d [e.f.srca.toNat] []) flagDEAD))

/-- `lode.bind` binds the lanes of its descriptor, which then lie within the crew, and writes the descriptor; `lode.free`
ends the binding (R281, R283). -/
def Obligations.LodeBinding : Prop :=
  ∀ (f : Fields) (s : State) (e : Env), e.c.single = true →
    (Runs (.lodeBind f) s e →
      let b := e.read s.clock e.srcB 0
      let v := b.1.toNat
      bindBad e.c.lanes v = false → e.missingLane (BitVec.ofNat 1024 (2 ^ (descQ v * 2 ^ descWlog v) - 1)) = none →
      descQ v * 2 ^ descWlog v ≤ e.c.lanes ∧ ∃ t, exec (.lodeBind f) s = .next t ∧
        CrewBecomes e.id s t
          { (e.spent (e.dead s b.2)).writeS e.dst b.1 with lode := some (descWlog v, descQ v) }) ∧
    (Runs (.lodeFree f) s e → e.c.lode.isSome = true → e.missingLane e.c.lodeLanes = none →
      ∃ t, exec (.lodeFree f) s = .next t ∧ CrewBecomes e.id s t { e.c with lode := none }) ∧
    (Runs (.lodeFree f) s e → e.c.lode = none → exec (.lodeFree f) s = .next (settleRes e (.exc s .ropnd)))

/-! The machine's own events and the forms of the assayers. -/

/-- A clause header whose register has no waiting flag, with no interrupt to take, opens its clause at the next word
(R158 to R161); with a flag waited for its split stalls, and a pending interrupt goes to its handler first (R52, R194).
A Draining crew whose work has completed retires (R183). -/
def Obligations.ClauseHeadersAndRetirement : Prop :=
  (∀ (h : Header) (s : State) (id entry : Nat) (c : Crew) (x : Split),
    s.actor = .split id entry → s.crew id = some c → c.split entry = some x → checkWord (.clauseHeader h) = none →
    let interrupted : Bool := c.uintEn && c.uintPend && !c.uintRun
    let y : Split := { x with
      pc := x.pc + 8, state := .ready, age := if h.yld then s.clock else x.age,
      clause := some (headerClause h x.pc (x.pc + 4 * h.clen.toNat) true) }
    (interrupted = false → c.waits h.wait = false → exec (.clauseHeader h) s = .next (s.setCrew id
      ({ c with pts := if h.wait == 0 then c.pts else max c.pts c.engTs }.setSplit entry y))) ∧
    (interrupted = false → c.waits h.wait = true →
      exec (.clauseHeader h) s = .next (waitHere s id entry .stalled)) ∧
    (interrupted = true → c.kernel.scount ≠ 0 →
      let n := c.kernel.scount - 2
      let target := (c.sAt n).read
      isHeader s c target.1.toNat = true → exec (.clauseHeader h) s = .next
        ((findGranules s id entry c [(false, n, 0)]).modCrew id (fun d =>
          ((({ d with
            uintPend := false, uintRun := true, handler := some (entry, x.innermost), pts := max d.pts d.engTs }).orSticky
              (flagIf target.2 flagDEAD)).writeS (c.kernel.scount - 1) (BitVec.ofNat 64 x.pc)).setSplit entry
            { x with pc := target.1.toNat, clause := none, state := .ready })))) ∧
  ∀ (s : State) (id : Nat) (c : Crew), s.crew id = some c → c.state = .draining → crewBusy s id = false →
    exec (.drainEnd id) s = .next (retireCrew s id)

/-- What comes back to a crew or a slice: the reply of a message (R253), the check of a wait (R65, R66, R416), the data
of a load, an acknowledgement and an error (R63, R243, R365), the end of a walk (R94), of a refresh window (R110), an
advance of the program timestamp (R116) and a line that an assayer asked for (R309). -/
def Obligations.RepliesAndWaits : Prop :=
  (∀ (s : State) (n : Nat) (m : Amsg) (w : Word) (derr : Bool), tabGet s.amsgs n = some m → m.reply = some (w, derr) →
    let s1 := acceptMsg s (some n)
    let s2 := pokeUniform { s1 with amsgs := tabDel s1.amsgs n } m.crew m.dst w
    let s3 := if derr then orSticky s2 m.crew flagDERR else s2
    exec (.amsgReply n) s = .next (discharge (raiseEngTs s3 m.crew m.pts) m.crew m.flga)) ∧
  (∀ (s : State) (id entry : Nat) (c : Crew) (w : Wait), waitOf s id entry = some (c, w) →
    (w.inFlight = true → exec (.waitcReply id entry) s = .next (checkWait s id entry)) ∧
    (w.inFlight = false → w.recheck = true → w.checkedAt + 2500 ≤ s.clock →
      exec (.monitorRecheck id entry) s = .next (checkWait s id entry))) ∧
  (∀ (s : State) (l : Nat), exec (.monitorAudit l) s =
    .next ((s.slice l).monitors.foldl (fun s m =>
      if isHbm m.pa then evalMonitors (mergeLine s m.pa s.unitPts true) m.pa else checkWait s m.crew m.entry) s)) ∧
  (∀ (s : State) (n : Nat) (e : Machine.Ext), tabGet s.exts n = some e → isStockpile e.pa = false →
    (e.kind = .vload ∨ e.kind = .uload → ∀ bs bad,
      exec (.loadReturn n bs bad) s = .next (dropExt (deliverExt s e bs bad) n e)) ∧
    (e.kind.reads = false → exec (.writeAcknowledgement n) s = .next (dropExt s n e)) ∧
    (∀ reason, responds e reason = true → exec (.remoteErrorResponse n reason) s = .next (errorResponse s n reason e))) ∧
  (∀ (s : State) (die ctx : Nat) (va : Word) (write : Bool), die < 4 → (s.desc ctx).valid = true →
    (∀ f, walk s ctx va.toNat write = .error f →
      exec (.pageWalkDone die ctx va write) s = .next (noteFail s (askDie die) none 0 va.toNat f)) ∧
    (∀ e u, walk s ctx va.toNat write = .ok (e, u) → (write = true → e.w = true) →
      exec (.pageWalkDone die ctx va write) s =
        .next (noteXlate s (askDie die) ⟨va.toNat, e.pa + va.toNat % 2 ^ e.log, e, u⟩))) ∧
  (∀ (s : State) (die group : Nat), exec (.stockpileRefreshEnd die group) s = .next (refreshDone s die group)) ∧
  (∀ (s : State) (id : Nat) (c : Crew), s.crew id = some c → c.state = .resident → c.splits ≠ [] →
    exec (.programTimestampAdvance id) s = .next (s.setCrew id { c with pts := c.pts + 1 })) ∧
  ∀ (s : State) (line ctx cls va : Nat),
    s.slices.findSome? (fun x => (x.2.prefetch.find? (fun p => p.1 == line)).map Prod.snd) = some (ctx, cls, va) →
    let t := touchQuiet s (128 * line) ctx cls va
    exec (.lineFill line none) s = .next { t with slices := t.slices.map (fun x =>
      (x.1, { x.2 with prefetch := x.2.prefetch.filter (fun p => p.1 != line) })) }

/-- A kick lets the I/O core of a ring whose lines have woken it serve it (R65, R329), a held completion is written once there is room (R332), and each
command of Table 17-3 has its effect at the head of an open ring, and is completed with status 0 (R51, R70, R72, R95,
R109, R302, R303, R322, R330, R378). -/
def Obligations.RingCommands : Prop :=
  ∀ (s : State) (ring : Nat), (servedBy s ring).isSome = true →
    (ring < 64 → (s.binding ring).valid = true → (s.ring ring).woken = true →
      exec (.kick ring) s = .next (serveRing 256 (s.modRing ring (fun r => { r with woken := false })) ring)) ∧
    (∀ seq ctag status ty reason clock rest, (s.ring ring).held = (seq, ctag, status, ty, reason, clock) :: rest →
      completionRoom s ring = true →
      exec (.completionRecord ring) s =
        .next (putCompletion (s.modRing ring (fun r => { r with held := rest })) ring seq ctag status ty reason clock)) ∧
    ∀ seq p, (s.ring ring).command = some (seq, p) →
      (p % 256 = 0 → exec (.noOperation ring) s = .next (endCommand s ring seq p 0 0)) ∧
      (p % 256 ≠ 0 → typeBarred s ring (p % 256) = true → (s.ring ring).open_ = 1 →
        exec (.noOperation ring) s = .next (refusePacket s ring seq p)) ∧
      ((s.ring ring).open_ = 1 → typeBarred s ring (p % 256) = false → cmdStarted p = false → cmdRefused s p = none →
        let ctx := cmdCtx p
        let ended : State → Host.Outcome State Fault Refusal := fun t => .next (endCommand t ring seq p 0 0)
        (p % 256 = 2 → writesAwait s (sealKeys p) = false → exec (.seal ring) s = ended (dropStockLines { s with sealed := (sealKeys p).foldl setAdd s.sealed })) ∧
        (p % 256 = 3 → exec (.unseal ring) s = ended (dropStockLines { s with sealed := (sealKeys p).foldl setDel s.sealed })) ∧
        (p % 256 = 4 → (s.ctx ctx).preempt = .no → hasCrew s ctx = true →
          exec (.preempt ring) s = .next (startCommand (beginPreempt s ctx) ring seq p)) ∧
        (p % 256 = 4 → (s.ctx ctx).preempt = .no → hasCrew s ctx = false → exec (.preempt ring) s =
          ended (s.modCtx ctx (fun x => { x with preempt := .saved, preemptAt := s.clock }))) ∧
        (p % 256 = 5 → exec (.resume ring) s =
          .next (startCommand (s.modCtx ctx (fun x => { x with resume := true })) ring seq p)) ∧
        (p % 256 = 6 → exec (.invalidateTranslations ring) s = ended
          (retryParked (tlbInvalidate s ctx (cmdArg0 p) (cmdArg1 p)) ctx (cmdArg0 p) (cmdArg1 p))) ∧
        (p % 256 = 7 → (∀ l ∈ cmdSlices p, handlerOf s l ctx = false) →
          let pull := (cmdSlices p).foldl (fun (a : Bool × State) l =>
            let q := pullInstall a.2 l ctx (cmdArg0 p)
            (a.1 && q.1, q.2)) (true, s)
          let u := (cmdSlices p).foldl (fun s l => touchTable s l ctx (cmdArg0 p)) pull.2
          let v := (cmdSlices p).foldl (fun s l => installPulled s l ctx (cmdArg0 p)) u
          pull.1 = true → ∀ t, (∀ l ∈ cmdSlices p, readTable u l ctx (cmdArg0 p) = some t) →
          (∀ l ∈ cmdSlices p, (v.slice l).installs.length < 8 ∨ (installOf v l ctx).isSome = true) →
          exec (.installAssayers ring) s = ended ((cmdSlices p).foldl (fun s l => installOn s l ctx t) v)) ∧
        (p % 256 = 8 → exec (.removeAssayers ring) s = .next (removeStart ring seq p s)) ∧
        (p % 256 = 9 → ∀ id c0, heldCrew s ctx (cmdArg2 p) = some (id, c0) →
          let c := placeNamed s c0
          (s.ctx c.ctx).preempt = .no → c.stranded = false → fitsBack s id c = true → exec (.debugResume ring) s = ended (returnCrew s id)) ∧
        (p % 256 = 10 → ∀ l x, joinLaunch s p = some (l, x) → exec (.joinModuleGang ring) s =
          ended (s.modLaunch l (fun x => { x with
            gangs := tabPut x.gangs (cmdArg2 p) { gangState x (cmdArg2 p) with joined := joinList p } })))) ∧
      ((s.ring ring).open_ = 1 → typeBarred s ring (p % 256) = false → cmdStarted p = true →
        (p % 256 = 4 → (s.ctx (cmdCtx p)).preempt = .saved →
          exec (.preempt ring) s = .next (endCommand s ring seq p 0 0)) ∧
        (p % 256 = 5 → (s.ctx (cmdCtx p)).preempt = .no →
          exec (.resume ring) s = .next (endCommand s ring seq p 0 0)) ∧
        (p % 256 = 8 → (∀ l ∈ cmdSlices p, installOf s l (cmdCtx p) = none) →
          exec (.removeAssayers ring) s = .next (endCommand s ring seq p 0 0)))

/-- A launch packet is accepted when its checks pass and what it reads has come (R53, R325, R396), its crews are claimed by chiplets (R54, R55) and
placed, alone (R56, R57) or as a closure (R58); a wait for a warm core ends (R56), a reservation starts (R59), a bin
fires or stalls (R39, R398), and a crew is swapped out and in (R59, R67). -/
def Obligations.LaunchEvents : Prop :=
  (∀ (s : State) (ring seq p : Nat) (a : Accepted), (s.ring ring).launch = some (seq, p) →
    let ctx := (s.binding ring).ctx
    let die := acceptDie s ring
    let q := decodeLaunch p
    let pull := pullLaunch s die ctx p
    let s1 := writeHead (pull.2.modRing ring (fun r =>
      { r with launch := none, head := (seq + 1) % ringModulus, open_ := r.open_ + 1, woken := true })) ring
    let s2 := touchLaunch s1 die ctx p
    let s4 := launchPulled s2 die ctx p
    slotFor s ctx = true → (servedBy s ring).isSome = true → pull.1 = true → checkLaunch s2 die ctx p = .ok a →
    let s3 := match a.nodes with
      | some ns => s4.modCtx ctx (fun c => { c with nodes := ns, failed := [] })
      | none => s4
    let x : Launch :=
      { ring := ring, epoch := (s1.ring ring).epoch, seq := seq, ctx := ctx, ctag := q.ctag, die := die, prio := q.prio, place := q.place,
        diemask := if q.diemask == 0 then 15 else q.diemask, ncrew := q.ncrew, pblk := q.pblk, psize := q.psize,
        kernel := a.kernel, gtab := a.gtab, gangs := [], next := 0, early := [], retired := [], ended := 0,
        lastCore := [], done := false, headSince := s3.clock, claimed := (0, 0), reserve := [] }
    exec (.acceptLaunch ring) s = .next { s3.fresh.2 with launches := tabPut s3.fresh.2.launches s3.fresh.1 x }) ∧
  (∀ (s : State) (die count l : Nat) (x : Launch),
    (queuedOn s die).find? (fun e =>
      !e.2.nextInGang && e.2.claimTurn s die && !closureBars s die e.2.prio && hasRoom s die e.1 e.2) = some (l, x) → exec (.claimCrews die count) s = .next (claimSome count s l die)) ∧
  (∀ (s : State) (id : Nat) (c : Crew), s.crew id = some c → c.state = .pending → (s.ctx c.ctx).preempt = .no →
    (∀ core part, slotFor s c.ctx = true → mustYield s id c = false → placeFor s id c c.die = some (core, part) →
      exec (.placeCrew id) s = .next (placeAt s id core part)) ∧
    (c.claimedAt + 8192 ≤ s.clock → exec (.warmWaitExpire id) s = .next (s.setCrew id { c with warmDone := true })) ∧
    (c.claimedAt + 16384 ≤ s.clock → c.reserve = none →
      headOfLevel s c.die (effPrio s c) (c.launch.getD id) c.index id = true →
      exec (.reservationStart id) s = .next (s.setCrew id { c with reserve := reservation s id c })) ∧
    (∀ node die, c.bin = some (node, die) → c.stallNoted = false → c.claimedAt + 2 ^ 24 ≤ s.clock →
      exec (.binStallTimer id) s = .next (errRecord (s.setCrew id { c with stallNoted := true }) die
        (rec16 c.ctx 0 0 (0x32 + 256 * node) none none 0 (128 * die))))) ∧
  (∀ (s : State) (die : Nat) (t : State),
    (queuedOn s die).findSome? (fun e =>
      if e.2.nextInGang && !closureYields s die e.1 e.2 then placedClosure s die e.1 e.2 else none) = some t →
    exec (.placeClosure die) s = .next t) ∧
  (∀ (s : State) (ctx node die t : Nat) (nd : Node), (getBin s ctx node die).timer = some t →
    nodeOf s ctx node = some nd → t ≤ s.clock → (getBin s ctx node die).untaken ≠ 0 → (s.ctx ctx).preempt = .no →
    exec (.binTimerExpire ctx node die) s = .next (binLaunch s ctx node die nd)) ∧
  ∀ (s : State) (id : Nat) (c : Crew), s.crew id = some c → (s.ctx c.ctx).preempt = .no →
    (mayLeave s id c = true → lacksRoom s c.core (effPrio s c) = true → leavesFirst s id c = true →
      exec (.swapOut id) s = .next (swapOut s id)) ∧
    let d := placeNamed s c
    (d.state = .swappedOut → d.woken = true → d.stranded = false → (s.ctx d.ctx).preempt = .no → fitsBack s id d = true →
      reservedAgainst s id d d.core d.part = false → ∀ n, d.slot = some n → resetAtRestore s d n = none →
      exec (.swapIn id) s = .next (restoreFrom (makeRoom 64 s d.core id d.kernel) id d n))

/-- A context asked for pre-emption halts its crews (R50, R70), a core saves them (R50, R70, R280), and a resumed
context takes them back (R51); a save that waits 100 µs is recorded once (R399), a crew at its watchdog's budget ends
with a record for each split (R391, R392), and a context whose descriptor goes invalid is reset (R334, R400). -/
def Obligations.PreemptionEvents : Prop :=
  (∀ (s : State) (ctx : Nat),
    ((s.ctx ctx).preempt = .asked → exec (.crewHalt ctx) s = .next (haltCrews s ctx)) ∧
    (∀ core, exec (.crewSave core ctx) s = .next (saveCore s core ctx)) ∧
    ((s.ctx ctx).preempt = .saved → (s.ctx ctx).resume = true →
      exec (.crewRestore ctx) s = .next (restoreContext s ctx)) ∧
    ((s.desc ctx).valid = true → exec (.contextInvalidate ctx) s = .next
      (let t := if (s.ctx ctx).active then resetContext s ctx 0x51 else s
       { t with descs := tabPut t.descs ctx { t.desc ctx with valid := false } }))) ∧
  ∀ (s : State) (id : Nat) (c : Crew), s.crew id = some c →
    (c.state = .halted → (s.ctx c.ctx).preempt = .halted → awaitsLoads s id = true →
      (s.ctx c.ctx).preemptAt + 125000 ≤ s.clock → (s.ctx c.ctx).reported.contains id = false →
      exec (.saveDelayTimer id) s = .next (errRecord
        (s.modCtx c.ctx (fun x => { x with reported := setAdd x.reported id })) (dieOfCore c.core)
        (rec16 c.ctx c.index 0 0x41
          (awaitedVa (s.modCtx c.ctx (fun x => { x with reported := setAdd x.reported id })) id) c.slot 0 c.core))) ∧
    (c.state = .resident → c.stranded = false → budgetOf s c ≤ c.wdogCount →
      exec (.crewWatchdogExpire id) s = .next (endCrew (c.splits.foldl (fun t e =>
        errRecord t (dieOfCore c.core) (crewRec c 13 0
          (wdogInfo c.splits.length (wouldBreak s c) ((s.core c.core).holder == some id) e.1 e.2.mask) none
          (some e.2.pc) e.1)) s) id))

/-- What reaches the module from outside: registers of the housekeeping range (R326, R341), the power controller (R17),
the supervisor's stores (R337), power and attestation (R342, R343), host, I/O device, peer and application-core accesses
(R325, R335, R441, R448), and the eviction of a managed copy (R121). -/
def Obligations.OutsideEvents : Prop :=
  (∀ (s : State) (island ceil : Nat), s.boot.step = 6 → island < 1024 → ceil ≤ 13 →
    exec (.islandCeilingWrite island ceil) s = .next { s with islands := tabPut s.islands island { s.island island with
      ceil := ceil, step := if isCoreIsland island then (s.island island).step else ceil } }) ∧
  (∀ (s : State) (v : Word), s.boot.step = 6 →
    exec (.housekeepingWrite houseBase v) s = .next { s with hstn := BitVec.ofNat 32 v.toNat } ∧
    exec (.housekeepingWrite (houseBase + 8) v) s = .next { s with mymod := BitVec.ofNat 16 v.toNat } ∧
    (∀ r, r < 64 → exec (.housekeepingWrite (houseBase + 0x2000 + 8 * r) v) s =
      .next (writeBinding s r v.toNat)) ∧
    (∀ ctx q, ctx < 4096 → q < 8 → exec (.housekeepingWrite (houseBase + 0x100000 + 64 * ctx + 8 * q) v) s =
      .next (writeDesc s ctx q v))) ∧
  (∀ (s : State) (die : Nat) (duties : List (Nat × Nat × Nat)), powerDue s die = true →
    exec (.powerEvaluation die duties) s = .next (evaluatePower (dutiesOf s die duties).2 die (dutiesOf s die duties).1)) ∧
  (∀ (s : State) (ctx index : Nat) (debug : Bool) (reply : Word), queueHolds s ctx debug index = true →
    let rec_ := rawNat s (queueBase s ctx debug + 32 * (index % 128)) 32
    exec (.supervisorTake ctx debug index) s = .next (storeState s ctx debug index 1) ∧
    (bitsOf rec_ 35 32 ≠ 0 → exec (.supervisorDone ctx debug index reply) s =
      .next (storeState s ctx debug index 2)) ∧
    (bitsOf rec_ 35 32 = 0 → ∀ x, translate s (askDie 0) ctx (bitsOf rec_ 191 128) needW = .ok x →
      exec (.supervisorDone ctx debug index reply) s = .next (storeState
        (byAppCore (noteWalk s x.upd) (s.desc ctx).svchart (fun s => unitWrite s x.pa (wordBytes reply))) ctx debug index 2))) ∧
  (∀ (s : State) (boot : BootInput), s.powered = false → exec (.powerUp boot) s = .next (bootState s boot)) ∧
  (∀ (s : State) (ctx : Nat) (nonce : List Byte), exec .powerLoss s = .next (unpowered s) ∧
    (s.powered = true → s.boot.step = 6 → s.keyOk = true → nonce.length = 64 →
      exec (.attestationRequest ctx nonce) s = .next { s with reports := s.reports ++ [attestation s ctx nonce] }) ∧
    (s.powered = false ∨ s.boot.step ≠ 6 ∨ s.keyOk = false ∨ nonce.length ≠ 64 →
      ∃ r, r.accepted = false ∧
        exec (.attestationRequest ctx nonce) s = .next { s with reports := s.reports ++ [r] })) ∧
  (∀ (s : State) (port addr n : Nat) (bs : List Byte), port < 4 → s.cxlDown.contains port = false → 5 ≤ s.boot.step →
    exec (.hostAccess port addr (.load n)) s = .next ((stationOuter port).access s addr (.load n) true) ∧
    exec (.hostAccess port addr (.store bs)) s = .next ((stationOuter port).access s addr (.store bs) true) ∧
    (allHbm addr n = true →
      exec (.hostAccess port addr (.ioLoad n)) s = .next ((stationOuter port).access s addr (.load n) false)) ∧
    (bs ≠ [] → allHbm addr bs.length = true → exec (.ioDeviceWrite port addr bs) s =
      .next ((lineParts addr bs.length).foldl (fun s g =>
        if meetsFence s g.1 g.2 then errCount s (stationOuter port).die 5
        else if privateAt s g.1 g.2 then (stationOuter port).refuse s g.1 1
        else (stationOuter port).storeHbm s g.1 ((bs.drop (g.1 - addr)).take g.2)) s))) ∧
  (∀ (s : State) (adit source number addr n : Nat), adit < 16 → s.aditsDown.contains adit = false → 4 ≤ s.boot.step →
    (∀ d, (keptReplies s).find? (fun d => d.source == source && d.number == number) = some d →
      ∀ op, exec (.peerRequest ⟨adit, source⟩ number addr op) s = .next { s with reply := d.reply }) ∧
    ((keptReplies s).find? (fun d => d.source == source && d.number == number) = none → isStockpile addr = false →
      exec (.peerRequest ⟨adit, source⟩ number addr (.load n)) s =
        .next (noteReply ((aditOuter adit).access s addr (.load n) false) source number))) ∧
  (∀ (s : State) (core line : Nat) (c : Copy), core < 512 → tabGet (s.core core).copies line = some c →
    exec (.managedCopyEviction core line) s = .next
      ((if c.managed then writeBackCopy s core line else s).modCore core
        (fun x => { x with copies := tabDel x.copies line }))) ∧
  (∀ (s : State) (n line : Nat), n < 16 → exec (.managedCopyEviction (512 + n) line) s =
    .next (dropOuter (cleanOuter s n (128 * line)) n (128 * line))) ∧
  ∀ (s : State) (n addr k : Nat) (bs : List Byte),
    (appRuns s n .machine = true → isHbm addr = true →
      exec (.applicationCoreAccess ⟨n, .machine⟩ addr (.load k)) s =
        .next ((appOuter n).access s addr (.load k) false none) ∧
      exec (.applicationCoreAccess ⟨n, .machine⟩ addr (.store bs)) s =
        .next ((appOuter n).access s addr (.store bs) false none) ∧
      (allHbm addr k = true → privateAt s addr k = false →
        exec (.applicationCoreAccess ⟨n, .machine⟩ addr (.managedLoad k)) s = .next (outerLoad s n addr k none)) ∧
      (allHbm addr bs.length = true → privateAt s addr bs.length = false →
        exec (.applicationCoreAccess ⟨n, .machine⟩ addr (.managedStore bs)) s = .next (outerStore s n addr bs none)) ∧
      exec (.applicationCoreAccess ⟨n, .machine⟩ addr .clean) s = .next (cleanOuter s n addr) ∧
      exec (.applicationCoreAccess ⟨n, .machine⟩ addr .flush) s = .next (dropOuter (cleanOuter s n addr) n addr)) ∧
    (∀ ctx user op, appRuns s n (.guest ctx user) = true → op ≠ .bootStatus → exec (.applicationCoreAccess ⟨n, .guest ctx user⟩ addr op) s =
      .next (guestAccess s n ctx user addr op)) ∧
    (appRuns s n .hypervisor = true → isHouse addr = true → ∀ op, op ≠ .bootStatus → exec (.applicationCoreAccess ⟨n, .hypervisor⟩ addr op) s =
      .next (outerHouse s n addr op))

/-- Parts that fail: a router with its cores and slice (R415, R436), a link between chiplets, an adit port, a CXL port,
an I/O core (R437, R441, R445, R446), requests sent again or answered with an error (R364, R404, R438, R441), what the
scrubs of the stockpile and of HBM find (R110, R368, R409, R410), and a register's granule that is lost (R364, R366). -/
def Obligations.FailureEvents : Prop :=
  (∀ (s : State) (r : Nat), r < 256 → s.routersDown.contains r = false →
    exec (.routerFail r) s = .next (errRecord (harvestRouters s [r]) (r / 64)
      (unitOut 8 2 r (atBit 16 ((substituteFor (harvestRouters s [r]) r).getD 0xFF))))) ∧
  (∀ (s : State) (r : Nat), r < 256 → exec (.meshResend r) s = .next (errCount s (r / 64) 6)) ∧
  (∀ (s : State) (link : Nat), link < 4 → s.linksDown.contains link = false →
    let t := errRecord { s with linksDown := setAdd s.linksDown link } (linkDie link) (unitOut 7 5 link 0)
    (∀ d, d < 4 → (linksOf d).contains link = true → ∃ k ∈ linksOf d, t.linksDown.contains k = false) →
    exec (.ucieLinkDown link) s = .next t) ∧
  (∀ (s : State) (n : Nat) (e : Machine.Ext), tabGet s.exts n = some e →
    (isPeer e.pa = true → e.sentAt + 25000 * e.sends ≤ s.clock →
      (e.sends < 8 →
        exec (.aditResend n) s = .next (errCount { s with exts := tabPut s.exts n { e with sends := e.sends + 1 } }
          (s.window (windowOf e.pa)).die 9)) ∧
      (8 ≤ e.sends → exec (.aditResend n) s = .next (errorResponse s n 4 e))) ∧
    (isHost e.pa = true → e.kind.reads = true → e.sentAt + 62500000 ≤ s.clock →
      exec (.cxlCompletionTimeout n) s = .next (errorResponse s n 3 e))) ∧
  (∀ (s : State) (port : Nat),
    (port < 16 → s.aditsDown.contains port = false → exec (.aditPortDown port) s =
      .next (errRecord { s with aditsDown := setAdd s.aditsDown port } (port / 4) (unitOut 9 6 port 0))) ∧
    (port < 4 → exec (.cxlPortDown port) s = .next { s with cxlDown := setAdd s.cxlDown port }) ∧
    (cutOff s port = false → exec (.cxlPortUp port) s = .next { s with cxlDown := setDel s.cxlDown port }) ∧
    (port < 64 → s.ioDown.contains port = false →
      let woken := s.rings.map (fun r => if servedBy s r.1 = some port then (r.1, { r.2 with woken := true }) else r)
      exec (.ioCoreFail port) s =
        .next (errRecord { s with ioDown := setAdd s.ioDown port, rings := woken } (port / 16) (unitOut 17 9 port 0)))) ∧
  (∀ (s : State) (die group a : Nat), die < 4 → group < 32 →
    let base := 0x10000000000 + die * 0x100000000 + group * 0x8000000
    refreshing s base = true → base ≤ a → a < base + 0x8000000 → s.poison.contains (a / 32) = false →
    exec (.stockpileScrub die group [(a, false)]) s = .next (errCount s die 4) ∧
    exec (.stockpileScrub die group [(a, true)]) s = .next (scrubFound s die 4 4 (32 * die + group) a)) ∧
  (∀ (s : State) (id n : Nat) (c : Crew), s.powered = true → locksOf s = [] → s.crew id = some c → c.onCore = true →
    n < c.kernel.scount →
    step (s.asked (.hw (.sreg id n))) = .next (settleTurn s (s.setCrew id (c.setS n (.bad true))) (.hw (.sreg id n)))) ∧
  ∀ (s : State) (a : Nat), isHbm a = true → s.poison.contains (a / 32) = false →
    s.fencedPc.contains (pseudoChannel a) = false →
    exec (.hbmPatrolScrub [(a, false)]) s = .next (errCount s (ownerDie a) 5) ∧
    exec (.hbmPatrolScrub [(a, true)]) s = .next
      (noteHit (scrubFound s (ownerDie a) 5 3 (pseudoChannel a) a) (ownerDie a) (pseudoChannel a))

/-- The forms of the assayers (R307 to R313): each acts for the handler that runs on its slice, with the cycles that it
is charged; a load or an exchange beyond the module sends its request and stalls the handler (R325); a breach of their
rules ends its event with a record (R434), and so does a refused access (R404); the event of a handler ends with `as.done`
or with its budget (R304, R432), and an idle assayer takes the next one (R304). -/
def Obligations.HandlerForms : Prop :=
  (∀ (s : State) (l : Nat), exec (.handlerDispatch l) s = .next (dispatch s l)) ∧
  ∀ (s : State) (l : Nat) (h : Handler) (i : Install), (s.slice l).handler = some h →
    let g : Handler := { h with away := [] }
    (512 ≤ h.cycles → exec (.handlerBudgetExpire l) s = .next (budgetEnd s l h)) ∧
    (s.actor = .handler l → installOf s l h.ctx = some i →
      (∀ rd rs1 rs2 rs3 w,
        (asTarget s l h.ctx (h.x rs1).toNat needR = .error w → exec (.asLd rd rs1) s = .next (breach s l h w) ∧
          exec (.asWake rs1) s = .next (breach s l h w)) ∧
        (asTarget s l h.ctx (h.x rs1).toNat needW = .error w → exec (.asSt rs1 rs2) s = .next (breach s l h w)) ∧
        (asTarget s l h.ctx (h.x rs1).toNat needRW = .error w →
          exec (.asCas rd rs1 rs2 rs3) s = .next (breach s l h w)) ∧
        ((h.x rs2).toNat = 0 ∨ 32 < (h.x rs2).toNat →
          exec (.asPf rs1 rs2) s = .next (breach s l h (AsFail.at_ 11 (h.x rs1).toNat)))) ∧
      (∀ rd rs1 rs2 rs3 x, asTarget s l h.ctx (h.x rs1).toNat needRW = .ok x → h.late = false → asWriteBad s x ≠ none →
        exec (.asCas rd rs1 rs2 rs3) s = .next (refuseHandler
          (unconsumed (noteXlate s (askSlice l) x) x.pa 8 (asFinder x.va)) l h x.va x.pa ((asWriteBad s x).getD 0))) ∧
      (∀ rs1 rs2 x, asTarget s l h.ctx (h.x rs1).toNat needW = .ok x → h.late = false → asWriteBad s x ≠ none →
        exec (.asSt rs1 rs2) s = .next (refuseHandler (noteXlate s (askSlice l) x) l h x.va x.pa
          ((asWriteBad s x).getD 0))) ∧
      (∀ rd rs1 x, asTarget s l h.ctx (h.x rs1).toNat needR = .ok x → h.late = false → isHbm x.pa = false →
        deadTarget (noteXlate s (askSlice l) x) x.pa = none →
        let u := noteXlate s (askSlice l) x
        (∀ w bs bad, h.away.find? (fun w => w.pa == x.pa && w.size == 8) = some w → w.reason = 0 →
          w.data = some (bs, bad) → exec (.asLd rd rs1) s = .next (chargeHandler
            (countPoisonRead (u.caughtIf bad) (dieOfSlice l) bad) l g (rvSet h.regs rd.toNat (leWord bs)) 4)) ∧
        (h.away.find? (fun w => w.pa == x.pa && w.size == 8) = none → exec (.asLd rd rs1) s = .next (chargeHandler
          (sendExt u (otherExt u .handler l h.ctx x.va x.pa 8 [])) l
          { h with pc := h.lastPc, away := h.away ++ [⟨x.pa, 8, none, 0⟩] } h.regs 1))) ∧
      (∀ rd rs1 x, asTarget s l h.ctx (h.x rs1).toNat needR = .ok x → h.late = false → isHbm x.pa = true →
        let s1 := asMode (touchQuiet (noteXlate s (askSlice l) x) x.pa h.ctx x.e.aclass x.va) x.pa x.e.cmode
        let s2 := detect s1 x.pa 8 (asFinder x.va)
        let q := ownerLoad s2 (handlerPts s1 l h.ctx) x.pa 8 none
        let u := homeRead s2 x.pa 8 none
        (x.e.cmode = 0 → exec (.asLd rd rs1) s = .next (chargeHandler
          (countPoisonRead (raiseAs q.2.2.2 l h.ctx q.2.1) (dieOfSlice l) q.1.2) l g
          (rvSet h.regs rd.toNat (leWord q.1.1)) 4)) ∧
        (x.e.cmode ≠ 0 → exec (.asLd rd rs1) s = .next (chargeHandler
          (countPoisonRead (raiseAs u.2 l h.ctx (lineOf u.2 x.pa).wts) (dieOfSlice l) u.1.2) l g
          (rvSet h.regs rd.toNat (leWord u.1.1)) 4))) ∧
      (∀ rs1 rs2 x, asTarget s l h.ctx (h.x rs1).toNat needW = .ok x → h.late = false → asWriteBad s x = none →
        isHbm x.pa = true →
        let s1 := asMode (touchQuiet (noteXlate s (askSlice l) x) x.pa h.ctx x.e.aclass x.va) x.pa x.e.cmode
        let q := ownerStore s1 (handlerPts s1 l h.ctx) x.pa (wordBytes (h.x rs2)) none
        exec (.asSt rs1 rs2) s =
          .next (chargeHandler (raiseAs (clearCovered q.2 [(x.pa, 8)]) l h.ctx q.1) l g h.regs 4)) ∧
      (∀ rd rs1 rs2 rs3 x, asTarget s l h.ctx (h.x rs1).toNat needRW = .ok x → h.late = false →
        asWriteBad s x = none → isHbm x.pa = true →
        let s1 := asMode (touchQuiet (noteXlate s (askSlice l) x) x.pa h.ctx x.e.aclass x.va) x.pa x.e.cmode
        let q := ownerAtomic (detect s1 x.pa 8 (asFinder x.va)) (handlerPts s1 l h.ctx) x.pa 8
          (fun old => if old == (h.x rs2).toNat then some (h.x rs3).toNat else none) none
        exec (.asCas rd rs1 rs2 rs3) s = .next (chargeHandler
          (countPoisonRead (raiseAs q.2.2 l h.ctx q.2.1) (dieOfSlice l) q.1.2) l g
          (rvSet h.regs rd.toNat (BitVec.ofNat 64 q.1.1)) 4)) ∧
      (∀ rs1 rs2, 1 ≤ (h.x rs2).toNat → (h.x rs2).toNat ≤ 32 →
        let pages := prefetchPages s l h.ctx (h.x rs1).toNat (h.x rs2).toNat
        let xs := pages.filter (fun x => !leftAlone s l x)
        (∀ x, pages.find? (prefetchBreach s l) = some x → exec (.asPf rs1 rs2) s =
          .next (breach s l h ⟨8, some x.va, some x.pa, some (xfail .rperm x.upd)⟩)) ∧
        ((∀ x ∈ pages, prefetchBreach s l x = false) → 128 < (s.slice l).prefetch.length + xs.length →
          exec (.asPf rs1 rs2) s = .next (chargeHandler s l { h with pc := h.lastPc } h.regs 1)) ∧
        ((∀ x ∈ pages, prefetchBreach s l x = false) → (s.slice l).prefetch.length + xs.length ≤ 128 →
        exec (.asPf rs1 rs2) s = .next (chargeHandler
          ((pages.foldl (fun s x => noteXlate s (askSlice l) x)
            (prefetchSkipped s l h.ctx (h.x rs1).toNat (h.x rs2).toNat)).modSlice l (fun y => { y with
              prefetch := y.prefetch ++ xs.map (fun x => (x.pa / 128, (h.ctx, x.e.aclass, x.va))) })) l g h.regs 2))) ∧
      (∀ rs1 x, asTarget s l h.ctx (h.x rs1).toNat needR = .ok x → isHbm x.pa = true →
        exec (.asWake rs1) s =
          .next (chargeHandler (evalMonitors (noteXlate s (askSlice l) x) x.pa) l g h.regs 2)) ∧
      (∀ rd rs1, (h.ev.kind = 3 → h.replied = false → exec (.asMsg rd rs1) s = .next
          (chargeHandler (replyTo s h.ev.request (h.x rs1) false (handlerPts s l h.ctx)) l { g with replied := true }
            (rvSet h.regs rd.toNat 1) 2)) ∧
        (h.ev.kind ≠ 3 ∨ h.replied = true →
          exec (.asMsg rd rs1) s = .next (chargeHandler s l g (rvSet h.regs rd.toNat 0) 2))) ∧
      (∀ rd rs1, (∀ f, asLook s l h.ctx (h.x rs1).toNat false = .error f → exec (.asTlb rd rs1) s = .next (chargeHandler
          (noteFail s (askSlice l) none 0 (h.x rs1).toNat f) l g (rvSet h.regs rd.toNat 0) 2)) ∧
        (∀ e u, asLook s l h.ctx (h.x rs1).toNat false = .ok (e, u) → exec (.asTlb rd rs1) s = .next (chargeHandler
          (noteXlate s (askSlice l) ⟨(h.x rs1).toNat, e.pa + (h.x rs1).toNat % 2 ^ e.log, e, u⟩) l g
          (rvSet h.regs rd.toNat (BitVec.ofNat 64 (asTlbValue s l e (h.x rs1).toNat))) 2))) ∧
      (∀ rd, exec (.asLeft rd) s =
        .next (chargeHandler s l g (rvSet h.regs rd.toNat (BitVec.ofNat 64 (512 - h.cycles))) 1)) ∧
      exec .asDone s = .next (endHandler (modInstall s l h.ctx (fun i => { i with used := i.used + 1 })) l h false) ∧
      (∀ rd e rest a, i.queue = e :: rest → i.entryOf e = some a → a = h.entry → i.removing = false →
        i.used + 2 < i.share * 512 →
        let s1 := modInstall s l h.ctx (fun i => { i with used := i.used + 2 })
        let more := BitVec.ofNat 64 (min (rest.countP (fun o => i.entryOf o == some a)) 255)
        exec (.asEvt rd) s = .next ((takeEvent (endEvent s1 l h false) l h.ctx a e h.regs h.pc).modSlice l
          (fun x => { x with handler := x.handler.map (fun g => { g with regs := rvSet g.regs rd.toNat more }) }))) ∧
      ∀ rd, i.queue = [] ∨ i.share * 512 ≤ i.used + 2 → exec (.asEvt rd) s =
        .next (endHandler (modInstall s l h.ctx (fun i => { i with used := i.used + 2 })) l h false))
end

