-- ==== Sys2Proof/Laws/State.lean ====
section
/-! SUPPORT. What each named update of a state leaves of every field: one lemma per field and update, so that no later
proof unfolds a record update. Where an update changes a field, the lemma says to what. -/

namespace Sys2Proof.Machine

/-! Tables. -/

@[simp] theorem tabGet_tabPut_same {α : Type} (t : Tab α) (k : Nat) (a : α) : tabGet (tabPut t k a) k = some a := by
  induction t with
  | nil => simp [tabPut, tabGet]
  | cons e r ih =>
    simp only [tabPut]
    split
    · simp [tabGet]
    · split
      · simp [tabGet]
      · rename_i h
        have : (e.1 == k) = false := by
          rw [beq_eq_false_iff_ne]
          intro he
          simp [he] at h
        simp [tabGet, this, ih]

theorem tabGet_tabPut_ne {α : Type} (t : Tab α) (k j : Nat) (a : α) (h : j ≠ k) :
    tabGet (tabPut t k a) j = tabGet t j := by
  have hk : (k == j) = false := by rw [beq_eq_false_iff_ne]; exact fun e => h e.symm
  induction t with
  | nil => simp [tabPut, tabGet, hk]
  | cons e r ih =>
    simp only [tabPut]
    split
    · simp [tabGet, hk]
    · split
      · rename_i h2
        have he : k = e.1 := by simpa using h2
        subst he
        simp [tabGet, hk]
      · simp [tabGet, ih]

/-! `setCore` -/

@[simp] theorem setCore_clock (s : State) (c : Nat) (x : Core) : (s.setCore c x).clock = s.clock := rfl
@[simp] theorem setCore_mem (s : State) (c : Nat) (x : Core) : (s.setCore c x).mem = s.mem := rfl
@[simp] theorem setCore_poison (s : State) (c : Nat) (x : Core) : (s.setCore c x).poison = s.poison := rfl
@[simp] theorem setCore_latent (s : State) (c : Nat) (x : Core) : (s.setCore c x).latent = s.latent := rfl
@[simp] theorem setCore_finds (s : State) (c : Nat) (x : Core) : (s.setCore c x).finds = s.finds := rfl
@[simp] theorem setCore_caught (s : State) (c : Nat) (x : Core) : (s.setCore c x).caught = s.caught := rfl
@[simp] theorem setCore_counts (s : State) (c : Nat) (x : Core) : (s.setCore c x).counts = s.counts := rfl
@[simp] theorem setCore_errs (s : State) (c : Nat) (x : Core) : (s.setCore c x).errs = s.errs := rfl
@[simp] theorem setCore_lines (s : State) (c : Nat) (x : Core) : (s.setCore c x).lines = s.lines := rfl
@[simp] theorem setCore_sealed (s : State) (c : Nat) (x : Core) : (s.setCore c x).sealed = s.sealed := rfl
@[simp] theorem setCore_hstn (s : State) (c : Nat) (x : Core) : (s.setCore c x).hstn = s.hstn := rfl
@[simp] theorem setCore_mymod (s : State) (c : Nat) (x : Core) : (s.setCore c x).mymod = s.mymod := rfl
@[simp] theorem setCore_windows (s : State) (c : Nat) (x : Core) : (s.setCore c x).windows = s.windows := rfl
@[simp] theorem setCore_bindings (s : State) (c : Nat) (x : Core) : (s.setCore c x).bindings = s.bindings := rfl
@[simp] theorem setCore_descs (s : State) (c : Nat) (x : Core) : (s.setCore c x).descs = s.descs := rfl
@[simp] theorem setCore_islands (s : State) (c : Nat) (x : Core) : (s.setCore c x).islands = s.islands := rfl
@[simp] theorem setCore_evals (s : State) (c : Nat) (x : Core) : (s.setCore c x).evals = s.evals := rfl
@[simp] theorem setCore_tlb (s : State) (c : Nat) (x : Core) : (s.setCore c x).tlb = s.tlb := rfl
@[simp] theorem setCore_cores (s : State) (c : Nat) (x : Core) : (s.setCore c x).cores = tabPut s.cores c x := rfl
@[simp] theorem setCore_slices (s : State) (c : Nat) (x : Core) : (s.setCore c x).slices = s.slices := rfl
@[simp] theorem setCore_crews (s : State) (c : Nat) (x : Core) : (s.setCore c x).crews = s.crews := rfl
@[simp] theorem setCore_ctxs (s : State) (c : Nat) (x : Core) : (s.setCore c x).ctxs = s.ctxs := rfl
@[simp] theorem setCore_launches (s : State) (c : Nat) (x : Core) : (s.setCore c x).launches = s.launches := rfl
@[simp] theorem setCore_rings (s : State) (c : Nat) (x : Core) : (s.setCore c x).rings = s.rings := rfl
@[simp] theorem setCore_exts (s : State) (c : Nat) (x : Core) : (s.setCore c x).exts = s.exts := rfl
@[simp] theorem setCore_amsgs (s : State) (c : Nat) (x : Core) : (s.setCore c x).amsgs = s.amsgs := rfl
@[simp] theorem setCore_routersDown (s : State) (c : Nat) (x : Core) : (s.setCore c x).routersDown = s.routersDown := rfl
@[simp] theorem setCore_coresDown (s : State) (c : Nat) (x : Core) : (s.setCore c x).coresDown = s.coresDown := rfl
@[simp] theorem setCore_linksDown (s : State) (c : Nat) (x : Core) : (s.setCore c x).linksDown = s.linksDown := rfl
@[simp] theorem setCore_aditsDown (s : State) (c : Nat) (x : Core) : (s.setCore c x).aditsDown = s.aditsDown := rfl
@[simp] theorem setCore_cxlDown (s : State) (c : Nat) (x : Core) : (s.setCore c x).cxlDown = s.cxlDown := rfl
@[simp] theorem setCore_ioDown (s : State) (c : Nat) (x : Core) : (s.setCore c x).ioDown = s.ioDown := rfl
@[simp] theorem setCore_fencedPc (s : State) (c : Nat) (x : Core) : (s.setCore c x).fencedPc = s.fencedPc := rfl
@[simp] theorem setCore_fencedGroups (s : State) (c : Nat) (x : Core) : (s.setCore c x).fencedGroups = s.fencedGroups := rfl
@[simp] theorem setCore_pcHits (s : State) (c : Nat) (x : Core) : (s.setCore c x).pcHits = s.pcHits := rfl
@[simp] theorem setCore_peerDone (s : State) (c : Nat) (x : Core) : (s.setCore c x).peerDone = s.peerDone := rfl
@[simp] theorem setCore_powered (s : State) (c : Nat) (x : Core) : (s.setCore c x).powered = s.powered := rfl
@[simp] theorem setCore_boot (s : State) (c : Nat) (x : Core) : (s.setCore c x).boot = s.boot := rfl
@[simp] theorem setCore_booting (s : State) (c : Nat) (x : Core) : (s.setCore c x).booting = s.booting := rfl
@[simp] theorem setCore_keyOk (s : State) (c : Nat) (x : Core) : (s.setCore c x).keyOk = s.keyOk := rfl
@[simp] theorem setCore_measured (s : State) (c : Nat) (x : Core) : (s.setCore c x).measured = s.measured := rfl
@[simp] theorem setCore_attest (s : State) (c : Nat) (x : Core) : (s.setCore c x).attest = s.attest := rfl
@[simp] theorem setCore_reports (s : State) (c : Nat) (x : Core) : (s.setCore c x).reports = s.reports := rfl
@[simp] theorem setCore_gmEvents (s : State) (c : Nat) (x : Core) : (s.setCore c x).gmEvents = s.gmEvents := rfl
@[simp] theorem setCore_irqs (s : State) (c : Nat) (x : Core) : (s.setCore c x).irqs = s.irqs := rfl
@[simp] theorem setCore_unitPts (s : State) (c : Nat) (x : Core) : (s.setCore c x).unitPts = s.unitPts := rfl
@[simp] theorem setCore_outerPts (s : State) (c : Nat) (x : Core) : (s.setCore c x).outerPts = s.outerPts := rfl
@[simp] theorem setCore_outerCopies (s : State) (c : Nat) (x : Core) : (s.setCore c x).outerCopies = s.outerCopies := rfl
@[simp] theorem setCore_away (s : State) (c : Nat) (x : Core) : (s.setCore c x).away = s.away := rfl
@[simp] theorem setCore_reply (s : State) (c : Nat) (x : Core) : (s.setCore c x).reply = s.reply := rfl
@[simp] theorem setCore_agenda (s : State) (c : Nat) (x : Core) : (s.setCore c x).agenda = s.agenda := rfl
@[simp] theorem setCore_held (s : State) (c : Nat) (x : Core) : (s.setCore c x).held = s.held := rfl
@[simp] theorem setCore_actor (s : State) (c : Nat) (x : Core) : (s.setCore c x).actor = s.actor := rfl
@[simp] theorem setCore_free (s : State) (c : Nat) (x : Core) : (s.setCore c x).free = s.free := rfl
@[simp] theorem setCore_nextId (s : State) (c : Nat) (x : Core) : (s.setCore c x).nextId = s.nextId := rfl

/-! `setSlice` -/

@[simp] theorem setSlice_clock (s : State) (c : Nat) (x : Slice) : (s.setSlice c x).clock = s.clock := rfl
@[simp] theorem setSlice_mem (s : State) (c : Nat) (x : Slice) : (s.setSlice c x).mem = s.mem := rfl
@[simp] theorem setSlice_poison (s : State) (c : Nat) (x : Slice) : (s.setSlice c x).poison = s.poison := rfl
@[simp] theorem setSlice_latent (s : State) (c : Nat) (x : Slice) : (s.setSlice c x).latent = s.latent := rfl
@[simp] theorem setSlice_finds (s : State) (c : Nat) (x : Slice) : (s.setSlice c x).finds = s.finds := rfl
@[simp] theorem setSlice_caught (s : State) (c : Nat) (x : Slice) : (s.setSlice c x).caught = s.caught := rfl
@[simp] theorem setSlice_counts (s : State) (c : Nat) (x : Slice) : (s.setSlice c x).counts = s.counts := rfl
@[simp] theorem setSlice_errs (s : State) (c : Nat) (x : Slice) : (s.setSlice c x).errs = s.errs := rfl
@[simp] theorem setSlice_lines (s : State) (c : Nat) (x : Slice) : (s.setSlice c x).lines = s.lines := rfl
@[simp] theorem setSlice_sealed (s : State) (c : Nat) (x : Slice) : (s.setSlice c x).sealed = s.sealed := rfl
@[simp] theorem setSlice_hstn (s : State) (c : Nat) (x : Slice) : (s.setSlice c x).hstn = s.hstn := rfl
@[simp] theorem setSlice_mymod (s : State) (c : Nat) (x : Slice) : (s.setSlice c x).mymod = s.mymod := rfl
@[simp] theorem setSlice_windows (s : State) (c : Nat) (x : Slice) : (s.setSlice c x).windows = s.windows := rfl
@[simp] theorem setSlice_bindings (s : State) (c : Nat) (x : Slice) : (s.setSlice c x).bindings = s.bindings := rfl
@[simp] theorem setSlice_descs (s : State) (c : Nat) (x : Slice) : (s.setSlice c x).descs = s.descs := rfl
@[simp] theorem setSlice_islands (s : State) (c : Nat) (x : Slice) : (s.setSlice c x).islands = s.islands := rfl
@[simp] theorem setSlice_evals (s : State) (c : Nat) (x : Slice) : (s.setSlice c x).evals = s.evals := rfl
@[simp] theorem setSlice_tlb (s : State) (c : Nat) (x : Slice) : (s.setSlice c x).tlb = s.tlb := rfl
@[simp] theorem setSlice_cores (s : State) (c : Nat) (x : Slice) : (s.setSlice c x).cores = s.cores := rfl
@[simp] theorem setSlice_slices (s : State) (c : Nat) (x : Slice) : (s.setSlice c x).slices = tabPut s.slices c x := rfl
@[simp] theorem setSlice_crews (s : State) (c : Nat) (x : Slice) : (s.setSlice c x).crews = s.crews := rfl
@[simp] theorem setSlice_ctxs (s : State) (c : Nat) (x : Slice) : (s.setSlice c x).ctxs = s.ctxs := rfl
@[simp] theorem setSlice_launches (s : State) (c : Nat) (x : Slice) : (s.setSlice c x).launches = s.launches := rfl
@[simp] theorem setSlice_rings (s : State) (c : Nat) (x : Slice) : (s.setSlice c x).rings = s.rings := rfl
@[simp] theorem setSlice_exts (s : State) (c : Nat) (x : Slice) : (s.setSlice c x).exts = s.exts := rfl
@[simp] theorem setSlice_amsgs (s : State) (c : Nat) (x : Slice) : (s.setSlice c x).amsgs = s.amsgs := rfl
@[simp] theorem setSlice_routersDown (s : State) (c : Nat) (x : Slice) : (s.setSlice c x).routersDown = s.routersDown := rfl
@[simp] theorem setSlice_coresDown (s : State) (c : Nat) (x : Slice) : (s.setSlice c x).coresDown = s.coresDown := rfl
@[simp] theorem setSlice_linksDown (s : State) (c : Nat) (x : Slice) : (s.setSlice c x).linksDown = s.linksDown := rfl
@[simp] theorem setSlice_aditsDown (s : State) (c : Nat) (x : Slice) : (s.setSlice c x).aditsDown = s.aditsDown := rfl
@[simp] theorem setSlice_cxlDown (s : State) (c : Nat) (x : Slice) : (s.setSlice c x).cxlDown = s.cxlDown := rfl
@[simp] theorem setSlice_ioDown (s : State) (c : Nat) (x : Slice) : (s.setSlice c x).ioDown = s.ioDown := rfl
@[simp] theorem setSlice_fencedPc (s : State) (c : Nat) (x : Slice) : (s.setSlice c x).fencedPc = s.fencedPc := rfl
@[simp] theorem setSlice_fencedGroups (s : State) (c : Nat) (x : Slice) : (s.setSlice c x).fencedGroups = s.fencedGroups := rfl
@[simp] theorem setSlice_pcHits (s : State) (c : Nat) (x : Slice) : (s.setSlice c x).pcHits = s.pcHits := rfl
@[simp] theorem setSlice_peerDone (s : State) (c : Nat) (x : Slice) : (s.setSlice c x).peerDone = s.peerDone := rfl
@[simp] theorem setSlice_powered (s : State) (c : Nat) (x : Slice) : (s.setSlice c x).powered = s.powered := rfl
@[simp] theorem setSlice_boot (s : State) (c : Nat) (x : Slice) : (s.setSlice c x).boot = s.boot := rfl
@[simp] theorem setSlice_booting (s : State) (c : Nat) (x : Slice) : (s.setSlice c x).booting = s.booting := rfl
@[simp] theorem setSlice_keyOk (s : State) (c : Nat) (x : Slice) : (s.setSlice c x).keyOk = s.keyOk := rfl
@[simp] theorem setSlice_measured (s : State) (c : Nat) (x : Slice) : (s.setSlice c x).measured = s.measured := rfl
@[simp] theorem setSlice_attest (s : State) (c : Nat) (x : Slice) : (s.setSlice c x).attest = s.attest := rfl
@[simp] theorem setSlice_reports (s : State) (c : Nat) (x : Slice) : (s.setSlice c x).reports = s.reports := rfl
@[simp] theorem setSlice_gmEvents (s : State) (c : Nat) (x : Slice) : (s.setSlice c x).gmEvents = s.gmEvents := rfl
@[simp] theorem setSlice_irqs (s : State) (c : Nat) (x : Slice) : (s.setSlice c x).irqs = s.irqs := rfl
@[simp] theorem setSlice_unitPts (s : State) (c : Nat) (x : Slice) : (s.setSlice c x).unitPts = s.unitPts := rfl
@[simp] theorem setSlice_outerPts (s : State) (c : Nat) (x : Slice) : (s.setSlice c x).outerPts = s.outerPts := rfl
@[simp] theorem setSlice_outerCopies (s : State) (c : Nat) (x : Slice) : (s.setSlice c x).outerCopies = s.outerCopies := rfl
@[simp] theorem setSlice_away (s : State) (c : Nat) (x : Slice) : (s.setSlice c x).away = s.away := rfl
@[simp] theorem setSlice_reply (s : State) (c : Nat) (x : Slice) : (s.setSlice c x).reply = s.reply := rfl
@[simp] theorem setSlice_agenda (s : State) (c : Nat) (x : Slice) : (s.setSlice c x).agenda = s.agenda := rfl
@[simp] theorem setSlice_held (s : State) (c : Nat) (x : Slice) : (s.setSlice c x).held = s.held := rfl
@[simp] theorem setSlice_actor (s : State) (c : Nat) (x : Slice) : (s.setSlice c x).actor = s.actor := rfl
@[simp] theorem setSlice_free (s : State) (c : Nat) (x : Slice) : (s.setSlice c x).free = s.free := rfl
@[simp] theorem setSlice_nextId (s : State) (c : Nat) (x : Slice) : (s.setSlice c x).nextId = s.nextId := rfl

/-! `setCtx` -/

@[simp] theorem setCtx_clock (s : State) (c : Nat) (x : Ctx) : (s.setCtx c x).clock = s.clock := rfl
@[simp] theorem setCtx_mem (s : State) (c : Nat) (x : Ctx) : (s.setCtx c x).mem = s.mem := rfl
@[simp] theorem setCtx_poison (s : State) (c : Nat) (x : Ctx) : (s.setCtx c x).poison = s.poison := rfl
@[simp] theorem setCtx_latent (s : State) (c : Nat) (x : Ctx) : (s.setCtx c x).latent = s.latent := rfl
@[simp] theorem setCtx_finds (s : State) (c : Nat) (x : Ctx) : (s.setCtx c x).finds = s.finds := rfl
@[simp] theorem setCtx_caught (s : State) (c : Nat) (x : Ctx) : (s.setCtx c x).caught = s.caught := rfl
@[simp] theorem setCtx_counts (s : State) (c : Nat) (x : Ctx) : (s.setCtx c x).counts = s.counts := rfl
@[simp] theorem setCtx_errs (s : State) (c : Nat) (x : Ctx) : (s.setCtx c x).errs = s.errs := rfl
@[simp] theorem setCtx_lines (s : State) (c : Nat) (x : Ctx) : (s.setCtx c x).lines = s.lines := rfl
@[simp] theorem setCtx_sealed (s : State) (c : Nat) (x : Ctx) : (s.setCtx c x).sealed = s.sealed := rfl
@[simp] theorem setCtx_hstn (s : State) (c : Nat) (x : Ctx) : (s.setCtx c x).hstn = s.hstn := rfl
@[simp] theorem setCtx_mymod (s : State) (c : Nat) (x : Ctx) : (s.setCtx c x).mymod = s.mymod := rfl
@[simp] theorem setCtx_windows (s : State) (c : Nat) (x : Ctx) : (s.setCtx c x).windows = s.windows := rfl
@[simp] theorem setCtx_bindings (s : State) (c : Nat) (x : Ctx) : (s.setCtx c x).bindings = s.bindings := rfl
@[simp] theorem setCtx_descs (s : State) (c : Nat) (x : Ctx) : (s.setCtx c x).descs = s.descs := rfl
@[simp] theorem setCtx_islands (s : State) (c : Nat) (x : Ctx) : (s.setCtx c x).islands = s.islands := rfl
@[simp] theorem setCtx_evals (s : State) (c : Nat) (x : Ctx) : (s.setCtx c x).evals = s.evals := rfl
@[simp] theorem setCtx_tlb (s : State) (c : Nat) (x : Ctx) : (s.setCtx c x).tlb = s.tlb := rfl
@[simp] theorem setCtx_cores (s : State) (c : Nat) (x : Ctx) : (s.setCtx c x).cores = s.cores := rfl
@[simp] theorem setCtx_slices (s : State) (c : Nat) (x : Ctx) : (s.setCtx c x).slices = s.slices := rfl
@[simp] theorem setCtx_crews (s : State) (c : Nat) (x : Ctx) : (s.setCtx c x).crews = s.crews := rfl
@[simp] theorem setCtx_ctxs (s : State) (c : Nat) (x : Ctx) : (s.setCtx c x).ctxs = tabPut s.ctxs c x := rfl
@[simp] theorem setCtx_launches (s : State) (c : Nat) (x : Ctx) : (s.setCtx c x).launches = s.launches := rfl
@[simp] theorem setCtx_rings (s : State) (c : Nat) (x : Ctx) : (s.setCtx c x).rings = s.rings := rfl
@[simp] theorem setCtx_exts (s : State) (c : Nat) (x : Ctx) : (s.setCtx c x).exts = s.exts := rfl
@[simp] theorem setCtx_amsgs (s : State) (c : Nat) (x : Ctx) : (s.setCtx c x).amsgs = s.amsgs := rfl
@[simp] theorem setCtx_routersDown (s : State) (c : Nat) (x : Ctx) : (s.setCtx c x).routersDown = s.routersDown := rfl
@[simp] theorem setCtx_coresDown (s : State) (c : Nat) (x : Ctx) : (s.setCtx c x).coresDown = s.coresDown := rfl
@[simp] theorem setCtx_linksDown (s : State) (c : Nat) (x : Ctx) : (s.setCtx c x).linksDown = s.linksDown := rfl
@[simp] theorem setCtx_aditsDown (s : State) (c : Nat) (x : Ctx) : (s.setCtx c x).aditsDown = s.aditsDown := rfl
@[simp] theorem setCtx_cxlDown (s : State) (c : Nat) (x : Ctx) : (s.setCtx c x).cxlDown = s.cxlDown := rfl
@[simp] theorem setCtx_ioDown (s : State) (c : Nat) (x : Ctx) : (s.setCtx c x).ioDown = s.ioDown := rfl
@[simp] theorem setCtx_fencedPc (s : State) (c : Nat) (x : Ctx) : (s.setCtx c x).fencedPc = s.fencedPc := rfl
@[simp] theorem setCtx_fencedGroups (s : State) (c : Nat) (x : Ctx) : (s.setCtx c x).fencedGroups = s.fencedGroups := rfl
@[simp] theorem setCtx_pcHits (s : State) (c : Nat) (x : Ctx) : (s.setCtx c x).pcHits = s.pcHits := rfl
@[simp] theorem setCtx_peerDone (s : State) (c : Nat) (x : Ctx) : (s.setCtx c x).peerDone = s.peerDone := rfl
@[simp] theorem setCtx_powered (s : State) (c : Nat) (x : Ctx) : (s.setCtx c x).powered = s.powered := rfl
@[simp] theorem setCtx_boot (s : State) (c : Nat) (x : Ctx) : (s.setCtx c x).boot = s.boot := rfl
@[simp] theorem setCtx_booting (s : State) (c : Nat) (x : Ctx) : (s.setCtx c x).booting = s.booting := rfl
@[simp] theorem setCtx_keyOk (s : State) (c : Nat) (x : Ctx) : (s.setCtx c x).keyOk = s.keyOk := rfl
@[simp] theorem setCtx_measured (s : State) (c : Nat) (x : Ctx) : (s.setCtx c x).measured = s.measured := rfl
@[simp] theorem setCtx_attest (s : State) (c : Nat) (x : Ctx) : (s.setCtx c x).attest = s.attest := rfl
@[simp] theorem setCtx_reports (s : State) (c : Nat) (x : Ctx) : (s.setCtx c x).reports = s.reports := rfl
@[simp] theorem setCtx_gmEvents (s : State) (c : Nat) (x : Ctx) : (s.setCtx c x).gmEvents = s.gmEvents := rfl
@[simp] theorem setCtx_irqs (s : State) (c : Nat) (x : Ctx) : (s.setCtx c x).irqs = s.irqs := rfl
@[simp] theorem setCtx_unitPts (s : State) (c : Nat) (x : Ctx) : (s.setCtx c x).unitPts = s.unitPts := rfl
@[simp] theorem setCtx_outerPts (s : State) (c : Nat) (x : Ctx) : (s.setCtx c x).outerPts = s.outerPts := rfl
@[simp] theorem setCtx_outerCopies (s : State) (c : Nat) (x : Ctx) : (s.setCtx c x).outerCopies = s.outerCopies := rfl
@[simp] theorem setCtx_away (s : State) (c : Nat) (x : Ctx) : (s.setCtx c x).away = s.away := rfl
@[simp] theorem setCtx_reply (s : State) (c : Nat) (x : Ctx) : (s.setCtx c x).reply = s.reply := rfl
@[simp] theorem setCtx_agenda (s : State) (c : Nat) (x : Ctx) : (s.setCtx c x).agenda = s.agenda := rfl
@[simp] theorem setCtx_held (s : State) (c : Nat) (x : Ctx) : (s.setCtx c x).held = s.held := rfl
@[simp] theorem setCtx_actor (s : State) (c : Nat) (x : Ctx) : (s.setCtx c x).actor = s.actor := rfl
@[simp] theorem setCtx_free (s : State) (c : Nat) (x : Ctx) : (s.setCtx c x).free = s.free := rfl
@[simp] theorem setCtx_nextId (s : State) (c : Nat) (x : Ctx) : (s.setCtx c x).nextId = s.nextId := rfl

/-! `setRing` -/

@[simp] theorem setRing_clock (s : State) (c : Nat) (x : Ring) : (s.setRing c x).clock = s.clock := rfl
@[simp] theorem setRing_mem (s : State) (c : Nat) (x : Ring) : (s.setRing c x).mem = s.mem := rfl
@[simp] theorem setRing_poison (s : State) (c : Nat) (x : Ring) : (s.setRing c x).poison = s.poison := rfl
@[simp] theorem setRing_latent (s : State) (c : Nat) (x : Ring) : (s.setRing c x).latent = s.latent := rfl
@[simp] theorem setRing_finds (s : State) (c : Nat) (x : Ring) : (s.setRing c x).finds = s.finds := rfl
@[simp] theorem setRing_caught (s : State) (c : Nat) (x : Ring) : (s.setRing c x).caught = s.caught := rfl
@[simp] theorem setRing_counts (s : State) (c : Nat) (x : Ring) : (s.setRing c x).counts = s.counts := rfl
@[simp] theorem setRing_errs (s : State) (c : Nat) (x : Ring) : (s.setRing c x).errs = s.errs := rfl
@[simp] theorem setRing_lines (s : State) (c : Nat) (x : Ring) : (s.setRing c x).lines = s.lines := rfl
@[simp] theorem setRing_sealed (s : State) (c : Nat) (x : Ring) : (s.setRing c x).sealed = s.sealed := rfl
@[simp] theorem setRing_hstn (s : State) (c : Nat) (x : Ring) : (s.setRing c x).hstn = s.hstn := rfl
@[simp] theorem setRing_mymod (s : State) (c : Nat) (x : Ring) : (s.setRing c x).mymod = s.mymod := rfl
@[simp] theorem setRing_windows (s : State) (c : Nat) (x : Ring) : (s.setRing c x).windows = s.windows := rfl
@[simp] theorem setRing_bindings (s : State) (c : Nat) (x : Ring) : (s.setRing c x).bindings = s.bindings := rfl
@[simp] theorem setRing_descs (s : State) (c : Nat) (x : Ring) : (s.setRing c x).descs = s.descs := rfl
@[simp] theorem setRing_islands (s : State) (c : Nat) (x : Ring) : (s.setRing c x).islands = s.islands := rfl
@[simp] theorem setRing_evals (s : State) (c : Nat) (x : Ring) : (s.setRing c x).evals = s.evals := rfl
@[simp] theorem setRing_tlb (s : State) (c : Nat) (x : Ring) : (s.setRing c x).tlb = s.tlb := rfl
@[simp] theorem setRing_cores (s : State) (c : Nat) (x : Ring) : (s.setRing c x).cores = s.cores := rfl
@[simp] theorem setRing_slices (s : State) (c : Nat) (x : Ring) : (s.setRing c x).slices = s.slices := rfl
@[simp] theorem setRing_crews (s : State) (c : Nat) (x : Ring) : (s.setRing c x).crews = s.crews := rfl
@[simp] theorem setRing_ctxs (s : State) (c : Nat) (x : Ring) : (s.setRing c x).ctxs = s.ctxs := rfl
@[simp] theorem setRing_launches (s : State) (c : Nat) (x : Ring) : (s.setRing c x).launches = s.launches := rfl
@[simp] theorem setRing_rings (s : State) (c : Nat) (x : Ring) : (s.setRing c x).rings = tabPut s.rings c x := rfl
@[simp] theorem setRing_exts (s : State) (c : Nat) (x : Ring) : (s.setRing c x).exts = s.exts := rfl
@[simp] theorem setRing_amsgs (s : State) (c : Nat) (x : Ring) : (s.setRing c x).amsgs = s.amsgs := rfl
@[simp] theorem setRing_routersDown (s : State) (c : Nat) (x : Ring) : (s.setRing c x).routersDown = s.routersDown := rfl
@[simp] theorem setRing_coresDown (s : State) (c : Nat) (x : Ring) : (s.setRing c x).coresDown = s.coresDown := rfl
@[simp] theorem setRing_linksDown (s : State) (c : Nat) (x : Ring) : (s.setRing c x).linksDown = s.linksDown := rfl
@[simp] theorem setRing_aditsDown (s : State) (c : Nat) (x : Ring) : (s.setRing c x).aditsDown = s.aditsDown := rfl
@[simp] theorem setRing_cxlDown (s : State) (c : Nat) (x : Ring) : (s.setRing c x).cxlDown = s.cxlDown := rfl
@[simp] theorem setRing_ioDown (s : State) (c : Nat) (x : Ring) : (s.setRing c x).ioDown = s.ioDown := rfl
@[simp] theorem setRing_fencedPc (s : State) (c : Nat) (x : Ring) : (s.setRing c x).fencedPc = s.fencedPc := rfl
@[simp] theorem setRing_fencedGroups (s : State) (c : Nat) (x : Ring) : (s.setRing c x).fencedGroups = s.fencedGroups := rfl
@[simp] theorem setRing_pcHits (s : State) (c : Nat) (x : Ring) : (s.setRing c x).pcHits = s.pcHits := rfl
@[simp] theorem setRing_peerDone (s : State) (c : Nat) (x : Ring) : (s.setRing c x).peerDone = s.peerDone := rfl
@[simp] theorem setRing_powered (s : State) (c : Nat) (x : Ring) : (s.setRing c x).powered = s.powered := rfl
@[simp] theorem setRing_boot (s : State) (c : Nat) (x : Ring) : (s.setRing c x).boot = s.boot := rfl
@[simp] theorem setRing_booting (s : State) (c : Nat) (x : Ring) : (s.setRing c x).booting = s.booting := rfl
@[simp] theorem setRing_keyOk (s : State) (c : Nat) (x : Ring) : (s.setRing c x).keyOk = s.keyOk := rfl
@[simp] theorem setRing_measured (s : State) (c : Nat) (x : Ring) : (s.setRing c x).measured = s.measured := rfl
@[simp] theorem setRing_attest (s : State) (c : Nat) (x : Ring) : (s.setRing c x).attest = s.attest := rfl
@[simp] theorem setRing_reports (s : State) (c : Nat) (x : Ring) : (s.setRing c x).reports = s.reports := rfl
@[simp] theorem setRing_gmEvents (s : State) (c : Nat) (x : Ring) : (s.setRing c x).gmEvents = s.gmEvents := rfl
@[simp] theorem setRing_irqs (s : State) (c : Nat) (x : Ring) : (s.setRing c x).irqs = s.irqs := rfl
@[simp] theorem setRing_unitPts (s : State) (c : Nat) (x : Ring) : (s.setRing c x).unitPts = s.unitPts := rfl
@[simp] theorem setRing_outerPts (s : State) (c : Nat) (x : Ring) : (s.setRing c x).outerPts = s.outerPts := rfl
@[simp] theorem setRing_outerCopies (s : State) (c : Nat) (x : Ring) : (s.setRing c x).outerCopies = s.outerCopies := rfl
@[simp] theorem setRing_away (s : State) (c : Nat) (x : Ring) : (s.setRing c x).away = s.away := rfl
@[simp] theorem setRing_reply (s : State) (c : Nat) (x : Ring) : (s.setRing c x).reply = s.reply := rfl
@[simp] theorem setRing_agenda (s : State) (c : Nat) (x : Ring) : (s.setRing c x).agenda = s.agenda := rfl
@[simp] theorem setRing_held (s : State) (c : Nat) (x : Ring) : (s.setRing c x).held = s.held := rfl
@[simp] theorem setRing_actor (s : State) (c : Nat) (x : Ring) : (s.setRing c x).actor = s.actor := rfl
@[simp] theorem setRing_free (s : State) (c : Nat) (x : Ring) : (s.setRing c x).free = s.free := rfl
@[simp] theorem setRing_nextId (s : State) (c : Nat) (x : Ring) : (s.setRing c x).nextId = s.nextId := rfl

/-! `setCrew` -/

@[simp] theorem setCrew_clock (s : State) (c : Nat) (x : Crew) : (s.setCrew c x).clock = s.clock := rfl
@[simp] theorem setCrew_mem (s : State) (c : Nat) (x : Crew) : (s.setCrew c x).mem = s.mem := rfl
@[simp] theorem setCrew_poison (s : State) (c : Nat) (x : Crew) : (s.setCrew c x).poison = s.poison := rfl
@[simp] theorem setCrew_latent (s : State) (c : Nat) (x : Crew) : (s.setCrew c x).latent = s.latent := rfl
@[simp] theorem setCrew_finds (s : State) (c : Nat) (x : Crew) : (s.setCrew c x).finds = s.finds := rfl
@[simp] theorem setCrew_caught (s : State) (c : Nat) (x : Crew) : (s.setCrew c x).caught = s.caught := rfl
@[simp] theorem setCrew_counts (s : State) (c : Nat) (x : Crew) : (s.setCrew c x).counts = s.counts := rfl
@[simp] theorem setCrew_errs (s : State) (c : Nat) (x : Crew) : (s.setCrew c x).errs = s.errs := rfl
@[simp] theorem setCrew_lines (s : State) (c : Nat) (x : Crew) : (s.setCrew c x).lines = s.lines := rfl
@[simp] theorem setCrew_sealed (s : State) (c : Nat) (x : Crew) : (s.setCrew c x).sealed = s.sealed := rfl
@[simp] theorem setCrew_hstn (s : State) (c : Nat) (x : Crew) : (s.setCrew c x).hstn = s.hstn := rfl
@[simp] theorem setCrew_mymod (s : State) (c : Nat) (x : Crew) : (s.setCrew c x).mymod = s.mymod := rfl
@[simp] theorem setCrew_windows (s : State) (c : Nat) (x : Crew) : (s.setCrew c x).windows = s.windows := rfl
@[simp] theorem setCrew_bindings (s : State) (c : Nat) (x : Crew) : (s.setCrew c x).bindings = s.bindings := rfl
@[simp] theorem setCrew_descs (s : State) (c : Nat) (x : Crew) : (s.setCrew c x).descs = s.descs := rfl
@[simp] theorem setCrew_islands (s : State) (c : Nat) (x : Crew) : (s.setCrew c x).islands = s.islands := rfl
@[simp] theorem setCrew_evals (s : State) (c : Nat) (x : Crew) : (s.setCrew c x).evals = s.evals := rfl
@[simp] theorem setCrew_tlb (s : State) (c : Nat) (x : Crew) : (s.setCrew c x).tlb = s.tlb := rfl
@[simp] theorem setCrew_cores (s : State) (c : Nat) (x : Crew) : (s.setCrew c x).cores = s.cores := rfl
@[simp] theorem setCrew_slices (s : State) (c : Nat) (x : Crew) : (s.setCrew c x).slices = s.slices := rfl
@[simp] theorem setCrew_crews (s : State) (c : Nat) (x : Crew) : (s.setCrew c x).crews = tabPut s.crews c x := rfl
@[simp] theorem setCrew_ctxs (s : State) (c : Nat) (x : Crew) : (s.setCrew c x).ctxs = s.ctxs := rfl
@[simp] theorem setCrew_launches (s : State) (c : Nat) (x : Crew) : (s.setCrew c x).launches = s.launches := rfl
@[simp] theorem setCrew_rings (s : State) (c : Nat) (x : Crew) : (s.setCrew c x).rings = s.rings := rfl
@[simp] theorem setCrew_exts (s : State) (c : Nat) (x : Crew) : (s.setCrew c x).exts = s.exts := rfl
@[simp] theorem setCrew_amsgs (s : State) (c : Nat) (x : Crew) : (s.setCrew c x).amsgs = s.amsgs := rfl
@[simp] theorem setCrew_routersDown (s : State) (c : Nat) (x : Crew) : (s.setCrew c x).routersDown = s.routersDown := rfl
@[simp] theorem setCrew_coresDown (s : State) (c : Nat) (x : Crew) : (s.setCrew c x).coresDown = s.coresDown := rfl
@[simp] theorem setCrew_linksDown (s : State) (c : Nat) (x : Crew) : (s.setCrew c x).linksDown = s.linksDown := rfl
@[simp] theorem setCrew_aditsDown (s : State) (c : Nat) (x : Crew) : (s.setCrew c x).aditsDown = s.aditsDown := rfl
@[simp] theorem setCrew_cxlDown (s : State) (c : Nat) (x : Crew) : (s.setCrew c x).cxlDown = s.cxlDown := rfl
@[simp] theorem setCrew_ioDown (s : State) (c : Nat) (x : Crew) : (s.setCrew c x).ioDown = s.ioDown := rfl
@[simp] theorem setCrew_fencedPc (s : State) (c : Nat) (x : Crew) : (s.setCrew c x).fencedPc = s.fencedPc := rfl
@[simp] theorem setCrew_fencedGroups (s : State) (c : Nat) (x : Crew) : (s.setCrew c x).fencedGroups = s.fencedGroups := rfl
@[simp] theorem setCrew_pcHits (s : State) (c : Nat) (x : Crew) : (s.setCrew c x).pcHits = s.pcHits := rfl
@[simp] theorem setCrew_peerDone (s : State) (c : Nat) (x : Crew) : (s.setCrew c x).peerDone = s.peerDone := rfl
@[simp] theorem setCrew_powered (s : State) (c : Nat) (x : Crew) : (s.setCrew c x).powered = s.powered := rfl
@[simp] theorem setCrew_boot (s : State) (c : Nat) (x : Crew) : (s.setCrew c x).boot = s.boot := rfl
@[simp] theorem setCrew_booting (s : State) (c : Nat) (x : Crew) : (s.setCrew c x).booting = s.booting := rfl
@[simp] theorem setCrew_keyOk (s : State) (c : Nat) (x : Crew) : (s.setCrew c x).keyOk = s.keyOk := rfl
@[simp] theorem setCrew_measured (s : State) (c : Nat) (x : Crew) : (s.setCrew c x).measured = s.measured := rfl
@[simp] theorem setCrew_attest (s : State) (c : Nat) (x : Crew) : (s.setCrew c x).attest = s.attest := rfl
@[simp] theorem setCrew_reports (s : State) (c : Nat) (x : Crew) : (s.setCrew c x).reports = s.reports := rfl
@[simp] theorem setCrew_gmEvents (s : State) (c : Nat) (x : Crew) : (s.setCrew c x).gmEvents = s.gmEvents := rfl
@[simp] theorem setCrew_irqs (s : State) (c : Nat) (x : Crew) : (s.setCrew c x).irqs = s.irqs := rfl
@[simp] theorem setCrew_unitPts (s : State) (c : Nat) (x : Crew) : (s.setCrew c x).unitPts = s.unitPts := rfl
@[simp] theorem setCrew_outerPts (s : State) (c : Nat) (x : Crew) : (s.setCrew c x).outerPts = s.outerPts := rfl
@[simp] theorem setCrew_outerCopies (s : State) (c : Nat) (x : Crew) : (s.setCrew c x).outerCopies = s.outerCopies := rfl
@[simp] theorem setCrew_away (s : State) (c : Nat) (x : Crew) : (s.setCrew c x).away = s.away := rfl
@[simp] theorem setCrew_reply (s : State) (c : Nat) (x : Crew) : (s.setCrew c x).reply = s.reply := rfl
@[simp] theorem setCrew_agenda (s : State) (c : Nat) (x : Crew) : (s.setCrew c x).agenda = s.agenda := rfl
@[simp] theorem setCrew_held (s : State) (c : Nat) (x : Crew) : (s.setCrew c x).held = s.held := rfl
@[simp] theorem setCrew_actor (s : State) (c : Nat) (x : Crew) : (s.setCrew c x).actor = s.actor := rfl
@[simp] theorem setCrew_free (s : State) (c : Nat) (x : Crew) : (s.setCrew c x).free = s.free := rfl
@[simp] theorem setCrew_nextId (s : State) (c : Nat) (x : Crew) : (s.setCrew c x).nextId = s.nextId := rfl

/-! `modCore`, `modSlice`, `modCtx` and `modRing` are the updates above. -/

@[simp] theorem modCore_eq (s : State) (c : Nat) (f : Core → Core) : s.modCore c f = s.setCore c (f (s.core c)) := rfl
@[simp] theorem modSlice_eq (s : State) (c : Nat) (f : Slice → Slice) : s.modSlice c f = s.setSlice c (f (s.slice c)) := rfl
@[simp] theorem modCtx_eq (s : State) (c : Nat) (f : Ctx → Ctx) : s.modCtx c f = s.setCtx c (f (s.ctx c)) := rfl
@[simp] theorem modRing_eq (s : State) (c : Nat) (f : Ring → Ring) : s.modRing c f = s.setRing c (f (s.ring c)) := rfl

/-! `modCrew` -/

@[simp] theorem modCrew_clock (s : State) (c : Nat) (f : Crew → Crew) : (s.modCrew c f).clock = s.clock := by
  unfold State.modCrew; split <;> rfl
@[simp] theorem modCrew_mem (s : State) (c : Nat) (f : Crew → Crew) : (s.modCrew c f).mem = s.mem := by
  unfold State.modCrew; split <;> rfl
@[simp] theorem modCrew_poison (s : State) (c : Nat) (f : Crew → Crew) : (s.modCrew c f).poison = s.poison := by
  unfold State.modCrew; split <;> rfl
@[simp] theorem modCrew_latent (s : State) (c : Nat) (f : Crew → Crew) : (s.modCrew c f).latent = s.latent := by
  unfold State.modCrew; split <;> rfl
@[simp] theorem modCrew_finds (s : State) (c : Nat) (f : Crew → Crew) : (s.modCrew c f).finds = s.finds := by
  unfold State.modCrew; split <;> rfl
@[simp] theorem modCrew_caught (s : State) (c : Nat) (f : Crew → Crew) : (s.modCrew c f).caught = s.caught := by
  unfold State.modCrew; split <;> rfl
@[simp] theorem modCrew_counts (s : State) (c : Nat) (f : Crew → Crew) : (s.modCrew c f).counts = s.counts := by
  unfold State.modCrew; split <;> rfl
@[simp] theorem modCrew_errs (s : State) (c : Nat) (f : Crew → Crew) : (s.modCrew c f).errs = s.errs := by
  unfold State.modCrew; split <;> rfl
@[simp] theorem modCrew_lines (s : State) (c : Nat) (f : Crew → Crew) : (s.modCrew c f).lines = s.lines := by
  unfold State.modCrew; split <;> rfl
@[simp] theorem modCrew_sealed (s : State) (c : Nat) (f : Crew → Crew) : (s.modCrew c f).sealed = s.sealed := by
  unfold State.modCrew; split <;> rfl
@[simp] theorem modCrew_hstn (s : State) (c : Nat) (f : Crew → Crew) : (s.modCrew c f).hstn = s.hstn := by
  unfold State.modCrew; split <;> rfl
@[simp] theorem modCrew_mymod (s : State) (c : Nat) (f : Crew → Crew) : (s.modCrew c f).mymod = s.mymod := by
  unfold State.modCrew; split <;> rfl
@[simp] theorem modCrew_windows (s : State) (c : Nat) (f : Crew → Crew) : (s.modCrew c f).windows = s.windows := by
  unfold State.modCrew; split <;> rfl
@[simp] theorem modCrew_bindings (s : State) (c : Nat) (f : Crew → Crew) : (s.modCrew c f).bindings = s.bindings := by
  unfold State.modCrew; split <;> rfl
@[simp] theorem modCrew_descs (s : State) (c : Nat) (f : Crew → Crew) : (s.modCrew c f).descs = s.descs := by
  unfold State.modCrew; split <;> rfl
@[simp] theorem modCrew_islands (s : State) (c : Nat) (f : Crew → Crew) : (s.modCrew c f).islands = s.islands := by
  unfold State.modCrew; split <;> rfl
@[simp] theorem modCrew_evals (s : State) (c : Nat) (f : Crew → Crew) : (s.modCrew c f).evals = s.evals := by
  unfold State.modCrew; split <;> rfl
@[simp] theorem modCrew_tlb (s : State) (c : Nat) (f : Crew → Crew) : (s.modCrew c f).tlb = s.tlb := by
  unfold State.modCrew; split <;> rfl
@[simp] theorem modCrew_cores (s : State) (c : Nat) (f : Crew → Crew) : (s.modCrew c f).cores = s.cores := by
  unfold State.modCrew; split <;> rfl
@[simp] theorem modCrew_slices (s : State) (c : Nat) (f : Crew → Crew) : (s.modCrew c f).slices = s.slices := by
  unfold State.modCrew; split <;> rfl
@[simp] theorem modCrew_ctxs (s : State) (c : Nat) (f : Crew → Crew) : (s.modCrew c f).ctxs = s.ctxs := by
  unfold State.modCrew; split <;> rfl
@[simp] theorem modCrew_launches (s : State) (c : Nat) (f : Crew → Crew) : (s.modCrew c f).launches = s.launches := by
  unfold State.modCrew; split <;> rfl
@[simp] theorem modCrew_rings (s : State) (c : Nat) (f : Crew → Crew) : (s.modCrew c f).rings = s.rings := by
  unfold State.modCrew; split <;> rfl
@[simp] theorem modCrew_exts (s : State) (c : Nat) (f : Crew → Crew) : (s.modCrew c f).exts = s.exts := by
  unfold State.modCrew; split <;> rfl
@[simp] theorem modCrew_amsgs (s : State) (c : Nat) (f : Crew → Crew) : (s.modCrew c f).amsgs = s.amsgs := by
  unfold State.modCrew; split <;> rfl
@[simp] theorem modCrew_routersDown (s : State) (c : Nat) (f : Crew → Crew) : (s.modCrew c f).routersDown = s.routersDown := by
  unfold State.modCrew; split <;> rfl
@[simp] theorem modCrew_coresDown (s : State) (c : Nat) (f : Crew → Crew) : (s.modCrew c f).coresDown = s.coresDown := by
  unfold State.modCrew; split <;> rfl
@[simp] theorem modCrew_linksDown (s : State) (c : Nat) (f : Crew → Crew) : (s.modCrew c f).linksDown = s.linksDown := by
  unfold State.modCrew; split <;> rfl
@[simp] theorem modCrew_aditsDown (s : State) (c : Nat) (f : Crew → Crew) : (s.modCrew c f).aditsDown = s.aditsDown := by
  unfold State.modCrew; split <;> rfl
@[simp] theorem modCrew_cxlDown (s : State) (c : Nat) (f : Crew → Crew) : (s.modCrew c f).cxlDown = s.cxlDown := by
  unfold State.modCrew; split <;> rfl
@[simp] theorem modCrew_ioDown (s : State) (c : Nat) (f : Crew → Crew) : (s.modCrew c f).ioDown = s.ioDown := by
  unfold State.modCrew; split <;> rfl
@[simp] theorem modCrew_fencedPc (s : State) (c : Nat) (f : Crew → Crew) : (s.modCrew c f).fencedPc = s.fencedPc := by
  unfold State.modCrew; split <;> rfl
@[simp] theorem modCrew_fencedGroups (s : State) (c : Nat) (f : Crew → Crew) : (s.modCrew c f).fencedGroups = s.fencedGroups := by
  unfold State.modCrew; split <;> rfl
@[simp] theorem modCrew_pcHits (s : State) (c : Nat) (f : Crew → Crew) : (s.modCrew c f).pcHits = s.pcHits := by
  unfold State.modCrew; split <;> rfl
@[simp] theorem modCrew_peerDone (s : State) (c : Nat) (f : Crew → Crew) : (s.modCrew c f).peerDone = s.peerDone := by
  unfold State.modCrew; split <;> rfl
@[simp] theorem modCrew_powered (s : State) (c : Nat) (f : Crew → Crew) : (s.modCrew c f).powered = s.powered := by
  unfold State.modCrew; split <;> rfl
@[simp] theorem modCrew_boot (s : State) (c : Nat) (f : Crew → Crew) : (s.modCrew c f).boot = s.boot := by
  unfold State.modCrew; split <;> rfl
@[simp] theorem modCrew_booting (s : State) (c : Nat) (f : Crew → Crew) : (s.modCrew c f).booting = s.booting := by
  unfold State.modCrew; split <;> rfl
@[simp] theorem modCrew_keyOk (s : State) (c : Nat) (f : Crew → Crew) : (s.modCrew c f).keyOk = s.keyOk := by
  unfold State.modCrew; split <;> rfl
@[simp] theorem modCrew_measured (s : State) (c : Nat) (f : Crew → Crew) : (s.modCrew c f).measured = s.measured := by
  unfold State.modCrew; split <;> rfl
@[simp] theorem modCrew_attest (s : State) (c : Nat) (f : Crew → Crew) : (s.modCrew c f).attest = s.attest := by
  unfold State.modCrew; split <;> rfl
@[simp] theorem modCrew_reports (s : State) (c : Nat) (f : Crew → Crew) : (s.modCrew c f).reports = s.reports := by
  unfold State.modCrew; split <;> rfl
@[simp] theorem modCrew_gmEvents (s : State) (c : Nat) (f : Crew → Crew) : (s.modCrew c f).gmEvents = s.gmEvents := by
  unfold State.modCrew; split <;> rfl
@[simp] theorem modCrew_irqs (s : State) (c : Nat) (f : Crew → Crew) : (s.modCrew c f).irqs = s.irqs := by
  unfold State.modCrew; split <;> rfl
@[simp] theorem modCrew_unitPts (s : State) (c : Nat) (f : Crew → Crew) : (s.modCrew c f).unitPts = s.unitPts := by
  unfold State.modCrew; split <;> rfl
@[simp] theorem modCrew_outerPts (s : State) (c : Nat) (f : Crew → Crew) : (s.modCrew c f).outerPts = s.outerPts := by
  unfold State.modCrew; split <;> rfl
@[simp] theorem modCrew_outerCopies (s : State) (c : Nat) (f : Crew → Crew) : (s.modCrew c f).outerCopies = s.outerCopies := by
  unfold State.modCrew; split <;> rfl
@[simp] theorem modCrew_away (s : State) (c : Nat) (f : Crew → Crew) : (s.modCrew c f).away = s.away := by
  unfold State.modCrew; split <;> rfl
@[simp] theorem modCrew_reply (s : State) (c : Nat) (f : Crew → Crew) : (s.modCrew c f).reply = s.reply := by
  unfold State.modCrew; split <;> rfl
@[simp] theorem modCrew_agenda (s : State) (c : Nat) (f : Crew → Crew) : (s.modCrew c f).agenda = s.agenda := by
  unfold State.modCrew; split <;> rfl
@[simp] theorem modCrew_held (s : State) (c : Nat) (f : Crew → Crew) : (s.modCrew c f).held = s.held := by
  unfold State.modCrew; split <;> rfl
@[simp] theorem modCrew_actor (s : State) (c : Nat) (f : Crew → Crew) : (s.modCrew c f).actor = s.actor := by
  unfold State.modCrew; split <;> rfl
@[simp] theorem modCrew_free (s : State) (c : Nat) (f : Crew → Crew) : (s.modCrew c f).free = s.free := by
  unfold State.modCrew; split <;> rfl
@[simp] theorem modCrew_nextId (s : State) (c : Nat) (f : Crew → Crew) : (s.modCrew c f).nextId = s.nextId := by
  unfold State.modCrew; split <;> rfl

/-! `modLaunch` -/

@[simp] theorem modLaunch_clock (s : State) (c : Nat) (f : Launch → Launch) : (s.modLaunch c f).clock = s.clock := by
  unfold State.modLaunch; split <;> rfl
@[simp] theorem modLaunch_mem (s : State) (c : Nat) (f : Launch → Launch) : (s.modLaunch c f).mem = s.mem := by
  unfold State.modLaunch; split <;> rfl
@[simp] theorem modLaunch_poison (s : State) (c : Nat) (f : Launch → Launch) : (s.modLaunch c f).poison = s.poison := by
  unfold State.modLaunch; split <;> rfl
@[simp] theorem modLaunch_latent (s : State) (c : Nat) (f : Launch → Launch) : (s.modLaunch c f).latent = s.latent := by
  unfold State.modLaunch; split <;> rfl
@[simp] theorem modLaunch_finds (s : State) (c : Nat) (f : Launch → Launch) : (s.modLaunch c f).finds = s.finds := by
  unfold State.modLaunch; split <;> rfl
@[simp] theorem modLaunch_caught (s : State) (c : Nat) (f : Launch → Launch) : (s.modLaunch c f).caught = s.caught := by
  unfold State.modLaunch; split <;> rfl
@[simp] theorem modLaunch_counts (s : State) (c : Nat) (f : Launch → Launch) : (s.modLaunch c f).counts = s.counts := by
  unfold State.modLaunch; split <;> rfl
@[simp] theorem modLaunch_errs (s : State) (c : Nat) (f : Launch → Launch) : (s.modLaunch c f).errs = s.errs := by
  unfold State.modLaunch; split <;> rfl
@[simp] theorem modLaunch_lines (s : State) (c : Nat) (f : Launch → Launch) : (s.modLaunch c f).lines = s.lines := by
  unfold State.modLaunch; split <;> rfl
@[simp] theorem modLaunch_sealed (s : State) (c : Nat) (f : Launch → Launch) : (s.modLaunch c f).sealed = s.sealed := by
  unfold State.modLaunch; split <;> rfl
@[simp] theorem modLaunch_hstn (s : State) (c : Nat) (f : Launch → Launch) : (s.modLaunch c f).hstn = s.hstn := by
  unfold State.modLaunch; split <;> rfl
@[simp] theorem modLaunch_mymod (s : State) (c : Nat) (f : Launch → Launch) : (s.modLaunch c f).mymod = s.mymod := by
  unfold State.modLaunch; split <;> rfl
@[simp] theorem modLaunch_windows (s : State) (c : Nat) (f : Launch → Launch) : (s.modLaunch c f).windows = s.windows := by
  unfold State.modLaunch; split <;> rfl
@[simp] theorem modLaunch_bindings (s : State) (c : Nat) (f : Launch → Launch) : (s.modLaunch c f).bindings = s.bindings := by
  unfold State.modLaunch; split <;> rfl
@[simp] theorem modLaunch_descs (s : State) (c : Nat) (f : Launch → Launch) : (s.modLaunch c f).descs = s.descs := by
  unfold State.modLaunch; split <;> rfl
@[simp] theorem modLaunch_islands (s : State) (c : Nat) (f : Launch → Launch) : (s.modLaunch c f).islands = s.islands := by
  unfold State.modLaunch; split <;> rfl
@[simp] theorem modLaunch_evals (s : State) (c : Nat) (f : Launch → Launch) : (s.modLaunch c f).evals = s.evals := by
  unfold State.modLaunch; split <;> rfl
@[simp] theorem modLaunch_tlb (s : State) (c : Nat) (f : Launch → Launch) : (s.modLaunch c f).tlb = s.tlb := by
  unfold State.modLaunch; split <;> rfl
@[simp] theorem modLaunch_cores (s : State) (c : Nat) (f : Launch → Launch) : (s.modLaunch c f).cores = s.cores := by
  unfold State.modLaunch; split <;> rfl
@[simp] theorem modLaunch_slices (s : State) (c : Nat) (f : Launch → Launch) : (s.modLaunch c f).slices = s.slices := by
  unfold State.modLaunch; split <;> rfl
@[simp] theorem modLaunch_crews (s : State) (c : Nat) (f : Launch → Launch) : (s.modLaunch c f).crews = s.crews := by
  unfold State.modLaunch; split <;> rfl
@[simp] theorem modLaunch_ctxs (s : State) (c : Nat) (f : Launch → Launch) : (s.modLaunch c f).ctxs = s.ctxs := by
  unfold State.modLaunch; split <;> rfl
@[simp] theorem modLaunch_rings (s : State) (c : Nat) (f : Launch → Launch) : (s.modLaunch c f).rings = s.rings := by
  unfold State.modLaunch; split <;> rfl
@[simp] theorem modLaunch_exts (s : State) (c : Nat) (f : Launch → Launch) : (s.modLaunch c f).exts = s.exts := by
  unfold State.modLaunch; split <;> rfl
@[simp] theorem modLaunch_amsgs (s : State) (c : Nat) (f : Launch → Launch) : (s.modLaunch c f).amsgs = s.amsgs := by
  unfold State.modLaunch; split <;> rfl
@[simp] theorem modLaunch_routersDown (s : State) (c : Nat) (f : Launch → Launch) : (s.modLaunch c f).routersDown = s.routersDown := by
  unfold State.modLaunch; split <;> rfl
@[simp] theorem modLaunch_coresDown (s : State) (c : Nat) (f : Launch → Launch) : (s.modLaunch c f).coresDown = s.coresDown := by
  unfold State.modLaunch; split <;> rfl
@[simp] theorem modLaunch_linksDown (s : State) (c : Nat) (f : Launch → Launch) : (s.modLaunch c f).linksDown = s.linksDown := by
  unfold State.modLaunch; split <;> rfl
@[simp] theorem modLaunch_aditsDown (s : State) (c : Nat) (f : Launch → Launch) : (s.modLaunch c f).aditsDown = s.aditsDown := by
  unfold State.modLaunch; split <;> rfl
@[simp] theorem modLaunch_cxlDown (s : State) (c : Nat) (f : Launch → Launch) : (s.modLaunch c f).cxlDown = s.cxlDown := by
  unfold State.modLaunch; split <;> rfl
@[simp] theorem modLaunch_ioDown (s : State) (c : Nat) (f : Launch → Launch) : (s.modLaunch c f).ioDown = s.ioDown := by
  unfold State.modLaunch; split <;> rfl
@[simp] theorem modLaunch_fencedPc (s : State) (c : Nat) (f : Launch → Launch) : (s.modLaunch c f).fencedPc = s.fencedPc := by
  unfold State.modLaunch; split <;> rfl
@[simp] theorem modLaunch_fencedGroups (s : State) (c : Nat) (f : Launch → Launch) : (s.modLaunch c f).fencedGroups = s.fencedGroups := by
  unfold State.modLaunch; split <;> rfl
@[simp] theorem modLaunch_pcHits (s : State) (c : Nat) (f : Launch → Launch) : (s.modLaunch c f).pcHits = s.pcHits := by
  unfold State.modLaunch; split <;> rfl
@[simp] theorem modLaunch_peerDone (s : State) (c : Nat) (f : Launch → Launch) : (s.modLaunch c f).peerDone = s.peerDone := by
  unfold State.modLaunch; split <;> rfl
@[simp] theorem modLaunch_powered (s : State) (c : Nat) (f : Launch → Launch) : (s.modLaunch c f).powered = s.powered := by
  unfold State.modLaunch; split <;> rfl
@[simp] theorem modLaunch_boot (s : State) (c : Nat) (f : Launch → Launch) : (s.modLaunch c f).boot = s.boot := by
  unfold State.modLaunch; split <;> rfl
@[simp] theorem modLaunch_booting (s : State) (c : Nat) (f : Launch → Launch) : (s.modLaunch c f).booting = s.booting := by
  unfold State.modLaunch; split <;> rfl
@[simp] theorem modLaunch_keyOk (s : State) (c : Nat) (f : Launch → Launch) : (s.modLaunch c f).keyOk = s.keyOk := by
  unfold State.modLaunch; split <;> rfl
@[simp] theorem modLaunch_measured (s : State) (c : Nat) (f : Launch → Launch) : (s.modLaunch c f).measured = s.measured := by
  unfold State.modLaunch; split <;> rfl
@[simp] theorem modLaunch_attest (s : State) (c : Nat) (f : Launch → Launch) : (s.modLaunch c f).attest = s.attest := by
  unfold State.modLaunch; split <;> rfl
@[simp] theorem modLaunch_reports (s : State) (c : Nat) (f : Launch → Launch) : (s.modLaunch c f).reports = s.reports := by
  unfold State.modLaunch; split <;> rfl
@[simp] theorem modLaunch_gmEvents (s : State) (c : Nat) (f : Launch → Launch) : (s.modLaunch c f).gmEvents = s.gmEvents := by
  unfold State.modLaunch; split <;> rfl
@[simp] theorem modLaunch_irqs (s : State) (c : Nat) (f : Launch → Launch) : (s.modLaunch c f).irqs = s.irqs := by
  unfold State.modLaunch; split <;> rfl
@[simp] theorem modLaunch_unitPts (s : State) (c : Nat) (f : Launch → Launch) : (s.modLaunch c f).unitPts = s.unitPts := by
  unfold State.modLaunch; split <;> rfl
@[simp] theorem modLaunch_outerPts (s : State) (c : Nat) (f : Launch → Launch) : (s.modLaunch c f).outerPts = s.outerPts := by
  unfold State.modLaunch; split <;> rfl
@[simp] theorem modLaunch_outerCopies (s : State) (c : Nat) (f : Launch → Launch) : (s.modLaunch c f).outerCopies = s.outerCopies := by
  unfold State.modLaunch; split <;> rfl
@[simp] theorem modLaunch_away (s : State) (c : Nat) (f : Launch → Launch) : (s.modLaunch c f).away = s.away := by
  unfold State.modLaunch; split <;> rfl
@[simp] theorem modLaunch_reply (s : State) (c : Nat) (f : Launch → Launch) : (s.modLaunch c f).reply = s.reply := by
  unfold State.modLaunch; split <;> rfl
@[simp] theorem modLaunch_agenda (s : State) (c : Nat) (f : Launch → Launch) : (s.modLaunch c f).agenda = s.agenda := by
  unfold State.modLaunch; split <;> rfl
@[simp] theorem modLaunch_held (s : State) (c : Nat) (f : Launch → Launch) : (s.modLaunch c f).held = s.held := by
  unfold State.modLaunch; split <;> rfl
@[simp] theorem modLaunch_actor (s : State) (c : Nat) (f : Launch → Launch) : (s.modLaunch c f).actor = s.actor := by
  unfold State.modLaunch; split <;> rfl
@[simp] theorem modLaunch_free (s : State) (c : Nat) (f : Launch → Launch) : (s.modLaunch c f).free = s.free := by
  unfold State.modLaunch; split <;> rfl
@[simp] theorem modLaunch_nextId (s : State) (c : Nat) (f : Launch → Launch) : (s.modLaunch c f).nextId = s.nextId := by
  unfold State.modLaunch; split <;> rfl

theorem modCrew_of (s : State) (c : Nat) (f : Crew → Crew) (x : Crew) (h : s.crew c = some x) :
    s.modCrew c f = s.setCrew c (f x) := by
  simp [State.modCrew, h]

theorem modCrew_none (s : State) (c : Nat) (f : Crew → Crew) (h : s.crew c = none) : s.modCrew c f = s := by
  simp [State.modCrew, h]

/-! Reads of the parts after an update of one. -/

@[simp] theorem core_setCore (s : State) (c : Nat) (x : Core) : (s.setCore c x).core c = x := by simp [State.core]
@[simp] theorem slice_setSlice (s : State) (c : Nat) (x : Slice) : (s.setSlice c x).slice c = x := by simp [State.slice]
@[simp] theorem ctx_setCtx (s : State) (c : Nat) (x : Ctx) : (s.setCtx c x).ctx c = x := by simp [State.ctx]
@[simp] theorem ring_setRing (s : State) (c : Nat) (x : Ring) : (s.setRing c x).ring c = x := by simp [State.ring]
@[simp] theorem crew_setCrew (s : State) (c : Nat) (x : Crew) : (s.setCrew c x).crew c = some x := by simp [State.crew]

theorem core_setCore_ne (s : State) (c d : Nat) (x : Core) (h : d ≠ c) : (s.setCore c x).core d = s.core d := by
  simp [State.core, tabGet_tabPut_ne _ _ _ _ h]
theorem slice_setSlice_ne (s : State) (c d : Nat) (x : Slice) (h : d ≠ c) : (s.setSlice c x).slice d = s.slice d := by
  simp [State.slice, tabGet_tabPut_ne _ _ _ _ h]
theorem ctx_setCtx_ne (s : State) (c d : Nat) (x : Ctx) (h : d ≠ c) : (s.setCtx c x).ctx d = s.ctx d := by
  simp [State.ctx, tabGet_tabPut_ne _ _ _ _ h]
theorem ring_setRing_ne (s : State) (c d : Nat) (x : Ring) (h : d ≠ c) : (s.setRing c x).ring d = s.ring d := by
  simp [State.ring, tabGet_tabPut_ne _ _ _ _ h]
theorem crew_setCrew_ne (s : State) (c d : Nat) (x : Crew) (h : d ≠ c) : (s.setCrew c x).crew d = s.crew d := by
  simp [State.crew, tabGet_tabPut_ne _ _ _ _ h]

theorem crew_modCrew (s : State) (c : Nat) (f : Crew → Crew) : (s.modCrew c f).crew c = (s.crew c).map f := by
  cases h : s.crew c with
  | none => simp [State.modCrew, h]
  | some x => simp [State.modCrew, h]
theorem crew_modCrew_ne (s : State) (c d : Nat) (f : Crew → Crew) (h : d ≠ c) : (s.modCrew c f).crew d = s.crew d := by
  unfold State.modCrew
  split
  · exact crew_setCrew_ne s c d _ h
  · rfl

@[simp] theorem slice_setCore (s : State) (c d : Nat) (x : Core) : (s.setCore c x).slice d = s.slice d := rfl
@[simp] theorem ctx_setCore (s : State) (c d : Nat) (x : Core) : (s.setCore c x).ctx d = s.ctx d := rfl
@[simp] theorem ring_setCore (s : State) (c d : Nat) (x : Core) : (s.setCore c x).ring d = s.ring d := rfl
@[simp] theorem crew_setCore (s : State) (c d : Nat) (x : Core) : (s.setCore c x).crew d = s.crew d := rfl
@[simp] theorem desc_setCore (s : State) (c d : Nat) (x : Core) : (s.setCore c x).desc d = s.desc d := rfl
@[simp] theorem binding_setCore (s : State) (c d : Nat) (x : Core) : (s.setCore c x).binding d = s.binding d := rfl
@[simp] theorem window_setCore (s : State) (c d : Nat) (x : Core) : (s.setCore c x).window d = s.window d := rfl
@[simp] theorem island_setCore (s : State) (c d : Nat) (x : Core) : (s.setCore c x).island d = s.island d := rfl
@[simp] theorem launch_setCore (s : State) (c d : Nat) (x : Core) : (s.setCore c x).launch d = s.launch d := rfl
@[simp] theorem core_setSlice (s : State) (c d : Nat) (x : Slice) : (s.setSlice c x).core d = s.core d := rfl
@[simp] theorem ctx_setSlice (s : State) (c d : Nat) (x : Slice) : (s.setSlice c x).ctx d = s.ctx d := rfl
@[simp] theorem ring_setSlice (s : State) (c d : Nat) (x : Slice) : (s.setSlice c x).ring d = s.ring d := rfl
@[simp] theorem crew_setSlice (s : State) (c d : Nat) (x : Slice) : (s.setSlice c x).crew d = s.crew d := rfl
@[simp] theorem desc_setSlice (s : State) (c d : Nat) (x : Slice) : (s.setSlice c x).desc d = s.desc d := rfl
@[simp] theorem binding_setSlice (s : State) (c d : Nat) (x : Slice) : (s.setSlice c x).binding d = s.binding d := rfl
@[simp] theorem window_setSlice (s : State) (c d : Nat) (x : Slice) : (s.setSlice c x).window d = s.window d := rfl
@[simp] theorem island_setSlice (s : State) (c d : Nat) (x : Slice) : (s.setSlice c x).island d = s.island d := rfl
@[simp] theorem launch_setSlice (s : State) (c d : Nat) (x : Slice) : (s.setSlice c x).launch d = s.launch d := rfl
@[simp] theorem core_setCtx (s : State) (c d : Nat) (x : Ctx) : (s.setCtx c x).core d = s.core d := rfl
@[simp] theorem slice_setCtx (s : State) (c d : Nat) (x : Ctx) : (s.setCtx c x).slice d = s.slice d := rfl
@[simp] theorem ring_setCtx (s : State) (c d : Nat) (x : Ctx) : (s.setCtx c x).ring d = s.ring d := rfl
@[simp] theorem crew_setCtx (s : State) (c d : Nat) (x : Ctx) : (s.setCtx c x).crew d = s.crew d := rfl
@[simp] theorem desc_setCtx (s : State) (c d : Nat) (x : Ctx) : (s.setCtx c x).desc d = s.desc d := rfl
@[simp] theorem binding_setCtx (s : State) (c d : Nat) (x : Ctx) : (s.setCtx c x).binding d = s.binding d := rfl
@[simp] theorem window_setCtx (s : State) (c d : Nat) (x : Ctx) : (s.setCtx c x).window d = s.window d := rfl
@[simp] theorem island_setCtx (s : State) (c d : Nat) (x : Ctx) : (s.setCtx c x).island d = s.island d := rfl
@[simp] theorem launch_setCtx (s : State) (c d : Nat) (x : Ctx) : (s.setCtx c x).launch d = s.launch d := rfl
@[simp] theorem core_setRing (s : State) (c d : Nat) (x : Ring) : (s.setRing c x).core d = s.core d := rfl
@[simp] theorem slice_setRing (s : State) (c d : Nat) (x : Ring) : (s.setRing c x).slice d = s.slice d := rfl
@[simp] theorem ctx_setRing (s : State) (c d : Nat) (x : Ring) : (s.setRing c x).ctx d = s.ctx d := rfl
@[simp] theorem crew_setRing (s : State) (c d : Nat) (x : Ring) : (s.setRing c x).crew d = s.crew d := rfl
@[simp] theorem desc_setRing (s : State) (c d : Nat) (x : Ring) : (s.setRing c x).desc d = s.desc d := rfl
@[simp] theorem binding_setRing (s : State) (c d : Nat) (x : Ring) : (s.setRing c x).binding d = s.binding d := rfl
@[simp] theorem window_setRing (s : State) (c d : Nat) (x : Ring) : (s.setRing c x).window d = s.window d := rfl
@[simp] theorem island_setRing (s : State) (c d : Nat) (x : Ring) : (s.setRing c x).island d = s.island d := rfl
@[simp] theorem launch_setRing (s : State) (c d : Nat) (x : Ring) : (s.setRing c x).launch d = s.launch d := rfl
@[simp] theorem core_setCrew (s : State) (c d : Nat) (x : Crew) : (s.setCrew c x).core d = s.core d := rfl
@[simp] theorem slice_setCrew (s : State) (c d : Nat) (x : Crew) : (s.setCrew c x).slice d = s.slice d := rfl
@[simp] theorem ctx_setCrew (s : State) (c d : Nat) (x : Crew) : (s.setCrew c x).ctx d = s.ctx d := rfl
@[simp] theorem ring_setCrew (s : State) (c d : Nat) (x : Crew) : (s.setCrew c x).ring d = s.ring d := rfl
@[simp] theorem desc_setCrew (s : State) (c d : Nat) (x : Crew) : (s.setCrew c x).desc d = s.desc d := rfl
@[simp] theorem binding_setCrew (s : State) (c d : Nat) (x : Crew) : (s.setCrew c x).binding d = s.binding d := rfl
@[simp] theorem window_setCrew (s : State) (c d : Nat) (x : Crew) : (s.setCrew c x).window d = s.window d := rfl
@[simp] theorem island_setCrew (s : State) (c d : Nat) (x : Crew) : (s.setCrew c x).island d = s.island d := rfl
@[simp] theorem launch_setCrew (s : State) (c d : Nat) (x : Crew) : (s.setCrew c x).launch d = s.launch d := rfl
@[simp] theorem core_modCrew (s : State) (c d : Nat) (f : Crew → Crew) : (s.modCrew c f).core d = s.core d := by
  simp [State.core]
@[simp] theorem slice_modCrew (s : State) (c d : Nat) (f : Crew → Crew) : (s.modCrew c f).slice d = s.slice d := by
  simp [State.slice]
@[simp] theorem ctx_modCrew (s : State) (c d : Nat) (f : Crew → Crew) : (s.modCrew c f).ctx d = s.ctx d := by
  simp [State.ctx]
@[simp] theorem ring_modCrew (s : State) (c d : Nat) (f : Crew → Crew) : (s.modCrew c f).ring d = s.ring d := by
  simp [State.ring]
@[simp] theorem desc_modCrew (s : State) (c d : Nat) (f : Crew → Crew) : (s.modCrew c f).desc d = s.desc d := by
  simp [State.desc]
@[simp] theorem binding_modCrew (s : State) (c d : Nat) (f : Crew → Crew) : (s.modCrew c f).binding d = s.binding d := by
  simp [State.binding]
@[simp] theorem window_modCrew (s : State) (c d : Nat) (f : Crew → Crew) : (s.modCrew c f).window d = s.window d := by
  simp [State.window]
@[simp] theorem island_modCrew (s : State) (c d : Nat) (f : Crew → Crew) : (s.modCrew c f).island d = s.island d := by
  simp [State.island]
@[simp] theorem launch_modCrew (s : State) (c d : Nat) (f : Crew → Crew) : (s.modCrew c f).launch d = s.launch d := by
  simp [State.launch]
@[simp] theorem core_modLaunch (s : State) (c d : Nat) (f : Launch → Launch) : (s.modLaunch c f).core d = s.core d := by
  simp [State.core]
@[simp] theorem slice_modLaunch (s : State) (c d : Nat) (f : Launch → Launch) : (s.modLaunch c f).slice d = s.slice d := by
  simp [State.slice]
@[simp] theorem ctx_modLaunch (s : State) (c d : Nat) (f : Launch → Launch) : (s.modLaunch c f).ctx d = s.ctx d := by
  simp [State.ctx]
@[simp] theorem ring_modLaunch (s : State) (c d : Nat) (f : Launch → Launch) : (s.modLaunch c f).ring d = s.ring d := by
  simp [State.ring]
@[simp] theorem crew_modLaunch (s : State) (c d : Nat) (f : Launch → Launch) : (s.modLaunch c f).crew d = s.crew d := by
  simp [State.crew]
@[simp] theorem desc_modLaunch (s : State) (c d : Nat) (f : Launch → Launch) : (s.modLaunch c f).desc d = s.desc d := by
  simp [State.desc]
@[simp] theorem binding_modLaunch (s : State) (c d : Nat) (f : Launch → Launch) : (s.modLaunch c f).binding d = s.binding d := by
  simp [State.binding]
@[simp] theorem window_modLaunch (s : State) (c d : Nat) (f : Launch → Launch) : (s.modLaunch c f).window d = s.window d := by
  simp [State.window]
@[simp] theorem island_modLaunch (s : State) (c d : Nat) (f : Launch → Launch) : (s.modLaunch c f).island d = s.island d := by
  simp [State.island]

end Sys2Proof.Machine
end

