-- ==== Sys2Proof/Laws/Memory.lean ====
section
/-! SUPPORT. Byte memories: what a read answers after a write, and that every operation keeps the canonical form. -/

namespace Sys2Proof.Machine

@[simp] theorem memGet_nil (a : Nat) : memGet [] a = 0 := rfl

/-- What the canonical form says of a list with a first cell. -/
theorem memWfFrom_cons (lo i : Nat) (b : Byte) (r : Mem) :
    memWfFrom (some lo) ((i, b) :: r) = true ↔ lo < i ∧ b ≠ 0 ∧ memWfFrom (some i) r = true := by
  simp [memWfFrom, and_assoc]

theorem memWf_cons (i : Nat) (b : Byte) (r : Mem) :
    Memory.wf ((i, b) :: r) = true ↔ b ≠ 0 ∧ memWfFrom (some i) r = true := by
  simp [Memory.wf, memWfFrom]

theorem memPut_nil (a : Nat) (b : Byte) : memPut [] a b = if b = 0 then [] else [(a, b)] := by
  simp [memPut]

theorem memPut_cons (i a : Nat) (b c : Byte) (r : Mem) :
    memPut ((i, c) :: r) a b =
      if a < i then (if b = 0 then (i, c) :: r else (a, b) :: (i, c) :: r)
      else if a = i then (if b = 0 then r else (a, b) :: r) else (i, c) :: memPut r a b := by
  simp [memPut]

theorem memGet_cons (i a : Nat) (b : Byte) (r : Mem) : memGet ((i, b) :: r) a = if i = a then b else memGet r a := by
  simp [memGet]

/-- In a canonical memory no address at or below the bound is listed. -/
theorem memGet_below (m : Mem) (lo a : Nat) (h : memWfFrom (some lo) m = true) (ha : a ≤ lo) : memGet m a = 0 := by
  induction m generalizing lo with
  | nil => rfl
  | cons e r ih =>
    obtain ⟨i, b⟩ := e
    rw [memWfFrom_cons] at h
    rw [memGet_cons, if_neg (by omega)]
    exact ih i h.2.2 (by omega)

/-- A weaker bound holds too. -/
theorem memWfFrom_mono (m : Mem) (lo lo' : Nat) (h : memWfFrom (some lo) m = true) (hl : lo' ≤ lo) :
    memWfFrom (some lo') m = true := by
  cases m with
  | nil => rfl
  | cons e r =>
    obtain ⟨i, b⟩ := e
    rw [memWfFrom_cons] at h ⊢
    exact ⟨by omega, h.2⟩

theorem memWf_of_from (m : Mem) (lo : Nat) (h : memWfFrom (some lo) m = true) : Memory.wf m = true := by
  cases m with
  | nil => rfl
  | cons e r =>
    obtain ⟨i, b⟩ := e
    rw [memWfFrom_cons] at h
    rw [memWf_cons]
    exact h.2

theorem memPut_from (m : Mem) (lo a : Nat) (b : Byte) (h : memWfFrom (some lo) m = true) (ha : lo < a) :
    memWfFrom (some lo) (memPut m a b) = true := by
  induction m generalizing lo with
  | nil =>
    rw [memPut_nil]
    split
    · rfl
    · rename_i hb
      rw [memWfFrom_cons]
      exact ⟨ha, hb, rfl⟩
  | cons e r ih =>
    obtain ⟨i, c⟩ := e
    have h0 := h
    rw [memWfFrom_cons] at h
    obtain ⟨hi, hc, hr⟩ := h
    rw [memPut_cons]
    split
    · rename_i hlt
      split
      · exact h0
      · rename_i hb
        rw [memWfFrom_cons, memWfFrom_cons]
        exact ⟨ha, hb, hlt, hc, hr⟩
    · split
      · rename_i heq
        subst heq
        split
        · exact memWfFrom_mono r a lo hr (by omega)
        · rename_i hb
          rw [memWfFrom_cons]
          exact ⟨ha, hb, hr⟩
      · rw [memWfFrom_cons]
        exact ⟨hi, hc, ih i hr (by omega)⟩

/-- Writing a byte keeps the canonical form. -/
theorem memPut_wf (m : Mem) (a : Nat) (b : Byte) (h : Memory.wf m = true) : Memory.wf (memPut m a b) = true := by
  cases m with
  | nil =>
    rw [memPut_nil]
    split
    · rfl
    · rename_i hb
      rw [memWf_cons]
      exact ⟨hb, rfl⟩
  | cons e r =>
    obtain ⟨i, c⟩ := e
    have h0 := h
    rw [memWf_cons] at h
    obtain ⟨hc, hr⟩ := h
    rw [memPut_cons]
    split
    · rename_i hlt
      split
      · exact h0
      · rename_i hb
        rw [memWf_cons, memWfFrom_cons]
        exact ⟨hb, hlt, hc, hr⟩
    · split
      · rename_i heq
        subst heq
        split
        · exact memWf_of_from r a hr
        · rename_i hb
          rw [memWf_cons]
          exact ⟨hb, hr⟩
      · rw [memWf_cons]
        exact ⟨hc, memPut_from r i a b hr (by omega)⟩

/-- Writing bytes keeps the canonical form. -/
theorem memWrite_wf (m : Mem) (a : Nat) (bs : List Byte) (h : Memory.wf m = true) :
    Memory.wf (memWrite m a bs) = true := by
  induction bs generalizing m a with
  | nil => exact h
  | cons b r ih => exact ih _ _ (memPut_wf m a b h)

theorem memFilter_from (m : Mem) (lo : Nat) (p : Nat × Byte → Bool) (h : memWfFrom (some lo) m = true) :
    memWfFrom (some lo) (m.filter p) = true := by
  induction m generalizing lo with
  | nil => rfl
  | cons e r ih =>
    obtain ⟨i, b⟩ := e
    rw [memWfFrom_cons] at h
    simp only [List.filter]
    split
    · rw [memWfFrom_cons]
      exact ⟨h.1, h.2.1, ih i h.2.2⟩
    · exact memWfFrom_mono _ i lo (ih i h.2.2) (by omega)

/-- Keeping some of the bytes keeps the canonical form. -/
theorem memFilter_wf (m : Mem) (p : Nat × Byte → Bool) (h : Memory.wf m = true) : Memory.wf (m.filter p) = true := by
  cases m with
  | nil => rfl
  | cons e r =>
    obtain ⟨i, b⟩ := e
    rw [memWf_cons] at h
    simp only [List.filter]
    split
    · rw [memWf_cons]
      exact ⟨h.1, memFilter_from r i p h.2⟩
    · exact memWf_of_from _ i (memFilter_from r i p h.2)

theorem memClear_wf (m : Mem) (a n : Nat) (h : Memory.wf m = true) : Memory.wf (memClear m a n) = true :=
  memFilter_wf m _ h

/-- A byte reads as it was written, in a canonical memory. -/
theorem memGet_memPut_from (m : Mem) (lo a : Nat) (b : Byte) (h : memWfFrom (some lo) m = true) :
    memGet (memPut m a b) a = b := by
  induction m generalizing lo with
  | nil =>
    rw [memPut_nil]
    split
    · rename_i hb
      exact hb.symm
    · rw [memGet_cons, if_pos rfl]
  | cons e r ih =>
    obtain ⟨i, c⟩ := e
    rw [memWfFrom_cons] at h
    obtain ⟨-, -, hr⟩ := h
    rw [memPut_cons]
    split
    · split
      · rename_i hb
        rw [memGet_cons, if_neg (by omega), hb]
        exact memGet_below r i a hr (by omega)
      · rw [memGet_cons, if_pos rfl]
    · split
      · rename_i heq
        subst heq
        split
        · rename_i hb
          rw [hb]
          exact memGet_below r a a hr (by omega)
        · rw [memGet_cons, if_pos rfl]
      · rename_i hne
        rw [memGet_cons, if_neg (fun e => hne e.symm)]
        exact ih i hr

theorem memGet_memPut (m : Mem) (a : Nat) (b : Byte) (h : Memory.wf m = true) : memGet (memPut m a b) a = b := by
  cases m with
  | nil => exact memGet_memPut_from [] 0 a b rfl
  | cons e r =>
    obtain ⟨i, c⟩ := e
    rw [memWf_cons] at h
    obtain ⟨-, hr⟩ := h
    rw [memPut_cons]
    split
    · split
      · rename_i hb
        rw [memGet_cons, if_neg (by omega), hb]
        exact memGet_below r i a hr (by omega)
      · rw [memGet_cons, if_pos rfl]
    · split
      · rename_i heq
        subst heq
        split
        · rename_i hb
          rw [hb]
          exact memGet_below r a a hr (by omega)
        · rw [memGet_cons, if_pos rfl]
      · rename_i hne
        rw [memGet_cons, if_neg (fun e => hne e.symm)]
        exact memGet_memPut_from r i a b hr

/-- Every other byte stays as it was. -/
theorem memGet_memPut_ne (m : Mem) (a x : Nat) (b : Byte) (h : x ≠ a) : memGet (memPut m a b) x = memGet m x := by
  induction m with
  | nil =>
    rw [memPut_nil]
    split
    · rfl
    · rw [memGet_cons, if_neg (fun e => h e.symm)]
  | cons e r ih =>
    obtain ⟨i, c⟩ := e
    rw [memPut_cons]
    split
    · split
      · rfl
      · rw [memGet_cons, if_neg (fun e => h e.symm)]
    · split
      · rename_i heq
        subst heq
        have hax : a ≠ x := fun e => h e.symm
        split <;> simp [memGet_cons, hax]
      · rw [memGet_cons, memGet_cons, ih]

/-- Bytes outside a written range stay as they were. -/
theorem memGet_memWrite_outside (m : Mem) (a x : Nat) (bs : List Byte) (h : x < a ∨ a + bs.length ≤ x) :
    memGet (memWrite m a bs) x = memGet m x := by
  induction bs generalizing m a with
  | nil => rfl
  | cons b r ih =>
    simp only [List.length_cons] at h
    rw [memWrite, ih (memPut m a b) (a + 1) (by omega), memGet_memPut_ne m a x b (by omega)]

/-- A written range reads as it was written. -/
theorem memGet_memWrite (m : Mem) (a i : Nat) (bs : List Byte) (h : Memory.wf m = true) (hi : i < bs.length) :
    memGet (memWrite m a bs) (a + i) = bs[i] := by
  induction bs generalizing m a i with
  | nil => exact absurd hi (Nat.not_lt_zero i)
  | cons b r ih =>
    cases i with
    | zero =>
      have h1 := memGet_memWrite_outside (memPut m a b) (a + 1) a r (by omega)
      have h2 := memGet_memPut m a b h
      simpa [memWrite] using h1.trans h2
    | succ k =>
      rw [memWrite, show a + (k + 1) = (a + 1) + k by omega]
      simpa using ih (memPut m a b) (a + 1) k (memPut_wf m a b h) (by simpa using hi)

theorem memRead_memWrite (m : Mem) (a : Nat) (bs : List Byte) (h : Memory.wf m = true) :
    memRead (memWrite m a bs) a bs.length = bs := by
  apply List.ext_getElem
  · simp [memRead]
  · intro i h1 h2
    simp only [memRead, List.getElem_map, List.getElem_range]
    exact memGet_memWrite m a i bs h h2

/-- Cleared bytes read 0; the others stay. -/
theorem memGet_memClear (m : Mem) (a n x : Nat) :
    memGet (memClear m a n) x = if a ≤ x ∧ x < a + n then 0 else memGet m x := by
  induction m with
  | nil => simp [memClear]
  | cons e r ih =>
    obtain ⟨i, b⟩ := e
    unfold memClear at ih ⊢
    by_cases hin : a ≤ i ∧ i < a + n
    · rw [List.filter_cons_of_neg (by simp [hin]), ih]
      split
      · rfl
      · rw [memGet_cons, if_neg (by omega)]
    · rw [List.filter_cons_of_pos (by simpa [imp_iff_not_or] using fun h => Nat.not_lt.mp (fun h2 => hin ⟨h, h2⟩)),
        memGet_cons, memGet_cons, ih]
      split
      · rw [if_neg (by omega)]
      · rfl

end Sys2Proof.Machine
end

