-- ==== Sys2Proof/Laws/Access.lean ====
section
/-! SUPPORT. What the operations of an access leave of memory and of the updates held for a line. -/

namespace Sys2Proof.Machine

theorem mem_setLine (s : State) (a l) : (setLine s a l).mem = s.mem := rfl

theorem mem_noteRts (s : State) (a t) : (noteRts s a t).mem = s.mem := by
  unfold noteRts; split <;> rfl

theorem mem_raiseEvent (s : State) (a b c) : (raiseEvent s a b c).mem = s.mem := by
  unfold raiseEvent; dsimp only; split
  · rfl
  · split <;> rfl

theorem lines_raiseEvent (s : State) (a b c) : (raiseEvent s a b c).lines = s.lines := by
  unfold raiseEvent; dsimp only; split
  · rfl
  · split <;> rfl

theorem partials_lineOf (s : State) (a) : (lineOf s a).partials = match tabGet s.lines (a/128) with | some x => x.partials | none => [] := by
  unfold lineOf; dsimp only
  cases h : tabGet s.lines (a/128) with
  | none => rfl
  | some x => simp only []; split <;> rfl

theorem partials_setLine (s : State) (a b l) :
    (lineOf (setLine s b l) a).partials = if a / 128 = b / 128 then l.partials else (lineOf s a).partials := by
  rw [partials_lineOf]
  simp only [setLine]
  by_cases h : a / 128 = b / 128
  · rw [h, tabGet_tabPut_same]; simp
  · rw [tabGet_tabPut_ne _ _ _ _ h, ← partials_lineOf, if_neg h]

/-- No update is held for any line (R124). -/
def NoPartials (s : State) : Prop := ∀ a, (lineOf s a).partials = []

theorem NoPartials.of_lines {s t : State} (h : NoPartials s) (e : t.lines = s.lines) : NoPartials t := by
  intro a
  rw [partials_lineOf, e, ← partials_lineOf]
  exact h a

theorem NoPartials.setLine {s : State} (h : NoPartials s) (b l) (hl : l.partials = []) : NoPartials (setLine s b l) := by
  intro a
  rw [partials_setLine]
  split
  · exact hl
  · exact h a

theorem mergeLine_no_partials (s : State) (a p) (h : NoPartials s) : mergeLine s a p = s := by
  unfold mergeLine; simp [h a]

/-- One state's memory is another's, and no update is held in it. -/
def Quiet (s t : State) : Prop := t.mem = s.mem ∧ NoPartials t

theorem Quiet.trans {s t u : State} (h : Quiet s t) (k : Quiet t u) : Quiet s u := ⟨k.1.trans h.1, k.2⟩

@[simp] theorem mem_count (s : State) (d c n) : (s.count d c n).mem = s.mem := by
  unfold State.count; split <;> rfl

@[simp] theorem lines_count (s : State) (d c n) : (s.count d c n).lines = s.lines := by
  unfold State.count; split <;> rfl

theorem lines_modSlice (s : State) (l f) : (s.modSlice l f).lines = s.lines := rfl

theorem quiet_raiseEvent (s : State) (a b c) (h : NoPartials s) : Quiet s (raiseEvent s a b c) :=
  ⟨mem_raiseEvent s a b c, h.of_lines (lines_raiseEvent s a b c)⟩

theorem quiet_setLine (s : State) (a l) (h : NoPartials s) (hl : l.partials = []) : Quiet s (setLine s a l) :=
  ⟨rfl, h.setLine a l hl⟩

theorem quiet_fillHome (s : State) (a w) (h : NoPartials s) : Quiet s (fillHome s a w) := by
  unfold fillHome; dsimp only
  repeat' split
  all_goals first
    | exact ⟨rfl, h⟩
    | exact quiet_setLine s a _ h (h a)
    | exact ((quiet_raiseEvent s _ _ _ h).trans (quiet_setLine _ a _ (quiet_raiseEvent s _ _ _ h).2 (h a))).trans
        (quiet_raiseEvent _ _ _ _ ((quiet_raiseEvent s _ _ _ h).2.setLine a _ (h a)))

theorem quiet_evictLine (s : State) (n) (h : NoPartials s) : Quiet s (evictLine s n) := by
  unfold evictLine; dsimp only
  split
  · exact ⟨rfl, h⟩
  · rw [mergeLine_no_partials s _ 0 h]
    split
    · exact ⟨rfl, h⟩
    · split
      · refine ⟨(mem_count _ _ _ _).trans (mem_raiseEvent _ _ _ _), NoPartials.setLine (h.of_lines ?_) _ _ (h _)⟩
        exact (lines_count _ _ _ _).trans (lines_raiseEvent _ _ _ _)
      · refine ⟨mem_count _ _ _ _, NoPartials.setLine (h.of_lines ?_) _ _ (h _)⟩
        exact lines_count _ _ _ _

theorem quiet_makeLineRoom (s : State) (a) (h : NoPartials s) : Quiet s (makeLineRoom s a) := by
  unfold makeLineRoom; dsimp only
  split
  · exact ⟨rfl, h⟩
  · split
    · exact quiet_evictLine s.draw.2 _ (h.of_lines rfl)
    · exact ⟨rfl, h⟩

theorem quiet_missBeyond (s : State) (a w) (h : NoPartials s) : Quiet s (missBeyond s a w) := by
  unfold missBeyond
  split
  · split
    · exact ⟨rfl, h⟩
    · exact quiet_raiseEvent s _ _ _ h
  · exact ⟨rfl, h⟩

theorem quiet_touchHome (s : State) (a w) (h : NoPartials s) : Quiet s (touchHome s a w) := by
  unfold touchHome; dsimp only
  split
  · exact ⟨rfl, h⟩
  split
  case isFalse => exact quiet_missBeyond s a w h
  · exact (quiet_makeLineRoom s a h).trans (quiet_fillHome _ a w (quiet_makeLineRoom s a h).2)

theorem joinLine_no_partials (s : State) (a c) (h : NoPartials s) : joinLine s a c = s := by
  unfold joinLine; simp [h a]

theorem joinBy_no_partials (s : State) (a w) (h : NoPartials s) : joinBy s a w = s := by
  unfold joinBy
  split
  · exact joinLine_no_partials s a _ h
  · rfl

theorem mem_completeWait (s : State) (a b c d f) : (completeWait s a b c d f).mem = s.mem := by
  unfold completeWait; dsimp only
  repeat' split
  all_goals rfl

theorem mem_observeLine (s : State) (a b) : (observeLine s a b).mem = s.mem := by
  unfold observeLine; dsimp only
  repeat' split
  all_goals simp [mem_noteRts, mem_setLine]

theorem mem_foldl {α} (f : State → α → State) (h : ∀ s x, (f s x).mem = s.mem) (l : List α) (s : State) : (l.foldl f s).mem = s.mem := by
  induction l generalizing s with
  | nil => rfl
  | cons x r ih => rw [List.foldl_cons, ih, h]

theorem mem_countWait (s : State) (c b) : (countWait s c b).mem = s.mem := by
  unfold countWait; split
  · exact mem_count _ _ _ _
  · rfl

theorem mem_detectIn (s : State) (a n b m f) : (detectIn s a n b m f).mem = s.mem := by
  unfold detectIn; dsimp only; repeat' split
  all_goals rfl

theorem mem_detect (s : State) (a n f) : (detect s a n f).mem = s.mem := by
  unfold detect; split
  · rfl
  · exact mem_detectIn _ _ _ _ _ _

theorem mem_fireMonitors (s : State) (l a m) : (fireMonitors s l a m).mem = s.mem := by
  unfold fireMonitors; dsimp only
  split
  · rw [mem_foldl _ (fun s x => by rw [mem_countWait, mem_observeLine, mem_completeWait])]
    exact mem_detect _ _ _ _
  · exact mem_detect _ _ _ _

theorem mem_evalMonitors (s : State) (a) : (evalMonitors s a).mem = s.mem := by
  unfold evalMonitors; dsimp only
  repeat' split
  all_goals first
    | rfl
    | exact mem_fireMonitors _ _ _ _

theorem mem_wakeRing (s : State) (a n r) : (wakeRing s a n r).mem = s.mem := by
  unfold wakeRing; dsimp only; split <;> rfl

theorem mem_wakeRings (s : State) (a n) : (wakeRings s a n).mem = s.mem := by
  unfold wakeRings; split
  · exact mem_foldl _ (fun s r => mem_wakeRing s _ _ _) _ _
  · rfl

theorem mem_evalRange (s : State) (a n) : (evalRange s a n).mem = s.mem := by
  unfold evalRange; dsimp only
  split
  · exact mem_wakeRings _ _ _
  · rw [mem_foldl _ (fun s x => mem_evalMonitors s _), mem_wakeRings]

theorem mem_clearCovered (s : State) (r) : (clearCovered s r).mem = s.mem := by
  unfold clearCovered; split <;> rfl

theorem mem_setCore (s : State) (c x) : (s.setCore c x).mem = s.mem := rfl

theorem mem_settle (s : State) (c v) : (settle s c v).mem = s.mem := by
  unfold settle; dsimp only
  repeat' split
  all_goals
    first
    | exact mem_clearCovered _ _
    | (rw [mem_foldl _ (fun s x => mem_evalRange s _ _), mem_clearCovered])
    | (rw [mem_setCore, mem_foldl _ (fun s x => mem_evalRange s _ _), mem_clearCovered])

theorem mem_modCrew (s : State) (a f) : (s.modCrew a f).mem = s.mem := by
  unfold State.modCrew; split <;> rfl

theorem quiet_foldl {α : Type} (f : State → α → State) (hf : ∀ s x, NoPartials s → Quiet s (f s x)) (l : List α)
    (s : State) (h : NoPartials s) : Quiet s (l.foldl f s) := by
  induction l generalizing s with
  | nil => exact ⟨rfl, h⟩
  | cons x r ih => exact (hf s x h).trans (ih _ (hf s x h).2)

theorem quiet_tlbFill (s : State) (t e) (h : NoPartials s) : Quiet s (tlbFill s t e) := by
  unfold tlbFill tlbRoom; dsimp only
  repeat' split
  all_goals exact ⟨rfl, h.of_lines rfl⟩

theorem quiet_noteXlate (s : State) (a x) (h : NoPartials s) (hu : x.upd = []) : Quiet s (noteXlate s a x) := by
  unfold noteXlate noteWalk; simp only [hu, List.foldl_nil]
  refine quiet_foldl _ ?_ _ s h
  intro s t h
  split
  · exact ⟨rfl, h⟩
  · exact quiet_tlbFill s _ _ h

theorem quiet_asMode (s : State) (a m) (h : NoPartials s) : Quiet s (asMode s a m) := by
  unfold asMode; dsimp only
  repeat' split
  all_goals first
    | exact ⟨rfl, h⟩
    | exact ⟨rfl, h.setLine _ _ (h a)⟩

theorem quiet_claimPriv (s : State) (x : Xlate) (c) (h : NoPartials s) : Quiet s (claimPriv s x c) := by
  unfold claimPriv fixPriv; dsimp only
  repeat' split
  all_goals first
    | exact ⟨rfl, h⟩
    | exact quiet_asMode s _ _ h
    | exact ⟨rfl, h.setLine _ _ (h (privBase x))⟩

theorem mem_ownerStore (s : State) (p a b w) (h : NoPartials s) : (ownerStore s p a b w).2.mem = memWrite s.mem a b := by
  have ht := quiet_touchHome s a w h
  unfold ownerStore; dsimp only
  rw [mem_evalRange]
  show memWrite (noteRts _ _ _).mem _ _ = _
  rw [mem_noteRts, mem_setLine, joinBy_no_partials _ _ _ ht.2, mergeLine_no_partials _ _ _ ht.2, ht.1]

theorem mem_storeHbm (s : State) (c p m a b w) (h : NoPartials s) (hm : m ≠ 1) : (storeHbm s c p m a b w).st.mem = memWrite s.mem a b := by
  have ht := quiet_touchHome s a (some w) h
  unfold storeHbm
  split
  · exact mem_ownerStore _ _ _ _ _ h
  · exact absurd rfl hm
  · dsimp only
    rw [mem_evalRange]
    show memWrite (mergeLine _ _).mem _ _ = _
    rw [joinBy_no_partials _ _ _ ht.2, mergeLine_no_partials _ _ _ ht.2, ht.1]

theorem outside_of_hbm (a) (h : isHbm a = true) : (isHost a || isPeer a) = false := by
  have h' : a < 0xC000000000 := of_decide_eq_true h
  have h1 : ¬ 0x8000000000000 ≤ a := by omega
  have h2 : ¬ 0x1000000000000 ≤ a := by omega
  simp [isHost, isPeer, h1, h2]

theorem length_leBytes (n v) : (leBytes n v).length = n := by
  induction n generalizing v with
  | zero => rfl
  | succ n ih => simp [leBytes, ih]

theorem typeBits_bytes (t) : typeBits t / 8 ≤ 8 := by unfold typeBits; split <;> decide

end Sys2Proof.Machine
end

