-- ==== Sys2Proof/Laws/Crew.lean ====
section
/-! SUPPORT. What each named update of a crew leaves of every field of the crew, and what its register reads answer after
it. -/

namespace Sys2Proof.Machine

/-! `writeS` -/

@[simp] theorem writeS_crew_ctx (c : Crew) (n : Nat) (w : Word) : (c.writeS n w).ctx = c.ctx := rfl
@[simp] theorem writeS_crew_index (c : Crew) (n : Nat) (w : Word) : (c.writeS n w).index = c.index := rfl
@[simp] theorem writeS_crew_launch (c : Crew) (n : Nat) (w : Word) : (c.writeS n w).launch = c.launch := rfl
@[simp] theorem writeS_crew_bin (c : Crew) (n : Nat) (w : Word) : (c.writeS n w).bin = c.bin := rfl
@[simp] theorem writeS_crew_records (c : Crew) (n : Nat) (w : Word) : (c.writeS n w).records = c.records := rfl
@[simp] theorem writeS_crew_kernel (c : Crew) (n : Nat) (w : Word) : (c.writeS n w).kernel = c.kernel := rfl
@[simp] theorem writeS_crew_core (c : Crew) (n : Nat) (w : Word) : (c.writeS n w).core = c.core := rfl
@[simp] theorem writeS_crew_part (c : Crew) (n : Nat) (w : Word) : (c.writeS n w).part = c.part := rfl
@[simp] theorem writeS_crew_state (c : Crew) (n : Nat) (w : Word) : (c.writeS n w).state = c.state := rfl
@[simp] theorem writeS_crew_prio (c : Crew) (n : Nat) (w : Word) : (c.writeS n w).prio = c.prio := rfl
@[simp] theorem writeS_crew_v (c : Crew) (n : Nat) (w : Word) : (c.writeS n w).v = c.v := rfl
@[simp] theorem writeS_crew_s (c : Crew) (n : Nat) (w : Word) : (c.writeS n w).s = tabPut c.s n (.live w) := rfl
@[simp] theorem writeS_crew_p (c : Crew) (n : Nat) (w : Word) : (c.writeS n w).p = c.p := rfl
@[simp] theorem writeS_crew_k (c : Crew) (n : Nat) (w : Word) : (c.writeS n w).k = c.k := rfl
@[simp] theorem writeS_crew_t (c : Crew) (n : Nat) (w : Word) : (c.writeS n w).t = c.t := rfl
@[simp] theorem writeS_crew_lost (c : Crew) (n : Nat) (w : Word) : (c.writeS n w).lost = c.lost := rfl
@[simp] theorem writeS_crew_acc (c : Crew) (n : Nat) (w : Word) : (c.writeS n w).acc = c.acc := rfl
@[simp] theorem writeS_crew_tilesLent (c : Crew) (n : Nat) (w : Word) : (c.writeS n w).tilesLent = c.tilesLent := rfl
@[simp] theorem writeS_crew_flags (c : Crew) (n : Nat) (w : Word) : (c.writeS n w).flags = c.flags := rfl
@[simp] theorem writeS_crew_obl (c : Crew) (n : Nat) (w : Word) : (c.writeS n w).obl = c.obl := rfl
@[simp] theorem writeS_crew_fpctl (c : Crew) (n : Nat) (w : Word) : (c.writeS n w).fpctl = c.fpctl := rfl
@[simp] theorem writeS_crew_sticky (c : Crew) (n : Nat) (w : Word) : (c.writeS n w).sticky = c.sticky := rfl
@[simp] theorem writeS_crew_uintEn (c : Crew) (n : Nat) (w : Word) : (c.writeS n w).uintEn = c.uintEn := rfl
@[simp] theorem writeS_crew_uintPend (c : Crew) (n : Nat) (w : Word) : (c.writeS n w).uintPend = c.uintPend := rfl
@[simp] theorem writeS_crew_uintRun (c : Crew) (n : Nat) (w : Word) : (c.writeS n w).uintRun = c.uintRun := rfl
@[simp] theorem writeS_crew_handler (c : Crew) (n : Nat) (w : Word) : (c.writeS n w).handler = c.handler := rfl
@[simp] theorem writeS_crew_pts (c : Crew) (n : Nat) (w : Word) : (c.writeS n w).pts = c.pts := rfl
@[simp] theorem writeS_crew_engTs (c : Crew) (n : Nat) (w : Word) : (c.writeS n w).engTs = c.engTs := rfl
@[simp] theorem writeS_crew_redTs (c : Crew) (n : Nat) (w : Word) : (c.writeS n w).redTs = c.redTs := rfl
@[simp] theorem writeS_crew_splits (c : Crew) (n : Nat) (w : Word) : (c.writeS n w).splits = c.splits := rfl
@[simp] theorem writeS_crew_divs (c : Crew) (n : Nat) (w : Word) : (c.writeS n w).divs = c.divs := rfl
@[simp] theorem writeS_crew_gangs (c : Crew) (n : Nat) (w : Word) : (c.writeS n w).gangs = c.gangs := rfl
@[simp] theorem writeS_crew_lode (c : Crew) (n : Nat) (w : Word) : (c.writeS n w).lode = c.lode := rfl
@[simp] theorem writeS_crew_slot (c : Crew) (n : Nat) (w : Word) : (c.writeS n w).slot = c.slot := rfl
@[simp] theorem writeS_crew_wdogCount (c : Crew) (n : Nat) (w : Word) : (c.writeS n w).wdogCount = c.wdogCount := rfl
@[simp] theorem writeS_crew_hold (c : Crew) (n : Nat) (w : Word) : (c.writeS n w).hold = c.hold := rfl
@[simp] theorem writeS_crew_pendBrk (c : Crew) (n : Nat) (w : Word) : (c.writeS n w).pendBrk = c.pendBrk := rfl
@[simp] theorem writeS_crew_woken (c : Crew) (n : Nat) (w : Word) : (c.writeS n w).woken = c.woken := rfl
@[simp] theorem writeS_crew_wakes (c : Crew) (n : Nat) (w : Word) : (c.writeS n w).wakes = c.wakes := rfl
@[simp] theorem writeS_crew_stranded (c : Crew) (n : Nat) (w : Word) : (c.writeS n w).stranded = c.stranded := rfl
@[simp] theorem writeS_crew_claimedAt (c : Crew) (n : Nat) (w : Word) : (c.writeS n w).claimedAt = c.claimedAt := rfl
@[simp] theorem writeS_crew_placedAt (c : Crew) (n : Nat) (w : Word) : (c.writeS n w).placedAt = c.placedAt := rfl
@[simp] theorem writeS_crew_warmDone (c : Crew) (n : Nat) (w : Word) : (c.writeS n w).warmDone = c.warmDone := rfl
@[simp] theorem writeS_crew_stallNoted (c : Crew) (n : Nat) (w : Word) : (c.writeS n w).stallNoted = c.stallNoted := rfl
@[simp] theorem writeS_crew_reserve (c : Crew) (n : Nat) (w : Word) : (c.writeS n w).reserve = c.reserve := rfl
@[simp] theorem writeS_crew_svcOut (c : Crew) (n : Nat) (w : Word) : (c.writeS n w).svcOut = c.svcOut := rfl
@[simp] theorem writeS_crew_idleFor (c : Crew) (n : Nat) (w : Word) : (c.writeS n w).idleFor = c.idleFor := rfl
@[simp] theorem writeS_crew_drain (c : Crew) (n : Nat) (w : Word) : (c.writeS n w).drain = c.drain := rfl

/-! `setS` -/

@[simp] theorem setS_crew_ctx (c : Crew) (n : Nat) (r : RegVal) : (c.setS n r).ctx = c.ctx := rfl
@[simp] theorem setS_crew_index (c : Crew) (n : Nat) (r : RegVal) : (c.setS n r).index = c.index := rfl
@[simp] theorem setS_crew_launch (c : Crew) (n : Nat) (r : RegVal) : (c.setS n r).launch = c.launch := rfl
@[simp] theorem setS_crew_bin (c : Crew) (n : Nat) (r : RegVal) : (c.setS n r).bin = c.bin := rfl
@[simp] theorem setS_crew_records (c : Crew) (n : Nat) (r : RegVal) : (c.setS n r).records = c.records := rfl
@[simp] theorem setS_crew_kernel (c : Crew) (n : Nat) (r : RegVal) : (c.setS n r).kernel = c.kernel := rfl
@[simp] theorem setS_crew_core (c : Crew) (n : Nat) (r : RegVal) : (c.setS n r).core = c.core := rfl
@[simp] theorem setS_crew_part (c : Crew) (n : Nat) (r : RegVal) : (c.setS n r).part = c.part := rfl
@[simp] theorem setS_crew_state (c : Crew) (n : Nat) (r : RegVal) : (c.setS n r).state = c.state := rfl
@[simp] theorem setS_crew_prio (c : Crew) (n : Nat) (r : RegVal) : (c.setS n r).prio = c.prio := rfl
@[simp] theorem setS_crew_v (c : Crew) (n : Nat) (r : RegVal) : (c.setS n r).v = c.v := rfl
@[simp] theorem setS_crew_s (c : Crew) (n : Nat) (r : RegVal) : (c.setS n r).s = tabPut c.s n r := rfl
@[simp] theorem setS_crew_p (c : Crew) (n : Nat) (r : RegVal) : (c.setS n r).p = c.p := rfl
@[simp] theorem setS_crew_k (c : Crew) (n : Nat) (r : RegVal) : (c.setS n r).k = c.k := rfl
@[simp] theorem setS_crew_t (c : Crew) (n : Nat) (r : RegVal) : (c.setS n r).t = c.t := rfl
@[simp] theorem setS_crew_lost (c : Crew) (n : Nat) (r : RegVal) : (c.setS n r).lost = c.lost := rfl
@[simp] theorem setS_crew_acc (c : Crew) (n : Nat) (r : RegVal) : (c.setS n r).acc = c.acc := rfl
@[simp] theorem setS_crew_tilesLent (c : Crew) (n : Nat) (r : RegVal) : (c.setS n r).tilesLent = c.tilesLent := rfl
@[simp] theorem setS_crew_flags (c : Crew) (n : Nat) (r : RegVal) : (c.setS n r).flags = c.flags := rfl
@[simp] theorem setS_crew_obl (c : Crew) (n : Nat) (r : RegVal) : (c.setS n r).obl = c.obl := rfl
@[simp] theorem setS_crew_fpctl (c : Crew) (n : Nat) (r : RegVal) : (c.setS n r).fpctl = c.fpctl := rfl
@[simp] theorem setS_crew_sticky (c : Crew) (n : Nat) (r : RegVal) : (c.setS n r).sticky = c.sticky := rfl
@[simp] theorem setS_crew_uintEn (c : Crew) (n : Nat) (r : RegVal) : (c.setS n r).uintEn = c.uintEn := rfl
@[simp] theorem setS_crew_uintPend (c : Crew) (n : Nat) (r : RegVal) : (c.setS n r).uintPend = c.uintPend := rfl
@[simp] theorem setS_crew_uintRun (c : Crew) (n : Nat) (r : RegVal) : (c.setS n r).uintRun = c.uintRun := rfl
@[simp] theorem setS_crew_handler (c : Crew) (n : Nat) (r : RegVal) : (c.setS n r).handler = c.handler := rfl
@[simp] theorem setS_crew_pts (c : Crew) (n : Nat) (r : RegVal) : (c.setS n r).pts = c.pts := rfl
@[simp] theorem setS_crew_engTs (c : Crew) (n : Nat) (r : RegVal) : (c.setS n r).engTs = c.engTs := rfl
@[simp] theorem setS_crew_redTs (c : Crew) (n : Nat) (r : RegVal) : (c.setS n r).redTs = c.redTs := rfl
@[simp] theorem setS_crew_splits (c : Crew) (n : Nat) (r : RegVal) : (c.setS n r).splits = c.splits := rfl
@[simp] theorem setS_crew_divs (c : Crew) (n : Nat) (r : RegVal) : (c.setS n r).divs = c.divs := rfl
@[simp] theorem setS_crew_gangs (c : Crew) (n : Nat) (r : RegVal) : (c.setS n r).gangs = c.gangs := rfl
@[simp] theorem setS_crew_lode (c : Crew) (n : Nat) (r : RegVal) : (c.setS n r).lode = c.lode := rfl
@[simp] theorem setS_crew_slot (c : Crew) (n : Nat) (r : RegVal) : (c.setS n r).slot = c.slot := rfl
@[simp] theorem setS_crew_wdogCount (c : Crew) (n : Nat) (r : RegVal) : (c.setS n r).wdogCount = c.wdogCount := rfl
@[simp] theorem setS_crew_hold (c : Crew) (n : Nat) (r : RegVal) : (c.setS n r).hold = c.hold := rfl
@[simp] theorem setS_crew_pendBrk (c : Crew) (n : Nat) (r : RegVal) : (c.setS n r).pendBrk = c.pendBrk := rfl
@[simp] theorem setS_crew_woken (c : Crew) (n : Nat) (r : RegVal) : (c.setS n r).woken = c.woken := rfl
@[simp] theorem setS_crew_wakes (c : Crew) (n : Nat) (r : RegVal) : (c.setS n r).wakes = c.wakes := rfl
@[simp] theorem setS_crew_stranded (c : Crew) (n : Nat) (r : RegVal) : (c.setS n r).stranded = c.stranded := rfl
@[simp] theorem setS_crew_claimedAt (c : Crew) (n : Nat) (r : RegVal) : (c.setS n r).claimedAt = c.claimedAt := rfl
@[simp] theorem setS_crew_placedAt (c : Crew) (n : Nat) (r : RegVal) : (c.setS n r).placedAt = c.placedAt := rfl
@[simp] theorem setS_crew_warmDone (c : Crew) (n : Nat) (r : RegVal) : (c.setS n r).warmDone = c.warmDone := rfl
@[simp] theorem setS_crew_stallNoted (c : Crew) (n : Nat) (r : RegVal) : (c.setS n r).stallNoted = c.stallNoted := rfl
@[simp] theorem setS_crew_reserve (c : Crew) (n : Nat) (r : RegVal) : (c.setS n r).reserve = c.reserve := rfl
@[simp] theorem setS_crew_svcOut (c : Crew) (n : Nat) (r : RegVal) : (c.setS n r).svcOut = c.svcOut := rfl
@[simp] theorem setS_crew_idleFor (c : Crew) (n : Nat) (r : RegVal) : (c.setS n r).idleFor = c.idleFor := rfl
@[simp] theorem setS_crew_drain (c : Crew) (n : Nat) (r : RegVal) : (c.setS n r).drain = c.drain := rfl

/-! `setV` -/

@[simp] theorem setV_crew_ctx (c : Crew) (n l : Nat) (r : RegVal) : (c.setV n l r).ctx = c.ctx := rfl
@[simp] theorem setV_crew_index (c : Crew) (n l : Nat) (r : RegVal) : (c.setV n l r).index = c.index := rfl
@[simp] theorem setV_crew_launch (c : Crew) (n l : Nat) (r : RegVal) : (c.setV n l r).launch = c.launch := rfl
@[simp] theorem setV_crew_bin (c : Crew) (n l : Nat) (r : RegVal) : (c.setV n l r).bin = c.bin := rfl
@[simp] theorem setV_crew_records (c : Crew) (n l : Nat) (r : RegVal) : (c.setV n l r).records = c.records := rfl
@[simp] theorem setV_crew_kernel (c : Crew) (n l : Nat) (r : RegVal) : (c.setV n l r).kernel = c.kernel := rfl
@[simp] theorem setV_crew_core (c : Crew) (n l : Nat) (r : RegVal) : (c.setV n l r).core = c.core := rfl
@[simp] theorem setV_crew_part (c : Crew) (n l : Nat) (r : RegVal) : (c.setV n l r).part = c.part := rfl
@[simp] theorem setV_crew_state (c : Crew) (n l : Nat) (r : RegVal) : (c.setV n l r).state = c.state := rfl
@[simp] theorem setV_crew_prio (c : Crew) (n l : Nat) (r : RegVal) : (c.setV n l r).prio = c.prio := rfl
@[simp] theorem setV_crew_v (c : Crew) (n l : Nat) (r : RegVal) : (c.setV n l r).v = tabPut c.v (1024 * n + l) r := rfl
@[simp] theorem setV_crew_s (c : Crew) (n l : Nat) (r : RegVal) : (c.setV n l r).s = c.s := rfl
@[simp] theorem setV_crew_p (c : Crew) (n l : Nat) (r : RegVal) : (c.setV n l r).p = c.p := rfl
@[simp] theorem setV_crew_k (c : Crew) (n l : Nat) (r : RegVal) : (c.setV n l r).k = c.k := rfl
@[simp] theorem setV_crew_t (c : Crew) (n l : Nat) (r : RegVal) : (c.setV n l r).t = c.t := rfl
@[simp] theorem setV_crew_lost (c : Crew) (n l : Nat) (r : RegVal) : (c.setV n l r).lost = c.lost := rfl
@[simp] theorem setV_crew_acc (c : Crew) (n l : Nat) (r : RegVal) : (c.setV n l r).acc = c.acc := rfl
@[simp] theorem setV_crew_tilesLent (c : Crew) (n l : Nat) (r : RegVal) : (c.setV n l r).tilesLent = c.tilesLent := rfl
@[simp] theorem setV_crew_flags (c : Crew) (n l : Nat) (r : RegVal) : (c.setV n l r).flags = c.flags := rfl
@[simp] theorem setV_crew_obl (c : Crew) (n l : Nat) (r : RegVal) : (c.setV n l r).obl = c.obl := rfl
@[simp] theorem setV_crew_fpctl (c : Crew) (n l : Nat) (r : RegVal) : (c.setV n l r).fpctl = c.fpctl := rfl
@[simp] theorem setV_crew_sticky (c : Crew) (n l : Nat) (r : RegVal) : (c.setV n l r).sticky = c.sticky := rfl
@[simp] theorem setV_crew_uintEn (c : Crew) (n l : Nat) (r : RegVal) : (c.setV n l r).uintEn = c.uintEn := rfl
@[simp] theorem setV_crew_uintPend (c : Crew) (n l : Nat) (r : RegVal) : (c.setV n l r).uintPend = c.uintPend := rfl
@[simp] theorem setV_crew_uintRun (c : Crew) (n l : Nat) (r : RegVal) : (c.setV n l r).uintRun = c.uintRun := rfl
@[simp] theorem setV_crew_handler (c : Crew) (n l : Nat) (r : RegVal) : (c.setV n l r).handler = c.handler := rfl
@[simp] theorem setV_crew_pts (c : Crew) (n l : Nat) (r : RegVal) : (c.setV n l r).pts = c.pts := rfl
@[simp] theorem setV_crew_engTs (c : Crew) (n l : Nat) (r : RegVal) : (c.setV n l r).engTs = c.engTs := rfl
@[simp] theorem setV_crew_redTs (c : Crew) (n l : Nat) (r : RegVal) : (c.setV n l r).redTs = c.redTs := rfl
@[simp] theorem setV_crew_splits (c : Crew) (n l : Nat) (r : RegVal) : (c.setV n l r).splits = c.splits := rfl
@[simp] theorem setV_crew_divs (c : Crew) (n l : Nat) (r : RegVal) : (c.setV n l r).divs = c.divs := rfl
@[simp] theorem setV_crew_gangs (c : Crew) (n l : Nat) (r : RegVal) : (c.setV n l r).gangs = c.gangs := rfl
@[simp] theorem setV_crew_lode (c : Crew) (n l : Nat) (r : RegVal) : (c.setV n l r).lode = c.lode := rfl
@[simp] theorem setV_crew_slot (c : Crew) (n l : Nat) (r : RegVal) : (c.setV n l r).slot = c.slot := rfl
@[simp] theorem setV_crew_wdogCount (c : Crew) (n l : Nat) (r : RegVal) : (c.setV n l r).wdogCount = c.wdogCount := rfl
@[simp] theorem setV_crew_hold (c : Crew) (n l : Nat) (r : RegVal) : (c.setV n l r).hold = c.hold := rfl
@[simp] theorem setV_crew_pendBrk (c : Crew) (n l : Nat) (r : RegVal) : (c.setV n l r).pendBrk = c.pendBrk := rfl
@[simp] theorem setV_crew_woken (c : Crew) (n l : Nat) (r : RegVal) : (c.setV n l r).woken = c.woken := rfl
@[simp] theorem setV_crew_wakes (c : Crew) (n l : Nat) (r : RegVal) : (c.setV n l r).wakes = c.wakes := rfl
@[simp] theorem setV_crew_stranded (c : Crew) (n l : Nat) (r : RegVal) : (c.setV n l r).stranded = c.stranded := rfl
@[simp] theorem setV_crew_claimedAt (c : Crew) (n l : Nat) (r : RegVal) : (c.setV n l r).claimedAt = c.claimedAt := rfl
@[simp] theorem setV_crew_placedAt (c : Crew) (n l : Nat) (r : RegVal) : (c.setV n l r).placedAt = c.placedAt := rfl
@[simp] theorem setV_crew_warmDone (c : Crew) (n l : Nat) (r : RegVal) : (c.setV n l r).warmDone = c.warmDone := rfl
@[simp] theorem setV_crew_stallNoted (c : Crew) (n l : Nat) (r : RegVal) : (c.setV n l r).stallNoted = c.stallNoted := rfl
@[simp] theorem setV_crew_reserve (c : Crew) (n l : Nat) (r : RegVal) : (c.setV n l r).reserve = c.reserve := rfl
@[simp] theorem setV_crew_svcOut (c : Crew) (n l : Nat) (r : RegVal) : (c.setV n l r).svcOut = c.svcOut := rfl
@[simp] theorem setV_crew_idleFor (c : Crew) (n l : Nat) (r : RegVal) : (c.setV n l r).idleFor = c.idleFor := rfl
@[simp] theorem setV_crew_drain (c : Crew) (n l : Nat) (r : RegVal) : (c.setV n l r).drain = c.drain := rfl

/-! `setSplit` -/

@[simp] theorem setSplit_crew_ctx (c : Crew) (e : Nat) (x : Split) : (c.setSplit e x).ctx = c.ctx := rfl
@[simp] theorem setSplit_crew_index (c : Crew) (e : Nat) (x : Split) : (c.setSplit e x).index = c.index := rfl
@[simp] theorem setSplit_crew_launch (c : Crew) (e : Nat) (x : Split) : (c.setSplit e x).launch = c.launch := rfl
@[simp] theorem setSplit_crew_bin (c : Crew) (e : Nat) (x : Split) : (c.setSplit e x).bin = c.bin := rfl
@[simp] theorem setSplit_crew_records (c : Crew) (e : Nat) (x : Split) : (c.setSplit e x).records = c.records := rfl
@[simp] theorem setSplit_crew_kernel (c : Crew) (e : Nat) (x : Split) : (c.setSplit e x).kernel = c.kernel := rfl
@[simp] theorem setSplit_crew_core (c : Crew) (e : Nat) (x : Split) : (c.setSplit e x).core = c.core := rfl
@[simp] theorem setSplit_crew_part (c : Crew) (e : Nat) (x : Split) : (c.setSplit e x).part = c.part := rfl
@[simp] theorem setSplit_crew_state (c : Crew) (e : Nat) (x : Split) : (c.setSplit e x).state = c.state := rfl
@[simp] theorem setSplit_crew_prio (c : Crew) (e : Nat) (x : Split) : (c.setSplit e x).prio = c.prio := rfl
@[simp] theorem setSplit_crew_v (c : Crew) (e : Nat) (x : Split) : (c.setSplit e x).v = c.v := rfl
@[simp] theorem setSplit_crew_s (c : Crew) (e : Nat) (x : Split) : (c.setSplit e x).s = c.s := rfl
@[simp] theorem setSplit_crew_p (c : Crew) (e : Nat) (x : Split) : (c.setSplit e x).p = c.p := rfl
@[simp] theorem setSplit_crew_k (c : Crew) (e : Nat) (x : Split) : (c.setSplit e x).k = c.k := rfl
@[simp] theorem setSplit_crew_t (c : Crew) (e : Nat) (x : Split) : (c.setSplit e x).t = c.t := rfl
@[simp] theorem setSplit_crew_lost (c : Crew) (e : Nat) (x : Split) : (c.setSplit e x).lost = c.lost := rfl
@[simp] theorem setSplit_crew_acc (c : Crew) (e : Nat) (x : Split) : (c.setSplit e x).acc = c.acc := rfl
@[simp] theorem setSplit_crew_tilesLent (c : Crew) (e : Nat) (x : Split) : (c.setSplit e x).tilesLent = c.tilesLent := rfl
@[simp] theorem setSplit_crew_flags (c : Crew) (e : Nat) (x : Split) : (c.setSplit e x).flags = c.flags := rfl
@[simp] theorem setSplit_crew_obl (c : Crew) (e : Nat) (x : Split) : (c.setSplit e x).obl = c.obl := rfl
@[simp] theorem setSplit_crew_fpctl (c : Crew) (e : Nat) (x : Split) : (c.setSplit e x).fpctl = c.fpctl := rfl
@[simp] theorem setSplit_crew_sticky (c : Crew) (e : Nat) (x : Split) : (c.setSplit e x).sticky = c.sticky := rfl
@[simp] theorem setSplit_crew_uintEn (c : Crew) (e : Nat) (x : Split) : (c.setSplit e x).uintEn = c.uintEn := rfl
@[simp] theorem setSplit_crew_uintPend (c : Crew) (e : Nat) (x : Split) : (c.setSplit e x).uintPend = c.uintPend := rfl
@[simp] theorem setSplit_crew_uintRun (c : Crew) (e : Nat) (x : Split) : (c.setSplit e x).uintRun = c.uintRun := rfl
@[simp] theorem setSplit_crew_handler (c : Crew) (e : Nat) (x : Split) : (c.setSplit e x).handler = c.handler := rfl
@[simp] theorem setSplit_crew_pts (c : Crew) (e : Nat) (x : Split) : (c.setSplit e x).pts = c.pts := rfl
@[simp] theorem setSplit_crew_engTs (c : Crew) (e : Nat) (x : Split) : (c.setSplit e x).engTs = c.engTs := rfl
@[simp] theorem setSplit_crew_redTs (c : Crew) (e : Nat) (x : Split) : (c.setSplit e x).redTs = c.redTs := rfl
@[simp] theorem setSplit_crew_splits (c : Crew) (e : Nat) (x : Split) : (c.setSplit e x).splits = tabPut c.splits e x := rfl
@[simp] theorem setSplit_crew_divs (c : Crew) (e : Nat) (x : Split) : (c.setSplit e x).divs = c.divs := rfl
@[simp] theorem setSplit_crew_gangs (c : Crew) (e : Nat) (x : Split) : (c.setSplit e x).gangs = c.gangs := rfl
@[simp] theorem setSplit_crew_lode (c : Crew) (e : Nat) (x : Split) : (c.setSplit e x).lode = c.lode := rfl
@[simp] theorem setSplit_crew_slot (c : Crew) (e : Nat) (x : Split) : (c.setSplit e x).slot = c.slot := rfl
@[simp] theorem setSplit_crew_wdogCount (c : Crew) (e : Nat) (x : Split) : (c.setSplit e x).wdogCount = c.wdogCount := rfl
@[simp] theorem setSplit_crew_hold (c : Crew) (e : Nat) (x : Split) : (c.setSplit e x).hold = c.hold := rfl
@[simp] theorem setSplit_crew_pendBrk (c : Crew) (e : Nat) (x : Split) : (c.setSplit e x).pendBrk = c.pendBrk := rfl
@[simp] theorem setSplit_crew_woken (c : Crew) (e : Nat) (x : Split) : (c.setSplit e x).woken = c.woken := rfl
@[simp] theorem setSplit_crew_wakes (c : Crew) (e : Nat) (x : Split) : (c.setSplit e x).wakes = c.wakes := rfl
@[simp] theorem setSplit_crew_stranded (c : Crew) (e : Nat) (x : Split) : (c.setSplit e x).stranded = c.stranded := rfl
@[simp] theorem setSplit_crew_claimedAt (c : Crew) (e : Nat) (x : Split) : (c.setSplit e x).claimedAt = c.claimedAt := rfl
@[simp] theorem setSplit_crew_placedAt (c : Crew) (e : Nat) (x : Split) : (c.setSplit e x).placedAt = c.placedAt := rfl
@[simp] theorem setSplit_crew_warmDone (c : Crew) (e : Nat) (x : Split) : (c.setSplit e x).warmDone = c.warmDone := rfl
@[simp] theorem setSplit_crew_stallNoted (c : Crew) (e : Nat) (x : Split) : (c.setSplit e x).stallNoted = c.stallNoted := rfl
@[simp] theorem setSplit_crew_reserve (c : Crew) (e : Nat) (x : Split) : (c.setSplit e x).reserve = c.reserve := rfl
@[simp] theorem setSplit_crew_svcOut (c : Crew) (e : Nat) (x : Split) : (c.setSplit e x).svcOut = c.svcOut := rfl
@[simp] theorem setSplit_crew_idleFor (c : Crew) (e : Nat) (x : Split) : (c.setSplit e x).idleFor = c.idleFor := rfl
@[simp] theorem setSplit_crew_drain (c : Crew) (e : Nat) (x : Split) : (c.setSplit e x).drain = c.drain := rfl

/-! `orSticky` -/

@[simp] theorem orSticky_crew_ctx (c : Crew) (f : Flags) : (c.orSticky f).ctx = c.ctx := rfl
@[simp] theorem orSticky_crew_index (c : Crew) (f : Flags) : (c.orSticky f).index = c.index := rfl
@[simp] theorem orSticky_crew_launch (c : Crew) (f : Flags) : (c.orSticky f).launch = c.launch := rfl
@[simp] theorem orSticky_crew_bin (c : Crew) (f : Flags) : (c.orSticky f).bin = c.bin := rfl
@[simp] theorem orSticky_crew_records (c : Crew) (f : Flags) : (c.orSticky f).records = c.records := rfl
@[simp] theorem orSticky_crew_kernel (c : Crew) (f : Flags) : (c.orSticky f).kernel = c.kernel := rfl
@[simp] theorem orSticky_crew_core (c : Crew) (f : Flags) : (c.orSticky f).core = c.core := rfl
@[simp] theorem orSticky_crew_part (c : Crew) (f : Flags) : (c.orSticky f).part = c.part := rfl
@[simp] theorem orSticky_crew_state (c : Crew) (f : Flags) : (c.orSticky f).state = c.state := rfl
@[simp] theorem orSticky_crew_prio (c : Crew) (f : Flags) : (c.orSticky f).prio = c.prio := rfl
@[simp] theorem orSticky_crew_v (c : Crew) (f : Flags) : (c.orSticky f).v = c.v := rfl
@[simp] theorem orSticky_crew_s (c : Crew) (f : Flags) : (c.orSticky f).s = c.s := rfl
@[simp] theorem orSticky_crew_p (c : Crew) (f : Flags) : (c.orSticky f).p = c.p := rfl
@[simp] theorem orSticky_crew_k (c : Crew) (f : Flags) : (c.orSticky f).k = c.k := rfl
@[simp] theorem orSticky_crew_t (c : Crew) (f : Flags) : (c.orSticky f).t = c.t := rfl
@[simp] theorem orSticky_crew_lost (c : Crew) (f : Flags) : (c.orSticky f).lost = c.lost := rfl
@[simp] theorem orSticky_crew_acc (c : Crew) (f : Flags) : (c.orSticky f).acc = c.acc := rfl
@[simp] theorem orSticky_crew_tilesLent (c : Crew) (f : Flags) : (c.orSticky f).tilesLent = c.tilesLent := rfl
@[simp] theorem orSticky_crew_flags (c : Crew) (f : Flags) : (c.orSticky f).flags = c.flags := rfl
@[simp] theorem orSticky_crew_obl (c : Crew) (f : Flags) : (c.orSticky f).obl = c.obl := rfl
@[simp] theorem orSticky_crew_fpctl (c : Crew) (f : Flags) : (c.orSticky f).fpctl = c.fpctl := rfl
@[simp] theorem orSticky_crew_sticky (c : Crew) (f : Flags) : (c.orSticky f).sticky = c.sticky ||| f := rfl
@[simp] theorem orSticky_crew_uintEn (c : Crew) (f : Flags) : (c.orSticky f).uintEn = c.uintEn := rfl
@[simp] theorem orSticky_crew_uintPend (c : Crew) (f : Flags) : (c.orSticky f).uintPend = c.uintPend := rfl
@[simp] theorem orSticky_crew_uintRun (c : Crew) (f : Flags) : (c.orSticky f).uintRun = c.uintRun := rfl
@[simp] theorem orSticky_crew_handler (c : Crew) (f : Flags) : (c.orSticky f).handler = c.handler := rfl
@[simp] theorem orSticky_crew_pts (c : Crew) (f : Flags) : (c.orSticky f).pts = c.pts := rfl
@[simp] theorem orSticky_crew_engTs (c : Crew) (f : Flags) : (c.orSticky f).engTs = c.engTs := rfl
@[simp] theorem orSticky_crew_redTs (c : Crew) (f : Flags) : (c.orSticky f).redTs = c.redTs := rfl
@[simp] theorem orSticky_crew_splits (c : Crew) (f : Flags) : (c.orSticky f).splits = c.splits := rfl
@[simp] theorem orSticky_crew_divs (c : Crew) (f : Flags) : (c.orSticky f).divs = c.divs := rfl
@[simp] theorem orSticky_crew_gangs (c : Crew) (f : Flags) : (c.orSticky f).gangs = c.gangs := rfl
@[simp] theorem orSticky_crew_lode (c : Crew) (f : Flags) : (c.orSticky f).lode = c.lode := rfl
@[simp] theorem orSticky_crew_slot (c : Crew) (f : Flags) : (c.orSticky f).slot = c.slot := rfl
@[simp] theorem orSticky_crew_wdogCount (c : Crew) (f : Flags) : (c.orSticky f).wdogCount = c.wdogCount := rfl
@[simp] theorem orSticky_crew_hold (c : Crew) (f : Flags) : (c.orSticky f).hold = c.hold := rfl
@[simp] theorem orSticky_crew_pendBrk (c : Crew) (f : Flags) : (c.orSticky f).pendBrk = c.pendBrk := rfl
@[simp] theorem orSticky_crew_woken (c : Crew) (f : Flags) : (c.orSticky f).woken = c.woken := rfl
@[simp] theorem orSticky_crew_wakes (c : Crew) (f : Flags) : (c.orSticky f).wakes = c.wakes := rfl
@[simp] theorem orSticky_crew_stranded (c : Crew) (f : Flags) : (c.orSticky f).stranded = c.stranded := rfl
@[simp] theorem orSticky_crew_claimedAt (c : Crew) (f : Flags) : (c.orSticky f).claimedAt = c.claimedAt := rfl
@[simp] theorem orSticky_crew_placedAt (c : Crew) (f : Flags) : (c.orSticky f).placedAt = c.placedAt := rfl
@[simp] theorem orSticky_crew_warmDone (c : Crew) (f : Flags) : (c.orSticky f).warmDone = c.warmDone := rfl
@[simp] theorem orSticky_crew_stallNoted (c : Crew) (f : Flags) : (c.orSticky f).stallNoted = c.stallNoted := rfl
@[simp] theorem orSticky_crew_reserve (c : Crew) (f : Flags) : (c.orSticky f).reserve = c.reserve := rfl
@[simp] theorem orSticky_crew_svcOut (c : Crew) (f : Flags) : (c.orSticky f).svcOut = c.svcOut := rfl
@[simp] theorem orSticky_crew_idleFor (c : Crew) (f : Flags) : (c.orSticky f).idleFor = c.idleFor := rfl
@[simp] theorem orSticky_crew_drain (c : Crew) (f : Flags) : (c.orSticky f).drain = c.drain := rfl

/-! `setP` -/

@[simp] theorem setP_crew_ctx (c : Crew) (n : Nat) (m : Mask) : (c.setP n m).ctx = c.ctx := by
  unfold Crew.setP; split <;> rfl
@[simp] theorem setP_crew_index (c : Crew) (n : Nat) (m : Mask) : (c.setP n m).index = c.index := by
  unfold Crew.setP; split <;> rfl
@[simp] theorem setP_crew_launch (c : Crew) (n : Nat) (m : Mask) : (c.setP n m).launch = c.launch := by
  unfold Crew.setP; split <;> rfl
@[simp] theorem setP_crew_bin (c : Crew) (n : Nat) (m : Mask) : (c.setP n m).bin = c.bin := by
  unfold Crew.setP; split <;> rfl
@[simp] theorem setP_crew_records (c : Crew) (n : Nat) (m : Mask) : (c.setP n m).records = c.records := by
  unfold Crew.setP; split <;> rfl
@[simp] theorem setP_crew_kernel (c : Crew) (n : Nat) (m : Mask) : (c.setP n m).kernel = c.kernel := by
  unfold Crew.setP; split <;> rfl
@[simp] theorem setP_crew_core (c : Crew) (n : Nat) (m : Mask) : (c.setP n m).core = c.core := by
  unfold Crew.setP; split <;> rfl
@[simp] theorem setP_crew_part (c : Crew) (n : Nat) (m : Mask) : (c.setP n m).part = c.part := by
  unfold Crew.setP; split <;> rfl
@[simp] theorem setP_crew_state (c : Crew) (n : Nat) (m : Mask) : (c.setP n m).state = c.state := by
  unfold Crew.setP; split <;> rfl
@[simp] theorem setP_crew_prio (c : Crew) (n : Nat) (m : Mask) : (c.setP n m).prio = c.prio := by
  unfold Crew.setP; split <;> rfl
@[simp] theorem setP_crew_v (c : Crew) (n : Nat) (m : Mask) : (c.setP n m).v = c.v := by
  unfold Crew.setP; split <;> rfl
@[simp] theorem setP_crew_s (c : Crew) (n : Nat) (m : Mask) : (c.setP n m).s = c.s := by
  unfold Crew.setP; split <;> rfl
@[simp] theorem setP_crew_k (c : Crew) (n : Nat) (m : Mask) : (c.setP n m).k = c.k := by
  unfold Crew.setP; split <;> rfl
@[simp] theorem setP_crew_t (c : Crew) (n : Nat) (m : Mask) : (c.setP n m).t = c.t := by
  unfold Crew.setP; split <;> rfl
@[simp] theorem setP_crew_lost (c : Crew) (n : Nat) (m : Mask) : (c.setP n m).lost = c.lost := by
  unfold Crew.setP; split <;> rfl
@[simp] theorem setP_crew_acc (c : Crew) (n : Nat) (m : Mask) : (c.setP n m).acc = c.acc := by
  unfold Crew.setP; split <;> rfl
@[simp] theorem setP_crew_tilesLent (c : Crew) (n : Nat) (m : Mask) : (c.setP n m).tilesLent = c.tilesLent := by
  unfold Crew.setP; split <;> rfl
@[simp] theorem setP_crew_flags (c : Crew) (n : Nat) (m : Mask) : (c.setP n m).flags = c.flags := by
  unfold Crew.setP; split <;> rfl
@[simp] theorem setP_crew_obl (c : Crew) (n : Nat) (m : Mask) : (c.setP n m).obl = c.obl := by
  unfold Crew.setP; split <;> rfl
@[simp] theorem setP_crew_fpctl (c : Crew) (n : Nat) (m : Mask) : (c.setP n m).fpctl = c.fpctl := by
  unfold Crew.setP; split <;> rfl
@[simp] theorem setP_crew_sticky (c : Crew) (n : Nat) (m : Mask) : (c.setP n m).sticky = c.sticky := by
  unfold Crew.setP; split <;> rfl
@[simp] theorem setP_crew_uintEn (c : Crew) (n : Nat) (m : Mask) : (c.setP n m).uintEn = c.uintEn := by
  unfold Crew.setP; split <;> rfl
@[simp] theorem setP_crew_uintPend (c : Crew) (n : Nat) (m : Mask) : (c.setP n m).uintPend = c.uintPend := by
  unfold Crew.setP; split <;> rfl
@[simp] theorem setP_crew_uintRun (c : Crew) (n : Nat) (m : Mask) : (c.setP n m).uintRun = c.uintRun := by
  unfold Crew.setP; split <;> rfl
@[simp] theorem setP_crew_handler (c : Crew) (n : Nat) (m : Mask) : (c.setP n m).handler = c.handler := by
  unfold Crew.setP; split <;> rfl
@[simp] theorem setP_crew_pts (c : Crew) (n : Nat) (m : Mask) : (c.setP n m).pts = c.pts := by
  unfold Crew.setP; split <;> rfl
@[simp] theorem setP_crew_engTs (c : Crew) (n : Nat) (m : Mask) : (c.setP n m).engTs = c.engTs := by
  unfold Crew.setP; split <;> rfl
@[simp] theorem setP_crew_redTs (c : Crew) (n : Nat) (m : Mask) : (c.setP n m).redTs = c.redTs := by
  unfold Crew.setP; split <;> rfl
@[simp] theorem setP_crew_splits (c : Crew) (n : Nat) (m : Mask) : (c.setP n m).splits = c.splits := by
  unfold Crew.setP; split <;> rfl
@[simp] theorem setP_crew_divs (c : Crew) (n : Nat) (m : Mask) : (c.setP n m).divs = c.divs := by
  unfold Crew.setP; split <;> rfl
@[simp] theorem setP_crew_gangs (c : Crew) (n : Nat) (m : Mask) : (c.setP n m).gangs = c.gangs := by
  unfold Crew.setP; split <;> rfl
@[simp] theorem setP_crew_lode (c : Crew) (n : Nat) (m : Mask) : (c.setP n m).lode = c.lode := by
  unfold Crew.setP; split <;> rfl
@[simp] theorem setP_crew_slot (c : Crew) (n : Nat) (m : Mask) : (c.setP n m).slot = c.slot := by
  unfold Crew.setP; split <;> rfl
@[simp] theorem setP_crew_wdogCount (c : Crew) (n : Nat) (m : Mask) : (c.setP n m).wdogCount = c.wdogCount := by
  unfold Crew.setP; split <;> rfl
@[simp] theorem setP_crew_hold (c : Crew) (n : Nat) (m : Mask) : (c.setP n m).hold = c.hold := by
  unfold Crew.setP; split <;> rfl
@[simp] theorem setP_crew_pendBrk (c : Crew) (n : Nat) (m : Mask) : (c.setP n m).pendBrk = c.pendBrk := by
  unfold Crew.setP; split <;> rfl
@[simp] theorem setP_crew_woken (c : Crew) (n : Nat) (m : Mask) : (c.setP n m).woken = c.woken := by
  unfold Crew.setP; split <;> rfl
@[simp] theorem setP_crew_wakes (c : Crew) (n : Nat) (m : Mask) : (c.setP n m).wakes = c.wakes := by
  unfold Crew.setP; split <;> rfl
@[simp] theorem setP_crew_stranded (c : Crew) (n : Nat) (m : Mask) : (c.setP n m).stranded = c.stranded := by
  unfold Crew.setP; split <;> rfl
@[simp] theorem setP_crew_claimedAt (c : Crew) (n : Nat) (m : Mask) : (c.setP n m).claimedAt = c.claimedAt := by
  unfold Crew.setP; split <;> rfl
@[simp] theorem setP_crew_placedAt (c : Crew) (n : Nat) (m : Mask) : (c.setP n m).placedAt = c.placedAt := by
  unfold Crew.setP; split <;> rfl
@[simp] theorem setP_crew_warmDone (c : Crew) (n : Nat) (m : Mask) : (c.setP n m).warmDone = c.warmDone := by
  unfold Crew.setP; split <;> rfl
@[simp] theorem setP_crew_stallNoted (c : Crew) (n : Nat) (m : Mask) : (c.setP n m).stallNoted = c.stallNoted := by
  unfold Crew.setP; split <;> rfl
@[simp] theorem setP_crew_reserve (c : Crew) (n : Nat) (m : Mask) : (c.setP n m).reserve = c.reserve := by
  unfold Crew.setP; split <;> rfl
@[simp] theorem setP_crew_svcOut (c : Crew) (n : Nat) (m : Mask) : (c.setP n m).svcOut = c.svcOut := by
  unfold Crew.setP; split <;> rfl
@[simp] theorem setP_crew_idleFor (c : Crew) (n : Nat) (m : Mask) : (c.setP n m).idleFor = c.idleFor := by
  unfold Crew.setP; split <;> rfl
@[simp] theorem setP_crew_drain (c : Crew) (n : Nat) (m : Mask) : (c.setP n m).drain = c.drain := by
  unfold Crew.setP; split <;> rfl

/-! `modSplit` -/

@[simp] theorem modSplit_crew_ctx (c : Crew) (e : Nat) (f : Split → Split) : (c.modSplit e f).ctx = c.ctx := by
  unfold Crew.modSplit; split <;> rfl
@[simp] theorem modSplit_crew_index (c : Crew) (e : Nat) (f : Split → Split) : (c.modSplit e f).index = c.index := by
  unfold Crew.modSplit; split <;> rfl
@[simp] theorem modSplit_crew_launch (c : Crew) (e : Nat) (f : Split → Split) : (c.modSplit e f).launch = c.launch := by
  unfold Crew.modSplit; split <;> rfl
@[simp] theorem modSplit_crew_bin (c : Crew) (e : Nat) (f : Split → Split) : (c.modSplit e f).bin = c.bin := by
  unfold Crew.modSplit; split <;> rfl
@[simp] theorem modSplit_crew_records (c : Crew) (e : Nat) (f : Split → Split) : (c.modSplit e f).records = c.records := by
  unfold Crew.modSplit; split <;> rfl
@[simp] theorem modSplit_crew_kernel (c : Crew) (e : Nat) (f : Split → Split) : (c.modSplit e f).kernel = c.kernel := by
  unfold Crew.modSplit; split <;> rfl
@[simp] theorem modSplit_crew_core (c : Crew) (e : Nat) (f : Split → Split) : (c.modSplit e f).core = c.core := by
  unfold Crew.modSplit; split <;> rfl
@[simp] theorem modSplit_crew_part (c : Crew) (e : Nat) (f : Split → Split) : (c.modSplit e f).part = c.part := by
  unfold Crew.modSplit; split <;> rfl
@[simp] theorem modSplit_crew_state (c : Crew) (e : Nat) (f : Split → Split) : (c.modSplit e f).state = c.state := by
  unfold Crew.modSplit; split <;> rfl
@[simp] theorem modSplit_crew_prio (c : Crew) (e : Nat) (f : Split → Split) : (c.modSplit e f).prio = c.prio := by
  unfold Crew.modSplit; split <;> rfl
@[simp] theorem modSplit_crew_v (c : Crew) (e : Nat) (f : Split → Split) : (c.modSplit e f).v = c.v := by
  unfold Crew.modSplit; split <;> rfl
@[simp] theorem modSplit_crew_s (c : Crew) (e : Nat) (f : Split → Split) : (c.modSplit e f).s = c.s := by
  unfold Crew.modSplit; split <;> rfl
@[simp] theorem modSplit_crew_p (c : Crew) (e : Nat) (f : Split → Split) : (c.modSplit e f).p = c.p := by
  unfold Crew.modSplit; split <;> rfl
@[simp] theorem modSplit_crew_k (c : Crew) (e : Nat) (f : Split → Split) : (c.modSplit e f).k = c.k := by
  unfold Crew.modSplit; split <;> rfl
@[simp] theorem modSplit_crew_t (c : Crew) (e : Nat) (f : Split → Split) : (c.modSplit e f).t = c.t := by
  unfold Crew.modSplit; split <;> rfl
@[simp] theorem modSplit_crew_lost (c : Crew) (e : Nat) (f : Split → Split) : (c.modSplit e f).lost = c.lost := by
  unfold Crew.modSplit; split <;> rfl
@[simp] theorem modSplit_crew_acc (c : Crew) (e : Nat) (f : Split → Split) : (c.modSplit e f).acc = c.acc := by
  unfold Crew.modSplit; split <;> rfl
@[simp] theorem modSplit_crew_tilesLent (c : Crew) (e : Nat) (f : Split → Split) : (c.modSplit e f).tilesLent = c.tilesLent := by
  unfold Crew.modSplit; split <;> rfl
@[simp] theorem modSplit_crew_flags (c : Crew) (e : Nat) (f : Split → Split) : (c.modSplit e f).flags = c.flags := by
  unfold Crew.modSplit; split <;> rfl
@[simp] theorem modSplit_crew_obl (c : Crew) (e : Nat) (f : Split → Split) : (c.modSplit e f).obl = c.obl := by
  unfold Crew.modSplit; split <;> rfl
@[simp] theorem modSplit_crew_fpctl (c : Crew) (e : Nat) (f : Split → Split) : (c.modSplit e f).fpctl = c.fpctl := by
  unfold Crew.modSplit; split <;> rfl
@[simp] theorem modSplit_crew_sticky (c : Crew) (e : Nat) (f : Split → Split) : (c.modSplit e f).sticky = c.sticky := by
  unfold Crew.modSplit; split <;> rfl
@[simp] theorem modSplit_crew_uintEn (c : Crew) (e : Nat) (f : Split → Split) : (c.modSplit e f).uintEn = c.uintEn := by
  unfold Crew.modSplit; split <;> rfl
@[simp] theorem modSplit_crew_uintPend (c : Crew) (e : Nat) (f : Split → Split) : (c.modSplit e f).uintPend = c.uintPend := by
  unfold Crew.modSplit; split <;> rfl
@[simp] theorem modSplit_crew_uintRun (c : Crew) (e : Nat) (f : Split → Split) : (c.modSplit e f).uintRun = c.uintRun := by
  unfold Crew.modSplit; split <;> rfl
@[simp] theorem modSplit_crew_handler (c : Crew) (e : Nat) (f : Split → Split) : (c.modSplit e f).handler = c.handler := by
  unfold Crew.modSplit; split <;> rfl
@[simp] theorem modSplit_crew_pts (c : Crew) (e : Nat) (f : Split → Split) : (c.modSplit e f).pts = c.pts := by
  unfold Crew.modSplit; split <;> rfl
@[simp] theorem modSplit_crew_engTs (c : Crew) (e : Nat) (f : Split → Split) : (c.modSplit e f).engTs = c.engTs := by
  unfold Crew.modSplit; split <;> rfl
@[simp] theorem modSplit_crew_redTs (c : Crew) (e : Nat) (f : Split → Split) : (c.modSplit e f).redTs = c.redTs := by
  unfold Crew.modSplit; split <;> rfl
@[simp] theorem modSplit_crew_divs (c : Crew) (e : Nat) (f : Split → Split) : (c.modSplit e f).divs = c.divs := by
  unfold Crew.modSplit; split <;> rfl
@[simp] theorem modSplit_crew_gangs (c : Crew) (e : Nat) (f : Split → Split) : (c.modSplit e f).gangs = c.gangs := by
  unfold Crew.modSplit; split <;> rfl
@[simp] theorem modSplit_crew_lode (c : Crew) (e : Nat) (f : Split → Split) : (c.modSplit e f).lode = c.lode := by
  unfold Crew.modSplit; split <;> rfl
@[simp] theorem modSplit_crew_slot (c : Crew) (e : Nat) (f : Split → Split) : (c.modSplit e f).slot = c.slot := by
  unfold Crew.modSplit; split <;> rfl
@[simp] theorem modSplit_crew_wdogCount (c : Crew) (e : Nat) (f : Split → Split) : (c.modSplit e f).wdogCount = c.wdogCount := by
  unfold Crew.modSplit; split <;> rfl
@[simp] theorem modSplit_crew_hold (c : Crew) (e : Nat) (f : Split → Split) : (c.modSplit e f).hold = c.hold := by
  unfold Crew.modSplit; split <;> rfl
@[simp] theorem modSplit_crew_pendBrk (c : Crew) (e : Nat) (f : Split → Split) : (c.modSplit e f).pendBrk = c.pendBrk := by
  unfold Crew.modSplit; split <;> rfl
@[simp] theorem modSplit_crew_woken (c : Crew) (e : Nat) (f : Split → Split) : (c.modSplit e f).woken = c.woken := by
  unfold Crew.modSplit; split <;> rfl
@[simp] theorem modSplit_crew_wakes (c : Crew) (e : Nat) (f : Split → Split) : (c.modSplit e f).wakes = c.wakes := by
  unfold Crew.modSplit; split <;> rfl
@[simp] theorem modSplit_crew_stranded (c : Crew) (e : Nat) (f : Split → Split) : (c.modSplit e f).stranded = c.stranded := by
  unfold Crew.modSplit; split <;> rfl
@[simp] theorem modSplit_crew_claimedAt (c : Crew) (e : Nat) (f : Split → Split) : (c.modSplit e f).claimedAt = c.claimedAt := by
  unfold Crew.modSplit; split <;> rfl
@[simp] theorem modSplit_crew_placedAt (c : Crew) (e : Nat) (f : Split → Split) : (c.modSplit e f).placedAt = c.placedAt := by
  unfold Crew.modSplit; split <;> rfl
@[simp] theorem modSplit_crew_warmDone (c : Crew) (e : Nat) (f : Split → Split) : (c.modSplit e f).warmDone = c.warmDone := by
  unfold Crew.modSplit; split <;> rfl
@[simp] theorem modSplit_crew_stallNoted (c : Crew) (e : Nat) (f : Split → Split) : (c.modSplit e f).stallNoted = c.stallNoted := by
  unfold Crew.modSplit; split <;> rfl
@[simp] theorem modSplit_crew_reserve (c : Crew) (e : Nat) (f : Split → Split) : (c.modSplit e f).reserve = c.reserve := by
  unfold Crew.modSplit; split <;> rfl
@[simp] theorem modSplit_crew_svcOut (c : Crew) (e : Nat) (f : Split → Split) : (c.modSplit e f).svcOut = c.svcOut := by
  unfold Crew.modSplit; split <;> rfl
@[simp] theorem modSplit_crew_idleFor (c : Crew) (e : Nat) (f : Split → Split) : (c.modSplit e f).idleFor = c.idleFor := by
  unfold Crew.modSplit; split <;> rfl
@[simp] theorem modSplit_crew_drain (c : Crew) (e : Nat) (f : Split → Split) : (c.modSplit e f).drain = c.drain := by
  unfold Crew.modSplit; split <;> rfl

/-! Registers after a write. -/

@[simp] theorem sAt_writeS (c : Crew) (n : Nat) (w : Word) : (c.writeS n w).sAt n = .live w := by
  simp [Crew.sAt]
theorem sAt_writeS_ne (c : Crew) (n m : Nat) (w : Word) (h : m ≠ n) : (c.writeS n w).sAt m = c.sAt m := by
  simp [Crew.sAt, tabGet_tabPut_ne _ _ _ _ h]
@[simp] theorem vAt_setV (c : Crew) (n l : Nat) (r : RegVal) : (c.setV n l r).vAt n l = r := by
  simp [Crew.vAt]
theorem vAt_setV_ne (c : Crew) (n l m k : Nat) (r : RegVal) (h : 1024 * m + k ≠ 1024 * n + l) :
    (c.setV n l r).vAt m k = c.vAt m k := by
  simp [Crew.vAt, tabGet_tabPut_ne _ _ _ _ h]
@[simp] theorem sAt_setV (c : Crew) (n l m : Nat) (r : RegVal) : (c.setV n l r).sAt m = c.sAt m := rfl
@[simp] theorem vAt_writeS (c : Crew) (n m l : Nat) (w : Word) : (c.writeS n w).vAt m l = c.vAt m l := rfl
@[simp] theorem split_setSplit (c : Crew) (e : Nat) (x : Split) : (c.setSplit e x).split e = some x := by
  simp [Crew.split]
theorem split_setSplit_ne (c : Crew) (e d : Nat) (x : Split) (h : d ≠ e) : (c.setSplit e x).split d = c.split d := by
  simp [Crew.split, tabGet_tabPut_ne _ _ _ _ h]
@[simp] theorem lanes_setSplit (c : Crew) (e : Nat) (x : Split) : (c.setSplit e x).lanes = c.lanes := rfl
@[simp] theorem lanes_writeS (c : Crew) (n : Nat) (w : Word) : (c.writeS n w).lanes = c.lanes := rfl
@[simp] theorem lanes_setV (c : Crew) (n l : Nat) (r : RegVal) : (c.setV n l r).lanes = c.lanes := rfl

/-- `p15` ignores writes (Table 04-1). -/
@[simp] theorem setP_fifteen (c : Crew) (m : Mask) : c.setP 15 m = c := by simp [Crew.setP]
theorem pAt_setP (c : Crew) (n : Nat) (m : Mask) (h : n ≠ 15) : (c.setP n m).pAt n = m := by
  simp [Crew.setP, Crew.pAt, h]
theorem pAt_setP_ne (c : Crew) (n k : Nat) (m : Mask) (h : k ≠ n) : (c.setP n m).pAt k = c.pAt k := by
  by_cases hn : n = 15
  · subst hn; simp
  · simp only [Crew.setP, Crew.pAt, beq_iff_eq, hn, if_false, tabGet_tabPut_ne _ _ _ _ h, Crew.lanes]

end Sys2Proof.Machine
end

