-- ==== Sys2Proof/Laws/Encoding.lean ====
section
/-! SUPPORT. Fields of encoded words read back as they were put in. -/

namespace Sys2Proof

theorem bitNat_lt (b : Bool) : bitNat b < 2 := by cases b <;> decide

theorem bitNat_beq (b : Bool) : (bitNat b == 1) = b := by cases b <;> rfl

theorem flagAt_of (lo w : Nat) (b : Bool) (h : w / 2 ^ lo % 2 = bitNat b) : flagAt lo w = b := by
  unfold flagAt
  rw [h, bitNat_beq]

theorem fieldAt_of (n lo w : Nat) (x : BitVec n) (h : w / 2 ^ lo % 2 ^ n = x.toNat) : fieldAt n lo w = x := by
  apply BitVec.eq_of_toNat_eq
  rw [fieldAt, BitVec.toNat_ofNat, h]

theorem decodeExt96_encode (e : Ext96) (r : Nat) : decodeExt96 (encodeExt96 e + 2 ^ 32 * r) = e := by
  obtain ⟨srcc, uni, uv, luc, kpc, ty2, var2⟩ := e
  have h1 := srcc.isLt
  have h2 := uni.isLt
  have h3 := bitNat_lt uv
  have h4 := bitNat_lt luc
  have h5 := bitNat_lt kpc
  have h6 := ty2.isLt
  have h7 := var2.isLt
  simp only [decodeExt96, encodeExt96, Ext96.mk.injEq]
  refine ⟨fieldAt_of _ _ _ _ ?_, fieldAt_of _ _ _ _ ?_, flagAt_of _ _ _ ?_, flagAt_of _ _ _ ?_, flagAt_of _ _ _ ?_,
    fieldAt_of _ _ _ _ ?_, fieldAt_of _ _ _ _ ?_⟩ <;> omega

theorem decodeMem_encode (m : MemExt) : decodeMem (encodeMem m) = m := by
  obtain ⟨mshp, mten, mau, mcrd, mcnt, mscp, mhnt, moff⟩ := m
  have h1 := mshp.isLt
  have h2 := bitNat_lt mten
  have h3 := bitNat_lt mau
  have h4 := mcrd.isLt
  have h5 := mcnt.isLt
  have h6 := mscp.isLt
  have h7 := mhnt.isLt
  have h8 := moff.isLt
  simp only [decodeMem, encodeMem, MemExt.mk.injEq]
  refine ⟨fieldAt_of _ _ _ _ ?_, flagAt_of _ _ _ ?_, flagAt_of _ _ _ ?_, fieldAt_of _ _ _ _ ?_, fieldAt_of _ _ _ _ ?_,
    fieldAt_of _ _ _ _ ?_, fieldAt_of _ _ _ _ ?_, fieldAt_of _ _ _ _ ?_⟩ <;> omega

theorem memReserved_encode (m : MemExt) : memReserved (encodeMem m) = 0 := by
  obtain ⟨mshp, mten, mau, mcrd, mcnt, mscp, mhnt, moff⟩ := m
  have h1 := mshp.isLt
  have h2 := bitNat_lt mten
  have h3 := bitNat_lt mau
  have h4 := mcrd.isLt
  have h5 := mcnt.isLt
  have h6 := mscp.isLt
  have h7 := mhnt.isLt
  have h8 := moff.isLt
  simp only [memReserved, encodeMem]
  exact fieldAt_of 6 26 _ 0 (by rw [show (0 : BitVec 6).toNat = 0 from rfl]; omega)

/-- The extension's kind goes with the slot. -/
def Ext.fits (slot : Nat) : Ext → Bool
  | .imm _ => !memSlot slot
  | .mem _ => memSlot slot
  | _ => true

theorem decodeExt_bits (slot : Nat) (x : Ext) (h : x.fits slot = true) : decodeExt x.lenCode slot x.bits = x := by
  cases x with
  | short => rfl
  | wide e => simpa [decodeExt, Ext.lenCode, Ext.bits] using decodeExt96_encode e 0
  | imm v =>
    have hs : memSlot slot = false := by simpa [Ext.fits] using h
    have hv := v.isLt
    have h0 : fieldAt 64 0 v.toNat = v := fieldAt_of 64 0 v.toNat v (by omega)
    simp [decodeExt, Ext.lenCode, Ext.bits, hs, h0]
  | mem m =>
    have hs : memSlot slot = true := by simpa [Ext.fits] using h
    simp [decodeExt, Ext.lenCode, Ext.bits, hs, decodeMem_encode]

theorem lenCode_lt (x : Ext) : x.lenCode < 4 := by cases x <;> simp [Ext.lenCode]

theorem lenCode_pos (x : Ext) : 0 < x.lenCode := by cases x <;> simp [Ext.lenCode]

theorem encodeFields_lenCode (slot : Nat) (f : Fields) : encodeFields slot f % 4 = f.ext.lenCode := by
  have h := lenCode_lt f.ext
  unfold encodeFields
  omega

theorem encodeFields_slot (slot : Nat) (f : Fields) (hs : slot < 1024) :
    (fieldAt 10 2 (encodeFields slot f)).toNat = slot := by
  have h := lenCode_lt f.ext
  have h1 := f.dst.isLt
  rw [fieldAt, BitVec.toNat_ofNat]
  unfold encodeFields
  omega

/-- Every field of an instruction's word reads back. -/
theorem decodeFields_encode (slot : Nat) (f : Fields) (hs : slot < 1024) (hx : f.ext.fits slot = true) :
    decodeFields f.ext.lenCode slot (encodeFields slot f) = f := by
  obtain ⟨dst, srca, srcb, pred, pneg, lua, lub, kpa, kpb, ty, rnd, sat, var, ext⟩ := f
  have h0 := lenCode_lt ext
  have h1 := dst.isLt
  have h2 := srca.isLt
  have h3 := srcb.isLt
  have h4 := pred.isLt
  have h5 := bitNat_lt pneg
  have h6 := bitNat_lt lua
  have h7 := bitNat_lt lub
  have h8 := bitNat_lt kpa
  have h9 := bitNat_lt kpb
  have h10 := ty.isLt
  have h11 := rnd.isLt
  have h12 := bitNat_lt sat
  have h13 := var.isLt
  simp only [decodeFields, encodeFields, Fields.mk.injEq]
  refine ⟨fieldAt_of _ _ _ _ ?_, fieldAt_of _ _ _ _ ?_, fieldAt_of _ _ _ _ ?_, fieldAt_of _ _ _ _ ?_, flagAt_of _ _ _ ?_,
    flagAt_of _ _ _ ?_, flagAt_of _ _ _ ?_, flagAt_of _ _ _ ?_, flagAt_of _ _ _ ?_, fieldAt_of _ _ _ _ ?_,
    fieldAt_of _ _ _ _ ?_, flagAt_of _ _ _ ?_, fieldAt_of _ _ _ _ ?_, ?_⟩
  case refine_14 =>
    rw [show ∀ x : Nat, ∀ n : Nat, n < 2 ^ 64 → (n + 2 ^ 64 * x) / 2 ^ 64 = x from fun x n hn => by omega]
    · exact decodeExt_bits slot ext hx
    · omega
  all_goals omega

theorem encodeFields_high (slot : Nat) (f : Fields) (hs : slot < 1024) : encodeFields slot f / 2 ^ 64 = f.ext.bits := by
  obtain ⟨dst, srca, srcb, pred, pneg, lua, lub, kpa, kpb, ty, rnd, sat, var, ext⟩ := f
  have h0 := lenCode_lt ext
  have h1 := dst.isLt
  have h2 := srca.isLt
  have h3 := srcb.isLt
  have h4 := pred.isLt
  have h5 := bitNat_lt pneg
  have h6 := bitNat_lt lua
  have h7 := bitNat_lt lub
  have h8 := bitNat_lt kpa
  have h9 := bitNat_lt kpb
  have h10 := ty.isLt
  have h11 := rnd.isLt
  have h12 := bitNat_lt sat
  have h13 := var.isLt
  simp only [encodeFields]
  omega

theorem memReservedBad_encode (slot : Nat) (f : Fields) (hs : slot < 1024) (hx : f.ext.fits slot = true) :
    memReservedBad f.ext.lenCode slot (encodeFields slot f) = false := by
  rw [memReservedBad, encodeFields_high slot f hs]
  cases h : f.ext with
  | short => rfl
  | wide e => rfl
  | imm v => rw [h] at hx; simp only [Ext.fits, Bool.not_eq_true'] at hx; simp [hx]
  | mem m => simp [Ext.bits, memReserved_encode]

theorem decodeHeader_encode (h : Header) : decodeHeader (encodeHeader h) = h := by
  obtain ⟨wait, flga, flgb, clen, yld⟩ := h
  have h1 := wait.isLt
  have h2 := flga.isLt
  have h3 := flgb.isLt
  have h4 := clen.isLt
  have h5 := bitNat_lt yld
  simp only [decodeHeader, encodeHeader, Header.mk.injEq]
  refine ⟨fieldAt_of _ _ _ _ ?_, fieldAt_of _ _ _ _ ?_, fieldAt_of _ _ _ _ ?_, fieldAt_of _ _ _ _ ?_, flagAt_of _ _ _ ?_⟩ <;>
    omega

/-- The low bytes of a number give its low part back. -/
theorem leNat_leBytes (n v : Nat) : leNat (leBytes n v) = v % 256 ^ n := by
  induction n generalizing v with
  | zero => simp [leBytes, leNat, Nat.mod_one]
  | succ k ih =>
    have h : v % 256 ^ (k + 1) = v % 256 + 256 * (v / 256 % 256 ^ k) := by
      rw [show 256 ^ (k + 1) = 256 * 256 ^ k by rw [Nat.pow_succ, Nat.mul_comm], Nat.mod_mul]
    rw [leBytes, leNat, ih, BitVec.toNat_ofNat, h]

@[simp] theorem leBytes_length (n v : Nat) : (leBytes n v).length = n := by
  induction n generalizing v with
  | zero => rfl
  | succ k ih => simp [leBytes, ih]

end Sys2Proof
end

