-- ==== Sys2Proof/Laws/Issue.lean ====
section
/-! SUPPORT. What the issue of a crew's instruction can do: which meaning decides, and what an outcome leaves. -/

namespace Sys2Proof.Machine

theorem OnlyCrews.refl (s : State) : OnlyCrews s s := rfl

theorem OnlyCrews.trans {s t u : State} (h : OnlyCrews s t) (k : OnlyCrews t u) : OnlyCrews s u := by
  unfold OnlyCrews at *
  rw [k, h]

theorem onlyCrews_setCrew (s : State) (c : Nat) (x : Crew) : OnlyCrews s (s.setCrew c x) := rfl

theorem onlyCrews_modCrew (s : State) (c : Nat) (f : Crew → Crew) : OnlyCrews s (s.modCrew c f) := by
  unfold State.modCrew
  split
  · exact onlyCrews_setCrew s c _
  · exact OnlyCrews.refl s

theorem OnlyCrews.mem {s t : State} (h : OnlyCrews s t) : t.mem = s.mem := by rw [h]
theorem OnlyCrews.clock {s t : State} (h : OnlyCrews s t) : t.clock = s.clock := by rw [h]

theorem onlyCrews_noteIdle (s : State) (id : Nat) : OnlyCrews s (noteIdle s id) := onlyCrews_modCrew s id _

theorem onlyCrews_advance (s : State) (id entry len : Nat) : OnlyCrews s (advance s id entry len) := by
  unfold advance
  split
  · exact OnlyCrews.refl s
  · split
    · exact OnlyCrews.refl s
    · exact onlyCrews_setCrew _ _ _

theorem onlyCrews_done (e : Env) (s : State) : OnlyCrews s (settleRes e (.done s)) :=
  (onlyCrews_advance s e.id e.entry e.len).trans (onlyCrews_noteIdle _ e.id)

/-- The crew after `noteIdle`: only for how long it has been idle can differ. -/
theorem crew_noteIdle (s : State) (id : Nat) :
    (noteIdle s id).crew id = (s.crew id).map (fun c =>
      { c with idleFor := if c.idle then some (c.idleFor.getD 0) else none }) :=
  crew_modCrew s id _

theorem crew_noteIdle_ne (s : State) (id d : Nat) (h : d ≠ id) : (noteIdle s id).crew d = s.crew d :=
  crew_modCrew_ne s id d _ h

theorem crew_advance_ne (s : State) (id entry len d : Nat) (h : d ≠ id) :
    (advance s id entry len).crew d = s.crew d := by
  unfold advance
  split
  · rfl
  · split
    · rfl
    · exact crew_setCrew_ne _ _ _ _ h

/-- An instruction that is done leaves other crews as its effects left them. -/
theorem crew_done_ne (e : Env) (s : State) (d : Nat) (h : d ≠ e.id) :
    (settleRes e (.done s)).crew d = s.crew d :=
  (crew_noteIdle_ne _ _ _ h).trans (crew_advance_ne _ _ _ _ _ h)

theorem SameRegs.refl (c : Crew) : SameRegs c c := by constructor <;> rfl

theorem SameRegs.trans {a b c : Crew} (h : SameRegs a b) (k : SameRegs b c) : SameRegs a c :=
  ⟨k.v.trans h.v, k.s.trans h.s, k.p.trans h.p, k.k.trans h.k, k.t.trans h.t, k.acc.trans h.acc, k.flags.trans h.flags, k.obl.trans h.obl,
    k.fpctl.trans h.fpctl, k.sticky.trans h.sticky, k.uintEn.trans h.uintEn, k.uintPend.trans h.uintPend, k.uintRun.trans h.uintRun, k.handler.trans h.handler, k.pts.trans h.pts,
    k.engTs.trans h.engTs, k.divs.trans h.divs, k.gangs.trans h.gangs, k.lode.trans h.lode, k.state.trans h.state, k.kernel.trans h.kernel, k.core.trans h.core, k.ctx.trans h.ctx⟩

theorem sameRegs_noteIdle (s : State) (id : Nat) (c d : Crew) (hc : s.crew id = some c)
    (hd : (noteIdle s id).crew id = some d) : SameRegs c d ∧ d.splits = c.splits := by
  rw [crew_noteIdle, hc] at hd
  simp only [Option.map_some, Option.some.injEq] at hd
  subst hd
  exact ⟨by constructor <;> rfl, rfl⟩

/-- After an instruction that is done, the crew holds the registers that its effects left. -/
theorem sameRegs_done (e : Env) (s : State) (c : Crew) (hc : s.crew e.id = some c) :
    ∃ d, (settleRes e (.done s)).crew e.id = some d ∧ SameRegs c d := by
  have h : ∃ a, (advance s e.id e.entry e.len).crew e.id = some a ∧ SameRegs c a := by
    cases hx : c.split e.entry with
    | none =>
      refine ⟨c, ?_, SameRegs.refl c⟩
      simp only [advance, hc, hx]
    | some x =>
      simp only [advance, hc, hx]
      exact ⟨_, crew_setCrew _ _ _, by constructor <;> rfl⟩
  obtain ⟨a, ha, hsa⟩ := h
  have hn := crew_noteIdle (advance s e.id e.entry e.len) e.id
  rw [ha, Option.map_some] at hn
  exact ⟨_, hn, hsa.trans (sameRegs_noteIdle _ _ _ _ ha hn).1⟩

/-- Where no bits of its sources are lost nothing is found before the instruction runs (R366). -/
theorem foundLost_intact (e : Env) (s : State) (h : e.meetsLost s = false) : e.foundLost s = s := by
  simp [Env.foundLost, h]

/-- The meaning of an instruction that runs decides what happens. -/
theorem issue_runs {i : Instr} {s : State} {e : Env} (h : Runs i s e) (body : Env → State → Res) :
    issue i body s = .next (settleRes e (body e s)) := by
  unfold issue Env.run
  rw [h.env]
  simp only [h.checks, h.ready, h.acts, h.lamp, foundLost_intact e s h.intact, Bool.false_eq_true, if_false]
  cases body e s <;> simp [h.intact]

/-- An instruction whose checks fail raises the exception that they name (R375). -/
theorem issue_check {i : Instr} {s : State} {e : Env} {x : Exc} (h : envOf i s = some e)
    (hx : e.firstCheck i s = some x) (body : Env → State → Res) :
    issue i body s = .next (settleRes e (.exc s x)) := by
  unfold issue Env.run
  rw [h]
  simp only [hx]

/-- The crew and the split of an instruction at issue. -/
theorem envOf_spec {i : Instr} {s : State} {e : Env} (h : envOf i s = some e) :
    s.actor = .split e.id e.entry ∧ s.crew e.id = some e.c ∧ e.c.split e.entry = some e.x ∧
      ∃ f r, i.word = some (e.slot, f) ∧ rowOf e.slot = some r ∧ e.f = seenFields e.slot f ∧ e.form = r.form ∧
        e.len = 4 * unitsOf f.ext.lenCode := by
  unfold envOf at h
  split at h
  · rename_i ha hw
    split at h
    · rename_i hc hr
      split at h
      · rename_i hx
        simp only [Option.some.injEq] at h
        subst h
        exact ⟨ha, hc, hx, _, _, hw, hr, rfl, rfl, rfl⟩
      · exact absurd h (by simp)
    · exact absurd h (by simp)
  · exact absurd h (by simp)

theorem Runs.crew {i : Instr} {s : State} {e : Env} (h : Runs i s e) : s.crew e.id = some e.c := (envOf_spec h.env).2.1

theorem onlyCrews_endUses (e : Env) (s : State) : OnlyCrews s (e.endUses s) := by
  unfold Env.endUses
  dsimp only
  split
  · exact OnlyCrews.refl s
  · exact onlyCrews_modCrew _ _ _

theorem onlyCrews_flag (e : Env) (s : State) (f : Flags) : OnlyCrews s (e.flag s f) := by
  unfold Env.flag
  split
  · exact OnlyCrews.refl s
  · exact onlyCrews_modCrew _ _ _

theorem onlyCrews_dead (e : Env) (s : State) (b : Bool) : OnlyCrews s (e.dead s b) :=
  onlyCrews_flag _ _ _

theorem onlyCrews_putS (e : Env) (s : State) (n : Nat) (w : Word) : OnlyCrews s (e.putS s n w) := onlyCrews_modCrew _ _ _

theorem onlyCrews_putV (e : Env) (s : State) (ws : List (Nat × Nat × Word)) : OnlyCrews s (e.putV s ws) :=
  onlyCrews_modCrew _ _ _

theorem onlyCrews_putP (e : Env) (s : State) (n : Nat) (ls : List (Nat × Bool)) : OnlyCrews s (e.putP s n ls) :=
  onlyCrews_modCrew _ _ _

/-- The crew is still there once its sources' values have ended. -/
theorem crew_endUses (e : Env) (s : State) (c : Crew) (h : s.crew e.id = some c) :
    (e.endUses s).crew e.id = some (e.spent s) := by
  have : ∃ d, (e.endUses s).crew e.id = some d := by
    unfold Env.endUses
    dsimp only
    split
    · exact ⟨c, h⟩
    · exact ⟨_, (crew_modCrew s e.id _).trans (by rw [h]; rfl)⟩
  obtain ⟨d, hd⟩ := this
  rw [Env.spent, hd]
  rfl

end Sys2Proof.Machine
end

