-- ==== Sys2Proof/Laws/PerInstr.lean ====
section
/-! SUPPORT. The family `Encoded`, one lemma per constructor: a crew instruction's slot is below 1024, and the table's row
of that slot makes the instruction again from its fields. -/

namespace Sys2Proof.Laws.Encoded

/-- The slot and the fields of an instruction give it back through the table of rows (R162). -/
def Statement (i : Instr) : Prop :=
  ∀ slot f, i.word = some (slot, f) → slot < 1024 ∧ (rowOf slot).map (fun r => r.make f) = some i

theorem of_none {i : Instr} (h : i.word = none) : Statement i := by
  intro slot f hw
  rw [h] at hw
  exact absurd hw (by simp)

theorem of_word {i : Instr} {slot : Nat} {f : Fields} (h : i.word = some (slot, f)) (hs : slot < 1024)
    (hr : (rowOf slot).map (fun r => r.make f) = some i) : Statement i := by
  intro slot' f' hw
  rw [h] at hw
  obtain ⟨rfl, rfl⟩ := hw
  exact ⟨hs, hr⟩

theorem nop (f : Fields) : Statement (.nop f) := of_word rfl (by decide) rfl
theorem brk (f : Fields) : Statement (.brk f) := of_word rfl (by decide) rfl
theorem br (f : Fields) : Statement (.br f) := of_word rfl (by decide) rfl
theorem brDiv (f : Fields) : Statement (.brDiv f) := of_word rfl (by decide) rfl
theorem join (f : Fields) : Statement (.join f) := of_word rfl (by decide) rfl
theorem call (f : Fields) : Statement (.call f) := of_word rfl (by decide) rfl
theorem ret (f : Fields) : Statement (.ret f) := of_word rfl (by decide) rfl
theorem exit (f : Fields) : Statement (.exit f) := of_word rfl (by decide) rfl
theorem drainEnd (crew : Nat) : Statement (.drainEnd crew) := of_none rfl
theorem yieldCont (f : Fields) : Statement (.yieldCont f) := of_word rfl (by decide) rfl
theorem flgRd (f : Fields) : Statement (.flgRd f) := of_word rfl (by decide) rfl
theorem flgClr (f : Fields) : Statement (.flgClr f) := of_word rfl (by decide) rfl
theorem lampJoin (f : Fields) : Statement (.lampJoin f) := of_word rfl (by decide) rfl
theorem lampTake (f : Fields) : Statement (.lampTake f) := of_word rfl (by decide) rfl
theorem lampPass (f : Fields) : Statement (.lampPass f) := of_word rfl (by decide) rfl
theorem csrr (f : Fields) : Statement (.csrr f) := of_word rfl (by decide) rfl
theorem csrw (f : Fields) : Statement (.csrw f) := of_word rfl (by decide) rfl
theorem uintPost (f : Fields) : Statement (.uintPost f) := of_word rfl (by decide) rfl
theorem uintRet (f : Fields) : Statement (.uintRet f) := of_word rfl (by decide) rfl
theorem svc (f : Fields) : Statement (.svc f) := of_word rfl (by decide) rfl
theorem waitc (f : Fields) : Statement (.waitc f) := of_word rfl (by decide) rfl
theorem spawn (f : Fields) : Statement (.spawn f) := of_word rfl (by decide) rfl
theorem nsig (f : Fields) : Statement (.nsig f) := of_word rfl (by decide) rfl
theorem npub (f : Fields) : Statement (.npub f) := of_word rfl (by decide) rfl
theorem clauseHeader (h : Header) : Statement (.clauseHeader h) := of_none rfl
theorem sadd (f : Fields) : Statement (.sadd f) := of_word rfl (by decide) rfl
theorem ssub (f : Fields) : Statement (.ssub f) := of_word rfl (by decide) rfl
theorem smul (f : Fields) : Statement (.smul f) := of_word rfl (by decide) rfl
theorem smulh (f : Fields) : Statement (.smulh f) := of_word rfl (by decide) rfl
theorem smad (f : Fields) : Statement (.smad f) := of_word rfl (by decide) rfl
theorem sdivs (f : Fields) : Statement (.sdivs f) := of_word rfl (by decide) rfl
theorem sand (f : Fields) : Statement (.sand f) := of_word rfl (by decide) rfl
theorem sor (f : Fields) : Statement (.sor f) := of_word rfl (by decide) rfl
theorem sxor (f : Fields) : Statement (.sxor f) := of_word rfl (by decide) rfl
theorem sandn (f : Fields) : Statement (.sandn f) := of_word rfl (by decide) rfl
theorem sshl (f : Fields) : Statement (.sshl f) := of_word rfl (by decide) rfl
theorem sshr (f : Fields) : Statement (.sshr f) := of_word rfl (by decide) rfl
theorem srol (f : Fields) : Statement (.srol f) := of_word rfl (by decide) rfl
theorem sror (f : Fields) : Statement (.sror f) := of_word rfl (by decide) rfl
theorem smov (f : Fields) : Statement (.smov f) := of_word rfl (by decide) rfl
theorem scmp (f : Fields) : Statement (.scmp f) := of_word rfl (by decide) rfl
theorem sbfx (f : Fields) : Statement (.sbfx f) := of_word rfl (by decide) rfl
theorem sbfi (f : Fields) : Statement (.sbfi f) := of_word rfl (by decide) rfl
theorem spopc (f : Fields) : Statement (.spopc f) := of_word rfl (by decide) rfl
theorem sclz (f : Fields) : Statement (.sclz f) := of_word rfl (by decide) rfl
theorem sctz (f : Fields) : Statement (.sctz f) := of_word rfl (by decide) rfl
theorem sbrev (f : Fields) : Statement (.sbrev f) := of_word rfl (by decide) rfl
theorem smin (f : Fields) : Statement (.smin f) := of_word rfl (by decide) rfl
theorem smax (f : Fields) : Statement (.smax f) := of_word rfl (by decide) rfl
theorem sabs (f : Fields) : Statement (.sabs f) := of_word rfl (by decide) rfl
theorem ssel (f : Fields) : Statement (.ssel f) := of_word rfl (by decide) rfl
theorem vadd (f : Fields) : Statement (.vadd f) := of_word rfl (by decide) rfl
theorem vsub (f : Fields) : Statement (.vsub f) := of_word rfl (by decide) rfl
theorem vmul (f : Fields) : Statement (.vmul f) := of_word rfl (by decide) rfl
theorem vmulh (f : Fields) : Statement (.vmulh f) := of_word rfl (by decide) rfl
theorem vmad (f : Fields) : Statement (.vmad f) := of_word rfl (by decide) rfl
theorem vdivs (f : Fields) : Statement (.vdivs f) := of_word rfl (by decide) rfl
theorem vand (f : Fields) : Statement (.vand f) := of_word rfl (by decide) rfl
theorem vor (f : Fields) : Statement (.vor f) := of_word rfl (by decide) rfl
theorem vxor (f : Fields) : Statement (.vxor f) := of_word rfl (by decide) rfl
theorem vandn (f : Fields) : Statement (.vandn f) := of_word rfl (by decide) rfl
theorem vshl (f : Fields) : Statement (.vshl f) := of_word rfl (by decide) rfl
theorem vshr (f : Fields) : Statement (.vshr f) := of_word rfl (by decide) rfl
theorem vrol (f : Fields) : Statement (.vrol f) := of_word rfl (by decide) rfl
theorem vror (f : Fields) : Statement (.vror f) := of_word rfl (by decide) rfl
theorem vmov (f : Fields) : Statement (.vmov f) := of_word rfl (by decide) rfl
theorem vbfx (f : Fields) : Statement (.vbfx f) := of_word rfl (by decide) rfl
theorem vbfi (f : Fields) : Statement (.vbfi f) := of_word rfl (by decide) rfl
theorem vpopc (f : Fields) : Statement (.vpopc f) := of_word rfl (by decide) rfl
theorem vclz (f : Fields) : Statement (.vclz f) := of_word rfl (by decide) rfl
theorem vctz (f : Fields) : Statement (.vctz f) := of_word rfl (by decide) rfl
theorem vbrev (f : Fields) : Statement (.vbrev f) := of_word rfl (by decide) rfl
theorem vmin (f : Fields) : Statement (.vmin f) := of_word rfl (by decide) rfl
theorem vmax (f : Fields) : Statement (.vmax f) := of_word rfl (by decide) rfl
theorem vabs (f : Fields) : Statement (.vabs f) := of_word rfl (by decide) rfl
theorem vsel (f : Fields) : Statement (.vsel f) := of_word rfl (by decide) rfl
theorem vcmp (f : Fields) : Statement (.vcmp f) := of_word rfl (by decide) rfl
theorem vplog (f : Fields) : Statement (.vplog f) := of_word rfl (by decide) rfl
theorem vpadd (f : Fields) : Statement (.vpadd f) := of_word rfl (by decide) rfl
theorem vpsub (f : Fields) : Statement (.vpsub f) := of_word rfl (by decide) rfl
theorem vpmul (f : Fields) : Statement (.vpmul f) := of_word rfl (by decide) rfl
theorem vpmin (f : Fields) : Statement (.vpmin f) := of_word rfl (by decide) rfl
theorem vpmax (f : Fields) : Statement (.vpmax f) := of_word rfl (by decide) rfl
theorem vpavg (f : Fields) : Statement (.vpavg f) := of_word rfl (by decide) rfl
theorem vpabd (f : Fields) : Statement (.vpabd f) := of_word rfl (by decide) rfl
theorem vpshl (f : Fields) : Statement (.vpshl f) := of_word rfl (by decide) rfl
theorem vpshr (f : Fields) : Statement (.vpshr f) := of_word rfl (by decide) rfl
theorem vpdot (f : Fields) : Statement (.vpdot f) := of_word rfl (by decide) rfl
theorem vpack (f : Fields) : Statement (.vpack f) := of_word rfl (by decide) rfl
theorem vunpk (f : Fields) : Statement (.vunpk f) := of_word rfl (by decide) rfl
theorem sadrt (f : Fields) : Statement (.sadrt f) := of_word rfl (by decide) rfl
theorem sshpr (f : Fields) : Statement (.sshpr f) := of_word rfl (by decide) rfl
theorem sshpw (f : Fields) : Statement (.sshpw f) := of_word rfl (by decide) rfl
theorem sshpb (f : Fields) : Statement (.sshpb f) := of_word rfl (by decide) rfl
theorem vadrt (f : Fields) : Statement (.vadrt f) := of_word rfl (by decide) rfl
theorem vinrt (f : Fields) : Statement (.vinrt f) := of_word rfl (by decide) rfl
theorem vfadd (f : Fields) : Statement (.vfadd f) := of_word rfl (by decide) rfl
theorem vfsub (f : Fields) : Statement (.vfsub f) := of_word rfl (by decide) rfl
theorem vfmul (f : Fields) : Statement (.vfmul f) := of_word rfl (by decide) rfl
theorem vfma (f : Fields) : Statement (.vfma f) := of_word rfl (by decide) rfl
theorem vfms (f : Fields) : Statement (.vfms f) := of_word rfl (by decide) rfl
theorem vfnma (f : Fields) : Statement (.vfnma f) := of_word rfl (by decide) rfl
theorem vfnms (f : Fields) : Statement (.vfnms f) := of_word rfl (by decide) rfl
theorem vfmin (f : Fields) : Statement (.vfmin f) := of_word rfl (by decide) rfl
theorem vfmax (f : Fields) : Statement (.vfmax f) := of_word rfl (by decide) rfl
theorem vfneg (f : Fields) : Statement (.vfneg f) := of_word rfl (by decide) rfl
theorem vfabs (f : Fields) : Statement (.vfabs f) := of_word rfl (by decide) rfl
theorem vfcsgn (f : Fields) : Statement (.vfcsgn f) := of_word rfl (by decide) rfl
theorem vfdot2 (f : Fields) : Statement (.vfdot2 f) := of_word rfl (by decide) rfl
theorem vfrnd (f : Fields) : Statement (.vfrnd f) := of_word rfl (by decide) rfl
theorem sfadd (f : Fields) : Statement (.sfadd f) := of_word rfl (by decide) rfl
theorem sfsub (f : Fields) : Statement (.sfsub f) := of_word rfl (by decide) rfl
theorem sfmul (f : Fields) : Statement (.sfmul f) := of_word rfl (by decide) rfl
theorem sfma (f : Fields) : Statement (.sfma f) := of_word rfl (by decide) rfl
theorem sfmin (f : Fields) : Statement (.sfmin f) := of_word rfl (by decide) rfl
theorem sfmax (f : Fields) : Statement (.sfmax f) := of_word rfl (by decide) rfl
theorem vfcmp (f : Fields) : Statement (.vfcmp f) := of_word rfl (by decide) rfl
theorem sfcmp (f : Fields) : Statement (.sfcmp f) := of_word rfl (by decide) rfl
theorem vfcmpm (f : Fields) : Statement (.vfcmpm f) := of_word rfl (by decide) rfl
theorem vfclass (f : Fields) : Statement (.vfclass f) := of_word rfl (by decide) rfl
theorem vfrcpe (f : Fields) : Statement (.vfrcpe f) := of_word rfl (by decide) rfl
theorem vfrsqe (f : Fields) : Statement (.vfrsqe f) := of_word rfl (by decide) rfl
theorem vfrcps (f : Fields) : Statement (.vfrcps f) := of_word rfl (by decide) rfl
theorem vfrsqs (f : Fields) : Statement (.vfrsqs f) := of_word rfl (by decide) rfl
theorem vfex2 (f : Fields) : Statement (.vfex2 f) := of_word rfl (by decide) rfl
theorem vflg2 (f : Fields) : Statement (.vflg2 f) := of_word rfl (by decide) rfl
theorem vfsinpi (f : Fields) : Statement (.vfsinpi f) := of_word rfl (by decide) rfl
theorem vfcospi (f : Fields) : Statement (.vfcospi f) := of_word rfl (by decide) rfl
theorem vftanh (f : Fields) : Statement (.vftanh f) := of_word rfl (by decide) rfl
theorem vcvt (f : Fields) : Statement (.vcvt f) := of_word rfl (by decide) rfl
theorem scvt (f : Fields) : Statement (.scvt f) := of_word rfl (by decide) rfl
theorem vperm (f : Fields) : Statement (.vperm f) := of_word rfl (by decide) rfl
theorem vmatch (f : Fields) : Statement (.vmatch f) := of_word rfl (by decide) rfl
theorem vvote (f : Fields) : Statement (.vvote f) := of_word rfl (by decide) rfl
theorem vred (f : Fields) : Statement (.vred f) := of_word rfl (by decide) rfl
theorem vscan (f : Fields) : Statement (.vscan f) := of_word rfl (by decide) rfl
theorem vrdl (f : Fields) : Statement (.vrdl f) := of_word rfl (by decide) rfl
theorem ld (f : Fields) : Statement (.ld f) := of_word rfl (by decide) rfl
theorem st (f : Fields) : Statement (.st f) := of_word rfl (by decide) rfl
theorem lds (f : Fields) : Statement (.lds f) := of_word rfl (by decide) rfl
theorem sts (f : Fields) : Statement (.sts f) := of_word rfl (by decide) rfl
theorem sld (f : Fields) : Statement (.sld f) := of_word rfl (by decide) rfl
theorem sst (f : Fields) : Statement (.sst f) := of_word rfl (by decide) rfl
theorem slds (f : Fields) : Statement (.slds f) := of_word rfl (by decide) rfl
theorem ssts (f : Fields) : Statement (.ssts f) := of_word rfl (by decide) rfl
theorem smap (f : Fields) : Statement (.smap f) := of_word rfl (by decide) rfl
theorem sunmap (f : Fields) : Statement (.sunmap f) := of_word rfl (by decide) rfl
theorem sflush (f : Fields) : Statement (.sflush f) := of_word rfl (by decide) rfl
theorem stashWritebackDone (core index : Nat) : Statement (.stashWritebackDone core index) := of_none rfl
theorem cwb (f : Fields) : Statement (.cwb f) := of_word rfl (by decide) rfl
theorem cinv (f : Fields) : Statement (.cinv f) := of_word rfl (by decide) rfl
theorem atom (f : Fields) : Statement (.atom f) := of_word rfl (by decide) rfl
theorem atomCas (f : Fields) : Statement (.atomCas f) := of_word rfl (by decide) rfl
theorem satom (f : Fields) : Statement (.satom f) := of_word rfl (by decide) rfl
theorem satomCas (f : Fields) : Statement (.satomCas f) := of_word rfl (by decide) rfl
theorem red (f : Fields) : Statement (.red f) := of_word rfl (by decide) rfl
theorem sred (f : Fields) : Statement (.sred f) := of_word rfl (by decide) rfl
theorem fence (f : Fields) : Statement (.fence f) := of_word rfl (by decide) rfl
theorem amsg (f : Fields) : Statement (.amsg f) := of_word rfl (by decide) rfl
theorem amsgReply (request : Nat) : Statement (.amsgReply request) := of_none rfl
theorem gbarArr (f : Fields) : Statement (.gbarArr f) := of_word rfl (by decide) rfl
theorem gbarWait (f : Fields) : Statement (.gbarWait f) := of_word rfl (by decide) rfl
theorem collAg (f : Fields) : Statement (.collAg f) := of_word rfl (by decide) rfl
theorem collRs (f : Fields) : Statement (.collRs f) := of_word rfl (by decide) rfl
theorem collA2a (f : Fields) : Statement (.collA2a f) := of_word rfl (by decide) rfl
theorem collBar (f : Fields) : Statement (.collBar f) := of_word rfl (by decide) rfl
theorem hcp (f : Fields) : Statement (.hcp f) := of_word rfl (by decide) rfl
theorem hgth (f : Fields) : Statement (.hgth f) := of_word rfl (by decide) rfl
theorem hsct (f : Fields) : Statement (.hsct f) := of_word rfl (by decide) rfl
theorem hcmp (f : Fields) : Statement (.hcmp f) := of_word rfl (by decide) rfl
theorem hpub (f : Fields) : Statement (.hpub f) := of_word rfl (by decide) rfl
theorem hpubExchange (core entry : Nat) : Statement (.hpubExchange core entry) := of_none rfl
theorem cwait (f : Fields) : Statement (.cwait f) := of_word rfl (by decide) rfl
theorem hoistRowDone (core slot : Nat) (ahead : Ahead) : Statement (.hoistRowDone core slot ahead) := of_none rfl
theorem hoistWatchdogExpire (core slot : Nat) : Statement (.hoistWatchdogExpire core slot) := of_none rfl
theorem mld (f : Fields) : Statement (.mld f) := of_word rfl (by decide) rfl
theorem mmul (f : Fields) : Statement (.mmul f) := of_word rfl (by decide) rfl
theorem mzero (f : Fields) : Statement (.mzero f) := of_word rfl (by decide) rfl
theorem mrd (f : Fields) : Statement (.mrd f) := of_word rfl (by decide) rfl
theorem mred (f : Fields) : Statement (.mred f) := of_word rfl (by decide) rfl
theorem mwait (f : Fields) : Statement (.mwait f) := of_word rfl (by decide) rfl
theorem mkw (f : Fields) : Statement (.mkw f) := of_word rfl (by decide) rfl
theorem mkr (f : Fields) : Statement (.mkr f) := of_word rfl (by decide) rfl
theorem bselTopk (f : Fields) : Statement (.bselTopk f) := of_word rfl (by decide) rfl
theorem mmulRowCommit (core : Nat) : Statement (.mmulRowCommit core) := of_none rfl
theorem engineInsnDone (core : Nat) : Statement (.engineInsnDone core) := of_none rfl
theorem lodeBind (f : Fields) : Statement (.lodeBind f) := of_word rfl (by decide) rfl
theorem lodeFree (f : Fields) : Statement (.lodeFree f) := of_word rfl (by decide) rfl
theorem ladd (f : Fields) : Statement (.ladd f) := of_word rfl (by decide) rfl
theorem lsub (f : Fields) : Statement (.lsub f) := of_word rfl (by decide) rfl
theorem lneg (f : Fields) : Statement (.lneg f) := of_word rfl (by decide) rfl
theorem lshl (f : Fields) : Statement (.lshl f) := of_word rfl (by decide) rfl
theorem lshr (f : Fields) : Statement (.lshr f) := of_word rfl (by decide) rfl
theorem lcmp (f : Fields) : Statement (.lcmp f) := of_word rfl (by decide) rfl
theorem lclz (f : Fields) : Statement (.lclz f) := of_word rfl (by decide) rfl
theorem lmulw (f : Fields) : Statement (.lmulw f) := of_word rfl (by decide) rfl
theorem lmacw (f : Fields) : Statement (.lmacw f) := of_word rfl (by decide) rfl
theorem lacc (f : Fields) : Statement (.lacc f) := of_word rfl (by decide) rfl
theorem lround (f : Fields) : Statement (.lround f) := of_word rfl (by decide) rfl
theorem asEvt (rd : BitVec 5) : Statement (.asEvt rd) := of_none rfl
theorem asLd (rd rs1 : BitVec 5) : Statement (.asLd rd rs1) := of_none rfl
theorem asSt (rs1 rs2 : BitVec 5) : Statement (.asSt rs1 rs2) := of_none rfl
theorem asCas (rd rs1 rs2 rs3 : BitVec 5) : Statement (.asCas rd rs1 rs2 rs3) := of_none rfl
theorem asPf (rs1 rs2 : BitVec 5) : Statement (.asPf rs1 rs2) := of_none rfl
theorem asWake (rs1 : BitVec 5) : Statement (.asWake rs1) := of_none rfl
theorem asMsg (rd rs1 : BitVec 5) : Statement (.asMsg rd rs1) := of_none rfl
theorem asTlb (rd rs1 : BitVec 5) : Statement (.asTlb rd rs1) := of_none rfl
theorem asLeft (rd : BitVec 5) : Statement (.asLeft rd) := of_none rfl
theorem asDone : Statement (.asDone) := of_none rfl
theorem handlerDispatch (slice : Nat) : Statement (.handlerDispatch slice) := of_none rfl
theorem handlerBudgetExpire (slice : Nat) : Statement (.handlerBudgetExpire slice) := of_none rfl
theorem acceptLaunch (ring : Nat) : Statement (.acceptLaunch ring) := of_none rfl
theorem claimCrews (die count : Nat) : Statement (.claimCrews die count) := of_none rfl
theorem placeCrew (crew : Nat) : Statement (.placeCrew crew) := of_none rfl
theorem placeClosure (die : Nat) : Statement (.placeClosure die) := of_none rfl
theorem warmWaitExpire (crew : Nat) : Statement (.warmWaitExpire crew) := of_none rfl
theorem reservationStart (crew : Nat) : Statement (.reservationStart crew) := of_none rfl
theorem binTimerExpire (ctx node die : Nat) : Statement (.binTimerExpire ctx node die) := of_none rfl
theorem binStallTimer (crew : Nat) : Statement (.binStallTimer crew) := of_none rfl
theorem swapOut (crew : Nat) : Statement (.swapOut crew) := of_none rfl
theorem swapIn (crew : Nat) : Statement (.swapIn crew) := of_none rfl
theorem monitorRecheck (crew entry : Nat) : Statement (.monitorRecheck crew entry) := of_none rfl
theorem monitorAudit (slice : Nat) : Statement (.monitorAudit slice) := of_none rfl
theorem waitcReply (crew entry : Nat) : Statement (.waitcReply crew entry) := of_none rfl
theorem stockpileRefreshEnd (die group : Nat) : Statement (.stockpileRefreshEnd die group) := of_none rfl
theorem crewHalt (ctx : Nat) : Statement (.crewHalt ctx) := of_none rfl
theorem crewSave (core ctx : Nat) : Statement (.crewSave core ctx) := of_none rfl
theorem saveDelayTimer (crew : Nat) : Statement (.saveDelayTimer crew) := of_none rfl
theorem crewRestore (ctx : Nat) : Statement (.crewRestore ctx) := of_none rfl
theorem crewWatchdogExpire (crew : Nat) : Statement (.crewWatchdogExpire crew) := of_none rfl
theorem kick (ring : Nat) : Statement (.kick ring) := of_none rfl
theorem completionRecord (ring : Nat) : Statement (.completionRecord ring) := of_none rfl
theorem noOperation (ring : Nat) : Statement (.noOperation ring) := of_none rfl
theorem preempt (ring : Nat) : Statement (.preempt ring) := of_none rfl
theorem resume (ring : Nat) : Statement (.resume ring) := of_none rfl
theorem invalidateTranslations (ring : Nat) : Statement (.invalidateTranslations ring) := of_none rfl
theorem installAssayers (ring : Nat) : Statement (.installAssayers ring) := of_none rfl
theorem removeAssayers (ring : Nat) : Statement (.removeAssayers ring) := of_none rfl
theorem debugResume (ring : Nat) : Statement (.debugResume ring) := of_none rfl
theorem joinModuleGang (ring : Nat) : Statement (.joinModuleGang ring) := of_none rfl
theorem collectiveComplete (launch gang : Nat) : Statement (.collectiveComplete launch gang) := of_none rfl
theorem macroSelfTest (core : Nat) (failing : Option (Nat × Nat)) : Statement (.macroSelfTest core failing) := of_none rfl
theorem loadReturn (request : Nat) (data : List Byte) (bad : Bool) : Statement (.loadReturn request data bad) := of_none rfl
theorem pageWalkDone (die ctx : Nat) (va : Word) (write : Bool) : Statement (.pageWalkDone die ctx va write) := of_none rfl
theorem remoteErrorResponse (request reason : Nat) : Statement (.remoteErrorResponse request reason) := of_none rfl
theorem powerEvaluation (die : Nat) (duties : List (Nat × Nat × Nat)) : Statement (.powerEvaluation die duties) := of_none rfl
theorem contextInvalidate (ctx : Nat) : Statement (.contextInvalidate ctx) := of_none rfl
theorem supervisorTake (ctx : Nat) (debug : Bool) (index : Nat) : Statement (.supervisorTake ctx debug index) := of_none rfl
theorem supervisorDone (ctx : Nat) (debug : Bool) (index : Nat) (reply : Word) : Statement (.supervisorDone ctx debug index reply) := of_none rfl
theorem islandCeilingWrite (island ceil : Nat) : Statement (.islandCeilingWrite island ceil) := of_none rfl
theorem housekeepingWrite (addr : Nat) (value : Word) : Statement (.housekeepingWrite addr value) := of_none rfl
theorem hostAccess (port : Nat) (addr : Nat) (op : ExtOp) : Statement (.hostAccess port addr op) := of_none rfl
theorem peerRequest (source : PeerPort) (number : Nat) (addr : Nat) (op : ExtOp) : Statement (.peerRequest source number addr op) := of_none rfl
theorem ioDeviceWrite (port : Nat) (addr : Nat) (data : List Byte) : Statement (.ioDeviceWrite port addr data) := of_none rfl
theorem cxlCompletionTimeout (request : Nat) : Statement (.cxlCompletionTimeout request) := of_none rfl
theorem cxlPortDown (port : Nat) : Statement (.cxlPortDown port) := of_none rfl
theorem routerFail (router : Nat) : Statement (.routerFail router) := of_none rfl
theorem meshResend (router : Nat) : Statement (.meshResend router) := of_none rfl
theorem ucieLinkDown (link : Nat) : Statement (.ucieLinkDown link) := of_none rfl
theorem aditResend (request : Nat) : Statement (.aditResend request) := of_none rfl
theorem aditPortDown (port : Nat) : Statement (.aditPortDown port) := of_none rfl
theorem ioCoreFail (ioCore : Nat) : Statement (.ioCoreFail ioCore) := of_none rfl
theorem stockpileScrub (die group : Nat) (found : List (Nat × Bool)) : Statement (.stockpileScrub die group found) := of_none rfl
theorem hbmPatrolScrub (found : List (Nat × Bool)) : Statement (.hbmPatrolScrub found) := of_none rfl
theorem powerUp (boot : BootInput) : Statement (.powerUp boot) := of_none rfl
theorem attestationRequest (ctx : Nat) (nonce : List Byte) : Statement (.attestationRequest ctx nonce) := of_none rfl
theorem writeAcknowledgement (request : Nat) : Statement (.writeAcknowledgement request) := of_none rfl
theorem programTimestampAdvance (crew : Nat) : Statement (.programTimestampAdvance crew) := of_none rfl
theorem managedCopyEviction (core line : Nat) : Statement (.managedCopyEviction core line) := of_none rfl
theorem lineFill (line : Nat) (victim : Option Nat) : Statement (.lineFill line victim) := of_none rfl
theorem engineWatchdogExpire (core : Nat) : Statement (.engineWatchdogExpire core) := of_none rfl
theorem cxlPortUp (port : Nat) : Statement (.cxlPortUp port) := of_none rfl
theorem powerLoss : Statement (.powerLoss) := of_none rfl
theorem applicationCoreAccess (appCore : AppHart) (addr : Nat) (op : ExtOp) :
    Statement (.applicationCoreAccess appCore addr op) := of_none rfl

end Sys2Proof.Laws.Encoded

theorem Sys2Proof.Laws.Encoded.seal (ring : Nat) : Sys2Proof.Laws.Encoded.Statement (.seal ring) :=
  Sys2Proof.Laws.Encoded.of_none rfl
theorem Sys2Proof.Laws.Encoded.unseal (ring : Nat) : Sys2Proof.Laws.Encoded.Statement (.unseal ring) :=
  Sys2Proof.Laws.Encoded.of_none rfl
end

