-- ==== Sys2Proof/Laws/Results.lean ====
section
/-! SUPPORT. The shared operations that end an arithmetic instruction: what each leaves, said once. -/

namespace Sys2Proof.Machine

theorem crewBecomes_done (e : Env) (s u : State) (c : Crew) (ho : OnlyCrews s u) (hc : u.crew e.id = some c)
    (hd : ∀ d, d ≠ e.id → u.crew d = s.crew d) : CrewBecomes e.id s (settleRes e (.done u)) c :=
  ⟨ho.trans (onlyCrews_done e u), fun d h => (crew_done_ne e u d h).trans (hd d h), sameRegs_done e u c hc⟩

theorem crew_endUses_ne (e : Env) (s : State) (d : Nat) (h : d ≠ e.id) : (e.endUses s).crew d = s.crew d := by
  unfold Env.endUses
  dsimp only
  split
  · rfl
  · exact crew_modCrew_ne _ _ _ _ h

theorem crew_flag_ne (e : Env) (s : State) (f : Flags) (d : Nat) (h : d ≠ e.id) : (e.flag s f).crew d = s.crew d := by
  unfold Env.flag
  split
  · rfl
  · exact crew_modCrew_ne _ _ _ _ h

theorem crew_flag (e : Env) (s : State) (f : Flags) (c : Crew) (h : s.crew e.id = some c) :
    (e.flag s f).crew e.id = some (c.orSticky f) := by
  unfold Env.flag
  split
  · rename_i hf
    have h0 : f = 0 := by simpa using hf
    subst h0
    rw [h]
    simp [Crew.orSticky]
  · rw [crew_modCrew, h]
    rfl

/-- The state after the marked sources have ended and flags have joined, where the crew then changes by `k`. -/
theorem crewBecomes_mod (e : Env) (s : State) (fl : Flags) (k : Crew → Crew) (hc : s.crew e.id = some e.c) :
    CrewBecomes e.id s (settleRes e (.done ((e.flag (e.endUses s) fl).modCrew e.id k))) (k ((e.spent s).orSticky fl)) := by
  apply crewBecomes_done
  · exact ((onlyCrews_endUses e s).trans (onlyCrews_flag _ _ _)).trans (onlyCrews_modCrew _ _ _)
  · rw [crew_modCrew, crew_flag e _ fl _ (crew_endUses e s e.c hc)]
    rfl
  · intro d hd
    rw [crew_modCrew_ne _ _ _ _ hd, crew_flag_ne _ _ _ _ hd, crew_endUses_ne _ _ _ hd]

/-- What `finishS` does. -/
theorem finishS_result (e : Env) (s : State) (signed : Bool) (n : Nat) (r : LaneOut) (hc : s.crew e.id = some e.c) :
    ∃ u, e.finishS s signed n r = .done u ∧
      UniformResult e s (settleRes e (.done u)) (e.newS s signed n r.v)
        (r.flags ||| flagIf r.dead flagDEAD) := by
  refine ⟨_, rfl, ?_⟩
  have h := crewBecomes_mod e s (laneFlags [r]) (fun c => c.setS e.dst (e.wrote (c.sAt e.dst) (e.result signed n (c.sAt e.dst) r.v))) hc
  simpa [UniformResult, Env.newS, laneFlags, Crew.sAt] using h

/-- What `finishWhole` does. -/
theorem finishWhole_result (e : Env) (s : State) (fl : Flags) (w : Word) (hc : s.crew e.id = some e.c) :
    ∃ u, e.finishWhole s fl w = .done u ∧ UniformResult e s (settleRes e (.done u)) (.live w) fl :=
  ⟨_, rfl, crewBecomes_mod e s fl (fun c => c.writeS e.dst w) hc⟩

theorem acting_lt (e : Env) (l : Nat) (h : l ∈ e.acting) : l < 1024 := by
  have h1 : l ∈ e.lanes := List.mem_of_mem_filter h
  have h2 : e.x.mask.getLsbD l = true := by
    simpa using (List.mem_filter.mp h1).2
  by_contra hc
  rw [BitVec.getLsbD_of_ge _ _ (by omega)] at h2
  exact absurd h2 (by simp)

theorem lanes_lt (e : Env) (l : Nat) (h1 : l ∈ e.lanes) : l < 1024 := by
  have h2 : e.x.mask.getLsbD l = true := by
    simpa using (List.mem_filter.mp h1).2
  by_contra hc
  rw [BitVec.getLsbD_of_ge _ _ (by omega)] at h2
  exact absurd h2 (by simp)

theorem lanes_nodup (e : Env) : e.lanes.Nodup := List.Nodup.filter _ List.nodup_range

theorem acting_nodup (e : Env) : e.acting.Nodup := List.Nodup.filter _ (lanes_nodup e)

/-- Writing lanes of one register one after another: each lane holds its value, which may use what it held before. -/
theorem vAt_foldl_setV (d : Nat) (g : Nat → RegVal → RegVal) (ls : List Nat) (c : Crew) (hn : ls.Nodup)
    (hl : ∀ l ∈ ls, l < 1024) (r l : Nat) (h : l < 1024) :
    (ls.foldl (fun c l => c.setV d l (g l (c.vAt d l))) c).vAt r l =
      if r = d ∧ l ∈ ls then g l (c.vAt d l) else c.vAt r l := by
  induction ls generalizing c with
  | nil => simp
  | cons a as ih =>
    obtain ⟨ha, hn⟩ := List.nodup_cons.mp hn
    have ha' := hl a (by simp)
    rw [List.foldl_cons, ih _ hn (fun x hx => hl x (by simp [hx]))]
    by_cases hla : l = a
    · subst hla
      by_cases hr : r = d
      · subst hr
        simp [ha]
      · rw [if_neg (by simp [hr]), if_neg (by simp [hr]), vAt_setV_ne _ _ _ _ _ _ (by omega)]
    · have h1 : ∀ k, (c.setV d a (g a (c.vAt d a))).vAt k l = c.vAt k l := fun k =>
        vAt_setV_ne _ _ _ _ _ _ (by omega)
      simp [h1, hla]

theorem foldl_setV_rest (d : Nat) (g : Nat → RegVal → RegVal) (ls : List Nat) (c : Crew) :
    ls.foldl (fun c l => c.setV d l (g l (c.vAt d l))) c =
      { c with v := (ls.foldl (fun c l => c.setV d l (g l (c.vAt d l))) c).v } := by
  induction ls generalizing c with
  | nil => rfl
  | cons a as ih =>
    rw [List.foldl_cons, ih]
    rfl

theorem laneFlags_eq (rs : List LaneOut) :
    laneFlags rs = rs.foldl (fun f r => f ||| r.flags ||| flagIf r.dead flagDEAD) 0 := rfl

/-- What `finishV` does with one result for each lane of a list without repeats. -/
theorem finishV_result (e : Env) (s : State) (signed : Bool) (n : Nat) (ls : List Nat) (k : Nat → LaneOut)
    (hc : s.crew e.id = some e.c) (hk : ∀ l, (k l).lane = l) (hn : ls.Nodup) (hl : ∀ l ∈ ls, l < 1024) :
    ∃ u, e.finishV s signed n (ls.map k) = .done u ∧
      VectorResult e s (settleRes e (.done u)) ls
        (fun l => e.newV s signed n l (k l).v) (laneFlags (ls.map k)) := by
  refine ⟨_, rfl, ?_⟩
  let g : Nat → RegVal → RegVal := fun l old => e.wrote old (e.result signed n old (k l).v)
  have hf : ∀ c : Crew, (ls.map k).foldl (fun c r =>
      c.setV e.dst r.lane (e.wrote (c.vAt e.dst r.lane) (e.result signed n (c.vAt e.dst r.lane) r.v))) c =
      ls.foldl (fun c l => c.setV e.dst l (g l (c.vAt e.dst l))) c := by
    intro c
    rw [List.foldl_map]
    simp only [hk]
    rfl
  have h := crewBecomes_mod e s (laneFlags (ls.map k)) (fun c => (ls.map k).foldl (fun c r =>
      c.setV e.dst r.lane (e.wrote (c.vAt e.dst r.lane) (e.result signed n (c.vAt e.dst r.lane) r.v))) c) hc
  rw [hf] at h
  refine ⟨_, h, foldl_setV_rest _ _ _ _, ?_⟩
  intro r l hlt
  rw [vAt_foldl_setV _ _ _ _ hn hl r l hlt]
  rfl

/-- Writing bits of a mask one after another. -/
theorem getLsbD_foldl_mask (ls : List (Nat × Bool)) (m : Mask) (l : Nat) (h : l < 1024) (hn : (ls.map Prod.fst).Nodup)
    (hl : ∀ t ∈ ls, t.1 < 1024) :
    (ls.foldl (fun (m : Mask) t =>
      if t.2 then m ||| BitVec.ofNat 1024 (2 ^ t.1) else m &&& ~~~(BitVec.ofNat 1024 (2 ^ t.1))) m).getLsbD l =
      if (l, true) ∈ ls then true else if (l, false) ∈ ls then false else m.getLsbD l := by
  induction ls generalizing m with
  | nil => simp
  | cons a as ih =>
    obtain ⟨k, b⟩ := a
    simp only [List.map_cons, List.nodup_cons] at hn
    rw [List.foldl_cons, ih _ hn.2 (fun t ht => hl t (by simp [ht]))]
    have hbit : ∀ j, j < 1024 → (BitVec.ofNat 1024 (2 ^ k)).getLsbD j = decide (k = j) := by
      intro j hj
      rw [BitVec.getLsbD_ofNat]
      simp [hj, Nat.testBit_two_pow]
    have hk : ∀ c, (k, c) ∉ as := fun c hc => hn.1 (List.mem_map.mpr ⟨_, hc, rfl⟩)
    have hb := hbit l h
    generalize BitVec.ofNat 1024 (2 ^ k) = B at hb ⊢
    rw [BitVec.getLsbD_eq_getElem h] at hb
    by_cases hlk : l = k
    · subst hlk
      cases b <;> simp [hk, hb, h]
    · have : ¬ k = l := fun e => hlk e.symm
      cases b <;> simp [hlk, hb, h, this]

/-- A key that a table does not list stands in none of its entries. -/
theorem ne_of_tabGet_none {α : Type} {t : Tab α} {k : Nat} (h : tabGet t k = none) : ∀ e ∈ t, e.1 ≠ k := by
  induction t with
  | nil => simp
  | cons a r ih =>
    obtain ⟨i, a⟩ := a
    simp only [tabGet] at h
    split at h
    · simp at h
    · rename_i hik
      intro e he
      rcases List.mem_cons.mp he with rfl | he
      · simpa using hik
      · exact ih h e he

/-- A lane outside a granule has no bit in its mask. -/
theorem getLsbD_granule (g l : Nat) (h : l / 64 ≠ g) : (BitVec.ofNat 1024 ((2 ^ 64 - 1) * 2 ^ (64 * g))).getLsbD l = false := by
  rw [BitVec.getLsbD_ofNat]
  have : ((2 ^ 64 - 1) * 2 ^ (64 * g)).testBit l = false := by
    rw [Nat.testBit_mul_two_pow]
    by_cases hg : 64 * g ≤ l
    · have h64 : 64 ≤ l - 64 * g := by omega
      simp only [hg, decide_true, Bool.true_and]
      rw [Nat.testBit_two_pow_sub_one]
      simp; omega
    · simp [hg]
  rw [this, Bool.and_false]

/-- The lanes that a write leaves lost lie in granules that stay lost. -/
theorem getLsbD_gone (lost : Tab Bool) (n l : Nat) (m : Mask) (h : ∀ e ∈ lost, e.1 ≠ 16 * n + l / 64) :
    (lost.foldl (fun (m : Mask) e => if e.1 / 16 == n && decide (e.1 < 256) then
      m ||| BitVec.ofNat 1024 ((2 ^ 64 - 1) * 2 ^ (64 * (e.1 % 16))) else m) m).getLsbD l = m.getLsbD l := by
  induction lost generalizing m with
  | nil => rfl
  | cons e r ih =>
    rw [List.foldl_cons, ih _ (fun x hx => h x (List.mem_cons_of_mem _ hx))]
    split
    · rename_i he
      simp only [Bool.and_eq_true, beq_iff_eq, decide_eq_true_eq] at he
      have hne := h e List.mem_cons_self
      rw [BitVec.getLsbD_or, getLsbD_granule _ _ (by omega), Bool.or_false]
    · rfl

/-- What a write of a predicate does to granules whose bits are lost: a predicate reads as before but for those of its
granules that stay lost, and no other field changes. -/
theorem foundP_spec (c : Crew) (n : Nat) (ls : List Nat) :
    c.foundP n ls = { c with p := (c.foundP n ls).p, lost := (c.foundP n ls).lost } ∧
      (c.lost = [] → (c.foundP n ls).lost = []) ∧
      ∀ k l, l < 1024 → (k = n → tabGet (c.foundP n ls).lost (16 * n + l / 64) = none) →
        ((c.foundP n ls).pAt k).getLsbD l = (c.pAt k).getLsbD l := by
  unfold Crew.foundP
  split
  · exact ⟨rfl, fun h => h, fun _ _ _ _ => rfl⟩
  · rename_i hne
    refine ⟨rfl, fun h => absurd (by simp [h]) hne, ?_⟩
    intro k l hl hk
    dsimp only at hk ⊢
    by_cases h15 : k = 15
    · subst h15; rfl
    · by_cases hkn : k = n
      · subst hkn
        have hgone := getLsbD_gone _ k l 0 (ne_of_tabGet_none (hk rfl))
        simp only [Crew.pAt, beq_iff_eq, h15, if_false]
        split
        · rfl
        · rw [tabGet_tabPut_same]
          simp only [Option.getD_some, BitVec.getLsbD_and, BitVec.getLsbD_not, hgone]
          simp [hl]
      · simp only [Crew.pAt, beq_iff_eq, h15, if_false]
        split
        · rfl
        · rw [tabGet_tabPut_ne _ _ _ _ hkn]

/-- What `finishP` does with one result for each lane of a list without repeats. -/
theorem finishP_result (e : Env) (s : State) (ls : List Nat) (k : Nat → LaneOut) (hc : s.crew e.id = some e.c)
    (hk : ∀ l, (k l).lane = l) (hn : ls.Nodup) (hl : ∀ l ∈ ls, l < 1024) :
    ∃ u, e.finishP s (ls.map k) = .done u ∧
      PredicateResult e s (settleRes e (.done u)) e.dst ls (fun l => (k l).v != 0) (laneFlags (ls.map k)) := by
  refine ⟨_, rfl, ?_⟩
  let bits : List (Nat × Bool) := ls.map (fun l => (l, (k l).v != 0))
  have hb : (ls.map k).map (fun r => (r.lane, r.v != 0)) = bits := by
    simp only [List.map_map, bits]
    apply List.map_congr_left
    intro l _
    simp [hk]
  have h := crewBecomes_mod e s (laneFlags (ls.map k)) (fun c => (c.setP e.dst (bits.foldl (fun (m : Mask) t =>
      if t.2 then m ||| BitVec.ofNat 1024 (2 ^ t.1) else m &&& ~~~(BitVec.ofNat 1024 (2 ^ t.1))) (c.pAt e.dst))).foundP
        e.dst (bits.map Prod.fst)) hc
  rw [hb]
  have hsl : ∀ (c : Crew) n m, c.setP n m = { c with p := (c.setP n m).p } := by
    intro c n m; unfold Crew.setP; split <;> rfl
  refine ⟨_, h, ?_, ?_, ?_⟩
  · have both : ∀ (c d f : Crew), d = { c with p := d.p } → f = { d with p := f.p, lost := f.lost } →
        f = { c with p := f.p, lost := f.lost } := by
      intro c d f hd hf
      generalize d.p = q at hd
      subst hd
      exact hf
    exact both _ _ _ (hsl _ _ _) (foundP_spec _ _ _).1
  · intro hl0
    refine (foundP_spec _ _ _).2.1 ?_
    rw [hsl]
    exact hl0
  · intro n l hlt hlost
    rw [(foundP_spec _ _ _).2.2 n l hlt hlost]
    have hm : ∀ b, (l, b) ∈ bits ↔ l ∈ ls ∧ ((k l).v != 0) = b := by
      intro b
      simp only [bits, List.mem_map, Prod.mk.injEq]
      constructor
      · rintro ⟨a, ha, rfl, hb⟩
        exact ⟨ha, hb⟩
      · rintro ⟨ha, hb⟩
        exact ⟨l, ha, rfl, hb⟩
    have hnd : (bits.map Prod.fst).Nodup := by
      have : bits.map Prod.fst = ls := by simp [bits, Function.comp_def]
      rw [this]
      exact hn
    have hlb : ∀ t ∈ bits, t.1 < 1024 := by
      intro t ht
      obtain ⟨a, ha, rfl⟩ := List.mem_map.mp ht
      exact hl a ha
    by_cases hd : n = e.dst
    · subst hd
      by_cases h15 : e.dst = 15
      · simp [h15, Crew.setP, Crew.pAt, Crew.orSticky, Crew.lanes]
      · rw [pAt_setP _ _ _ h15, getLsbD_foldl_mask bits _ l hlt hnd hlb]
        simp only [hm]
        by_cases hmem : l ∈ ls
        · cases (k l).v != 0 <;> simp [hmem, h15]
        · simp only [hmem, false_and, and_false, if_false]
          rfl
    · rw [pAt_setP_ne _ _ _ _ hd]
      simp [hd, Crew.pAt, Crew.orSticky, Crew.lanes]

end Sys2Proof.Machine
end

