-- ==== Sys2Proof/Laws/Step.lean ====
section
/-! SUPPORT. What a step can do: one lemma for the turn at the head of the agenda, one for a turn that no lock holds back. -/

namespace Sys2Proof.Machine

/-- With power, a step makes the turn at the head of the agenda, in the state that keeps the rest of it. -/
theorem step_asked (s : State) (turn : Turn) (h : s.powered = true) :
    step (s.asked turn) = underLocks s turn (turnOf s turn) := by
  show (if s.powered = true then underLocks s turn (turnOf s turn) else _) = _
  rw [if_pos h]

/-- A turn that does not wait is settled. -/
theorem underLocks_free (s t : State) (turn : Turn) (h : turnWaits s t turn = false) :
    underLocks s turn (.next t) = .next (settleTurn s t turn) := by
  simp [underLocks, h]

/-- Without locked lines no turn but an access from outside waits (R306, R110). -/
theorem turnWaits_unlocked (s t : State) (turn : Turn) (h : locksOf s = []) (he : ∀ i, turn ≠ .event i) :
    turnWaits s t turn = false := by
  cases turn <;> simp [turnWaits, lockBars, h] at he ⊢

/-- Nor does an event whose access meets no refresh window. -/
theorem turnWaits_event (s t : State) (i : Instr) (h : locksOf s = []) (hw : eventWaits s i = false) :
    turnWaits s t (.event i) = false := by
  simp [turnWaits, lockBars, h, hw]

/-- A step with power whose turn goes on and does not wait goes on. -/
theorem step_asked_next (s t : State) (turn : Turn) (h : s.powered = true) (hl : turnWaits s t turn = false)
    (ht : turnOf s turn = .next t) : step (s.asked turn) = .next (settleTurn s t turn) := by
  rw [step_asked s turn h, ht, underLocks_free s t turn hl]

/-- A word that decodes to something is not too short for it, and its length is the one that it says (R156). -/
theorem decodeBytes_length {bs : List Byte} {i : Instr} {n : Nat} (h : decodeBytes bs = .ok (i, n)) :
    n = 4 * unitsOf (leNat bs % 4) ∧ n ≤ bs.length ∧ 8 ≤ n := by
  have hm : leNat (bs.take 1) % 4 = leNat bs % 4 := by
    cases bs with
    | nil => rfl
    | cons b r =>
      simp only [List.take_succ_cons, List.take_zero, leNat]
      omega
  have h8 : 8 ≤ 4 * unitsOf (leNat bs % 4) := by
    unfold unitsOf
    split <;> omega
  unfold decodeBytes at h
  rw [hm] at h
  dsimp only at h
  split at h
  · simp at h
  · rename_i hlen
    split at h
    · simp only [Except.ok.injEq, Prod.mk.injEq] at h
      obtain ⟨-, rfl⟩ := h
      exact ⟨rfl, by omega, h8⟩
    · simp at h

end Sys2Proof.Machine
end

