-- ==== Sys2Proof/Tests/Slice0.lean ====
section
/-! SUPPORT. Tests of the model: ill-formed terms that the checks refuse, the words that the spec writes out, single
steps, and for each obligation a state and operands that meet its hypotheses. -/

namespace Sys2Proof.Tests

open Sys2Proof Sys2Proof.Machine

set_option Elab.async false

/-- All fields zero but for the predicate, `p15`. -/
def plain : Fields :=
  { dst := 0, srca := 0, srcb := 0, pred := 15, pneg := false, lua := false, lub := false, kpa := false, kpb := false,
    ty := 0, rnd := 0, sat := false, var := 0, ext := .short }

/-- An empty 96-bit extension, and one with a uniform operand. -/
def wide0 : Ext96 := { srcc := 0, uni := 0, uv := false, luc := false, kpc := false, ty2 := 0, var2 := 0 }
def wideUni (n : BitVec 10) : Ext96 := { wide0 with uni := n, uv := true }

/-- An empty memory form, and one whose address is a uniform register's value plus an offset. -/
def mem0 : MemExt := { mshp := 0, mten := false, mau := false, mcrd := 0, mcnt := 0, mscp := 0, mhnt := 0, moff := 0 }
def memAt (off : BitVec 32) : MemExt := { mem0 with mau := true, moff := off }

/-! Well-formedness: one ill-formed term for each check. -/

theorem test_refuses_length : checkWord (.vadd { plain with ty := 4, ext := .mem mem0 }) = some .rlen := by decide
theorem test_refuses_length_of_vote : checkWord (.vvote { plain with ext := .imm 0 }) = some .rlen := by decide
theorem test_refuses_predicate : checkWord (.nop { plain with pred := 3 }) = some .rfield := by decide
theorem test_refuses_destination : checkWord (.exit { plain with dst := 1 }) = some .rfield := by decide
theorem test_refuses_source_a : checkWord (.exit { plain with srca := 1 }) = some .rfield := by decide
theorem test_refuses_last_use : checkWord (.exit { plain with lub := true }) = some .rfield := by decide
theorem test_refuses_source_c :
    checkWord (.vadd { plain with ty := 4, ext := .wide { wide0 with srcc := 1 } }) = some .rfield := by decide
theorem test_refuses_uni_without_uv :
    checkWord (.vadd { plain with ty := 4, ext := .wide { wide0 with uni := 1 } }) = some .rfield := by decide
theorem test_refuses_rounding : checkWord (.vadd { plain with ty := 4, rnd := 1 }) = some .rfield := by decide
theorem test_refuses_saturation : checkWord (.vand { plain with ty := 4, sat := true }) = some .rfield := by decide
theorem test_refuses_variant : checkWord (.vplog { plain with ty := 7, var := 5 }) = some .rfield := by decide
theorem test_refuses_untyped_type : checkWord (.exit { plain with ty := 1 }) = some .rfield := by decide
theorem test_refuses_tensor_without_coordinates :
    checkWord (.ld { plain with ty := 7, ext := .mem { mem0 with mten := true } }) = some .rfield := by decide
theorem test_refuses_hint : checkWord (.ld { plain with ty := 7, ext := .mem { mem0 with mhnt := 4 } }) = some .rfield :=
  by decide
theorem test_refuses_type : checkWord (.vadd { plain with ty := 9 }) = some .rtype := by decide
theorem test_refuses_atomic_type :
    checkWord (.atom { plain with ty := 0, ext := .mem mem0 }) = some .rtype := by decide
theorem test_refuses_second_type :
    checkWord (.vfdot2 { plain with ty := 9, ext := .wide { wide0 with ty2 := 9 } }) = some .rtype := by decide
theorem test_refuses_short_clause :
    checkWord (.clauseHeader { wait := 0, flga := 15, flgb := 15, clen := 1, yld := false }) = some .rclause := by decide

/-! Words that the spec writes out (of the `vfdot2` of Table 20-5 its fields, since its word differs in bit 80; Tables 09-7, 10-5, 11-7, 12-6, 13-10, 14-3, 15-6 and the programs' tables), units
from the first. -/

def units (ws : List Nat) : Nat := ws.foldr (fun w n => w + 2 ^ 32 * n) 0

/-- The decoder reads an instruction from units. -/
def reads (ws : List Nat) (i : Instr) : Bool := decodeTableWord (32 * ws.length) (units ws) == some i

theorem test_words_control :
    reads [0x00000001, 0x00003C00] (.nop plain) ∧
    reads [0xF000001D, 0x00003C00] (.brk { plain with srca := 960 }) ∧
    reads [0x00000029, 0x00003C00] (.join plain) ∧
    reads [0x0F000031, 0x00003C00] (.ret { plain with srca := 60 }) ∧
    reads [0x00000035, 0x00001000] (.exit { plain with pred := 4 }) ∧
    reads [0x00000035, 0x00004400] (.exit { plain with pred := 1, pneg := true }) ∧
    reads [0x000000C1, 0x00003C00] (.lampJoin plain) ∧ reads [0x000000C5, 0x00003C00] (.lampTake plain) ∧
    reads [0x000000C9, 0x00003C00] (.lampPass plain) ∧ reads [0x0000010D, 0x00003C00] (.uintRet plain) ∧
    reads [0x0001C101, 0x10003C00] (.csrr { plain with dst := 28, var := 1 }) ∧
    reads [0xF3000105, 0x00003C00] (.csrw { plain with srca := 972 }) := by decide +kernel

theorem test_words_integer :
    reads [0x00C0C402, 0x08203C00, 0x00101C00]
      (.vadd { plain with dst := 12, srca := 3, ty := 4, sat := true, ext := .wide (wideUni 7) }) ∧
    reads [0x0000523B, 0x00383C00, 0x23456789, 0x00000001]
      (.smov { plain with dst := 5, ty := 7, ext := .imm 0x123456789 }) ∧
    reads [0x02003541, 0x20203C09] (.vcmp { plain with dst := 3, srca := 8, srcb := 9, ty := 4, var := 2 }) ∧
    reads [0x00802415, 0xF0283C03] (.vdivs { plain with dst := 2, srca := 2, srcb := 3, ty := 5, var := 15 }) ∧
    reads [0x00801525, 0x00385803] (.vsel { plain with dst := 1, srca := 2, srcb := 3, pred := 6, pneg := true, ty := 7 }) ∧
    reads [0x01C09509, 0x00383C00] (.vpopc { plain with dst := 9, srca := 7, ty := 7 }) ∧
    reads [0x01400389, 0x10383C00] (.sshpw { plain with srca := 5, ty := 7, var := 1 }) := by decide +kernel

theorem test_words_float :
    reads [0x05414902, 0x18603C00, 0x04800000]
      (.vcvt { plain with dst := 20, srca := 21, ty := 12, sat := true, var := 1, ext := .wide { wide0 with ty2 := 9 } }) ∧
    reads [0x02003801, 0x20483C09] (.vfcmp { plain with dst := 3, srca := 8, srcb := 9, ty := 9, var := 2 }) ∧
    reads [0x03028A0D, 0x00483C00] (.vred { plain with dst := 40, srca := 12, ty := 9 }) ∧
    reads [0x02C0DA11, 0x80383C00] (.vscan { plain with dst := 13, srca := 11, ty := 7, var := 8 }) ∧
    reads [0x07C1EA01, 0x60383C20] (.vperm { plain with dst := 30, srca := 31, srcb := 32, ty := 7, var := 6 }) ∧
    reads [0x01807A05, 0x00383C00] (.vmatch { plain with dst := 7, srca := 6, ty := 7 }) ∧
    reads [0x01014881, 0x00403C00] (.vfrcpe { plain with dst := 20, srca := 4, ty := 8 }) ∧
    reads [0x0240371A, 0x00403C18, 0x00000300]
      (.vfnma { plain with dst := 3, srca := 9, srcb := 24, ty := 8, ext := .wide { wide0 with srcc := 768 } }) ∧
    reads [0x00C04736, 0x00480400, 0x05903300]
      (.vfdot2 { plain with
        dst := 4, srca := 3, pred := 1, ty := 9, ext := .wide { wideUni 12 with srcc := 768, ty2 := 11 } }) := by
  decide +kernel

theorem test_words_memory :
    reads [0x02804C01, 0x00383C00] (.ld { plain with dst := 4, srca := 10, ty := 7 }) ∧
    reads [0x02800C07, 0x00283C05, 0, 0x40]
      (.st { plain with srca := 10, srcb := 5, ty := 5, ext := .mem { mem0 with moff := 0x40 } }) ∧
    reads [0x00014C03, 0x00283C00, 0x00020792, 0]
      (.ld { plain with dst := 20, ty := 5, ext := .mem { mem0 with mshp := 2, mten := true, mcrd := 30, mcnt := 2 } }) ∧
    reads [0x03000D43, 0x00583C0D, 0x00280000, 0]
      (.red { plain with srca := 12, srcb := 13, ty := 11, ext := .mem { mem0 with mscp := 5 } }) ∧
    reads [0x01404CC6, 0x50383C06, 0x00000007]
      (.atomCas { plain with dst := 4, srca := 5, srcb := 6, ty := 7, var := 5, ext := .wide { wide0 with srcc := 7 } }) ∧
    reads [0x00000D81, 0x50003C00] (.fence { plain with var := 5 }) ∧
    reads [0x07804C0B, 0x00383C00, 0, 0x100]
      (.lds { plain with dst := 4, srca := 30, ty := 7, ext := .mem { mem0 with moff := 256 } }) ∧
    reads [0x02800C0D, 0x0028040B] (.sts { plain with srca := 10, srcb := 11, pred := 1, ty := 5 }) ∧
    reads [0x00000F01, 0x00003C00] (.gbarArr plain) ∧ reads [0x00014F05, 0x00003C00] (.gbarWait { plain with dst := 20 }) := by
  decide +kernel

theorem test_words_engines :
    reads [0x04001E01, 0x00003C00] (.hcp { plain with dst := 1, srca := 16 }) ∧
    reads [0x01800E41, 0x00603C00] (.mld { plain with srca := 6, ty := 12 }) ∧
    reads [0x01000E46, 0x10603C02, 0x00000005]
      (.mmul { plain with srca := 4, srcb := 2, ty := 12, var := 1, ext := .wide { wide0 with srcc := 5 } }) ∧
    reads [0x00000E15, 0x30003FE8] (.cwait { plain with srcb := 1000, var := 3 }) ∧
    reads [0x00002E51, 0x50003C00] (.mred { plain with dst := 2, var := 5 }) ∧
    reads [0x03402E81, 0x00483C0E] (.bselTopk { plain with dst := 2, srca := 13, srcb := 14, ty := 9 }) := by decide +kernel

theorem test_words_lodes :
    reads [0x00028B03, 0x00003C00, 4, 0x12C] (.lodeBind { plain with dst := 40, ext := .imm 0x0000012C00000004 }) ∧
    reads [0x02C0AB0A, 0x40003C0C, 0x0010A0C8]
      (.ladd { plain with dst := 10, srca := 11, srcb := 12, var := 4, ext := .wide { wideUni 40 with srcc := 200 } }) ∧
    reads [0x05414B2E, 0x00483C16, 0x0010A000]
      (.lacc { plain with dst := 20, srca := 21, srcb := 22, ty := 9, ext := .wide (wideUni 40) }) ∧
    reads [0x0503CB32, 0x00483C00, 0x0010A000]
      (.lround { plain with dst := 60, srca := 20, ty := 9, ext := .wide (wideUni 40) }) ∧
    reads [0x01406B26, 0x00003C00, 0x0010A446]
      (.lmulw { plain with dst := 6, srca := 5, ext := .wide { wideUni 41 with srcc := 70 } }) ∧
    reads [0x01806B16, 0x00003C00, 0x0010A447]
      (.lshl { plain with dst := 6, srca := 6, ext := .wide { wideUni 41 with srcc := 71 } }) ∧
    reads [0x01406B2A, 0x00003C06, 0x0010A446]
      (.lmacw { plain with dst := 6, srca := 5, srcb := 6, ext := .wide { wideUni 41 with srcc := 70 } }) := by decide +kernel

theorem test_words_assayers :
    reads [0x02007E8B] (.asLeft 29) ∧ reads [0x00059F8B] (.asLd 31 11) ∧ reads [0x01EFC00B] (.asPf 31 30) ∧
    reads [0x0004EE8B] (.asMsg 29 9) ∧ reads [0x0400700B] .asDone := by decide +kernel

/-- The clause header of a clause of 9 units that waits for `f0` and renews its split's age (Table 08-1): bits 2, 17:14,
21:18, 27:22 and 28. -/
theorem test_word_of_header :
    reads [2 ^ 2 + 15 * 2 ^ 14 + 15 * 2 ^ 18 + 9 * 2 ^ 22 + 2 ^ 28, 0]
      (.clauseHeader { wait := 1, flga := 15, flgb := 15, clen := 9, yld := true }) := by decide +kernel

/-! The hypotheses of the obligations are met. -/

/-- Word `i` placed for a crew of 32 lanes on core 0 (`f` changes the crew), which acts next. The core's lamp is the
crew's. -/
def stageCrew (i : Instr) (f : Crew → Crew) : State :=
  let s := placeForCrew State.reset (((encode i).map Code.w).getD 0)
  let s := s.modCrew 0 (fun c => f { c with
    kernel := { c.kernel with vregs := 256, sregs := 256, accs := 8, gangs := 2, rowctr := 0xFF, lamp := 1, stash := 4 }
    acc := [0, 1, 2, 3, 4, 5, 6, 7] })
  { s with actor := .split 0 0, cores := tabPut s.cores 0 { s.core 0 with ring := [0], holder := some 0 } }

def stage (i : Instr) : State := stageCrew i id

/-- The instruction runs in a state, and its environment satisfies a test. -/
def stands (i : Instr) (s : State) (p : Env → Bool) : Bool :=
  match envOf i s with
  | some e =>
    (e.firstCheck i s).isNone && !e.mustAwait s && !(e.form.uniform && e.form.pred && !condSlot e.slot && !e.acts) &&
      !(e.form.engine && !e.holds s) && !e.meetsLost s && p e
  | none => false

theorem stands_runs {i : Instr} {s : State} {p : Env → Bool} (h : stands i s p = true) : ∃ e, Runs i s e ∧ p e = true := by
  unfold stands at h
  split at h
  · rename_i e he
    simp only [Bool.and_eq_true, Option.isNone_iff_eq_none, Bool.not_eq_true'] at h
    exact ⟨e, ⟨he, h.1.1.1.1.1, h.1.1.1.1.2, h.1.1.1.2, h.1.1.2, h.1.2⟩, h.2⟩
  · cases h

/-- Fields with which the forms are tried: each suits some of them. -/
def trials : List Fields :=
  let z : Fields := { plain with pred := 0 }
  [{ z with ty := 4 }, { z with ty := 7 }, { z with ty := 9 }, { z with ty := 8 }, { z with ty := 5 }, z, { z with ty := 7, var := 1 }] ++
    [{ z with ty := 4, ext := .wide wide0 }, { z with ty := 8, ext := .wide wide0 }, { z with ext := .wide wide0 },
     { z with ty := 9, ext := .wide { wide0 with ty2 := 10 } }, { z with ty := 4, ext := .mem mem0 },
     { z with ty := 4, ext := .mem (memAt 0) }, { z with ext := .imm 0 }, { z with var := 3, ext := .wide wide0 }] ++
    [plain, { plain with srca := 960 }, { plain with ext := .imm 0 }, { plain with ty := 6, ext := .mem (memAt 0) }] ++
    [{ plain with ty := 7, ext := .wide (wideUni 0) }, { plain with ty := 9 }, { plain with ext := .wide (wideUni 0) },
     { plain with ty := 8, ext := .wide (wideUni 0) }, { z with ty := 4, var := 3, ext := .wide wide0 }]

def someRuns (k : Fields → Instr) : Bool := trials.any (fun f => stands (k f) (stage (k f)) (fun _ => true))

theorem some_runs {ks : List (Fields → Instr)} (h : ks.all someRuns = true) : ∀ k ∈ ks, ∃ f s e, Runs (k f) s e := by
  intro k hk
  obtain ⟨f, -, hf⟩ := List.any_eq_true.1 (List.all_eq_true.1 h k hk)
  obtain ⟨e, he, -⟩ := stands_runs hf
  exact ⟨f, stage (k f), e, he⟩

theorem test_runs_integer : ∀ k ∈ uniformInteger.map Prod.fst ++ vectorInteger.map Prod.fst, ∃ f s e, Runs (k f) s e :=
  some_runs (by decide +kernel)

theorem test_runs_packed : ∀ k ∈ packedForms.map Prod.fst, ∃ f s e, Runs (k f) s e := some_runs (by decide +kernel)

theorem test_runs_float : ∀ k ∈ vectorFloat.map Prod.fst ++ uniformFloat.map Prod.fst, ∃ f s e, Runs (k f) s e :=
  some_runs (by decide +kernel)

theorem test_runs_other_arithmetic :
    ∀ k ∈ [Instr.sdivs, .vdivs, .scmp, .vcmp, .vsel, .vplog, .sadrt, .vadrt, .vinrt, .sshpr, .sshpw, .sshpb, .vfdot2,
      .vfcmp, .sfcmp, .scvt, .vcvt, .vperm, .vmatch, .vvote, .vrdl, .vred, .vscan], ∃ f s e, Runs (k f) s e :=
  some_runs (by decide +kernel)

theorem test_runs_control :
    ∀ k ∈ [Instr.nop, .csrr, .csrw, .flgClr, .flgRd, .mkw, .mkr, .join, .exit, .lampJoin, .lampTake, .lampPass, .uintPost,
      .uintRet, .spawn, .nsig, .npub, .mwait, .lodeFree], ∃ f s e, Runs (k f) s e := some_runs (by decide +kernel)

theorem test_runs_memory :
    ∀ k ∈ [Instr.ld, .lds, .sld, .slds, .st, .sts, .sst, .ssts, .atom, .satom, .atomCas, .satomCas, .red, .sred, .cwb,
      .cinv, .fence, .amsg, .gbarArr, .gbarWait, .collBar, .collAg, .collRs, .collA2a], ∃ f s e, Runs (k f) s e :=
  some_runs (by decide +kernel)

/-- The word placed for a crew and a state so changed: the instruction runs and the test holds. -/
def meets (i : Instr) (f : Crew → Crew) (g : State → State) (p : Env → State → Bool) : Bool :=
  let s := g (stageCrew i f)
  stands i s (fun e => p e s)

/-- Uniform register 1, and vector register 0 of every lane, hold a value. -/
def withReg (w : Word) (c : Crew) : Crew := (List.range 32).foldl (fun c l => c.setV 0 l (.live w)) (c.writeS 1 w)
/-- Predicate 1 selects the lower 16 lanes; predicate 2 selects none. -/
def withPreds (c : Crew) : Crew := { c with p := tabPut (tabPut c.p 1 (lowMask 16)) 2 0 }
def onFirst (f : Split → Split) (c : Crew) : Crew := c.modSplit 0 f
def fullDivs : Tab Divergence :=
  (List.range 16).map (fun k =>
    (k, { joinPc := 0, enclosing := none, serial := false, resume := none, waiting := 0, arrived := 0 }))
def withDesc (f : Desc → Desc) (s : State) : State := { s with descs := tabPut s.descs 0 (f (s.desc 0)) }

/-- The placed instruction stands 12 bytes after its clause header. -/
def back : Word := BitVec.ofInt 64 (-12)
def target (e : Env) : Nat := e.label e.immW.toInt

theorem test_meets_sign_forms :
    [Instr.vfneg, .vfabs, .vfcsgn].all (fun k => [8, 11].all (fun t =>
      meets (k { plain with ty := t }) id id (fun e _ => 8 ≤ e.ty && e.ty ≤ 11))) = true := by decide +kernel

theorem test_meets_shapes :
    [Instr.sadrt, .vadrt, .vinrt].all (fun k =>
      meets (k { plain with ty := 7, var := 1 }) id id (fun e _ => !shpBad (e.c.tAt e.f.srcb.toNat)) &&
      meets (k { plain with ty := 7, var := 1 }) (fun c => { c with t := [(0, BitVec.ofNat 256 (7 * 2 ^ 64))] }) id
        (fun e _ => shpBad (e.c.tAt e.f.srcb.toNat))) = true := by decide +kernel

theorem test_meets_votes :
    meets (.vvote { plain with ty := 7, var := 1 }) id id (fun e _ => e.var != 3) ∧
    meets (.vvote { plain with ty := 7, var := 3, ext := .wide (wideUni 1) }) (withReg 15) id
      (fun e s => e.var == 3 && (e.read s.clock e.srcB 0).1.toNat == 15) ∧
    meets (.vvote { plain with ty := 7, var := 3, ext := .wide (wideUni 1) }) (withReg 16) id
      (fun e s => e.var == 3 && 15 < (e.read s.clock e.srcB 0).1.toNat) := by decide +kernel

/-- A load is on its way to uniform register `n`. -/
def awaiting (n : Nat) (s : State) : State :=
  { s with exts := [(0, { kind := .uload, crew := 0, split := 0, lane := 0, core := 0, ctx := 0, va := 0, pa := 0, size := 8,
                          dst := n, ty := 7, x2 := false, op := 0, data := [], pc := 0, slot := 0, sentAt := 0, sends := 0, hold := false,
                          told := false })] }

/-- An awaited register, a form whose predicate selects no lane, and an engine form without the lamp. -/
theorem test_meets_what_holds_back :
    (envOf (.sadd { plain with ty := 7 }) (awaiting 0 (stage (.sadd { plain with ty := 7 })))).any (fun e =>
      (e.firstCheck (.sadd { plain with ty := 7 }) (awaiting 0 (stage (.sadd { plain with ty := 7 })))).isNone &&
        e.mustAwait (awaiting 0 (stage (.sadd { plain with ty := 7 })))) ∧
    (envOf (.sadd { plain with ty := 7, pred := 2 }) (stageCrew (.sadd { plain with ty := 7, pred := 2 }) withPreds)).any
      (fun e => e.form.uniform && e.form.pred && !condSlot e.slot && !e.acts) ∧
    (envOf (.mzero plain) { stage (.mzero plain) with cores := [] }).any (fun e =>
      e.form.engine && e.acts && !e.holds { stage (.mzero plain) with cores := [] }) := by decide +kernel

/-- Exceptions: a context without a debug queue; with one, a crew that is out, one that awaits loads, and one that has
a save slot. A code is recorded, and another is not. -/
theorem test_meets_exceptions :
    let s := stage (.nop plain)
    let q := withDesc (fun d => { d with dbgq := 0x4000, savebase := 0x100000, saveslot := 2048, savecnt := 1 }) s
    (s.crew 0).any (fun c => c.state != .retired && (s.desc c.ctx).dbgq == 0 && !c.out) ∧
    (q.crew 0).any (fun c => c.state != .retired && (q.desc c.ctx).dbgq != 0 && !c.out && !awaitsLoads q 0 &&
      findSlot (q.setCrew 0 c) c == .slot 0) ∧
    awaitsLoads (awaiting 0 q) 0 ∧ { (q.crew 0).getD (Crew.fresh 0 0 none none [] placeKernel 0 0) with state := .swappedOut }.out ∧
    excRecorded .rslot = false ∧ (Exc.rremote.code = 17 ∧ excRecorded .rremote) := by decide +kernel

theorem test_meets_control_registers :
    meets (.csrw { plain with var := 2, srca := 1 }) (withReg 1) id (fun e _ => e.c.kernel.scount != 0) ∧
    meets (.csrw { plain with var := 2, srca := 965 })
      (fun c => { c with kernel := { c.kernel with sregs := 0 } }) id
      (fun e s => e.c.kernel.scount == 0 && (e.read s.clock e.srcA 0).1.getLsbD 0) := by decide +kernel

theorem test_meets_branches :
    meets (.br { plain with ext := .imm back }) id id (fun e s => isHeader s e.c (target e)) ∧
    meets (.br { plain with ext := .imm 4 }) id id (fun e s => !isHeader s e.c (target e)) ∧
    meets (.call { plain with ext := .imm back }) id id (fun e s => isHeader s e.c (target e)) ∧
    meets (.call { plain with ext := .imm 4 }) id id (fun e s => !isHeader s e.c (target e)) ∧
    meets (.ret { plain with srca := 1 }) (withReg 0x1054) id
      (fun e s => isHeader (e.dead s false) e.c (e.read s.clock e.srcA 0).1.toNat) ∧
    meets (.ret { plain with srca := 1 }) (withReg 0x1055) id
      (fun e s => !isHeader (e.dead s false) e.c (e.read s.clock e.srcA 0).1.toNat) := by decide +kernel

theorem test_meets_divergence :
    let i : BitVec 4 → Instr := fun p =>
      .brDiv { plain with pred := p, ext := .imm 0xFFFFFFF4FFFFFFF4 }
    let sides : Env → Mask × Mask := fun e => (maskOf e.acting, e.x.mask &&& ~~~(maskOf e.acting))
    let heads : Env → State → Bool := fun e s =>
      isHeader s e.c (e.label (readInt true 32 (e.immW.toNat % 2 ^ 32))) &&
        isHeader s e.c (e.label (readInt true 32 (e.immW.toNat / 2 ^ 32)))
    meets (i 0) id id (fun e s => heads e s && (sides e).2 == 0) ∧
    meets (i 2) withPreds id (fun e s => heads e s && (sides e).1 == 0 && (sides e).2 != 0) ∧
    meets (i 1) withPreds id (fun e _ => (sides e).1 != 0 && (sides e).2 != 0 && e.c.lode.isNone &&
      tabFree e.c.divs 16 == some 0) ∧
    meets (i 1) (fun c => { withPreds c with divs := fullDivs }) id (fun e _ => tabFree e.c.divs 16 == none) ∧
    meets (i 1) (fun c => { withPreds c with lode := some (0, 1) }) id (fun e _ => e.c.lode.isSome) ∧
    meets (.join plain) id id (fun e _ => e.x.innermost.isNone) ∧
    meets (.join plain) (fun c => onFirst (fun x => { x with innermost := some 3 }) { c with divs := fullDivs }) id
      (fun e _ => (e.x.innermost.bind (fun k => tabGet e.c.divs k)).isSome && e.x.clause.isSome) := by decide +kernel

theorem test_meets_exit_and_break :
    meets (.exit plain) id id (fun e _ => maskOf e.acting &&& e.c.lodeLanes == 0) ∧
    meets (.exit plain) (fun c => { c with lode := some (0, 1) }) id (fun e _ => maskOf e.acting &&& e.c.lodeLanes != 0) ∧
    meets (.brk { plain with srca := 960 }) id id (fun e s => !(s.desc e.ctx).dbg) ∧
    meets (.brk { plain with srca := 1023 }) id (withDesc (fun d => { d with dbg := true })) (fun e s => (s.desc e.ctx).dbg) ∧
    meets (.yieldCont { plain with var := 11, ext := .imm back }) (fun c => { c with flags := 2 ^ 11 }) id
      (fun e s => isHeader s e.c (target e) && e.c.flags.getLsbD e.var) ∧
    meets (.yieldCont { plain with ext := .imm back }) id id
      (fun e s => isHeader s e.c (target e) && !e.c.flags.getLsbD e.var) := by decide +kernel

theorem test_meets_lamp :
    let alone : State → State := fun s => { s with cores := [] }
    meets (.lampJoin plain) id id (fun e _ => e.c.single && e.c.kernel.lamp != 0) ∧
    meets (.lampJoin plain) (fun c => { c with kernel := { c.kernel with lamp := 0 } }) id (fun e _ => e.c.kernel.lamp == 0) ∧
    meets (.lampTake plain) id id (fun e s => e.member s && e.holds s) ∧
    meets (.lampTake plain) id alone (fun e s => !e.member s) ∧
    meets (.lampPass plain) id id (fun e s => e.holds s) ∧ meets (.lampPass plain) id alone (fun e s => !e.holds s) := by
  decide +kernel

/-- The crew belongs to launch 5. -/
def inLaunch (c : Crew) : Crew := { c with launch := some 5 }

theorem test_meets_interrupts :
    let after : Env → State → State := fun e s =>
      e.endUses (e.fenced (e.dead s (e.read s.clock e.srcA 0).2) 5)
    meets (.uintPost { plain with var := 1 }) id id
      (fun e s => e.var == 1 && ((after e s).crew e.id).any (fun c => c.postable && !c.out)) ∧
    meets (.uintPost { plain with srca := 1 }) (fun c => inLaunch (withReg 0 c)) id
      (fun e s => e.var != 1 && (e.c.launch.bind (fun l => crewOf (after e s) l (e.read s.clock e.srcA 0).1.toNat)).isSome) ∧
    meets (.uintPost { plain with srca := 1 }) (fun c => inLaunch (withReg 9 c)) id
      (fun e s => e.c.launch.any (fun l => (crewOf (after e s) l (e.read s.clock e.srcA 0).1.toNat).isNone)) ∧
    meets (.uintRet plain)
      (fun c => { c.writeS (c.kernel.scount - 1) 0x1054 with uintRun := true, handler := some (0, none) }) id
      (fun e s => e.c.uintRun && e.c.handler == some (e.entry, e.x.innermost) &&
        isHeader (e.dead s false) e.c (e.read s.clock (.sreg (e.c.kernel.scount - 1)) 0).1.toNat) ∧
    meets (.uintRet plain) id id (fun e _ => !e.c.uintRun) := by decide +kernel

/-- A check of lanes that passes, or that one lane fails. -/
def okOf {α β : Type} (r : Bool × Except β α) (p : α → Bool) : Bool := match r.2 with | .ok a => p a | .error _ => false
def passes {α : Type} (r : Bool × Except (Nat × LaneFail) α) : Bool := okOf r (fun _ => true)

/-- Fields of a memory form whose address is `s1` plus an offset, and those of its short form in registers 1. -/
def memForm (t : BitVec 5) (off : BitVec 32) : Fields := { plain with srca := 1, ty := t, ext := .mem (memAt off) }

/-- A stash mapping of 128 bytes at stash address 0. -/
def withMap (mode : Nat) (s : State) : State :=
  let d : MapDesc :=
    { gbase := 0x1000, sbase := 0, any := false, slen := 128, estride := 0, foff := 0, fsize := 0, ecount := 0, mode := mode }
  let m : Mapping :=
    { desc := d, ctx := 0, base := 0, adopters := [0], affin := 0, used := 0, lines := [], packed := [], upper := false }
  s.modCore 0 (fun c => { c with maps := [(0, m)] })

/-- Some lane's load waits. -/
def loadWaits (e : Env) (s : State) (ts : List (Nat × Target)) : Bool :=
  ts.any (fun t => e.targetWaits s e.moveBytes false t.2 || e.storesAhead s t.2)

theorem test_meets_loads :
    [(Instr.ld, false), (.sld, false), (.lds, true), (.slds, true)].all (fun p =>
      meets (p.1 (memForm 7 8)) (withReg (if p.2 then 0 else 0x1800)) (withMap 3) (fun e s =>
        !e.tensorBad false && okOf (checkLanes e.memLanes (e.target s p.2 e.moveBytes needR)) (fun ts => !loadWaits e s ts)))
      = true := by decide +kernel

/-- A store of the same split to the bytes of a uniform load is on its way; and a load and a store meet a line of a
mirror of the stockpile in its refresh window. -/
theorem test_meets_waiting_accesses :
    let out : State → State := fun s => { s with
      exts := [(0, { kind := .store, crew := 0, split := 0, lane := 0, core := 0, ctx := 0, va := 0x1808, pa := 0x1808,
                     size := 8, dst := 0, ty := 7, x2 := false, op := 0, data := [], pc := 0, slot := 0, sentAt := 0,
                     sends := 0, hold := false, told := false })] }
    let mirror : State → State := fun s => { withMap 0 s with
      sealed := [0]
      tlb := [{ placeEntry (.core 0) with page := 1, pa := 0x10000000000, cmode := 3 }] }
    meets (.sld (memForm 7 8)) (withReg 0x1800) out (fun e s =>
      !e.tensorBad false && okOf (checkLanes e.memLanes (e.target s false e.moveBytes needR)) (fun ts => loadWaits e s ts)) ∧
    meets (.slds (memForm 7 8)) (withReg 0) mirror (fun e s =>
      !e.tensorBad false && okOf (checkLanes e.memLanes (e.target s true e.moveBytes needR)) (fun ts => loadWaits e s ts)) := by
  decide +kernel

theorem test_meets_failing_loads :
    [(Instr.ld, false), (.sld, false), (.lds, true), (.slds, true)].all (fun p =>
      meets (p.1 (memForm 7 1)) (withReg (if p.2 then 0 else 0x1800)) (withMap 3) (fun e s =>
        !passes (checkLanes e.memLanes (e.target s p.2 e.moveBytes needR)))) = true := by decide +kernel

theorem test_meets_stores :
    [(Instr.st, false), (.sst, false), (.sts, true), (.ssts, true)].all (fun p =>
      meets (p.1 { memForm 7 8 with srcb := 2 }) (withReg (if p.2 then 0 else 0x1800)) (withMap 3) (fun e s =>
        !e.tensorBad false && okOf (checkLanes e.memLanes (e.storeCheck s p.2)) (fun ts =>
          !ts.any (fun t => e.targetWaits s e.moveBytes true t.2.1)))) = true := by decide +kernel

theorem test_meets_failing_stores :
    [(Instr.st, false), (.sst, false), (.sts, true), (.ssts, true)].all (fun p =>
      meets (p.1 { memForm 7 4088 with srcb := 2 }) (withReg 0x1F00) (withMap 3) (fun e s =>
        !passes (checkLanes e.memLanes (e.storeCheck s p.2)))) = true := by decide +kernel

theorem test_meets_atomics :
    [Instr.atom, .satom].all (fun k =>
      meets (k { memForm 5 8 with srcb := 2 }) (withReg 0x1800) id (fun e s =>
        !e.tensorBad true && passes (checkLanes e.memLanes (e.atomCheck s)))) ∧
    [Instr.atomCas, .satomCas].all (fun k =>
      meets (k { plain with srca := 1, srcb := 2, ty := 7, ext := .wide wide0 }) (fun c =>
          (List.range 32).foldl (fun c l => c.setV 1 l (.live 0x1800)) (withReg 0x1800 c)) id (fun e s =>
        !e.tensorBad true && passes (checkLanes e.memLanes (e.atomCheck s)))) ∧
    [Instr.red, .sred].all (fun k =>
      meets (k { memForm 5 8 with srcb := 2 }) (withReg 0x1800) id (fun e s =>
        !e.tensorBad true && passes (checkLanes e.memLanes (e.redCheck s)))) := by decide +kernel

/-- A uniform store to HBM, at both ends of the page, and a uniform load from the stockpile. -/
theorem test_meets_uniform_accesses :
    [(0 : BitVec 32), 0xFF8].all (fun off =>
      meets (.sst { memForm 7 off with srcb := 2 }) (withReg 0x1000) id (fun e s =>
        Memory.wf s.mem && !e.x2 && !e.tensorBad false &&
        (match e.target s false e.moveBytes needW 0 with
         | (d, .ok (.glob x)) => x.upd == [] && isHbm x.pa && x.e.cmode != 1 && (lineOf s x.pa).partials == [] &&
             refusal (noteXlate (e.endUses (e.dead s (d || (e.storeData s.clock 0).2))) (askCore e.core) x) x e.core true == none
         | _ => false))) ∧
    meets (.sld (memForm 7 8)) (withReg 0x2000)
      (fun s => { s with
        clock := 40000, sealed := [0], tlb := [{ placeEntry (.core 0) with page := 2, pa := 0x10000000000, cmode := 3 }, placeEntry (.core 0)] })
      (fun e s => !e.x2 && !e.tensorBad false && s.latent == [] &&
        (match e.target s false e.moveBytes needR 0 with
         | (_, .ok (.glob x)) => x.upd == [] && isStockpile x.pa && !refreshing s x.pa && x.e.cmode == 3 &&
             !(readBytes s x.pa e.moveBytes).2 && !e.storesAhead s (.glob x)
         | _ => false)) := by decide +kernel

theorem test_meets_clean_and_message :
    [Instr.cwb, .cinv].all (fun k =>
      meets (k { memForm 0 0 with srcb := 2, ext := .mem { memAt 0 with mscp := 2 } }) (withReg 0x1000) id (fun e s =>
        (e.address s.clock false 0).2.isSome && (e.read s.clock e.srcB 0).1.toNat ≤ 2 ^ 32 && e.cleanScope ≤ 2) &&
      meets (k { memForm 0 0 with srcb := 2, ext := .mem { memAt 0 with mscp := 5 } }) (withReg 0x1000) id (fun e s =>
        2 < e.cleanScope &&
        (match translateAll s (askCore e.core) e.ctx needR (pagesOf 0x1000 1) with | .ok _ => true | .error _ => false))) ∧
    meets (.amsg { memForm 0 8 with srcb := 2 }) (withReg 0x1000) id (fun e s =>
      (e.address s.clock false 0).2.any (fun ad => ad.a % 8 == 0 &&
        (match e.xlate s ad.a needR with
         | .ok x => x.e.cmode == 0 && (home (e.obligeFlags (e.endUses (noteXlate s (askCore e.core) x))) x.pa).isSome
         | .error _ => false))) := by decide +kernel

theorem test_meets_requests :
    let s1 : Env → State → State := fun e s => e.dead (e.dead s (e.read s.clock e.srcA 0).2) (e.read s.clock e.srcB 0).2
    let page : Env → State → Bool := fun e s =>
      match e.xlate (s1 e s) (e.read s.clock e.srcA 0).1.toNat needRW with | .ok x => x.e.cmode == 0 | .error _ => false
    let svc : Instr := .svc { plain with srca := 1 }
    meets svc (withReg 0x1040) id (fun e s => (e.read s.clock e.srcA 0).1.toNat % 64 == 0 && page e s &&
      !e.fenceWaits (s1 e s) 10 && (s.desc e.ctx).svcq == 0) ∧
    meets svc (withReg 0x1040) (withDesc (fun d => { d with svcq := 0x4000 }))
      (fun e s => page e s && !e.fenceWaits (s1 e s) 10 && (s.desc e.ctx).svcq != 0) ∧
    meets svc (withReg 0x1040) (awaiting 9) (fun e s => page e s && e.fenceWaits (s1 e s) 10) ∧
    meets (.waitc { memForm 6 8 with srcb := 2 }) (withReg 0x1040) id (fun e s =>
      (e.address s.clock false 0).2.any (fun ad => ad.a % 8 == 0 &&
        (match e.xlate (s1 e s) ad.a needR with | .ok x => isHbm x.pa | .error _ => false))) := by decide +kernel

/-- A node of records of 16 bytes with its high mark at 2. -/
def node2 : Node :=
  { entry := 0, rsize := 0, coal := 0, prio := 0, timer := 0, cap := 8, ring := 0, high := 2, low := 1, kernel := placeKernel }
def withNode (deep : Bool) (s : State) : State :=
  let s := s.modCtx 0 (fun x => { x with nodes := [node2] })
  if deep then setBin s 0 0 0 { Bin.reset with records := [[], []] } else s

theorem test_meets_nodes :
    meets (.spawn { plain with srca := 2 }) id (withNode false) (fun e s =>
      (nodeOf s e.ctx e.dst).any (fun nd => !e.acting.isEmpty && (getBin s e.ctx e.dst e.die).depth < nd.high)) ∧
    meets (.spawn { plain with srca := 2 }) id (withNode true) (fun e s =>
      (nodeOf s e.ctx e.dst).any (fun nd => !e.acting.isEmpty && nd.high ≤ (getBin s e.ctx e.dst e.die).depth)) ∧
    meets (.spawn { plain with srca := 2 }) id (fun s => (withNode true s).modCtx 0 (fun x => { x with failed := [0] })) (fun e s =>
      (nodeOf s e.ctx e.dst).isSome && !e.acting.isEmpty && nodeFailed s e.ctx e.dst) ∧
    meets (.spawn { plain with srca := 2, pred := 2 }) withPreds (withNode false) (fun e s =>
      (nodeOf s e.ctx e.dst).isSome && e.acting.isEmpty) ∧
    meets (.spawn { plain with srca := 2 }) id id (fun e s => (nodeOf s e.ctx e.dst).isNone) ∧
    meets (.nsig plain) (withReg 0x1800) id (fun e s => passes (checkLanes e.acting (e.signalCheck s)) && !e.acting.isEmpty) ∧
    meets (.npub { plain with srcb := 1, ext := .wide { wide0 with srcc := 2 } }) (withReg 0x1800) (withNode false) (fun e s =>
      (nodeOf s e.ctx e.dst).any (fun nd => passes (checkLanes e.acting (e.publishCheck s nd)) && !e.acting.isEmpty)) := by
  decide +kernel

/-- Launch 5 of one crew, whose gang table has one resident gang of that crew. -/
def launch5 (arrived : Bool) (s : State) : State :=
  let x : Launch :=
    { ring := 0, epoch := 0, seq := 0, ctx := 0, ctag := 0, die := 0, prio := 0, place := 0, diemask := 15, ncrew := 1, pblk := 0,
      psize := 0, kernel := placeKernel, gtab := [{ first := 0, count := 1, stride := 1, res := true, compact := false }],
      gangs := [], next := 1, early := [], retired := [], ended := 0, lastCore := [], done := false, headSince := 0,
      claimed := (0, 0), reserve := [] }
  let g : GangName := { table := 0, rank := 0, phase := 0, arrived := arrived, bar := false, colls := 0 }
  { s.modCrew 0 (fun c => { c with launch := some 5, gangs := [g] }) with launches := [(5, x)] }

theorem test_meets_barriers :
    [false, true].all (fun b =>
      meets (.gbarArr plain) id (launch5 b) (fun e s => e.c.single && (e.gang s e.var).any (fun t => t.2.1.arrived == b)) &&
      meets (.gbarWait plain) id (launch5 b) (fun e s => (e.gang s e.var).isSome)) ∧
    meets (.collBar { plain with var := 3, ext := .wide wide0 }) id (launch5 false) (fun e s =>
      (e.gang s e.collName).any (fun t => peerOk s t.1 t.2.1.table e.var && e.var != 8 && !t.2.1.arrived)) ∧
    [Instr.gbarArr, .gbarWait].all (fun k => meets (k plain) id id (fun e s => (e.gang s e.var).isNone)) ∧
    [Instr.collBar, .collAg, .collA2a].all (fun k =>
      meets (k { plain with var := 3, ext := .wide wide0 }) id id (fun e s => (e.gang s e.collName).isNone)) ∧
    meets (.collRs { plain with ty := 4, var := 3, ext := .wide wide0 }) id id (fun e s => (e.gang s e.collName).isNone) := by
  decide +kernel

theorem test_meets_collectives :
    [(Instr.collAg, (0 : BitVec 5)), (.collRs, 4), (.collA2a, 0)].all (fun p =>
      meets (p.1 { plain with srca := 1, srcb := 2, ty := p.2, var := 3, ext := .wide { wide0 with srcc := 3 } })
        (fun c => ((withReg 0x1000 c).writeS 2 0x1080).writeS 3 128) (launch5 false) (fun e s =>
        e.c.single && (e.read s.clock e.srcC 0).1.toNat == 128 && (e.gang s e.collName).any (fun t =>
          peerOk s t.1 t.2.1.table e.var &&
          okOf (false, firstFail (e.collPages s 0x1000 128 needR ++ e.collPages s 0x1080 128 needW)) (fun _ =>
            !overlap 0x1000 128 0x1080 128)))) = true := by decide +kernel

/-- A crew that waits at its collective, the only one of its gang. -/
theorem test_meets_completion :
    let s := launch5 true (stage (.collBar { plain with var := 3, ext := .wide wide0 }))
    let c : CollIssue := { crew := 0, rank := 0, k := 0, form := 3, op := 0, ty := 0, chunk := 128, scope := 3, src := 0, dst := 0, ends := [] }
    let s := setIssues (s.modCrew 0 (onFirst (fun x => { x with state := .gangWait }))) 5 0 [c]
    (s.launch 5).any (fun x => x.gtab.any (fun g => g.count != 0 && allIssued s 5 0 g)) = true := by decide +kernel

/-- A control block of one loop of four rows in uniform registers 16 to 26, with its index mode. -/
def withBlock (idx : Nat) (c : Crew) : Crew :=
  let vs := (List.range 11).map (fun i => if i == 0 then 2 ^ 16 + idx * 2 ^ 20 else if i == 5 then 4 else 0)
  vs.zipIdx.foldl (fun c v => c.writeS (16 + v.2) (BitVec.ofNat 64 v.1)) c

/-- All of a core's hoist slots are taken. -/
def fullHoist (s : State) : State :=
  let h : HoistCmd :=
    { crew := 0, ctx := 0, opc := opHcp, src := 0, dst := 0, block := [], buf := 0, cap := 0, index := [], skip := 0,
      pc := 0, ps := 0, flga := 15, flgb := 15, released := false, park := none, blocks := 0, seq := 0, idle := 2 ^ 20, kept := [], carry := 0,
        away := [], groups := [], ahead := none }
  s.modCore 0 (fun c => { c with hoist := (List.range 16).map (fun k => (k, h)) })

theorem test_meets_hoist_commands :
    [(Instr.hcp, 0), (.hgth, 1), (.hsct, 2)].all (fun p =>
      meets (p.1 { plain with srca := 16 }) (withBlock p.2) id (fun e s =>
        !blkRcen e.block.1 && blkIdx e.block.1 == p.2 && !blkBad e.slot e.c.lanes e.block.1 (e.c.tAt e.f.srcb.toNat) (e.c.tAt e.dst) &&
          (blkIdx e.block.1 != 1 || e.opndOk (.vreg (blkIreg e.block.1)) 1) && blkIbase e.block.1 % 4 == 0 &&
          (e.slotFor (e.dead s e.block.2)).isSome)) ∧
    meets (.hcp { plain with srca := 16 }) (withBlock 0) fullHoist (fun e s => !e.block.2 && (e.slotFor s).isNone &&
      !blkBad e.slot e.c.lanes e.block.1 (e.c.tAt e.f.srcb.toNat) (e.c.tAt e.dst)) ∧
    meets (.hcmp { plain with srca := 1, ext := .wide { wide0 with srcc := 2 } })
      (fun c => { withReg 0x1000 c with t := [(0, BitVec.ofNat 256 (2 ^ 57 + 2 ^ 64))] }) id (fun e s =>
        let src := e.c.tAt e.f.srcb.toNat
        !shpBad src && shpSpace src && shpNdim src == 1 && shpBits src != 4 &&
          (e.read s.clock e.srcA 0).1.toNat % 128 == 0 && (e.slotFor s).isSome) := by decide +kernel

/-- Row counter 3 is held by the placed crew. -/
def withCounter (v : BitVec 32) (s : State) : State :=
  let key := ctrKey 0 ((s.crew 0).getD (Crew.fresh 0 0 none none [] placeKernel 0 0))
  s.modCore 0 (fun c => { c with ctrs := [(3, { launch := key, value := v, ts := 0 })] })

theorem test_meets_counters :
    meets (.cwait { plain with srcb := 1000, var := 3 }) id (withCounter 40) (fun e s => (e.read s.clock e.srcB 0).1 == 40) ∧
    meets (.cwait { plain with srcb := 1000, var := 3 }) id (withCounter 39) (fun _ _ => true) ∧
    meets (.hpub { plain with srca := 1 }) (withReg 0) (withMap 2) (fun e s =>
      (mapAt s e.core e.ctx 0).any (fun m => m.2.desc.mode == 2)) := by decide +kernel

theorem test_meets_exchange :
    let r : StashReq :=
      { kind := 2, crew := 0, split := 0, pc := 0x1060, len := 8, ends := [], entry := 0, flga := 15, flgb := 15,
        captured := false, before := 0 }
    let s := withMap 2 (stage (.hpub { plain with srca := 1 }))
    let s := s.modCrew 0 (onFirst (fun x => { x with state := .stalled }))
    let s := s.modCore 0 (fun c => { c with reqs := [r] })
    ((s.core 0).reqs.find? (fun r => r.kind == 2 && r.entry == 0 && r.live s)).any (fun r =>
      (tabGet (s.core 0).maps 0).any (fun m => hiddenDone s 0 r.before m)) = true := by decide +kernel

/-- A copy of rows of one byte within the stash, a gather whose second row's index stands beyond its mapping, and an `hcmp` whose buffer has no room. -/
theorem test_meets_rows :
    let block : List Word := (List.range 11).map (fun i => if i == 0 then 2 ^ 16 else if i == 5 then 4 else 0)
    let h : Nat → HoistCmd := fun opc =>
      { crew := 0, ctx := 0, opc := opc, src := BitVec.ofNat 256 (2 ^ 57), dst := BitVec.ofNat 256 (2 ^ 57 + 64),
        block := block, buf := 0, cap := 0, index := [], skip := 0, pc := 0, ps := 0, flga := 15, flgb := 15,
        released := false, park := none, blocks := 0, seq := 0, idle := 2 ^ 20, kept := [], carry := 0,
        away := [], groups := [], ahead := none }
    let s : Nat → State := fun opc => (withMap 3 (stage (.mwait plain))).modCore 0 (fun c => { c with hoist := [(15, h opc)] })
    let b := beginRow (s opHcp) 0 (h opHcp) 0
    let listed : Nat → Word := fun i => if i == 0 then 2 ^ 16 + 2 * 2 ^ 20 else if i == 5 then 4 else 0
    let kept : HoistCmd := { h opHgth with block := (List.range 11).map listed, kept := [(0, (3, false))] }
    let far : HoistCmd := { h opHgth with block := (List.range 11).map (fun i => if i == 10 then 124 else listed i) }
    let d := beginRow (s opHcp) 0 far 0
    (!stopped (s opHcp) 0 && mayBegin (s opHcp) 0 (h opHcp) &&
      okOf (false, copyRow b.2 0 b.1 b.1.pc) (fun s1 => (runAhead s1 0 b.1 ⟨2, [(1, 0)]⟩).fail.isNone) &&
      okOf (false, copyRow d.2 0 d.1 d.1.pc) (fun s1 => (runAhead s1 0 d.1 ⟨2, [(1, 0)]⟩).fail.isSome) &&
      (blkLoops kept.block != 0 && blkIdx kept.block == 2 && tabGet kept.kept kept.pc == some (3, false)) &&
      (match compressRow (s opHcmp) 0 (h opHcmp) 0 with | .ok (_, _, _, b) => b | .error _ => false)) = true := by decide +kernel

theorem test_meets_stash :
    meets (.smap { memForm 0 0 with ty := 0 }) (withReg 0x1000)
      (fun s => { s with mem := memWrite s.mem 0x1000 (leBytes 32 (0x1000 + 2 ^ 103 + 3 * 2 ^ 224)) }) (fun e s =>
        !e.tensorBad false && !e.requestsBefore s &&
        (match e.target s false 32 needR 0 with
         | (d, .ok t) =>
           (match e.descBytes (e.dead s d) t with | (.data bs false, _, _) => !descBad (leNat bs) | _ => false)
         | _ => false)) ∧
    [Instr.sunmap, .sflush].all (fun k =>
      meets (k { plain with srca := 1 }) (withReg 0) id (fun e s => (mapAt s e.core e.ctx 0).isNone) &&
      meets (k { plain with srca := 1 }) (withReg 0) (withMap 0) (fun e s => (mapAt s e.core e.ctx 0).isSome)) ∧
    (let s := withMap 3 (stage (.mwait plain))
     let d := ((s.core 0).maps.map (fun m => m.2.desc)).head?
     d.any (fun d => (warmMap s 0 0 0 d).isSome)) := by decide +kernel

/-- Shapes of a tile of the stash: FP32 and one dimension, and of type `.bf16` in memory. -/
def tileShape (fmt ndim : Nat) (stash : Bool) : Shape :=
  BitVec.ofNat 256 ((if stash then 2 ^ 57 else 0) + fmt * 2 ^ 58 + ndim * 2 ^ 64)

def busyEngine (s : State) : State :=
  let c : EngCmd :=
    { crew := 0, ctx := 0, insn := 4 * 0x391 + 2, shp1 := 0, shp2 := 0, mask := 1, scale := 0, tiles := [0], arr := 0,
      btype := 0, pos := 0, flga := 15, flgb := 15, released := false, derr := false, recorded := false, idle := 2 ^ 20,
      away := [], groups := [], acks := [] }
  s.modCore 0 (fun co => { co with eng := [c, c, c, c] })

theorem test_meets_engine :
    meets (.mld { plain with ty := 11 }) (fun c => { c with t := [(0, tileShape 11 0 false)] }) id (fun e _ =>
      let t := e.c.tAt e.f.srca.toNat
      !shpBad t && shpFmt t == typeFmt e.ty && !sclOf e.f 2) ∧
    meets (.mmul { plain with ty := 12, ext := .wide wide0 }) (fun c => { c with t := [(0, tileShape 12 1 true)] }) id
      (fun e s =>
        let t := e.c.tAt e.f.srca.toNat
        let k := (s.core e.core).macros
        !shpBad t && shpSpace t && shpNdim t == 1 && !sclOf e.f 0 && e.ty != 11 && k.issuedType != 11 &&
          shpExt t 1 * arrN k.issuedArr false ≤ regionSize (e.c.acc.drop e.dst)) ∧
    meets (.mzero { plain with var := 7 }) id id (fun e _ => e.var < 8 && e.dst + e.var + 1 ≤ e.c.kernel.accs) ∧
    meets (.mrd { plain with ty := 9, ext := .wide wide0 }) (fun c => { c with t := [(0, tileShape 9 1 true)] }) id
      (fun e _ =>
        let t := e.c.tAt e.dst
        !shpBad t && shpSpace t && shpNdim t == 1 && shpFmt t == typeFmt e.ty &&
          shpExt t 0 * shpExt t 1 ≤ regionSize (e.c.acc.drop e.f.srca.toNat)) ∧
    meets (.mred plain) (fun c => { c with t := [(0, tileShape 9 1 false)] }) id (fun e _ =>
      let t := e.c.tAt e.dst
      !shpBad t && !shpSpace t && shpNdim t == 1 && shpFmt t == 9 &&
        shpExt t 0 * shpExt t 1 ≤ regionSize (e.c.acc.drop e.f.srca.toNat)) ∧
    meets (.mwait plain) id busyEngine (fun e s => (s.core e.core).eng.any (fun c => c.crew == e.id) && e.member s) ∧
    meets (.mwait plain) id id (fun e s => (s.core e.core).eng.isEmpty && e.member s) ∧
    meets (.mwait plain) id (fun s => { s with cores := [] }) (fun e s => !e.member s) := by decide +kernel

theorem test_meets_selection :
    meets (.bselTopk { plain with ty := 9, srca := 1, srcb := 2 }) (fun c => (withReg 0 c).writeS 2 0x101)
      (withMap 3) (fun e s =>
        let t := topkOf (e.read s.clock e.srcB 0).1.toNat e.dst
        !t.bad && t.list % 8 == 0 &&
        (t.reads (e.bits / 8) 0).all (fun p =>
          (e.spotRefused s p (e.bits / 8) false).isNone &&
          okOf (false, e.spot s p (e.bits / 8) false) (fun x => !e.targetWaits s (e.bits / 8) false x)) &&
        t.writes.all (fun p => (e.spotRefused s p 2 true).isNone &&
          okOf (false, e.spot s p 2 true) (fun x => !e.targetWaits s 2 true x))) = true := by
  decide +kernel

theorem test_meets_engine_steps :
    let s := busyEngine (stage (.mwait plain))
    (engRow s 0).any (fun c => c.1 == 0 && nextRow c.2 == some 0 && nextRow { c.2 with pos := 1 } == none &&
      !engineAwaits s c.2 && (mmulRow 0 c.2 0 ⟨s, 0, 0, c.2.recorded, none, []⟩).1.hold == none) ∧
    ((engFree s 0).find? (fun c => 2 ^ 20 ≤ c.2.idle)).isSome ∧
    (let cmd : Nat → EngCmd := fun insn =>
       { crew := 0, ctx := 0, insn := insn, shp1 := 0, shp2 := 0, mask := 0, scale := 0, tiles := [3], arr := 0,
         btype := 0, pos := 0, flga := 15, flgb := 15, released := false, derr := false, recorded := false, idle := 0,
         away := [], groups := [], acks := [] }
     let z : Nat → State := fun insn => s.modCore 0 (fun co => { co with eng := [cmd insn] })
     (engTurn (z (4 * 0x393 + 1)) 0).any (fun c => c.2.1.slot != 0x391 && c.2.1.slot != 0x390 && !c.2.1.over &&
       (engineStep 0 c.2.1 c.2.1.pos ⟨c.2.2, 0, 0, c.2.1.recorded, none, []⟩).1.hold == none) &&
     (engTurn ((z (4 * 0x390 + 1)).modCore 0 (fun co => { co with macros := { co.macros with harvested := true } })) 0).any
       (fun c => c.2.1.slot == 0x390 && (c.2.2.core 0).macros.harvested)) ∧
    (let fed := ((s.core 0).eng.take 1).map (fun c => { c with pos := 1 })
     (engTurn (s.modCore 0 (fun co => { co with eng := fed })) 0).any (fun c => c.2.1.slot == 0x391)) ∧
    (s.core 0).macros.harvested = false ∧ ((stage (.mwait plain)).core 0).eng = [] ∧
    ((stage (.mwait plain)).core 0).macros.fenced = [] := by decide +kernel

/-- The hypotheses of a lode form. -/
def lodeStands (i : Instr) (s : State) (bases : List Nat) (d : LodeDesc) (p : Env → Bool) : Bool :=
  stands i s (fun e =>
    bases.all (fun b => b + d.q ≤ 1024 && b + d.q ≤ e.c.kernel.scount &&
      (List.range d.q).all (fun k => !e.awaited (e.dead s (e.uni e.descNum).2) (.sreg (b + k), 1))) &&
    e.c.single && e.c.lode == some (descWlog (e.uni e.descNum).1.toNat, d.q) &&
    d.w == 2 ^ descWlog (e.uni e.descNum).1.toNat && (e.missingLane e.c.lodeLanes).isNone &&
    descQ (e.uni e.descNum).1.toNat == d.q && descBias (e.uni e.descNum).1.toNat == d.bias && d.bias ≤ 64 * d.w &&
    !descReserved (e.uni e.descNum).1.toNat && d.w * d.q ≤ 1024 && p e)

theorem lode_stands_runs {i : Instr} {s : State} {bases : List Nat} {d : LodeDesc} {p : Env → Bool}
    (h : lodeStands i s bases d p = true) : ∃ e, LodeRuns i s e bases d ∧ p e = true := by
  obtain ⟨e, he, hp⟩ := stands_runs h
  simp only [Bool.and_eq_true, List.all_eq_true, decide_eq_true_eq, beq_iff_eq, Bool.not_eq_true',
    Option.isNone_iff_eq_none, List.mem_range] at hp
  obtain ⟨⟨⟨⟨⟨⟨⟨⟨⟨⟨h1, h2⟩, h3⟩, h4⟩, h5⟩, h6⟩, h7⟩, h8⟩, h9⟩, h10⟩, h11⟩ := hp
  exact ⟨e, ⟨he, fun b hb => ⟨(h1 b hb).1.1, (h1 b hb).1.2, (h1 b hb).2⟩, h2, ⟨_, _, h3, rfl, h4, Nat.le_refl _⟩, h5, h6,
    ⟨h7, h8⟩, h9, h10⟩, h11⟩

/-- A crew with two lodes of sixteen limbs bound, whose descriptor stands in register 1. -/
def withLode (c : Crew) : Crew := { c.writeS 1 0x104 with lode := some (4, 2) }
def lodeForm : Fields := { plain with dst := 10, srca := 11, srcb := 12, ext := .wide { wideUni 1 with srcc := 40 } }
def twoLodes : LodeDesc := { w := 16, q := 2, bias := 0 }

def lodeMeets (i : Instr) (bases : List Nat) (p : Env → Bool) : Bool :=
  lodeStands i (stageCrew i withLode) bases twoLodes p

theorem test_meets_lodes :
    lodeMeets (.lneg { lodeForm with srcb := 0, ext := .wide (wideUni 1) }) [] (fun _ => true) ∧
    lodeMeets (.lcmp { lodeForm with ext := .wide (wideUni 1) }) [10] (fun _ => true) ∧
    lodeMeets (.lclz { lodeForm with srcb := 0, ext := .wide (wideUni 1) }) [10] (fun _ => true) ∧
    lodeMeets (.ladd lodeForm) [40] (fun _ => true) ∧ lodeMeets (.lsub { lodeForm with var := 6 }) [40] (fun _ => true) ∧
    lodeMeets (.lmulw { lodeForm with srcb := 0 }) [40] (fun _ => true) ∧ lodeMeets (.lmacw lodeForm) [40] (fun _ => true) := by
  decide +kernel

theorem test_meets_lode_shifts :
    lodeMeets (.lshl { lodeForm with srcb := 0 }) [] (fun e => (e.uni e.srccNum).1.toNat < 1024) ∧
    lodeMeets (.lshr { lodeForm with srcb := 0 }) [] (fun e => (e.uni e.srccNum).1.toNat < 1024) ∧
    [Instr.lshl, .lshr].all (fun k => let i := k { lodeForm with srcb := 0, ext := .wide { wideUni 1 with srcc := 2 } }
      lodeStands i (stageCrew i (fun c => (withLode c).writeS 2 1024)) [] twoLodes
        (fun e => 1024 ≤ (e.uni e.srccNum).1.toNat)) ∧
    lodeMeets (.lacc { lodeForm with ty := 9, ext := .wide (wideUni 1) }) [] (fun _ => true) ∧
    lodeMeets (.lround { lodeForm with ty := 9, srcb := 0, ext := .wide (wideUni 1) }) [10] (fun _ => true) := by
  decide +kernel

theorem test_meets_lode_binding :
    meets (.lodeBind { plain with ext := .imm 0x104 }) id id (fun e s =>
      let v := (e.read s.clock e.srcB 0).1.toNat
      e.c.single && !bindBad e.c.lanes v &&
        (e.missingLane (BitVec.ofNat 1024 (2 ^ (descQ v * 2 ^ descWlog v) - 1))).isNone) ∧
    meets (.lodeFree plain) withLode id (fun e _ => e.c.single && e.c.lode.isSome && (e.missingLane e.c.lodeLanes).isNone) ∧
    meets (.lodeFree plain) id id (fun e _ => e.c.lode.isNone) := by decide +kernel

theorem test_meets_encoding :
    (Instr.vadd { plain with ty := 4 }).wellFormed ∧ (encode (.vadd { plain with ty := 4 })).isSome ∧
    Instr.asDone.wellFormed ∧ (encode .asDone).isSome ∧ rowOf 1 = none ∧ 5 % 4 ≠ 0 ∧ rowOf (5 / 4 % 1024) = none := by
  decide +kernel

/-- A split whose turn it is fetches and decodes the placed `nop`. -/
theorem test_meets_step :
    let s := stage (.nop plain)
    let c := (s.crew 0).getD (Crew.fresh 0 0 none none [] placeKernel 0 0)
    ((locksOf s).isEmpty && s.powered && (c.split 0).any (fun x => maySplit s c x && x.clause.isSome && x.pc % 4 == 0 &&
      x.pc % 32 < 24 && c.inCode x.pc && !codeWaits s c x.pc && (fetchBeyond s 0 0 c x).isNone &&
      (match translate s (askCore c.core) c.ctx x.pc needX with | .ok _ => true | .error _ => false) &&
      (match codeBytes s c x.pc (min 16 (blockLeft x.pc)) with
       | some (bs, _) => (match decodeBytes bs with
         | .ok (i, n) => i == .nop plain && leNat bs % 4 != 0 && x.clause.any (fun k => x.pc + n ≤ k.stop)
         | .error _ => false)
       | none => false))) = true := by decide +kernel

theorem test_meets_handler_step :
    (match handlerTurn { placeForHandler State.reset 0x0400700B with agenda := [] } 0 0 with
     | .run i _ => i == .asDone
     | _ => false) = true ∧
    encode (.kick 0) = none ∧ (encode (.exit plain)).isSome ∧ State.reset.powered ∧ State.reset.agenda = [] ∧
    (unpowered State.reset).powered = false := by decide +kernel

/-- A clause header of 5 units, with and without a flag to wait for, and an interrupt whose handler is the header. -/
theorem test_meets_headers :
    let h : BitVec 12 → Header := fun w => { wait := w, flga := 15, flgb := 15, clen := 63, yld := false }
    let s := stage (.clauseHeader (h 1))
    let c := (s.crew 0).getD (Crew.fresh 0 0 none none [] placeKernel 0 0)
    let d := ({ c with uintEn := true, uintPend := true }).writeS (c.kernel.scount - 2) 0x1054
    ((c.split 0).isSome && checkWord (.clauseHeader (h 1)) == none && !(c.uintEn && c.uintPend) && !c.waits 0 &&
      ({ c with obl := [(11, 1)] }).waits (2 ^ 11) && d.uintEn && d.uintPend && !d.uintRun && d.kernel.scount != 0 &&
      isHeader s d (d.sAt (d.kernel.scount - 2)).read.1.toNat && !crewBusy s 0) = true := by decide +kernel

theorem test_meets_replies :
    let m : Amsg :=
      { crew := 0, split := 0, pts := 0, ctx := 0, dst := 3, flga := 15, flgb := 15, slice := 0, pa := 0, accepted := true, reply := some (7, true) }
    let w : Wait :=
      { va := 0x1000, pa := 0x1000, cls := 0, cmp := 0, signed := false, comparand := 0, dst := 0, inFlight := false, recheck := true,
        checkedAt := 0, ends := [] }
    let s := (stage (.mwait plain)).modCrew 0 (onFirst (fun x => { x with state := .monitorWait, wait := some w }))
    let t := { awaiting 9 s with
      clock := 2500, amsgs := [(1, m)], slices := [(0, { Slice.reset with prefetch := [(32, (0, 1, 0x1000))] })] }
    ((tabGet t.amsgs 1).any (fun m => m.reply.isSome) && (waitOf t 0 0).any (fun p => !p.2.inFlight && p.2.recheck) &&
      (tabGet t.exts 0).any (fun e => e.kind == .uload && !isStockpile e.pa) && !ExtKind.store.reads &&
      t.slices.any (fun x => x.2.prefetch.any (fun p => p.1 == 32)) &&
      (t.crew 0).any (fun c => c.state == .resident && !c.splits.isEmpty) &&
      (match walk (withDesc (fun d => { d with valid := true }) t) 0 0x1000 false with | .error _ => true | .ok _ => false)) = true := by
  decide +kernel

/-- Context 0 is valid, and both its stages map every address from 0 on by one leaf below their root tables. -/
def withTables (s : State) : State :=
  let s := withDesc (fun d => { d with valid := true, rootppn := 1, grootppn := 4 }) s
  let put (m : Mem) (a v : Nat) : Mem := memWrite m a (leBytes 8 v)
  { s with mem := put (put (put (put s.mem 0x1000 0x801) 0x2000 0xDF) 0x4000 0x2001) 0x8000 0xDF }

theorem test_meets_walk :
    (match walk (withTables State.reset) 0 0x5000 false with | .ok _ => true | .error _ => false) = true := by decide +kernel

/-- A ring of context 0 with a command of a type at its head, its first argument and the further bits given. -/
def withRing (p : Nat) (s : State) : State :=
  let r : Ring := { Ring.reset with open_ := 1, command := some (0, p), held := [(0, 0, 0, 0, 0, 0)] }
  { withTables s with rings := [(63, r)], bindings := [(63, { valid := true, priv := true, iocore := 0, ctx := 0 })] }

theorem test_meets_ring_commands :
    [0, 2, 3, 4, 5, 6, 8].all (fun ty => let s := withRing ty State.reset
      (servedBy s 63).isSome && (s.binding 63).valid && (s.ring 63).open_ == 1 && !cmdStarted ty && !(s.ring 63).held.isEmpty &&
      !typeBarred s 63 ty && !writesAwait s [2048] && (ty < 2 || typeBarred { s with bindings := [(63,
        { valid := true, priv := false, iocore := 0, ctx := 0 })] } 63 ty) &&
      ((s.modRing 63 (fun r => { r with woken := true })).ring 63).woken) ∧
    [2 + 2048 * 2 ^ 192, 3 + 2048 * 2 ^ 192, 4, 6, 8 + 2 ^ 256].all (fun p => let s := withRing p State.reset
      cmdRefused s p == none && (s.ctx (cmdCtx p)).preempt == .no && !hasCrew s (cmdCtx p)) ∧
    (cmdRefused ((withRing 5 State.reset).modCtx 0 (fun x => { x with preempt := .saved })) 5 == none) ∧
    hasCrew (withRing 4 (stage (.nop plain))) 0 ∧
    [4, 5, 8].all (fun ty => cmdStarted (ty + 2 ^ 1024)) ∧ completionRoom (withRing 0 State.reset) 63 := by decide +kernel

/-- A table of an assayer with one event and one page of code, for slices 0 and 3 of context 0. -/
theorem test_meets_installation :
    let p := 7 + 0x9000 * 2 ^ 64 + 9 * 2 ^ 256
    let s := withRing p State.reset
    let s := { s with mem := memWrite s.mem 0x9000 (leBytes 16 (0xA000 + 64 * 2 ^ 64)) }
    let u := (cmdSlices p).foldl (fun s l => touchTable s l 0 (cmdArg0 p)) s
    (cmdRefused s p == none && cmdSlices p == [0, 3] &&
      (cmdSlices p).all (fun l => !handlerOf s l 0 && (readTable u l 0 (cmdArg0 p)).isSome &&
        readTable u l 0 (cmdArg0 p) == readTable u 0 0 (cmdArg0 p) && (u.slice l).installs.length < 8 &&
        (pullInstall s l 0 (cmdArg0 p)).1)) = true := by decide +kernel

/-- A crew held for its debugger, saved, and a launch whose gang 0 spans modules. -/
theorem test_meets_debug_resume_and_join :
    let s := (withRing 9 (stage (.nop plain))).modCrew 0 (fun c => { c with hold := .brk, state := .saved, splits := [] })
    let p := 10 + (1 + 0x10000) * 2 ^ 256
    ((heldCrew s 0 0).any (fun c => (s.ctx c.2.ctx).preempt == .no && !c.2.stranded && fitsBack s c.1 c.2) &&
      joinList p == [(1, 1)]) = true := by decide +kernel

def packet : Nat := 1 + 2 ^ 32 + 0xC000 * 2 ^ 64

/-- A launch of one crew of a kernel with 64 registers of each kind stands accepted on a ring. -/
def withPacket : State :=
  let k := 0x5953 + 2 ^ 16 + 64 * 2 ^ 32 + 64 * 2 ^ 48 + 64 * 2 ^ 192 + 256 * 2 ^ 224
  let s := (withRing 0 State.reset).modRing 63 (fun r => { r with launch := some (0, packet) })
  { s with mem := memWrite s.mem 0xC000 (leBytes 64 k) }

def launchOf (s : State) (gtab : List GangEntry) : Launch :=
  { ring := 63, epoch := 0, seq := 0, ctx := 0, ctag := 0, die := 0, prio := 0, place := 0, diemask := 1, ncrew := 2, pblk := 0, psize := 0,
    kernel := placeKernel, gtab := gtab, gangs := [], next := 0, early := [], retired := [], ended := 0, lastCore := [],
    done := false, headSince := s.clock, claimed := (0, 0), reserve := [] }

def withLaunch (gtab : List GangEntry) : State :=
  let s := withTables State.reset
  { s with launches := [(5, launchOf s gtab)], nextId := 6 }

theorem test_meets_acceptance :
    (slotFor withPacket 0 && (withPacket.ring 63).launch == some (0, packet) &&
      (let pull := pullLaunch withPacket (acceptDie withPacket 63) 0 packet
       let s1 := writeHead (pull.2.modRing 63 (fun r =>
         { r with launch := none, head := (0 + 1) % ringModulus, open_ := r.open_ + 1, woken := true })) 63
       pull.1 &&
       match checkLaunch (touchLaunch s1 (acceptDie withPacket 63) 0 packet) (acceptDie withPacket 63) 0 packet with
       | .ok _ => true
       | .error _ => false)) = true := by decide +kernel

theorem test_meets_claim :
    let s := withLaunch []
    ((queuedOn s 0).find? (fun e => !e.2.nextInGang && e.2.claimTurn s 0 && !closureBars s 0 e.2.prio && hasRoom s 0 e.1 e.2)).isSome := by
  decide +kernel

theorem test_meets_closure :
    let s := withLaunch [{ first := 0, count := 1, stride := 1, res := true, compact := false }]
    ((queuedOn s 0).findSome? (fun e =>
      if e.2.nextInGang && !closureYields s 0 e.1 e.2 then placedClosure s 0 e.1 e.2 else none)).isSome := by decide +kernel

/-- A crew that waits for a core, a bin's launch among them. -/
theorem test_meets_pending :
    let s := (withTables (stage (.nop plain))).modCrew 0 (fun c => { c with state := .pending, splits := [], claimedAt := 0 })
    let late := { s with clock := 2 ^ 24 }
    (s.crew 0).any (fun c => (s.ctx c.ctx).preempt == .no && slotFor s c.ctx && !mustYield s 0 c && (placeFor s 0 c c.die).isSome &&
      c.reserve.isNone && c.claimedAt + 2 ^ 24 ≤ late.clock && headOfLevel late c.die (effPrio late c) (c.launch.getD 0) c.index 0 &&
      !({ c with bin := some (3, 1) }).stallNoted) = true := by decide +kernel

/-- A crew that waits in a bin and has the least right to its core, and the same crew swapped out. -/
theorem test_meets_swap :
    let s := withTables (stageCrew (.nop plain) (fun c => { c with idleFor := some 65536, kernel := placeKernel }))
    let s := withDesc (fun d => { d with savebase := 0x100000, saveslot := 2048, savecnt := 2 }) s
    let s := { s.modCrew 0 (onFirst (fun x => { x with state := .binWait })) with cores := [], clock := 1000000 }
    let s := { s with crews := tabPut s.crews 1 { (s.crew 0).getD (Crew.fresh 0 0 none none [] placeKernel 0 0) with
      state := .swappedOut, woken := true, index := 1, slot := some 1, acc := [], kernel := { placeKernel with lamp := 1, accs := 0 } } }
    (s.crew 0).any (fun c => mayLeave s 0 c && leavesFirst s 0 c) ∧
    (s.crew 1).any (fun c => c.woken && !c.stranded && fitsBack s 1 c && !reservedAgainst s 1 c c.core c.part &&
      c.slot.any (fun n => (resetAtRestore s c n).isNone)) := by decide +kernel

theorem test_meets_bin_timer :
    let k := (placeKernel)
    let nd : Node := { entry := 0, rsize := 0, coal := 32, prio := 0, timer := 1, cap := 16, ring := 0, high := 8, low := 4, kernel := k }
    let s := State.reset.modCtx 0 (fun x => { x with nodes := [nd] })
    let s := setBin s 0 0 0 { Bin.reset with records := [[]], timer := some 0 }
    ((getBin s 0 0 0).timer == some 0 && (nodeOf s 0 0).isSome && (getBin s 0 0 0).untaken != 0 &&
      (s.ctx 0).preempt == .no) = true := by decide +kernel

theorem test_meets_preemption :
    let s := stage (.nop plain)
    let t := awaiting 9 ({ s.modCtx 0 (fun x => { x with preempt := .halted, preemptAt := 0 }) with clock := 125000 }.modCrew 0
      (fun c => { c with state := .halted }))
    let u := { s.modCtx 0 (fun x => { x with preempt := .saved, resume := true }) with clock := 7 }
    let d := s.modCrew 0 (fun c => { c with wdogCount := budgetOf s c })
    (awaitsLoads t 0 && !((t.ctx 0).reported.contains 0) && (u.ctx 0).resume &&
      (((s.modCtx 0 (fun x => { x with preempt := .asked })).ctx 0).preempt == .asked) &&
      ((withTables s).desc 0).valid && (d.crew 0).any (fun c => c.state == .resident && !c.stranded && budgetOf d c ≤ c.wdogCount)) =
        true := by decide +kernel

def oneCopy : Copy := { data := 0, wts := 0, rts := 0, managed := true, dirty := 0, poison := 0, flaw := 0 }

/-- A debugger's record of a crew held, and another request, wait in their queues; a peer's request was answered. -/
theorem test_meets_outside :
    let s := withTables State.reset
    let s := withDesc (fun d => { d with svcq := 0x10000, dbgq := 0x20000 }) s
    let s := { s.modCtx 0 (fun x => { x with svcSeq := 1, dbgSeq := 1 }) with mem := memWrite s.mem 0x10004 [1] }
    let d : State := { s with peerDone := [{ source := 1, number := 2, at_ := 0, reply := .done }] }
    (State.reset.boot.step == 6 && State.reset.keyOk && State.reset.cxlDown.isEmpty && State.reset.aditsDown.isEmpty &&
      powerDue { State.reset with clock := 125000 } 3 && isHouse houseBase && !privateAt State.reset 0x1000 8 && appRuns State.reset 0 .machine &&
      (tabGet (({ State.reset with cores := [(511, { Core.reset with copies := [(32, oneCopy)] })] }).core 511).copies 32).isSome &&
      !eventWaits State.reset (.hostAccess 0 0x1000 (.load 8)) && allHbm 0x1000 8 && isHbm 0x1000 &&
      !isStockpile 0x1000 && !(unpowered State.reset).powered && (keptReplies State.reset).isEmpty &&
      (match translate s (askDie 0) 0 0x1000 needW with | .ok _ => true | .error _ => false) &&
      queueHolds s 0 false 0 && queueHolds s 0 true 0 && bitsOf (rawNat s 0x10000 32) 35 32 == 1 && bitsOf (rawNat s 0x20000 32) 35 32 == 0 &&
      ((keptReplies d).find? (fun d => d.source == 1 && d.number == 2)).isSome) = true := by decide +kernel

theorem test_meets_failures :
    let s := State.reset
    let base := 0x10000000000
    (s.routersDown.isEmpty && s.linksDown.isEmpty && s.aditsDown.isEmpty && s.ioDown.isEmpty && s.cxlDown.isEmpty &&
      isPeer 0x1000000000000 && isHost 0x8000000000000 && ExtKind.uload.reads &&
      ((stage (.nop plain)).crew 0).any (fun c => c.onCore && 0 < c.kernel.scount) && (locksOf (stage (.nop plain))).isEmpty &&
      refreshing s base && !(s.poison.contains (base / 32)) && isHbm 0 && !(s.fencedPc.contains (pseudoChannel 0)) &&
      (List.range 4).all (fun l => (List.range 4).all (fun d => (linksOf d).any (fun k => k != l)))) = true := by decide +kernel

/-- A handler of context 0 reads, writes and answers through the tables; an event of its own entry waits. -/
theorem test_meets_handler_forms :
    let s := { withTables (placeForHandler State.reset 0) with actor := .handler 0 }
    let regs := rvSet (rvSet [] 5 0xA280) 6 8
    let s := s.modSlice 0 (fun x => { x with handler := x.handler.map (fun h => { h with regs := regs }) })
    let ok : (Except AsFail Xlate) → Bool := fun x => match x with | .ok _ => true | .error _ => false
    (s.slice 0).handler.any (fun h => (installOf s 0 h.ctx).any (fun i =>
      ok (asTarget s 0 h.ctx (h.x 5).toNat needR) && ok (asTarget s 0 h.ctx (h.x 5).toNat needW) &&
      ok (asTarget s 0 h.ctx (h.x 5).toNat needRW) && !h.late && !ok (asTarget s 0 h.ctx 3 needRW) &&
      (h.x 6).toNat ≤ 32 && h.ev.kind != 3 && !i.removing && i.entryOf h.ev == some h.entry &&
      okOf (false, asLook s 0 h.ctx 3 false) (fun _ => true) && !okOf (false, asLook State.reset 0 h.ctx 3 false) (fun _ => true))) = true := by decide +kernel

/-- The pages that `as.pf` meets: one that the map opens, one of a core's private range, and a slice whose list of lines
asked for is full. A page of the host's, for `as.ld`. -/
theorem test_meets_prefetch :
    let s := withTables (placeForHandler State.reset 0)
    let full := s.modSlice 0 (fun x => { x with prefetch := List.replicate 128 (1, (0, 0, 0)) })
    let page : Nat → Nat → State := fun pa cmode =>
      { s with tlb := [{ placeEntry (.assayer 0) with pa := pa, cmode := cmode }] }
    let pages : State → List Xlate := fun s => prefetchPages s 0 0 0x1000 2
    ((pages (page 0x1000 0)).length == 2 && (pages (page 0x1000 0)).all (fun x => !prefetchBreach s 0 x) &&
      128 < (full.slice 0).prefetch.length + ((pages (page 0x1000 0)).filter (fun x => !leftAlone full 0 x)).length &&
      (pages (page 0x1000 2)).any (fun x => prefetchBreach (page 0x1000 2) 0 x) &&
      okOf (false, asTarget (page 0x8000000000000 1) 0 0 0x1000 needRW) (fun x => !isHbm x.pa && (deadTarget s x.pa).isNone &&
        (asWriteBad s x).isNone && (asWriteBad { s with cxlDown := [0, 1, 2, 3] } x).isSome)) = true := by decide +kernel

end Sys2Proof.Tests
end

section
/-! Proofs about what reaches the module from outside (O58). First what each event does once its guards let it through;
then the obligation, put together from them. -/

namespace Sys2Proof.Machine

/-! Registers of the housekeeping range (R15, R326, R333, R334, R341). -/

theorem writeCeil_of_defined (s : State) {i ceil : Nat} (hi : i < 1024) (hc : ceil ≤ 13) :
    writeCeil s i ceil = { s with islands := tabPut s.islands i { s.island i with
      ceil := ceil, step := if isCoreIsland i then (s.island i).step else ceil } } := by
  simp [writeCeil, Nat.not_le.2 hi, Nat.not_lt.2 hc]

theorem exec_islandCeilingWrite_of_booted {s : State} (hb : s.boot.step = 6) (i ceil : Nat) :
    exec (.islandCeilingWrite i ceil) s = .next (writeCeil s i ceil) :=
  congrArg _ (if_neg (by omega))

section
variable {s : State} (hb : s.boot.step = 6) (v : Word)
include hb

theorem writeHouse_hstn : writeHouse s houseBase v = { s with hstn := BitVec.ofNat 32 v.toNat } := by
  simp [writeHouse, hb]

theorem writeHouse_mymod : writeHouse s (houseBase + 8) v = { s with mymod := BitVec.ofNat 16 v.toNat } := by
  simp [writeHouse, hb]

/-- The offset of a ring binding lies past the window entries and in the range of the bindings. -/
theorem writeHouse_binding {r : Nat} (hr : r < 64) :
    writeHouse s (houseBase + 0x2000 + 8 * r) v = writeBinding s r v.toNat := by
  have ho : houseBase + 0x2000 + 8 * r - houseBase = 0x2000 + 8 * r := by omega
  have hi : (0x2000 + 8 * r - 0x2000) / 8 = r := by omega
  simp only [writeHouse, ho, hb, Bool.or_eq_true, Bool.and_eq_true, decide_eq_true_eq, bne_iff_ne, beq_iff_eq]
  rw [if_neg (by omega), if_neg (by omega), if_neg (by omega), if_neg (by omega), if_pos (by omega), hi]

/-- The offset of a quarter of a descriptor lies past every other range, and its quotients name context and word. -/
theorem writeHouse_desc {ctx q : Nat} (hc : ctx < 4096) (hq : q < 8) :
    writeHouse s (houseBase + 0x100000 + 64 * ctx + 8 * q) v = writeDesc s ctx q v := by
  have ho : houseBase + 0x100000 + 64 * ctx + 8 * q - houseBase = 0x100000 + 64 * ctx + 8 * q := by omega
  have hctx : (0x100000 + 64 * ctx + 8 * q - 0x100000) / 64 = ctx := by omega
  have hword : (0x100000 + 64 * ctx + 8 * q) % 64 / 8 = q := by omega
  simp only [writeHouse, ho, hb, Bool.or_eq_true, Bool.and_eq_true, decide_eq_true_eq, bne_iff_ne, beq_iff_eq]
  rw [if_neg (by omega), if_neg (by omega), if_neg (by omega), if_neg (by omega), if_neg (by omega),
    if_neg (by omega), if_pos (by omega), hctx, hword]

end

/-! The supervisor's stores (R195, R337). -/

section
variable {s : State} {ctx index : Nat} {debug : Bool} (hq : queueHolds s ctx debug index = true)
include hq

theorem exec_supervisorTake_of_held :
    exec (.supervisorTake ctx debug index) s = .next (storeState s ctx debug index 1) := by
  show execSupervisorTake ctx debug index s = _
  simp only [execSupervisorTake, hq, if_true]

/-- The record is of no `svc`: it takes no reply, only its new state. -/
theorem exec_supervisorDone_of_no_request (reply : Word)
    (hk : bitsOf (rawNat s (queueBase s ctx debug + 32 * (index % 128)) 32) 35 32 ≠ 0) :
    exec (.supervisorDone ctx debug index reply) s = .next (storeState s ctx debug index 2) := by
  show execSupervisorDone ctx debug index reply s = _
  simp [execSupervisorDone, hq, hk]

/-- The record is of an `svc`: the reply goes to its request block first. -/
theorem exec_supervisorDone_of_request (reply : Word) {x : Xlate}
    (hk : bitsOf (rawNat s (queueBase s ctx debug + 32 * (index % 128)) 32) 35 32 = 0)
    (hx : translate s (askDie 0) ctx
      (bitsOf (rawNat s (queueBase s ctx debug + 32 * (index % 128)) 32) 191 128) needW = .ok x) :
    exec (.supervisorDone ctx debug index reply) s = .next (storeState
      (byAppCore (noteWalk s x.upd) (s.desc ctx).svchart (fun s => unitWrite s x.pa (wordBytes reply)))
      ctx debug index 2) := by
  show execSupervisorDone ctx debug index reply s = _
  simp [execSupervisorDone, hq, hk, hx]

end

/-! Power and attestation (R17, R342, R343, R451). -/

theorem exec_powerEvaluation_of_due {s : State} {die : Nat} (hd : powerDue s die = true)
    (duties : List (Nat × Nat × Nat)) :
    exec (.powerEvaluation die duties) s =
      .next (evaluatePower (dutiesOf s die duties).2 die (dutiesOf s die duties).1) :=
  if_pos hd

theorem exec_powerUp_of_unpowered {s : State} (hp : s.powered = false) (boot : BootInput) :
    exec (.powerUp boot) s = .next (bootState s boot) :=
  congrArg _ (if_neg (by simp [hp]))

theorem exec_attestationRequest_granted {s : State} (ctx : Nat) {nonce : List Byte} (hp : s.powered = true)
    (hb : s.boot.step = 6) (hk : s.keyOk = true) (hn : nonce.length = 64) :
    exec (.attestationRequest ctx nonce) s = .next { s with reports := s.reports ++ [attestation s ctx nonce] } := by
  show execAttestationRequest ctx nonce s = _
  simp [execAttestationRequest, hp, hb, hk, hn]

theorem exec_attestationRequest_denied {s : State} (ctx : Nat) {nonce : List Byte}
    (h : s.powered = false ∨ s.boot.step ≠ 6 ∨ s.keyOk = false ∨ nonce.length ≠ 64) :
    ∃ r, r.accepted = false ∧
      exec (.attestationRequest ctx nonce) s = .next { s with reports := s.reports ++ [r] } := by
  have hno : (s.powered && s.boot.step == 6 && s.keyOk && nonce.length == 64) = false := by
    rcases h with h | h | h | h <;> simp [h]
  refine ⟨{ ctx := ctx, accepted := false, measures := [], handlers := [], nonce := 0, signature := 0 }, rfl, ?_⟩
  show execAttestationRequest ctx nonce s = _
  simp [execAttestationRequest, hno]

/-! Requests at a CXL port (R325, R448): the port's guards once, then each kind of request. -/

section
variable {s : State} {port : Nat} (hp : port < 4) (hl : s.cxlDown.contains port = false) (hb : 5 ≤ s.boot.step)
include hp hl hb

theorem cxlPort_open : (decide (4 ≤ port) || s.cxlDown.contains port || decide (s.boot.step < 5)) = false := by
  simp only [hl, Bool.or_false, Bool.or_eq_false_iff, decide_eq_false_iff_not]
  omega

theorem exec_hostAccess_load (addr n : Nat) :
    exec (.hostAccess port addr (.load n)) s = .next ((stationOuter port).access s addr (.load n) true) :=
  if_neg (Bool.eq_false_iff.1 (cxlPort_open hp hl hb))

theorem exec_hostAccess_store (addr : Nat) (bs : List Byte) :
    exec (.hostAccess port addr (.store bs)) s = .next ((stationOuter port).access s addr (.store bs) true) :=
  if_neg (Bool.eq_false_iff.1 (cxlPort_open hp hl hb))

theorem exec_hostAccess_ioLoad {addr n : Nat} (ha : allHbm addr n = true) :
    exec (.hostAccess port addr (.ioLoad n)) s = .next ((stationOuter port).access s addr (.load n) false) :=
  (if_neg (Bool.eq_false_iff.1 (cxlPort_open hp hl hb))).trans (congrArg _ (if_pos ha))

/-- Line by line: a fenced part is dropped and counted, a part in a core's own page is refused (the model's reading,
log 75), the rest is stored. -/
theorem exec_ioDeviceWrite_of_hbm {addr : Nat} {bs : List Byte} (hne : bs ≠ []) (ha : allHbm addr bs.length = true) :
    exec (.ioDeviceWrite port addr bs) s = .next ((lineParts addr bs.length).foldl (fun s g =>
      if meetsFence s g.1 g.2 then errCount s (stationOuter port).die 5
      else if privateAt s g.1 g.2 then (stationOuter port).refuse s g.1 1
      else (stationOuter port).storeHbm s g.1 ((bs.drop (g.1 - addr)).take g.2)) s) := by
  have he : bs.isEmpty = false := List.isEmpty_eq_false_iff.2 hne
  show execIoDeviceWrite port addr bs s = _
  simp only [execIoDeviceWrite, cxlPort_open hp hl hb, he, ha, Bool.or_false, Bool.not_true,
    Bool.false_eq_true, if_false]

end

/-! Requests of a peer at an adit (R441). -/

section
variable {s : State} {adit : Nat} (ha : adit < 16) (hl : s.aditsDown.contains adit = false) (hb : 4 ≤ s.boot.step)
include ha hl hb

theorem adit_open : (decide (16 ≤ adit) || s.aditsDown.contains adit || decide (s.boot.step < 4)) = false := by
  simp only [hl, Bool.or_false, Bool.or_eq_false_iff, decide_eq_false_iff_not]
  omega

theorem exec_peerRequest_duplicate {source number : Nat} {d : PeerDone}
    (hd : (keptReplies s).find? (fun d => d.source == source && d.number == number) = some d) (addr : Nat)
    (op : ExtOp) : exec (.peerRequest ⟨adit, source⟩ number addr op) s = .next { s with reply := d.reply } := by
  show execPeerRequest ⟨adit, source⟩ number addr op s = _
  simp only [execPeerRequest, adit_open ha hl hb, hd, Bool.false_eq_true, if_false]

theorem exec_peerRequest_load {source number addr : Nat}
    (hd : (keptReplies s).find? (fun d => d.source == source && d.number == number) = none)
    (hs : isStockpile addr = false) (n : Nat) :
    exec (.peerRequest ⟨adit, source⟩ number addr (.load n)) s =
      .next (noteReply ((aditOuter adit).access s addr (.load n) false) source number) := by
  show execPeerRequest ⟨adit, source⟩ number addr (.load n) s = _
  simp only [execPeerRequest, adit_open ha hl hb, hd, hs, Bool.false_eq_true, if_false]

end

/-! Eviction of a managed copy (R121). -/

theorem exec_managedCopyEviction_of_core {s : State} {core line : Nat} {c : Copy} (hc : core < 512)
    (ht : tabGet (s.core core).copies line = some c) :
    exec (.managedCopyEviction core line) s =
      .next ((if c.managed then writeBackCopy s core line else s).modCore core
        (fun x => { x with copies := tabDel x.copies line })) := by
  show execManagedCopyEviction core line s = _
  simp only [execManagedCopyEviction, Nat.not_le.2 hc, decide_false, Bool.false_and, Bool.false_eq_true, if_false, ht]

theorem exec_managedCopyEviction_of_appCore (s : State) {n : Nat} (hn : n < 16) (line : Nat) :
    exec (.managedCopyEviction (512 + n) line) s =
      .next (dropOuter (cleanOuter s n (128 * line)) n (128 * line)) := by
  have hr : (decide (512 ≤ 512 + n) && decide (512 + n < 528)) = true := by simp; omega
  show execManagedCopyEviction (512 + n) line s = _
  simp only [execManagedCopyEviction, hr, if_true, Nat.add_sub_cancel_left]

/-! Accesses of an application core (R121, R326, R335). -/

theorem isHouse_of_isHbm {a : Nat} (h : isHbm a = true) : isHouse a = false := by
  have ha : a < 0xC000000000 := of_decide_eq_true h
  have hlow : ¬ houseBase ≤ a := by unfold houseBase; omega
  simp [isHouse, hlow]

/-- In machine mode an address of HBM is an access by device physical address. -/
theorem exec_applicationCoreAccess_machine {s : State} {n addr : Nat} {op : ExtOp} (hr : appRuns s n .machine = true)
    (ha : isHbm addr = true) (ho : op ≠ .bootStatus) :
    exec (.applicationCoreAccess ⟨n, .machine⟩ addr op) s = .next (outerPhysical s n addr op none) := by
  show execApplicationCoreAccess ⟨n, .machine⟩ addr op s = _
  simp [execApplicationCoreAccess, hr, ho, isHouse_of_isHbm ha]

theorem exec_applicationCoreAccess_guest {s : State} {n ctx addr : Nat} {user : Bool} {op : ExtOp}
    (hr : appRuns s n (.guest ctx user) = true) (ho : op ≠ .bootStatus) :
    exec (.applicationCoreAccess ⟨n, .guest ctx user⟩ addr op) s = .next (guestAccess s n ctx user addr op) := by
  show execApplicationCoreAccess ⟨n, .guest ctx user⟩ addr op s = _
  simp [execApplicationCoreAccess, hr, ho]

theorem exec_applicationCoreAccess_house {s : State} {n addr : Nat} {op : ExtOp}
    (hr : appRuns s n .hypervisor = true) (ha : isHouse addr = true) (ho : op ≠ .bootStatus) :
    exec (.applicationCoreAccess ⟨n, .hypervisor⟩ addr op) s = .next (outerHouse s n addr op) := by
  show execApplicationCoreAccess ⟨n, .hypervisor⟩ addr op s = _
  simp [execApplicationCoreAccess, hr, ho, ha]

section
variable (s : State) (n : Nat) {addr : Nat} (w : Option Who) (ha : isHbm addr = true)
include ha

theorem outerPhysical_load (k : Nat) :
    outerPhysical s n addr (.load k) w = (appOuter n).access s addr (.load k) false w := by
  simp only [outerPhysical, outside_of_hbm addr ha, Bool.false_eq_true, if_false]

theorem outerPhysical_store (bs : List Byte) :
    outerPhysical s n addr (.store bs) w = (appOuter n).access s addr (.store bs) false w := by
  simp only [outerPhysical, outside_of_hbm addr ha, Bool.false_eq_true, if_false]

theorem outerPhysical_managedLoad {k : Nat} (hk : allHbm addr k = true) (hp : privateAt s addr k = false) :
    outerPhysical s n addr (.managedLoad k) w = outerLoad s n addr k w := by
  simp only [outerPhysical, outside_of_hbm addr ha, hk, hp, Bool.not_true, Bool.false_eq_true, if_false]

theorem outerPhysical_managedStore {bs : List Byte} (hk : allHbm addr bs.length = true)
    (hp : privateAt s addr bs.length = false) :
    outerPhysical s n addr (.managedStore bs) w = outerStore s n addr bs w := by
  simp only [outerPhysical, outside_of_hbm addr ha, hk, hp, Bool.not_true, Bool.false_eq_true, if_false]

theorem outerPhysical_clean : outerPhysical s n addr .clean w = cleanOuter s n addr := by
  simp only [outerPhysical, outside_of_hbm addr ha, Bool.false_eq_true, if_false]

theorem outerPhysical_flush : outerPhysical s n addr .flush w = dropOuter (cleanOuter s n addr) n addr := by
  simp only [outerPhysical, outside_of_hbm addr ha, Bool.false_eq_true, if_false]

end

/-- Settles O58: each clause is the event's lemma above, with its guards discharged by the clause's hypotheses. -/
theorem outsideEvents : Obligations.OutsideEvents := by
  unfold Obligations.OutsideEvents
  refine ⟨?ceiling, ?house, ?power, ?supervisor, ?powerUp, ?lossAndAttestation, ?cxl, ?peer, ?coreCopy, ?appCopy, ?app⟩
  case ceiling =>
    intro s island ceil hb hi hc
    rw [exec_islandCeilingWrite_of_booted hb, writeCeil_of_defined s hi hc]
  case house =>
    intro s v hb
    exact ⟨congrArg _ (writeHouse_hstn hb v), congrArg _ (writeHouse_mymod hb v),
      fun r hr => congrArg _ (writeHouse_binding hb v hr),
      fun ctx q hc hq => congrArg _ (writeHouse_desc hb v hc hq)⟩
  case power => exact fun s die duties hd => exec_powerEvaluation_of_due hd duties
  case supervisor =>
    intro s ctx index debug reply hq
    exact ⟨exec_supervisorTake_of_held hq, exec_supervisorDone_of_no_request hq reply,
      fun hk x hx => exec_supervisorDone_of_request hq reply hk hx⟩
  case powerUp => exact fun s boot hp => exec_powerUp_of_unpowered hp boot
  case lossAndAttestation =>
    intro s ctx nonce
    exact ⟨rfl, exec_attestationRequest_granted ctx, exec_attestationRequest_denied ctx⟩
  case cxl =>
    intro s port addr n bs hp hl hb
    exact ⟨exec_hostAccess_load hp hl hb addr n, exec_hostAccess_store hp hl hb addr bs,
      exec_hostAccess_ioLoad hp hl hb, exec_ioDeviceWrite_of_hbm hp hl hb⟩
  case peer =>
    intro s adit source number addr n ha hl hb
    exact ⟨fun d hd op => exec_peerRequest_duplicate ha hl hb hd addr op,
      fun hd hs => exec_peerRequest_load ha hl hb hd hs n⟩
  case coreCopy => exact fun s core line c hc ht => exec_managedCopyEviction_of_core hc ht
  case appCopy => exact fun s n line hn => exec_managedCopyEviction_of_appCore s hn line
  case app =>
    intro s n addr k bs
    refine ⟨fun hr ha => ?machine, fun ctx user op hr ho => exec_applicationCoreAccess_guest hr ho,
      fun hr ha op ho => exec_applicationCoreAccess_house hr ha ho⟩
    have physical : ∀ {op : ExtOp} {t : State}, op ≠ .bootStatus → outerPhysical s n addr op none = t →
        exec (.applicationCoreAccess ⟨n, .machine⟩ addr op) s = .next t :=
      fun ho ht => ht ▸ exec_applicationCoreAccess_machine hr ha ho
    exact ⟨physical (by simp) (outerPhysical_load s n none ha k),
      physical (by simp) (outerPhysical_store s n none ha bs),
      fun hk hp => physical (by simp) (outerPhysical_managedLoad s n none ha hk hp),
      fun hk hp => physical (by simp) (outerPhysical_managedStore s n none ha hk hp),
      physical (by simp) (outerPhysical_clean s n none ha),
      physical (by simp) (outerPhysical_flush s n none ha)⟩

end Sys2Proof.Machine
end

section
/-! Proofs about the forms of the lamp and of interrupts (O30). First what each meaning answers once its conditions hold;
then the obligation, put together from them. -/

namespace Sys2Proof.Machine

/-- An instruction that runs is settled with what its meaning answers. -/
theorem issue_of_form {i : Instr} {s : State} {e : Env} {body : Env → State → Res} {r : Res} (h : Runs i s e)
    (hr : body e s = r) : issue i body s = .next (settleRes e r) := hr ▸ issue_runs h body

/-! The lamp (R46, R187, R188). -/

section
variable {s : State} {e : Env} (hs : e.c.single = true)
include hs

theorem lampJoinForm_of_lamp (hk : e.c.kernel.lamp ≠ 0) :
    lampJoinForm e s = .done (if e.c.kernel.lamp = 2 then joinRing s e.core e.id e.ctx else s) := by
  simp [lampJoinForm, hs, hk]

theorem lampJoinForm_of_no_lamp (hk : e.c.kernel.lamp = 0) : lampJoinForm e s = .exc s .rlamp := by
  simp [lampJoinForm, hs, hk]

theorem lampTakeForm_of_member (hm : e.member s = true) :
    lampTakeForm e s = if e.holds s then .done s else .wait s .lampWait := by
  simp [lampTakeForm, hs, hm]

theorem lampTakeForm_of_no_member (hm : e.member s = false) : lampTakeForm e s = .exc s .rlamp := by
  simp [lampTakeForm, hs, hm]

theorem lampPassForm_of_holder (hh : e.holds s = true) :
    lampPassForm e s = .done (passLamp (e.fenced s 2) e.core) := by
  simp [lampPassForm, hs, hh]

theorem lampPassForm_of_no_holder (hh : e.holds s = false) : lampPassForm e s = .exc s .rlamp := by
  simp [lampPassForm, hs, hh]

end

/-! Interrupts of a crew (R193, R194). -/

/-- The state in which `uint.post` looks for its target: its source is read, and the crew's accesses are performed under
`.gpu`. -/
def Env.atPost (e : Env) (s : State) : State :=
  e.endUses (e.fenced (e.dead s (e.read s.clock e.srcA 0).2) 5)

theorem uintPostForm_self {s : State} {e : Env} {c : Crew} (hv : e.var = 1) (hc : (e.atPost s).crew e.id = some c)
    (hp : c.postable = true) :
    uintPostForm e s = .done (e.putS (postInterrupt (e.atPost s) e.id c
      ((((e.atPost s).crew e.id).map Crew.pts).getD 0)) e.dst 1) := by
  simp only [Env.atPost] at hc ⊢
  simp [uintPostForm, Env.uniVal, hv, hc, hp]

section
variable {s : State} {e : Env} {l : Nat} (hv : e.var ≠ 1) (hl : e.c.launch = some l)
include hv hl

theorem uintPostForm_member {id : Nat} {c : Crew}
    (ht : crewOf (e.atPost s) l (e.read s.clock e.srcA 0).1.toNat = some (id, c)) :
    uintPostForm e s = .done (if c.postable then
        e.putS (postInterrupt (e.atPost s) id c ((((e.atPost s).crew e.id).map Crew.pts).getD 0)) e.dst 1
      else e.putS (e.atPost s) e.dst 0) := by
  simp only [Env.atPost] at ht ⊢
  cases hp : c.postable <;> simp [uintPostForm, Env.uniVal, hv, hl, ht, hp]

theorem uintPostForm_no_member (ht : crewOf (e.atPost s) l (e.read s.clock e.srcA 0).1.toNat = none) :
    uintPostForm e s = .done (e.putS (e.atPost s) e.dst 0) := by
  simp only [Env.atPost] at ht ⊢
  simp [uintPostForm, Env.uniVal, hv, hl, ht]

end

/-- A post to a crew whose registers are on its partition sets its pending bit and orders what the poster accessed before
the delivery. -/
theorem crew_postInterrupt {u : State} {id : Nat} {c : Crew} (ts : Nat) (hc : u.crew id = some c)
    (hr : c.state ≠ .retired) (ho : c.out = false) :
    (postInterrupt u id c ts).crew id = some { c with uintPend := true, engTs := max c.engTs ts } := by
  have hraise : raiseEngTs u id ts = u.setCrew id { c with engTs := max c.engTs ts } := by
    simp [raiseEngTs, hc, hr, ho]
  have hout : Crew.out { c with engTs := max c.engTs ts } = false := ho
  simp [postInterrupt, hraise, hout]

theorem uintRetForm_in_handler {s : State} {e : Env} (hu : e.c.uintRun = true)
    (hh : e.c.handler = some (e.entry, e.x.innermost))
    (ht : isHeader (e.dead s (e.read s.clock (.sreg (e.c.kernel.scount - 1)) 0).2) e.c
      (e.read s.clock (.sreg (e.c.kernel.scount - 1)) 0).1.toNat = true) :
    uintRetForm e s = .jump ((e.goto (e.dead s (e.read s.clock (.sreg (e.c.kernel.scount - 1)) 0).2)
      (e.read s.clock (.sreg (e.c.kernel.scount - 1)) 0).1.toNat false).modCrew e.id
        (fun c => { c with uintRun := false, handler := none })) := by
  simp [uintRetForm, Env.uniVal, hu, hh, ht]

theorem uintRetForm_elsewhere {s : State} {e : Env}
    (h : e.c.uintRun = false ∨ e.c.handler ≠ some (e.entry, e.x.innermost)) : uintRetForm e s = .exc s .rsplit := by
  have hno : (e.c.uintRun && e.c.handler == some (e.entry, e.x.innermost)) = false := by
    rcases h with h | h <;> simp [h]
  simp only [uintRetForm, hno, Bool.not_false, if_true]

/-- Settles O30: each clause is the lemma of its form above, for an instruction that runs. -/
theorem lampAndInterruptForms : Obligations.LampAndInterruptForms := by
  refine ⟨fun f s e hs => ?lamp, fun f s e => ?interrupts⟩
  case lamp =>
    exact ⟨fun h hk => issue_of_form h (lampJoinForm_of_lamp hs hk),
      fun h hk => issue_of_form h (lampJoinForm_of_no_lamp hs hk),
      fun h hm => issue_of_form h (lampTakeForm_of_member hs hm),
      fun h hm => issue_of_form h (lampTakeForm_of_no_member hs hm),
      fun h hh => issue_of_form h (lampPassForm_of_holder hs hh),
      fun h hh => issue_of_form h (lampPassForm_of_no_holder hs hh)⟩
  case interrupts =>
    exact ⟨fun h hv c hc hp => issue_of_form h (uintPostForm_self hv hc hp),
      fun u id c ts hc hr ho => ⟨_, crew_postInterrupt ts hc hr ho, rfl⟩,
      fun h hv l id c hl ht => issue_of_form h (uintPostForm_member hv hl ht),
      fun h hv l hl ht => issue_of_form h (uintPostForm_no_member hv hl ht),
      fun h hu hh ht => issue_of_form h (uintRetForm_in_handler hu hh ht),
      fun h hno => issue_of_form h (uintRetForm_elsewhere hno)⟩

end Sys2Proof.Machine
end

section
/-! Proofs about `spawn`, `nsig` and `npub` (O32). -/

namespace Sys2Proof.Machine

/-! Lanes that act in turn. -/

/-- Once every lane passes its checks, the instruction goes on with what they found. -/
theorem withLanes_of_ok {α : Type} {e : Env} {s : State} {ls : List Nat} {k : Nat → Bool × Except LaneFail α} {d : Bool}
    {as : List (Nat × α)} (h : checkLanes ls k = (d, .ok as)) (go : List (Nat × α) → State → Res) :
    e.withLanes s ls k go = go as (e.dead s d) := by
  simp only [Env.withLanes, h]

theorem lateOr_of_accepted {r : State × LateLane} (h : r.2 = none) : lateOr r.1 r.2 = .done r.1 := by
  simp only [lateOr, h]

theorem lateOr_of_refused {r : State × LateLane} {q : Nat × Nat × Nat} (h : r.2 = some q) :
    lateOr r.1 r.2 = .late r.1 q.1 (some q.2.1) (some q.2.2) := by
  simp only [lateOr, h]

/-- Lanes none of which is refused leave no refusal behind. -/
theorem eachLane_snd_of_accepted {α : Type} {ls : List (Nat × α)} {f : State → Nat → α → State × Option (Nat × Nat)}
    (hf : ∀ t ∈ ls, ∀ s, (f s t.1 t.2).2 = none) (s : State) : (eachLane s ls f).2 = none := by
  induction ls generalizing s with
  | nil => rfl
  | cons t ts ih =>
    have ht := hf t List.mem_cons_self s
    have hts := ih (fun u hu => hf u (List.mem_cons_of_mem _ hu)) (f s t.1 t.2).1
    simpa only [eachLane, List.foldl_cons, ht] using hts

theorem signalLane_of_accepted {e : Env} {s0 : State} {x : Xlate} (h : refusal s0 x e.core true = none) (s : State) :
    (e.signalLane s0 s x).2 = none := by
  simp only [Env.signalLane, h]

/-- A record each of whose pieces is accepted is stored whole. -/
theorem storeRecord_of_accepted {e : Env} {s0 : State} {xs : List (Xlate × Nat)}
    (h : ∀ x ∈ xs, refusal s0 x.1 e.core true = none) (s : State) (bs : List Byte) :
    (e.storeRecord s0 s bs xs).2 = none := by
  induction xs generalizing s bs with
  | nil => rfl
  | cons x xs ih =>
    simp only [Env.storeRecord, h x List.mem_cons_self]
    exact ih (fun y hy => h y (List.mem_cons_of_mem _ hy)) _ _

theorem publishLane_of_accepted {e : Env} {s0 : State} {t : Xlate × List (Xlate × Nat) × Nat}
    (ht : refusal s0 t.1 e.core true = none) (hx : ∀ x ∈ t.2.1, refusal s0 x.1 e.core true = none)
    (recs : List (Nat × List Byte)) (s : State) (l : Nat) : (e.publishLane recs s0 s l t).2 = none := by
  simp only [Env.publishLane, ht, storeRecord_of_accepted hx]

/-! `spawn` (R41, R189, R398). -/

section
variable {s : State} {e : Env} {nd : Node} (hn : nodeOf s e.ctx e.dst = some nd)
include hn

theorem spawnForm_of_no_lane (ha : e.acting = []) : spawnForm e s = .done (e.endUses s) := by
  simp [spawnForm, hn, ha]

theorem spawnForm_of_room (ha : e.acting ≠ [])
    (hr : (getBin s e.ctx e.dst e.die).depth < nd.high ∨ nodeFailed s e.ctx e.dst = true) :
    spawnForm e s = .done (deposit
      (e.endUses (e.fenced (e.dead s ((e.acting.map (e.record s.clock e.srcA (nd.recSize / 8))).any Prod.snd)) 5))
      e.ctx e.dst e.die ((e.acting.map (e.record s.clock e.srcA (nd.recSize / 8))).map Prod.fst)) := by
  have hpass : ¬(nd.high ≤ (getBin s e.ctx e.dst e.die).depth ∧ nodeFailed s e.ctx e.dst = false) := by
    rintro ⟨hd, hf⟩
    rcases hr with hr | hr
    · omega
    · simp [hr] at hf
  simp only [spawnForm, hn, List.isEmpty_iff, ha, Bool.and_eq_true, decide_eq_true_eq, Bool.not_eq_true', hpass, if_false]

theorem spawnForm_of_full (ha : e.acting ≠ []) (hd : nd.high ≤ (getBin s e.ctx e.dst e.die).depth)
    (hf : nodeFailed s e.ctx e.dst = false) :
    spawnForm e s = .wait ((setBin s e.ctx e.dst e.die { getBin s e.ctx e.dst e.die with raised := true }).modCrew e.id
      (fun c => c.modSplit e.entry (fun x => { x with gang := e.dst }))) .binWait := by
  simp [spawnForm, hn, ha, hd, hf]

end

/-! `nsig` and `npub` (R43, R190, R191). -/

/-- The state in which the lanes of `nsig` and of `npub` begin: the crew's accesses are performed where a lane acts. -/
def Env.atSlots {α : Type} (e : Env) (s : State) (d : Bool) (ls : List (Nat × α)) : State :=
  e.endUses (if ls.isEmpty then e.dead s d else e.fenced (e.dead s d) 5)

theorem nsigForm_of_checked {s : State} {e : Env} {d : Bool} {ls : List (Nat × Xlate)}
    (h : checkLanes e.acting (e.signalCheck s) = (d, .ok ls)) :
    nsigForm e s =
      lateOr (eachLane (e.atSlots s d ls) ls (fun t _ x => e.signalLane (e.atSlots s d ls) t x)).1
        (eachLane (e.atSlots s d ls) ls (fun t _ x => e.signalLane (e.atSlots s d ls) t x)).2 :=
  withLanes_of_ok h _

theorem npubForm_of_checked {s : State} {e : Env} {nd : Node} {d : Bool}
    {ls : List (Nat × Xlate × List (Xlate × Nat) × Nat)} (hn : nodeOf s e.ctx e.dst = some nd)
    (h : checkLanes e.acting (e.publishCheck s nd) = (d, .ok ls)) :
    npubForm e s =
      let recs := ls.map (fun t => (t.1, (e.record s.clock e.srcC (nd.recSize / 8) t.1).1))
      lateOr (eachLane (e.atSlots s d ls) ls (e.publishLane recs (e.atSlots s d ls))).1
        (eachLane (e.atSlots s d ls) ls (e.publishLane recs (e.atSlots s d ls))).2 := by
  have hc : (e.dead s d).clock = s.clock := (onlyCrews_dead e s d).clock
  simp only [npubForm, hn, withLanes_of_ok h, hc]
  rfl

theorem spawnForm_of_no_node {s : State} {e : Env} (h : nodeOf s e.ctx e.dst = none) : spawnForm e s = .exc s .ropnd := by
  simp only [spawnForm, h]

theorem npubForm_of_no_node {s : State} {e : Env} (h : nodeOf s e.ctx e.dst = none) : npubForm e s = .exc s .ropnd := by
  simp only [npubForm, h]

/-- Settles O32: `spawn` by its three cases; `nsig` and `npub` by whether a lane is refused. -/
theorem spawnAndDependenceForms : Obligations.SpawnAndDependenceForms := by
  intro f s e
  refine ⟨fun nd h hn => ?spawn, fun d ls h hc => ?nsig, fun nd d ls h hn hc => ?npub, ?noNode⟩
  case spawn =>
    exact ⟨fun ha => ⟨_, issue_of_form h (spawnForm_of_no_lane hn ha), rfl⟩,
      fun ha hr => ⟨_, issue_of_form h (spawnForm_of_room hn ha hr), rfl⟩,
      fun ha hd hf => issue_of_form h (spawnForm_of_full hn ha hd hf)⟩
  case nsig =>
    have hform := nsigForm_of_checked hc
    exact ⟨fun hr => ⟨_, issue_of_form h (hform.trans (lateOr_of_accepted
        (eachLane_snd_of_accepted (fun t ht => signalLane_of_accepted (hr t ht)) _))), rfl⟩,
      fun q hq => issue_of_form h (hform.trans (lateOr_of_refused hq))⟩
  case npub =>
    have hform := npubForm_of_checked hn hc
    exact ⟨fun hr => ⟨_, issue_of_form h (hform.trans (lateOr_of_accepted
        (eachLane_snd_of_accepted (fun t ht u => publishLane_of_accepted (hr t ht).1 (hr t ht).2 _ u _) _))), rfl⟩,
      fun q hq => issue_of_form h (hform.trans (lateOr_of_refused hq))⟩
  case noNode =>
    intro i hi h hn
    simp only [List.mem_cons, List.not_mem_nil, or_false] at hi
    rcases hi with rfl | rfl
    · exact issue_of_form h (spawnForm_of_no_node hn)
    · exact issue_of_form h (npubForm_of_no_node hn)

end Sys2Proof.Machine
end

section
/-! Proofs about gang barriers and collectives (O39). -/

namespace Sys2Proof.Machine

/-! Barriers of a gang (R36, R254, R393). -/

section
variable {s : State} {e : Env} {l : Nat} {g : GangName} {x : GangEntry} (hs : e.c.single = true)
include hs

theorem gbarArrForm_of_gang (hg : e.gang s e.var = some (l, g, x)) :
    gbarArrForm e s = if g.arrived then .exc s .rgang else .done (e.arrive s l e.var g false) := by
  simp only [gbarArrForm, hs, hg, Bool.not_true, Bool.false_eq_true, if_false]

theorem gbarWaitForm_of_gang (hg : e.gang s e.var = some (l, g, x)) :
    gbarWaitForm e s =
      if !g.arrived then .exc s .rgang
      else if isBroken s l g.table then
        .done (e.putS (e.nextPhase s l e.var g) e.dst (BitVec.ofNat 64 (2 ^ 63 + g.phase % 2 ^ 32)))
      else if allArrived s l g.table g.phase then
        .done (e.putS (e.nextPhase s l e.var g) e.dst (BitVec.ofNat 64 (g.phase % 2 ^ 32)))
      else e.waitGang s g.table := by
  simp only [gbarWaitForm, hs, hg, Bool.not_true, Bool.false_eq_true, if_false]

/-- The state in which a `coll.bar` under `.gang` looks at its gang: the member has arrived, if it had not (R256). -/
def Env.atBar (e : Env) (s : State) (l : Nat) (g : GangName) : State :=
  if g.bar then s else e.arrive s l e.collName g true

theorem collBarForm_on_phase (hg : e.gang s e.collName = some (l, g, x)) (hp : peerOk s l g.table e.var = true)
    (hv : e.var ≠ 8) (ha : ¬(g.arrived = true ∧ g.bar = false)) :
    collBarForm e s =
      if isBroken (e.atBar s l g) l g.table || allArrived (e.atBar s l g) l g.table g.phase then
        .done (e.leaveBar (e.atBar s l g) l e.collName g)
      else e.issueColl (e.atBar s l g) l g x 3 0 0 0 := by
  have hturn : (!peerOk s l g.table e.var || (e.var != 8 && g.arrived && !g.bar)) = false := by
    simpa [hp, hv] using ha
  have hscope : (e.var == 8) = false := by simpa using hv
  unfold Env.atBar
  simp only [collBarForm, hs, hg, hturn, hscope, Bool.not_true, Bool.false_eq_true, if_false]

/-! A crew whose gang is not resident takes `RGANG` in each form. -/

theorem gbarArrForm_of_no_gang (hg : e.gang s e.var = none) : gbarArrForm e s = .exc s .rgang := by
  simp [gbarArrForm, hs, hg]

theorem gbarWaitForm_of_no_gang (hg : e.gang s e.var = none) : gbarWaitForm e s = .exc s .rgang := by
  simp [gbarWaitForm, hs, hg]

theorem collBarForm_of_no_gang (hg : e.gang s e.collName = none) : collBarForm e s = .exc s .rgang := by
  simp [collBarForm, hs, hg]

theorem collForm_of_no_gang {form : Nat} (hg : e.gang s e.collName = none) : collForm form e s = .exc s .rgang := by
  simp [collForm, hs, hg]

end

/-! The collectives that move data (R255, R256, Table 22-9). -/

/-- A collective's source, destination and chunk, and the state once they are read. -/
def Env.collSrc (e : Env) (s : State) : Nat := (e.read s.clock e.srcA 0).1.toNat
def Env.collDst (e : Env) (s : State) : Nat := (e.read s.clock e.srcB 0).1.toNat
def Env.collChunk (e : Env) (s : State) : Nat := (e.read s.clock e.srcC 0).1.toNat
def Env.atColl (e : Env) (s : State) : State :=
  e.dead (e.dead (e.dead s (e.read s.clock e.srcA 0).2) (e.read s.clock e.srcB 0).2) (e.read s.clock e.srcC 0).2

/-- The bytes of the two ranges in a collective of `m` members (Table 12-4). -/
def srcBytes (form m n : Nat) : Nat := if form == 0 then n else m * n
def dstBytes (form m n : Nat) : Nat := if form == 1 then n else m * n

/-- The ranges of a collective of `m` members are lines, do not overlap, and translate to `xs` (R255, Table 22-9). -/
structure CollRanges (e : Env) (s : State) (form m : Nat) (xs : List Xlate) : Prop where
  line : e.collChunk s % 128 = 0
  pos : 0 < e.collChunk s
  max : e.collChunk s ≤ 2 ^ 24
  src : e.collSrc s % 128 = 0
  dst : e.collDst s % 128 = 0
  apart : overlap (e.collSrc s) (srcBytes form m (e.collChunk s)) (e.collDst s) (dstBytes form m (e.collChunk s)) = false
  pages : firstFail (e.collPages (e.atColl s) (e.collSrc s) (srcBytes form m (e.collChunk s)) needR ++
    e.collPages (e.atColl s) (e.collDst s) (dstBytes form m (e.collChunk s)) needW) = .ok xs

theorem CollRanges.operands_ok {e : Env} {s : State} {form m : Nat} {xs : List Xlate} (h : CollRanges e s form m xs) :
    (e.collChunk s % 128 != 0 || e.collChunk s == 0 || decide (2 ^ 24 < e.collChunk s) ||
      overlap (e.collSrc s) (srcBytes form m (e.collChunk s)) (e.collDst s) (dstBytes form m (e.collChunk s))) = false := by
  simp only [h.line, h.apart, bne_self_eq_false, Bool.false_or, Bool.or_false, Bool.or_eq_false_iff, beq_eq_false_iff_ne,
    decide_eq_false_iff_not]
  exact ⟨Nat.ne_of_gt h.pos, Nat.not_lt.2 h.max⟩

/-- A member whose ranges are right issues its collective once its requests under its scope are performed. -/
theorem collForm_of_ranges {form l : Nat} {s : State} {e : Env} {g : GangName} {t : GangEntry} {y : Launch}
    {xs : List Xlate} (hs : e.c.single = true) (hg : e.gang s e.collName = some (l, g, t))
    (hp : peerOk s l g.table e.var = true) (hy : (e.atColl s).launch l = some y)
    (h : CollRanges e s form (gangSpan (e.atColl s) y g.table t.count e.var).2 xs) :
    let s2 := xs.foldl (fun s x => noteXlate s (askCore e.core) x) (e.atColl s)
    collForm form e s =
      if isBroken s2 l g.table then .done (e.endUses s2)
      else if e.fenceWaits s2 e.var then .wait s2 .stalled
      else e.issueColl (e.fenced s2 e.var) l g t form (e.collSrc s) (e.collDst s) (e.collChunk s) := by
  have clock_dead : ∀ (u : State) (d : Bool), (e.dead u d).clock = u.clock := fun u d => (onlyCrews_dead e u d).clock
  have hok := h.operands_ok
  have hsrc := h.src
  have hdst := h.dst
  have hpages := h.pages
  unfold Env.atColl Env.collSrc Env.collDst Env.collChunk at *
  unfold srcBytes dstBytes at hok hpages
  simp only [collForm, Env.uniVal, clock_dead, hs, hg, hp, hy, hok, hsrc, hdst, hpages, Bool.not_true,
    bne_self_eq_false, Bool.false_eq_true, if_false]

/-- Once every member has issued, the members' destinations are written and all go on; where no line is refused no
exception follows. -/
theorem exec_collectiveComplete_of_issued {s : State} {l k : Nat} {x : Launch} {g : GangEntry} (hx : s.launch l = some x)
    (hg : x.gtab[k]? = some g) (hn : g.count ≠ 0) (hi : allIssued s l k g = true)
    (hp : (liveIssues s l k).any CollIssue.onPhase = false) :
    let is := liveIssues s l k
    let span := gangSpan s x k g.count ((is.head?.map CollIssue.scope).getD 3)
    let s1 := setIssues s l k []
    let r := if (is.head?.map CollIssue.form).getD 0 = 3 then (levelPts s1 is (memberPts s1 is), [])
      else moveColl s1 is span.1 span.2
    r.2 = [] → exec (.collectiveComplete l k) s = .next (is.foldl (fun s i => passColl s i k) r.1) := by
  intro is span s1 r hr
  show execCollectiveComplete l k s = _
  have hgo : (g.count == 0 || !allIssued s l k g || (liveIssues s l k).any CollIssue.onPhase) = false := by
    simp [hn, hi, hp]
  simp only [r, s1, span, is] at hr ⊢
  simp only [execCollectiveComplete, hx, hg, hgo, beq_iff_eq, hr, List.foldl_nil, Bool.false_eq_true, if_false]

/-- Settles O39: the barriers and the member's part of a collective by their forms' lemmas, its completion by the event's. -/
theorem barriersAndCollectives : Obligations.BarriersAndCollectives := by
  refine ⟨fun f s e l g x hs => ⟨?arrive, ?wait, ?bar, ?noGang⟩, ?move, ?complete⟩
  case arrive => exact fun h hg => issue_of_form h (gbarArrForm_of_gang hs hg)
  case wait => exact fun h hg => issue_of_form h (gbarWaitForm_of_gang hs hg)
  case bar => exact fun h hg hp hv ha => issue_of_form h (collBarForm_on_phase hs hg hp hv ha)
  case noGang =>
    intro p hp h hg
    simp only [List.mem_cons, List.not_mem_nil, or_false] at hp
    rcases hp with rfl | rfl | rfl | rfl | rfl | rfl
    · exact issue_of_form h (gbarArrForm_of_no_gang hs hg)
    · exact issue_of_form h (gbarWaitForm_of_no_gang hs hg)
    · exact issue_of_form h (collBarForm_of_no_gang hs hg)
    · exact issue_of_form h (collForm_of_no_gang hs hg)
    · exact issue_of_form h (collForm_of_no_gang hs hg)
    · exact issue_of_form h (collForm_of_no_gang hs hg)
  case move =>
    intro p hp f s e l g t y xs h hs hg hpeer a b c s1 hy m n srcN dstN hline hpos hmax hsrc hdst hover hxs
    simp only [List.mem_cons, List.not_mem_nil, or_false] at hp
    rcases hp with rfl | rfl | rfl <;>
      exact issue_of_form h (collForm_of_ranges hs hg hpeer hy ⟨hline, hpos, hmax, hsrc, hdst, hover, hxs⟩)
  case complete => exact fun s l k x g hx hg hn hi hp => exec_collectiveComplete_of_issued hx hg hn hi hp

end Sys2Proof.Machine
end

section
/-! Proofs about clause headers, interrupts at them, and the retirement of a Draining crew (O53). -/

namespace Sys2Proof.Machine

/-- A clause header is passed by the split that acts. -/
theorem exec_clauseHeader_of_split {s : State} {id entry : Nat} {c : Crew} {x : Split} (ha : s.actor = .split id entry)
    (hc : s.crew id = some c) (hx : c.split entry = some x) (h : Header) :
    exec (.clauseHeader h) s = .next (passHeader h id entry c x s) := by
  show execClauseHeader h s = _
  simp only [execClauseHeader, ha, hc, hx]

section
variable {h : Header} {c : Crew} (hw : checkWord (.clauseHeader h) = none) (id entry : Nat) (x : Split) (s : State)
include hw

/-- Without an interrupt to take and a flag to wait for, the clause opens at the next word (R158 to R161). -/
theorem passHeader_opens (hi : (c.uintEn && c.uintPend && !c.uintRun) = false) (hf : c.waits h.wait = false) :
    passHeader h id entry c x s = s.setCrew id
      ({ c with pts := if h.wait == 0 then c.pts else max c.pts c.engTs }.setSplit entry { x with
        pc := x.pc + 8, state := .ready, age := if h.yld then s.clock else x.age,
        clause := some (headerClause h x.pc (x.pc + 4 * h.clen.toNat) true) }) := by
  simp only [passHeader, hw, hi, hf, Bool.false_eq_true, if_false]
  split <;> rfl

theorem passHeader_stalls (hi : (c.uintEn && c.uintPend && !c.uintRun) = false) (hf : c.waits h.wait = true) :
    passHeader h id entry c x s = waitHere s id entry .stalled := by
  simp only [passHeader, hw, hi, hf, Bool.false_eq_true, if_false, if_true]

theorem passHeader_delivers (hi : (c.uintEn && c.uintPend && !c.uintRun) = true) :
    passHeader h id entry c x s = deliver s id entry c x := by
  simp only [passHeader, hw, hi, if_true]

end

/-- A handler register that names a clause header receives the interrupt (R52, R194): the return register holds the
place where the split stood. -/
theorem deliver_to_header {s : State} {c : Crew} (hn : c.kernel.scount ≠ 0)
    (ht : isHeader s c (c.sAt (c.kernel.scount - 2)).read.1.toNat = true) (id entry : Nat) (x : Split) :
    deliver s id entry c x = (findGranules s id entry c [(false, c.kernel.scount - 2, 0)]).modCrew id (fun d =>
      ((({ d with
        uintPend := false, uintRun := true, handler := some (entry, x.innermost), pts := max d.pts d.engTs }).orSticky
          (flagIf (c.sAt (c.kernel.scount - 2)).read.2 flagDEAD)).writeS (c.kernel.scount - 1)
            (BitVec.ofNat 64 x.pc)).setSplit entry
              { x with pc := (c.sAt (c.kernel.scount - 2)).read.1.toNat, clause := none, state := .ready }) := by
  have hgo : (c.kernel.scount == 0 || !isHeader s c (c.sAt (c.kernel.scount - 2)).read.1.toNat) = false := by
    simp [hn, ht]
  simp only [deliver, hgo, Bool.false_eq_true, if_false]

theorem exec_drainEnd_of_idle {s : State} {id : Nat} {c : Crew} (hc : s.crew id = some c) (hd : c.state = .draining)
    (hb : crewBusy s id = false) : exec (.drainEnd id) s = .next (retireCrew s id) := by
  show execDrainEnd id s = _
  simp [execDrainEnd, hc, hd, hb]

/-- Settles O53: the three cases of `passHeader`, and the end of the drain. -/
theorem clauseHeadersAndRetirement : Obligations.ClauseHeadersAndRetirement := by
  refine ⟨fun h s id entry c x ha hc hx hw => ?header, fun s id c hc hd hb => exec_drainEnd_of_idle hc hd hb⟩
  have hexec := exec_clauseHeader_of_split ha hc hx h
  exact ⟨fun hi hf => hexec.trans (congrArg _ (passHeader_opens hw id entry x s hi hf)),
    fun hi hf => hexec.trans (congrArg _ (passHeader_stalls hw id entry x s hi hf)),
    fun hi hn ht => hexec.trans (congrArg _
      ((passHeader_delivers hw id entry x s hi).trans (deliver_to_header hn ht id entry x)))⟩

end Sys2Proof.Machine
end

section
/-! Proofs about rings and the commands at their head (O55). -/

namespace Sys2Proof.Machine

/-! The I/O core at its ring (R65, R329, R332). -/

theorem exec_kick_of_woken {s : State} {ring : Nat} (hs : (servedBy s ring).isSome = true) (hr : ring < 64)
    (hv : (s.binding ring).valid = true) (hw : (s.ring ring).woken = true) :
    exec (.kick ring) s = .next (serveRing 256 (s.modRing ring (fun r => { r with woken := false })) ring) := by
  show execKick ring s = _
  simp only [execKick, hs, hv, hw, hr, decide_true, Bool.and_self, if_true]

theorem exec_completionRecord_of_room {s : State} {ring seq ctag status ty reason clock : Nat}
    {rest : List (Nat × Nat × Nat × Nat × Nat × Nat)} (hs : (servedBy s ring).isSome = true)
    (hh : (s.ring ring).held = (seq, ctag, status, ty, reason, clock) :: rest) (hr : completionRoom s ring = true) :
    exec (.completionRecord ring) s =
      .next (putCompletion (s.modRing ring (fun r => { r with held := rest })) ring seq ctag status ty reason clock) := by
  show execCompletionRecord ring s = _
  simp only [execCompletionRecord, hs, hh, hr, Bool.and_self, if_true]

section
variable {s : State} {ring seq p : Nat} (hs : (servedBy s ring).isSome = true)
  (hc : (s.ring ring).command = some (seq, p))
include hs hc

/-! Packets that do nothing (R330, R447). -/

theorem exec_noOperation_of_type_zero (ht : p % 256 = 0) :
    exec (.noOperation ring) s = .next (endCommand s ring seq p 0 0) := by
  show execNoOperation ring s = _
  have hn : (servedBy s ring).isNone = false := by simpa using hs
  simp [execNoOperation, hc, hn, ht]

theorem exec_noOperation_of_barred (ht : p % 256 ≠ 0) (hb : typeBarred s ring (p % 256) = true)
    (ho : (s.ring ring).open_ = 1) : exec (.noOperation ring) s = .next (refusePacket s ring seq p) := by
  show execNoOperation ring s = _
  have hn : (servedBy s ring).isNone = false := by simpa using hs
  simp [execNoOperation, hc, hn, ht, hb, ho]

/-! A command whose turn has come begins, and goes on in later steps (R330). -/

section
variable (ho : (s.ring ring).open_ = 1) (hb : typeBarred s ring (p % 256) = false)
include ho hb

theorem withCommand_begins (hst : cmdStarted p = false) (hr : cmdRefused s p = none) {ty : Nat} (ht : p % 256 = ty)
    (start go : Nat → Nat → State → State) : withCommand ring ty s start go = .next (start seq p s) := by
  have hn : (servedBy s ring).isNone = false := by simpa using hs
  simp [withCommand, hc, ho, hn, hst, hr, ht, ht ▸ hb]

theorem withCommand_goes_on (hst : cmdStarted p = true) {ty : Nat} (ht : p % 256 = ty)
    (start go : Nat → Nat → State → State) : withCommand ring ty s start go = .next (go seq p s) := by
  have hn : (servedBy s ring).isNone = false := by simpa using hs
  simp [withCommand, hc, ho, hn, hst, ht, ht ▸ hb]

end
end

/-! What each command does (Table 17-3). -/

section
variable {s : State} (ring seq : Nat) {p : Nat}

theorem preemptStart_of_crews (hn : (s.ctx (cmdCtx p)).preempt = .no) (hc : hasCrew s (cmdCtx p) = true) :
    preemptStart ring seq p s = startCommand (beginPreempt s (cmdCtx p)) ring seq p := by
  simp [preemptStart, hn, hc]

theorem preemptStart_of_no_crew (hn : (s.ctx (cmdCtx p)).preempt = .no) (hc : hasCrew s (cmdCtx p) = false) :
    preemptStart ring seq p s =
      endCommand (s.modCtx (cmdCtx p) (fun x => { x with preempt := .saved, preemptAt := s.clock })) ring seq p 0 0 := by
  simp only [preemptStart, hn, hc, bne_self_eq_false, Bool.not_false, Bool.false_eq_true, if_false, if_true]

theorem preemptGo_of_saved (hs : (s.ctx (cmdCtx p)).preempt = .saved) :
    preemptGo ring seq p s = endCommand s ring seq p 0 0 := by
  simp only [preemptGo, hs]

theorem resumeGo_of_resumed (hn : (s.ctx (cmdCtx p)).preempt = .no) :
    resumeGo ring seq p s = endCommand s ring seq p 0 0 := by
  simp only [resumeGo, hn, beq_self_eq_true, if_true]

theorem removeGo_of_removed (hr : ∀ l ∈ cmdSlices p, installOf s l (cmdCtx p) = none) :
    removeGo ring seq p s = endCommand s ring seq p 0 0 := by
  have hnone : (cmdSlices p).any (fun l => (installOf s l (cmdCtx p)).isSome) = false := by
    simp only [List.any_eq_false]
    intro l hl
    simp [hr l hl]
  simp only [removeGo, hnone, Bool.false_eq_true, if_false]

theorem debugStart_of_room {id : Nat} {c : Crew} (hh : heldCrew s (cmdCtx p) (cmdArg2 p) = some (id, c))
    (hn : (s.ctx (placeNamed s c).ctx).preempt = .no) (hst : (placeNamed s c).stranded = false)
    (hf : fitsBack s id (placeNamed s c) = true) :
    debugStart ring seq p s = endCommand (returnCrew s id) ring seq p 0 0 := by
  simp [debugStart, hh, hn, hst, hf]

theorem joinStart_of_launch {l : Nat} {x : Launch} (hl : joinLaunch s p = some (l, x)) :
    joinStart ring seq p s = endCommand (s.modLaunch l (fun x => { x with
      gangs := tabPut x.gangs (cmdArg2 p) { gangState x (cmdArg2 p) with joined := joinList p } })) ring seq p 0 0 := by
  simp only [joinStart, hl]

end

/-- What a seal, an unseal and an invalidation do at their turn (R94, R109, R423). -/
def sealNow (ring seq p : Nat) (s : State) : State :=
  if writesAwait s (sealKeys p) then s
  else endCommand (dropStockLines { s with sealed := (sealKeys p).foldl setAdd s.sealed }) ring seq p 0 0
def unsealNow (ring seq p : Nat) (s : State) : State :=
  endCommand (dropStockLines { s with sealed := (sealKeys p).foldl setDel s.sealed }) ring seq p 0 0
def invalidateNow (ring seq p : Nat) (s : State) : State :=
  endCommand (retryParked (tlbInvalidate s (cmdCtx p) (cmdArg0 p) (cmdArg1 p)) (cmdCtx p) (cmdArg0 p) (cmdArg1 p))
    ring seq p 0 0

theorem exec_seal (ring : Nat) (s : State) :
    exec (.seal ring) s = withCommand ring 2 s (sealNow ring) (sealNow ring) := rfl
theorem exec_unseal (ring : Nat) (s : State) :
    exec (.unseal ring) s = withCommand ring 3 s (unsealNow ring) (unsealNow ring) := rfl
theorem exec_invalidateTranslations (ring : Nat) (s : State) :
    exec (.invalidateTranslations ring) s = withCommand ring 6 s (invalidateNow ring) (invalidateNow ring) := rfl

theorem sealNow_of_written {s : State} (ring seq : Nat) {p : Nat} (hw : writesAwait s (sealKeys p) = false) :
    sealNow ring seq p s =
      endCommand (dropStockLines { s with sealed := (sealKeys p).foldl setAdd s.sealed }) ring seq p 0 0 := by
  simp only [sealNow, hw, Bool.false_eq_true, if_false]

/-! Installation (R302, R447): on every named assayer alike where each reads the same table and has a place. -/

/-- The reads of an installation beyond the module, of all slices that it names: whether they are answered. -/
def installPull (p : Nat) (s : State) : Bool × State :=
  (cmdSlices p).foldl (fun (a : Bool × State) l =>
    let q := pullInstall a.2 l (cmdCtx p) (cmdArg0 p)
    (a.1 && q.1, q.2)) (true, s)

/-- The state once the named assayers have read, and once what came from beyond the module is used up. -/
def installTouched (p : Nat) (s : State) : State :=
  (cmdSlices p).foldl (fun s l => touchTable s l (cmdCtx p) (cmdArg0 p)) (installPull p s).2
def installRead (p : Nat) (s : State) : State :=
  (cmdSlices p).foldl (fun s l => installPulled s l (cmdCtx p) (cmdArg0 p)) (installTouched p s)

/-- An assayer has no place for the context. -/
def installFull (p : Nat) (s : State) (l : Nat) : Bool :=
  8 ≤ ((installRead p s).slice l).installs.length && (installOf (installRead p s) l (cmdCtx p)).isNone

/-- The assayers whose table is read and that have a place install it; the others stay as they were. -/
def installEach (p : Nat) (s : State) (reads : List (Nat × Option (Nat × List Byte × List Byte))) : State :=
  reads.foldl (fun u r =>
    match r.2 with
    | some t => if installFull p s r.1 then u else installOn u r.1 (cmdCtx p) t
    | none => u) (installRead p s)

theorem installStart_eq (ring seq p : Nat) (s : State) :
    installStart ring seq p s =
      let reads := (cmdSlices p).map (fun l => (l, readTable (installTouched p s) l (cmdCtx p) (cmdArg0 p)))
      if (cmdSlices p).any (fun l => handlerOf s l (cmdCtx p)) then s
      else if !(installPull p s).1 then
        if cmdStarted p then (installPull p s).2 else startCommand (installPull p s).2 ring seq p
      else if reads.any (fun r => r.2.isNone) then endCommand (installEach p s reads) ring seq p 2 2
      else if (cmdSlices p).any (installFull p s) then endCommand (installEach p s reads) ring seq p 2 5
      else endCommand (installEach p s reads) ring seq p 0 0 := rfl

theorem installEach_of_room {p : Nat} {s : State} {ls : List Nat} (hl : ∀ l ∈ ls, installFull p s l = false)
    (t : Nat × List Byte × List Byte) :
    installEach p s (ls.map (fun l => (l, some t))) =
      ls.foldl (fun s l => installOn s l (cmdCtx p) t) (installRead p s) := by
  rw [installEach, List.foldl_map]
  refine List.foldl_ext _ _ _ (fun u l h => ?_)
  simp only [hl l h, Bool.false_eq_true, if_false]

theorem installStart_of_read {s : State} (ring seq : Nat) {p : Nat} {t : Nat × List Byte × List Byte}
    (hh : ∀ l ∈ cmdSlices p, handlerOf s l (cmdCtx p) = false) (hp : (installPull p s).1 = true)
    (ht : ∀ l ∈ cmdSlices p, readTable (installTouched p s) l (cmdCtx p) (cmdArg0 p) = some t)
    (hroom : ∀ l ∈ cmdSlices p, ((installRead p s).slice l).installs.length < 8 ∨
      (installOf (installRead p s) l (cmdCtx p)).isSome = true) :
    installStart ring seq p s =
      endCommand ((cmdSlices p).foldl (fun s l => installOn s l (cmdCtx p) t) (installRead p s)) ring seq p 0 0 := by
  have hidle : (cmdSlices p).any (fun l => handlerOf s l (cmdCtx p)) = false := by
    simpa only [List.any_eq_false, Bool.not_eq_true] using hh
  have hreads : (cmdSlices p).map (fun l => (l, readTable (installTouched p s) l (cmdCtx p) (cmdArg0 p))) =
      (cmdSlices p).map (fun l => (l, some t)) :=
    List.map_congr_left (fun l hl => by rw [ht l hl])
  have hall : ((cmdSlices p).map (fun l => (l, some t))).any (fun r => r.2.isNone) = false := by
    simp [List.any_map]
  have hfree : ∀ l ∈ cmdSlices p, installFull p s l = false := by
    intro l hl
    rcases hroom l hl with h | h <;> simp [installFull, h]
  have hplaced : (cmdSlices p).any (installFull p s) = false := by
    simpa only [List.any_eq_false, Bool.not_eq_true] using hfree
  simp only [installStart_eq, hidle, hp, hreads, hall, hplaced, installEach_of_room hfree, Bool.not_true,
    Bool.false_eq_true, if_false]

/-- Settles O55: the ring's events, and each command by what it does when its turn has come. -/
theorem ringCommands : Obligations.RingCommands := by
  intro s ring hs
  refine ⟨fun hr hv hw => exec_kick_of_woken hs hr hv hw,
    fun seq ctag status ty reason clock rest hh hr => exec_completionRecord_of_room hs hh hr, fun seq p hc => ?_⟩
  refine ⟨exec_noOperation_of_type_zero hs hc, exec_noOperation_of_barred hs hc, fun ho hb hst hr => ?begin,
    fun ho hb hst => ?goOn⟩
  case begin =>
    have hnow : ∀ {ty : Nat} {start : Nat → Nat → State → State} (go : Nat → Nat → State → State) {t : State},
        p % 256 = ty → start seq p s = t → withCommand ring ty s start go = .next t := fun go _ ht he =>
      (withCommand_begins hs hc ho hb hst hr ht _ go).trans (congrArg _ he)
    refine ⟨?sealing, ?unsealing, ?preempt, ?preemptNone, ?resume, ?invalidate, ?install, ?remove, ?debug, ?join⟩
    case sealing => exact fun ht hw => (exec_seal ring s).trans (hnow _ ht (sealNow_of_written ring seq hw))
    case unsealing => exact fun ht => (exec_unseal ring s).trans (hnow _ ht rfl)
    case preempt => exact fun ht hn hk => hnow _ ht (preemptStart_of_crews ring seq hn hk)
    case preemptNone => exact fun ht hn hk => hnow _ ht (preemptStart_of_no_crew ring seq hn hk)
    case resume => exact fun ht => hnow _ ht rfl
    case invalidate => exact fun ht => (exec_invalidateTranslations ring s).trans (hnow _ ht rfl)
    case install => exact fun ht hh hp t htab hroom => hnow _ ht (installStart_of_read ring seq hh hp htab hroom)
    case remove => exact fun ht => hnow _ ht rfl
    case debug => exact fun ht id c0 hh hn hst hf => hnow _ ht (debugStart_of_room ring seq hh hn hst hf)
    case join => exact fun ht l x hl => hnow _ ht (joinStart_of_launch ring seq hl)
  case goOn =>
    have hnow : ∀ {ty : Nat} (start : Nat → Nat → State → State) {go : Nat → Nat → State → State} {t : State},
        p % 256 = ty → go seq p s = t → withCommand ring ty s start go = .next t := fun start _ _ ht he =>
      (withCommand_goes_on hs hc ho hb hst ht start _).trans (congrArg _ he)
    exact ⟨fun ht hp => hnow _ ht (preemptGo_of_saved ring seq hp), fun ht hp => hnow _ ht (resumeGo_of_resumed ring seq hp),
      fun ht hp => hnow _ ht (removeGo_of_removed ring seq hp)⟩

end Sys2Proof.Machine
end

section
/-! Proofs about launches, placement and swapping of crews (O56). -/

namespace Sys2Proof.Machine

/-! Acceptance of a launch packet (R53, R325, R396). -/

/-- What a launch reads beyond the module, and the states through which the accepting chiplet goes: the packet has left its
ring, its checks are made, and the answers are used up. -/
def launchPull (s : State) (ring p : Nat) : Bool × State := pullLaunch s (acceptDie s ring) (s.binding ring).ctx p
def launchTaken (s : State) (ring seq p : Nat) : State :=
  writeHead ((launchPull s ring p).2.modRing ring (fun r =>
    { r with launch := none, head := (seq + 1) % ringModulus, open_ := r.open_ + 1, woken := true })) ring
def launchTouched (s : State) (ring seq p : Nat) : State :=
  touchLaunch (launchTaken s ring seq p) (acceptDie s ring) (s.binding ring).ctx p
def launchRead (s : State) (ring seq p : Nat) : State :=
  launchPulled (launchTouched s ring seq p) (acceptDie s ring) (s.binding ring).ctx p

/-- The context holds the node table that its launch names. -/
def withNodes (s : State) (ctx : Nat) (a : Accepted) : State :=
  match a.nodes with
  | some ns => s.modCtx ctx (fun c => { c with nodes := ns, failed := [] })
  | none => s

/-- The launch of an accepted packet, as it is first held. -/
def newLaunch (s : State) (ring seq p : Nat) (a : Accepted) : Launch :=
  let q := decodeLaunch p
  { ring := ring, epoch := ((launchTaken s ring seq p).ring ring).epoch, seq := seq, ctx := (s.binding ring).ctx,
    ctag := q.ctag, die := acceptDie s ring, prio := q.prio, place := q.place,
    diemask := if q.diemask == 0 then 15 else q.diemask, ncrew := q.ncrew, pblk := q.pblk, psize := q.psize,
    kernel := a.kernel, gtab := a.gtab, gangs := [], next := 0, early := [], retired := [], ended := 0,
    lastCore := [], done := false,
    headSince := (withNodes (launchRead s ring seq p) (s.binding ring).ctx a).clock, claimed := (0, 0), reserve := [] }

theorem exec_acceptLaunch_of_checked {s : State} {ring seq p : Nat} {a : Accepted}
    (hl : (s.ring ring).launch = some (seq, p)) (hslot : slotFor s (s.binding ring).ctx = true)
    (hs : (servedBy s ring).isSome = true) (hp : (launchPull s ring p).1 = true)
    (ha : checkLaunch (launchTouched s ring seq p) (acceptDie s ring) (s.binding ring).ctx p = .ok a) :
    let t := (withNodes (launchRead s ring seq p) (s.binding ring).ctx a).fresh
    exec (.acceptLaunch ring) s =
      .next { t.2 with launches := tabPut t.2.launches t.1 (newLaunch s ring seq p a) } := by
  have hn : (servedBy s ring).isNone = false := by simpa using hs
  refine congrArg Host.Outcome.next ?_
  simp only [launchTouched, launchTaken, launchPull] at ha hp
  simp only [acceptLaunch, hl, hslot, hn, hp, ha, Bool.not_true, Bool.or_self, Bool.false_eq_true, if_false]
  rfl

/-! Claims, placement and swapping (R39, R54 to R59, R67, R398). -/

theorem exec_claimCrews_of_room {s : State} {die l : Nat} {x : Launch} (count : Nat)
    (h : (queuedOn s die).find? (fun e =>
      !e.2.nextInGang && e.2.claimTurn s die && !closureBars s die e.2.prio && hasRoom s die e.1 e.2) = some (l, x)) :
    exec (.claimCrews die count) s = .next (claimSome count s l die) := by
  show execClaimCrews die count s = _
  simp only [execClaimCrews, h]

section
variable {s : State} {id : Nat} {c : Crew} (hc : s.crew id = some c) (hp : c.state = .pending)
include hc hp

theorem exec_placeCrew_of_place {core part : Nat} (hn : (s.ctx c.ctx).preempt = .no) (hslot : slotFor s c.ctx = true)
    (hy : mustYield s id c = false) (hplace : placeFor s id c c.die = some (core, part)) :
    exec (.placeCrew id) s = .next (placeAt s id core part) := by
  show execPlaceCrew id s = _
  simp [execPlaceCrew, hc, hp, hn, hslot, hy, hplace]

theorem exec_warmWaitExpire_of_due (ht : c.claimedAt + 8192 ≤ s.clock) :
    exec (.warmWaitExpire id) s = .next (s.setCrew id { c with warmDone := true }) := by
  show execWarmWaitExpire id s = _
  simp [execWarmWaitExpire, State.modCrew, hc, hp, ht]

theorem exec_reservationStart_of_due (ht : c.claimedAt + 16384 ≤ s.clock) (hr : c.reserve = none)
    (hh : headOfLevel s c.die (effPrio s c) (c.launch.getD id) c.index id = true) :
    exec (.reservationStart id) s = .next (s.setCrew id { c with reserve := reservation s id c }) := by
  show execReservationStart id s = _
  simp [execReservationStart, hc, hp, ht, hr, hh]

theorem exec_binStallTimer_of_due {node die : Nat} (hb : c.bin = some (node, die)) (hn : c.stallNoted = false)
    (ht : c.claimedAt + 2 ^ 24 ≤ s.clock) :
    exec (.binStallTimer id) s = .next (errRecord (s.setCrew id { c with stallNoted := true }) die
      (rec16 c.ctx 0 0 (0x32 + 256 * node) none none 0 (128 * die))) := by
  show execBinStallTimer id s = _
  simp only [execBinStallTimer, hc, hp, hb, hn, ht, beq_self_eq_true, Bool.not_false, decide_true, Bool.and_self, if_true]

end

theorem exec_placeClosure_of_placed {s t : State} {die : Nat}
    (h : (queuedOn s die).findSome? (fun e =>
      if e.2.nextInGang && !closureYields s die e.1 e.2 then placedClosure s die e.1 e.2 else none) = some t) :
    exec (.placeClosure die) s = .next t := by
  show Host.Outcome.next (placeClosure s die) = _
  rw [placeClosure, h]
  rfl

theorem exec_binTimerExpire_of_due {s : State} {ctx node die t : Nat} {nd : Node}
    (ht : (getBin s ctx node die).timer = some t) (hn : nodeOf s ctx node = some nd) (hd : t ≤ s.clock)
    (hu : (getBin s ctx node die).untaken ≠ 0) (hp : (s.ctx ctx).preempt = .no) :
    exec (.binTimerExpire ctx node die) s = .next (binLaunch s ctx node die nd) := by
  show execBinTimerExpire ctx node die s = _
  simp [execBinTimerExpire, ht, hn, hd, hu, hp]

section
variable {s : State} {id : Nat} {c : Crew} (hc : s.crew id = some c)
include hc

theorem exec_swapOut_of_lack (hp : (s.ctx c.ctx).preempt = .no) (hm : mayLeave s id c = true)
    (hl : lacksRoom s c.core (effPrio s c) = true) (hf : leavesFirst s id c = true) :
    exec (.swapOut id) s = .next (swapOut s id) := by
  show execSwapOut id s = _
  simp [execSwapOut, hc, hp, hm, hl, hf]

theorem exec_swapIn_of_room {d : Crew} {n : Nat} (hd : placeNamed s c = d) (hst : d.state = .swappedOut)
    (hw : d.woken = true) (hs : d.stranded = false) (hp : (s.ctx d.ctx).preempt = .no) (hf : fitsBack s id d = true)
    (hr : reservedAgainst s id d d.core d.part = false) (hn : d.slot = some n) (hg : resetAtRestore s d n = none) :
    exec (.swapIn id) s = .next (restoreFrom (makeRoom 64 s d.core id d.kernel) id d n) := by
  show execSwapIn id s = _
  simp [execSwapIn, hc, hd, hst, hw, hs, hp, hf, hr, hn, hg]

end

/-- Settles O56: each clause is the event's lemma above. -/
theorem launchEvents : Obligations.LaunchEvents := by
  refine ⟨fun s ring seq p a hl => ?accept, fun s die count l x h => exec_claimCrews_of_room count h,
    fun s id c hc hp hn => ⟨?place, ?warm, ?reserve, ?stall⟩, fun s die t h => exec_placeClosure_of_placed h, ?timer,
    fun s id c hc hp => ⟨?out, ?back⟩⟩
  case accept => exact fun hslot hs hpull ha => exec_acceptLaunch_of_checked hl hslot hs hpull ha
  case place => exact fun core part hslot hy hplace => exec_placeCrew_of_place hc hp hn hslot hy hplace
  case warm => exact fun ht => exec_warmWaitExpire_of_due hc hp ht
  case reserve => exact fun ht hr hh => exec_reservationStart_of_due hc hp ht hr hh
  case stall => exact fun node die hb hk ht => exec_binStallTimer_of_due hc hp hb hk ht
  case timer => exact fun s ctx node die t nd ht hn hd hu hp => exec_binTimerExpire_of_due ht hn hd hu hp
  case out => exact fun hm hl hf => exec_swapOut_of_lack hc hp hm hl hf
  case back =>
    exact fun hst hw hs hp' hf hr n hn hg => exec_swapIn_of_room hc rfl hst hw hs hp' hf hr hn hg

end Sys2Proof.Machine
end

section
/-! Proofs about pre-emption, saving, restoring, watchdogs and the reset of a context (O57). -/

namespace Sys2Proof.Machine

/-! Pre-emption and resumption of a context (R50, R51, R70, R280). -/

section
variable {s : State} {ctx : Nat}

theorem exec_crewHalt_of_asked (ha : (s.ctx ctx).preempt = .asked) :
    exec (.crewHalt ctx) s = .next (haltCrews s ctx) := by
  show execCrewHalt ctx s = _
  simp only [execCrewHalt, ha, beq_self_eq_true, if_true]

theorem exec_crewRestore_of_resumed (hs : (s.ctx ctx).preempt = .saved) (hr : (s.ctx ctx).resume = true) :
    exec (.crewRestore ctx) s = .next (restoreContext s ctx) := by
  show execCrewRestore ctx s = _
  simp only [execCrewRestore, hs, hr, beq_self_eq_true, Bool.and_self, if_true]

/-- A descriptor that goes invalid resets its context, if it is active (R334, R400). -/
theorem exec_contextInvalidate_of_valid (hv : (s.desc ctx).valid = true) :
    exec (.contextInvalidate ctx) s = .next (dropDesc s ctx) := by
  show execContextInvalidate ctx s = _
  simp only [execContextInvalidate, hv, if_true]

end

/-! Timers of a crew (R391, R392, R399). -/

section
variable {s : State} {id : Nat} {c : Crew} (hc : s.crew id = some c)
include hc

theorem exec_saveDelayTimer_of_due (hh : c.state = .halted) (hp : (s.ctx c.ctx).preempt = .halted)
    (hw : awaitsLoads s id = true) (ht : (s.ctx c.ctx).preemptAt + 125000 ≤ s.clock)
    (hr : (s.ctx c.ctx).reported.contains id = false) :
    let t := s.modCtx c.ctx (fun x => { x with reported := setAdd x.reported id })
    exec (.saveDelayTimer id) s = .next (errRecord t (dieOfCore c.core)
      (rec16 c.ctx c.index 0 0x41 (awaitedVa t id) c.slot 0 c.core)) := by
  show execSaveDelayTimer id s = _
  simp only [execSaveDelayTimer, hc, hh, hp, hw, ht, hr, beq_self_eq_true, decide_true, Bool.not_false, Bool.and_self,
    if_true]

theorem exec_crewWatchdogExpire_of_budget (hr : c.state = .resident) (hs : c.stranded = false)
    (hb : budgetOf s c ≤ c.wdogCount) : exec (.crewWatchdogExpire id) s = .next (wdogEnd s id c) := by
  show execCrewWatchdogExpire id s = _
  simp only [execCrewWatchdogExpire, hc, hr, hs, hb, beq_self_eq_true, decide_true, Bool.not_false, Bool.and_self,
    if_true]

end

/-- Settles O57: each clause is the event's lemma above; a core's save has no guard of its own. -/
theorem preemptionEvents : Obligations.PreemptionEvents :=
  ⟨fun _ _ => ⟨exec_crewHalt_of_asked, fun _ => rfl, exec_crewRestore_of_resumed, exec_contextInvalidate_of_valid⟩,
    fun _ _ _ hc => ⟨exec_saveDelayTimer_of_due hc, exec_crewWatchdogExpire_of_budget hc⟩⟩

end Sys2Proof.Machine
end

section
/-! Proofs about what a split fetches and decodes, and the step that runs it (O4). -/

namespace Sys2Proof

/-! What decodes has the length that its word says (R156, R162). -/

/-- A row makes instructions whose word is the row's slot with the fields given (R162). -/
def Row.Makes (r : Row) : Prop := ∀ f, (r.make f).word = some (r.slot, f)

theorem Row.makes_of_map {g : List Row}
    (h : g.map (fun r f => (r.make f).word) = g.map (fun r f => some (r.slot, f))) : ∀ r ∈ g, r.Makes :=
  fun r hr f => congrFun (List.map_inj_left.1 h r hr) f

theorem Row.makes_of_mem_rows : ∀ r ∈ rows, r.Makes := by
  intro r hr
  simp only [rows, List.mem_append] at hr
  rcases hr with hr | hr | hr | hr | hr | hr | hr | hr
  all_goals exact makes_of_map rfl r hr

theorem lenCode_decodeExt {code : Nat} (slot w : Nat) (h0 : code ≠ 0) (h4 : code < 4) :
    (decodeExt code slot w).lenCode = code := by
  have hc : code = 1 ∨ code = 2 ∨ code = 3 := by omega
  rcases hc with rfl | rfl | rfl
  · rfl
  · rfl
  · cases hs : memSlot slot <;> simp [decodeExt, Ext.lenCode, hs]

/-- What a word of a crew's code other than a header decodes to carries the word's fields. -/
theorem word_of_decodeCrewWord {w : Nat} {i : Instr} (hw : w % 4 ≠ 0) (h : decodeCrewWord w = .ok i) :
    ∃ slot, i.word = some (slot, decodeFields (w % 4) slot w) := by
  simp only [decodeCrewWord, beq_iff_eq, hw, if_false] at h
  split at h
  · cases h
  · next r hr =>
    have hslot : r.slot = (fieldAt 10 2 w).toNat := by simpa using List.find?_some hr
    have hword := Row.makes_of_mem_rows r (List.mem_of_find?_eq_some hr)
      (decodeFields (w % 4) (fieldAt 10 2 w).toNat w)
    split at h
    · cases h
    · cases h
    · split at h <;> cases h
    · split at h
      · cases h
      · cases h
        exact ⟨_, hslot ▸ hword⟩

/-- The length code stands in the first byte. -/
theorem leNat_take_mod (bs : List Byte) {n : Nat} (hn : 0 < n) : leNat (bs.take n) % 4 = leNat bs % 4 := by
  obtain ⟨m, rfl⟩ := Nat.exists_eq_succ_of_ne_zero (Nat.ne_of_gt hn)
  cases bs with
  | nil => rfl
  | cons b r =>
    simp only [List.take_succ_cons, leNat]
    omega

namespace Machine

theorem decodeCrewWord_of_decodeBytes {bs : List Byte} {i : Instr} {n : Nat} (h : decodeBytes bs = .ok (i, n)) :
    decodeCrewWord (leNat (bs.take n)) = .ok i := by
  unfold decodeBytes at h
  dsimp only at h
  split at h
  · cases h
  · split at h
    · next j hj =>
      cases h
      exact hj
    · cases h

/-- The fetch takes the bytes that the decoder took. -/
theorem fetchLen_of_decodeBytes {bs : List Byte} {i : Instr} {n : Nat} (h : decodeBytes bs = .ok (i, n))
    (hw : leNat bs % 4 ≠ 0) : fetchLen i = n := by
  obtain ⟨hn, -, h8⟩ := decodeBytes_length h
  have hmod : leNat (bs.take n) % 4 = leNat bs % 4 := leNat_take_mod bs (by omega)
  obtain ⟨slot, hword⟩ := word_of_decodeCrewWord (hmod ▸ hw) (decodeCrewWord_of_decodeBytes h)
  have hcode : (decodeFields (leNat (bs.take n) % 4) slot (leNat (bs.take n))).ext.lenCode = leNat bs % 4 := by
    rw [hmod]
    exact lenCode_decodeExt slot _ hw (by omega)
  simp only [fetchLen, hword, hcode]
  exact hn.symm

/-! The fetch of a split (R157, R158, R380). -/

/-- Before offset 24 of its fetch block a split skips nothing (R157). -/
theorem skipFrom_of_low (s : State) (c : Crew) {va : Nat} (h : va % 32 < 24) : skipFrom s c va = va := by
  have h28 : va % 32 ≠ 28 := by omega
  have h24 : va % 32 ≠ 24 := by omega
  simp [skipFrom, h28, h24]

section
variable {s : State} {c : Crew} {x : Split} {k : Clause} {y : Xlate} {i : Instr} {n : Nat} {bs : List Byte} {bad : Bool}

/-- Within a clause, on a page that the core may fetch from, what stands at the place is decoded. -/
theorem fetchAt_of_decoded {pc : Nat} (h4 : pc % 4 = 0) (hin : c.inCode pc = true)
    (hy : translate s (askCore c.core) c.ctx pc needX = .ok y)
    (hbs : codeBytes s c pc (min 16 (blockLeft pc)) = some (bs, bad)) (hi : decodeBytes bs = .ok (i, n))
    (hw : leNat bs % 4 ≠ 0) (hstop : pc + n ≤ k.stop) (hp : placeBad s c k (wordSlot (leNat bs)) pc n = false) :
    fetchAt s c pc (some k) = .instr i pc (some k) := by
  obtain ⟨hn, hle, -⟩ := decodeBytes_length hi
  subst hn
  simp only [fetchAt, h4, hin, hy, hbs, hi, hp, hw, Nat.not_lt.2 hle, Nat.not_lt.2 hstop, bne_self_eq_false, beq_iff_eq,
    Bool.not_true, Bool.or_self, decide_false, Bool.false_eq_true, if_false]

/-- A split that stands in a clause fetches there. -/
theorem fetchSplit_of_clause (hk : x.clause = some k) (hlow : x.pc % 32 < 24) (hlt : x.pc < k.stop) :
    fetchSplit s c x = fetchAt s c x.pc (some k) := by
  have hne : ¬x.pc = k.stop := by omega
  have hle : ¬k.stop < x.pc := by omega
  simp only [fetchSplit, hk, skipFrom_of_low s c hlow, beq_iff_eq, hne, hle, if_false]

end

/-- A Ready split whose code is at hand executes what it fetches (R61). -/
theorem splitTurn_of_fetched {s t : State} {id entry pc : Nat} {c : Crew} {x : Split} {i : Instr} {cl : Option Clause}
    (hc : s.crew id = some c) (hx : c.split entry = some x) (hm : maySplit s c x = true)
    (hb : fetchBeyond s id entry c x = none) (hf : fetchSplit s c x = .instr i pc cl) (hw : codeWaits s c pc = false)
    (hexec : exec i (atInstr (noteFetch s id entry c pc (fetchLen i)) id entry pc cl) = .next t) :
    splitTurn s id entry = .next (issued t id entry x i) := by
  have hready : x.state = .ready := by
    simp only [maySplit, Bool.and_eq_true, beq_iff_eq] at hm
    exact hm.2
  have hpass : (mayPass s c && x.state == .issuing) = false := by simp [hready]
  simp only [splitTurn, hc, hx, hpass, hm, hb, hf, hw, hexec, Bool.not_true, Bool.false_eq_true, if_false]

/-- Settles O4: the split's place decodes to the instruction, which takes the bytes that the decoder took, and no lock
holds the turn back. -/
theorem stepRunsDecoded : Obligations.StepRunsDecoded := by
  intro s t id entry n c x k y i bs bad hpow hl hc hx hm hk h4 hlow hin hy hbs hi hw hstop hwait hp hb hexec
  obtain ⟨-, -, h8⟩ := decodeBytes_length hi
  have hlen := fetchLen_of_decodeBytes hi hw
  have hf : fetchSplit s c x = .instr i x.pc (some k) :=
    (fetchSplit_of_clause hk hlow (by omega)).trans (fetchAt_of_decoded h4 hin hy hbs hi hw hstop hp)
  have hturn : turnOf s (.split id entry) = .next (issued t id entry x i) :=
    splitTurn_of_fetched hc hx hm hb hf hwait (hlen ▸ hexec)
  exact step_asked_next s _ _ hpow (turnWaits_unlocked s _ _ hl (by simp)) hturn

end Machine

end Sys2Proof
end

section
/-! Proofs about what holds an instruction back (O22). -/

namespace Sys2Proof.Machine

/-- An instruction with a word is issued as every crew's instruction is, with a meaning of its own; events, headers and
assayer forms have no word. -/
theorem exec_eq_issue {i : Instr} (h : i.word.isSome = true) (s : State) : ∃ body, exec i s = issue i body s := by
  cases i
  all_goals cases h
  all_goals exact ⟨_, rfl⟩

/-- What an instruction at issue does is settled, whatever its meaning. -/
theorem exec_eq_run {i : Instr} {s : State} {e : Env} (h : envOf i s = some e) :
    ∃ body, exec i s = .next (settleRes e (e.run i s body)) := by
  obtain ⟨-, -, -, f, r, hword, -⟩ := envOf_spec h
  obtain ⟨body, hexec⟩ := exec_eq_issue (by rw [hword]; rfl) s
  exact ⟨body, by rw [hexec, issue, h]⟩

section
variable {i : Instr} {s : State} {e : Env} (hc : e.firstCheck i s = none) (body : Env → State → Res)
include hc

/-- Data on their way to a register that it names hold an instruction in the refuge (R61, R63). -/
theorem run_of_awaited (hm : e.mustAwait s = true) : e.run i s body = .wait s .refuge := by
  simp only [Env.run, hc, hm, if_true]

/-- A uniform form whose predicate selects no lane has no effect but its marks (R80, R200). -/
theorem run_of_unselected (hm : e.mustAwait s = false) (hu : e.form.uniform = true) (hp : e.form.pred = true)
    (hs : condSlot e.slot = false) (ha : e.acts = false) : e.run i s body = .done (e.endUses s) := by
  simp only [Env.run, hc, hm, hu, hp, hs, ha, Bool.not_false, Bool.and_self, Bool.false_eq_true, if_false, if_true]

/-- A form of the matrix engine that acts needs the lamp (R388). -/
theorem run_of_no_lamp (hm : e.mustAwait s = false) (he : e.form.engine = true) (ha : e.acts = true)
    (hl : e.holds s = false) : e.run i s body = .exc s .rlamp := by
  simp only [Env.run, hc, hm, he, ha, hl, Bool.not_true, Bool.not_false, Bool.and_false, Bool.and_self, Bool.false_eq_true,
    if_false, if_true]

end

/-- Settles O22: each clause is a branch that `Env.run` takes before it asks the instruction's meaning. -/
theorem whatHoldsAnInstructionBack : Obligations.WhatHoldsAnInstructionBack := by
  intro i s e h hc
  obtain ⟨body, hexec⟩ := exec_eq_run h
  obtain ⟨-, hcrew, -⟩ := envOf_spec h
  refine ⟨fun hm => ?awaits, fun hm hu hp hs ha => ?skips, fun hm he ha hl => ?lamp⟩
  case awaits => rw [hexec, run_of_awaited hc body hm]; rfl
  case skips =>
    refine ⟨_, hexec, ?_⟩
    rw [run_of_unselected hc body hm hu hp hs ha]
    exact crewBecomes_done e s _ _ (onlyCrews_endUses e s) (crew_endUses e s e.c hcrew) (fun d hd => crew_endUses_ne e s d hd)
  case lamp => rw [hexec, run_of_no_lamp hc body hm he ha hl]

end Sys2Proof.Machine
end

section
/-! Proofs about `exit`, `brk` and `yield.cont` (O29). -/

namespace Sys2Proof.Machine

/-! `exit` (R183). -/

/-- The crew once the acting lanes have left the split, which goes on after the instruction. -/
def Env.afterExit (e : Env) (s : State) : State :=
  settleJoins 17 ((advance s e.id e.entry e.len).modCrew e.id (fun c => c.dropLanes e.entry (maskOf e.acting))) e.id

theorem exitForm_of_free_lanes {s : State} {e : Env} {c : Crew} (hl : maskOf e.acting &&& e.c.lodeLanes = 0)
    (hc : (e.afterExit s).crew e.id = some c) :
    exitForm e s = .jump (if c.live == 0 then lastExit (e.afterExit s) e.id else e.afterExit s) := by
  unfold Env.afterExit at *
  simp only [exitForm, hl, hc, bne_self_eq_false, Bool.false_eq_true, if_false]
  split <;> rfl

/-- Lanes of a bound lode may not exit (R282, R384). -/
theorem exitForm_of_lode_lanes {s : State} {e : Env} (hl : maskOf e.acting &&& e.c.lodeLanes ≠ 0) :
    exitForm e s = .exc s .rsplit := by
  simp only [exitForm, bne_iff_ne, ne_eq, hl, not_false_eq_true, if_true]

/-! `brk` (R178). -/

theorem brkForm_of_disabled {s : State} {e : Env} (hd : (s.desc e.ctx).dbg = false) : brkForm e s = .done s := by
  simp only [brkForm, hd, Bool.not_false, if_true]

theorem brkForm_of_enabled {s : State} {e : Env} (hd : (s.desc e.ctx).dbg = true) :
    brkForm e s = .jump (holdCrew (advance s e.id e.entry e.len) e.id .brk
      { kind := 1, split := e.entry, crewIndex := e.c.index, code := e.f.srca.toNat - 960, slot := 0xFFFF,
        addr := e.next s, svc := none }) := by
  simp only [brkForm, hd, Bool.not_true, Bool.false_eq_true, if_false]

/-! `yield.cont` (R64, R184). -/

section
variable {s : State} {e : Env} (ht : isHeader s e.c (e.label e.immW.toInt) = true)
include ht

theorem yieldContForm_of_set (hf : e.c.flags.getLsbD e.var = true) :
    yieldContForm e s = .jump (e.goto (e.observe s) (e.label e.immW.toInt) true) := by
  simp only [yieldContForm, ht, hf, Bool.not_true, Bool.false_eq_true, if_false, if_true]

theorem yieldContForm_of_clear (hf : e.c.flags.getLsbD e.var = false) :
    yieldContForm e s = .jump (s.modCrew e.id (fun c => c.modSplit e.entry (fun x => { x with
      state := .contWait, awaitFlag := e.var, pc := e.label e.immW.toInt, clause := none }))) := by
  simp only [yieldContForm, ht, hf, Bool.not_true, Bool.false_eq_true, if_false]

end

/-- Settles O29: each clause is the lemma of its form above; a `brk` without effect leaves the crew's registers. -/
theorem exitBreakYield : Obligations.ExitBreakYield := by
  intro f s e
  refine ⟨fun h hl c hc => ?leave, fun h hl => ?lode, fun h hd => ?pass, fun h hd => ?hold, fun h ht => ?yields⟩
  case leave => exact issue_of_form h (exitForm_of_free_lanes hl hc)
  case lode => exact issue_of_form h (exitForm_of_lode_lanes hl)
  case pass =>
    exact ⟨_, issue_of_form h (brkForm_of_disabled hd),
      crewBecomes_done e s s e.c (OnlyCrews.refl s) h.crew (fun _ _ => rfl)⟩
  case hold => exact issue_of_form h (brkForm_of_enabled hd)
  case yields =>
    exact ⟨fun hf => issue_of_form h (yieldContForm_of_set ht hf), fun hf => issue_of_form h (yieldContForm_of_clear ht hf)⟩

end Sys2Proof.Machine
end

section
/-! Proofs about `svc` and `waitc` (O31). -/

namespace Sys2Proof.Machine

/-- Noting that a dead register was read takes no time. -/
theorem clock_dead (e : Env) (s : State) (b : Bool) : (e.dead s b).clock = s.clock := (onlyCrews_dead e s b).clock

/-! `svc` (R195). -/

/-- The state once the two sources of an `svc` are read. -/
def Env.atSvc (e : Env) (s : State) : State :=
  e.dead (e.dead s (e.read s.clock e.srcA 0).2) (e.read s.clock e.srcB 0).2

/-- The state in which an `svc` posts its request: the split's accesses are performed under `.sys`, and its flags are
obliged. -/
def Env.atRequest (e : Env) (s : State) (x : Xlate) : State :=
  e.obligeFlags (e.endUses (e.fenced (noteXlate (e.atSvc s) (askCore e.core) x) 10))

section
variable {s : State} {e : Env} {x : Xlate} (ha : (e.read s.clock e.srcA 0).1.toNat % 64 = 0)
  (hx : e.xlate (e.atSvc s) (e.read s.clock e.srcA 0).1.toNat needRW = .ok x) (hm : x.e.cmode = 0)
include ha hx hm

/-- A request to a coherent page waits for the split's earlier accesses, and then is posted or, without a queue,
answered at once (R195, R384). -/
theorem svcForm_of_block :
    svcForm e s =
      if e.fenceWaits (e.atSvc s) 10 then .wait (e.atSvc s) .stalled
      else if ((e.atRequest s x).desc e.ctx).svcq == 0 then
        .done (dischargeBoth (e.atRequest s x) e.id e.flagPair.1 e.flagPair.2)
      else .done (queuePost ((e.atRequest s x).modCrew e.id (fun c => { c with svcOut := c.svcOut + 1 })) e.ctx false
        (e.svcRecord (e.read s.clock e.srcA 0).1.toNat (e.read s.clock e.srcB 0).1.toNat)) := by
  unfold Env.atRequest Env.atSvc at *
  simp only [svcForm, Env.uniVal, clock_dead, ha, hx, hm, bne_self_eq_false, Bool.false_eq_true, if_false]

theorem svcForm_of_waiting (hw : e.fenceWaits (e.atSvc s) 10 = true) : svcForm e s = .wait (e.atSvc s) .stalled := by
  rw [svcForm_of_block ha hx hm, if_pos hw]

theorem svcForm_of_no_queue (hw : e.fenceWaits (e.atSvc s) 10 = false)
    (hq : ((e.atRequest s x).desc e.ctx).svcq = 0) :
    svcForm e s = .done (dischargeBoth (e.atRequest s x) e.id e.flagPair.1 e.flagPair.2) := by
  simp [svcForm_of_block ha hx hm, hw, hq]

theorem svcForm_of_queue (hw : e.fenceWaits (e.atSvc s) 10 = false)
    (hq : ((e.atRequest s x).desc e.ctx).svcq ≠ 0) :
    svcForm e s = .done (queuePost ((e.atRequest s x).modCrew e.id (fun c => { c with svcOut := c.svcOut + 1 })) e.ctx false
      (e.svcRecord (e.read s.clock e.srcA 0).1.toNat (e.read s.clock e.srcB 0).1.toNat)) := by
  simp [svcForm_of_block ha hx hm, hw, hq]

end

/-- An aligned word of HBM or host memory is sent its check, and the split waits (R65, R186). -/
theorem waitcForm_of_word {s : State} {e : Env} {d : Bool} {ad : Addr} {x : Xlate}
    (had : e.address s.clock false 0 = (d, some ad)) (h8 : ad.a % 8 = 0)
    (hx : e.xlate (e.dead (e.dead s d) (e.read s.clock e.srcB 0).2) ad.a needR = .ok x)
    (hpa : isHbm x.pa = true ∨ isHost x.pa = true) :
    let s1 := e.dead (e.dead s d) (e.read s.clock e.srcB 0).2
    waitcForm e s = .jump ((noteXlate s1 (askCore e.core) x).modCrew e.id (fun c => c.modSplit e.entry (fun y => { y with
      state := .monitorWait
      wait := some
        { va := ad.a, pa := x.pa, cls := x.e.aclass, cmp := e.var, signed := typeSigned e.ty,
          comparand := (e.read s.clock e.srcB 0).1, dst := e.dst, inFlight := true, recheck := false, checkedAt := s1.clock,
          ends := e.endsAtWait } }))) := by
  have hword : (isHbm x.pa || isHost x.pa) = true := by simpa using hpa
  simp only [waitcForm, Env.uniVal, clock_dead, had, Option.map_some, Option.getD_some, h8, hx, hword, bne_self_eq_false,
    Bool.not_true, Bool.false_eq_true, if_false]

/-- Settles O31: `svc` by whether it waits and whether the context has a queue; `waitc` by its one case. -/
theorem requestForms : Obligations.RequestForms := by
  intro f s e
  refine ⟨fun x h ha hx hm => ?svc, fun ad d x h had h8 hx hpa => ?waitc⟩
  case svc =>
    exact ⟨fun hw => issue_of_form h (svcForm_of_waiting ha hx hm hw),
      fun hw hq => issue_of_form h (svcForm_of_no_queue ha hx hm hw hq),
      fun hw hq => issue_of_form h (svcForm_of_queue ha hx hm hw hq)⟩
  case waitc => exact issue_of_form h (waitcForm_of_word had h8 hx hpa)

end Sys2Proof.Machine
end

section
/-! Proofs about what comes back to crews and slices (O54). -/

namespace Sys2Proof.Machine

/-- The reply of an assayer reaches its crew (R253). -/
theorem exec_amsgReply_of_reply {s : State} {n : Nat} {m : Amsg} {w : Word} {derr : Bool} (hm : tabGet s.amsgs n = some m)
    (hr : m.reply = some (w, derr)) :
    let s1 := acceptMsg s (some n)
    let s2 := pokeUniform { s1 with amsgs := tabDel s1.amsgs n } m.crew m.dst w
    let s3 := if derr then orSticky s2 m.crew flagDERR else s2
    exec (.amsgReply n) s = .next (discharge (raiseEngTs s3 m.crew m.pts) m.crew m.flga) := by
  show execAmsgReply n s = _
  simp only [execAmsgReply, hm, hr]

/-! The check of a wait (R65, R66). -/

section
variable {s : State} {id entry : Nat} {c : Crew} {w : Wait} (hw : waitOf s id entry = some (c, w))
include hw

theorem exec_waitcReply_of_inFlight (hf : w.inFlight = true) :
    exec (.waitcReply id entry) s = .next (checkWait s id entry) := by
  show execWaitcReply id entry s = _
  simp only [execWaitcReply, hw, hf, if_true]

theorem exec_monitorRecheck_of_due (hf : w.inFlight = false) (hr : w.recheck = true) (ht : w.checkedAt + 2500 ≤ s.clock) :
    exec (.monitorRecheck id entry) s = .next (checkWait s id entry) := by
  show execMonitorRecheck id entry s = _
  simp only [execMonitorRecheck, hw, hf, hr, ht, Bool.not_false, decide_true, Bool.and_self, if_true]

end

/-! Answers to requests beyond the module (R63, R131, R243, R365). -/

section
variable {s : State} {n : Nat} {e : Ext} (he : tabGet s.exts n = some e)
include he

theorem exec_loadReturn_of_load (hs : isStockpile e.pa = false) (hk : e.kind = .vload ∨ e.kind = .uload) (bs : List Byte)
    (bad : Bool) : exec (.loadReturn n bs bad) s = .next (dropExt (deliverExt s e bs bad) n e) := by
  show execLoadReturn n bs bad s = _
  rcases hk with hk | hk
  · simp [execLoadReturn, he, hs, hk, ExtKind.reads, ExtKind.pulls]
  · simp [execLoadReturn, he, hs, hk, ExtKind.reads, ExtKind.pulls]

theorem exec_writeAcknowledgement_of_write (hk : e.kind.reads = false) :
    exec (.writeAcknowledgement n) s = .next (dropExt s n e) := by
  show execWriteAcknowledgement n s = _
  simp only [execWriteAcknowledgement, he, hk, Bool.false_eq_true, if_false]

theorem exec_remoteErrorResponse_of_responds {reason : Nat} (hr : responds e reason = true) :
    exec (.remoteErrorResponse n reason) s = .next (errorResponse s n reason e) := by
  show execRemoteErrorResponse n reason s = _
  simp only [execRemoteErrorResponse, he, hr, if_true]

end

/-! The end of a walk (R94). -/

section
variable {s : State} {die ctx : Nat} {va : Word} {write : Bool} (hd : die < 4) (hv : (s.desc ctx).valid = true)
include hd hv

theorem exec_pageWalkDone_of_fail {f : XFail} (hw : walk s ctx va.toNat write = .error f) :
    exec (.pageWalkDone die ctx va write) s = .next (noteFail s (askDie die) none 0 va.toNat f) := by
  show execPageWalkDone die ctx va write s = _
  simp [execPageWalkDone, Nat.not_le.2 hd, hv, hw]

theorem exec_pageWalkDone_of_entry {t : TlbEntry} {u : Upd} (hw : walk s ctx va.toNat write = .ok (t, u))
    (ht : write = true → t.w = true) :
    exec (.pageWalkDone die ctx va write) s =
      .next (noteXlate s (askDie die) ⟨va.toNat, t.pa + va.toNat % 2 ^ t.log, t, u⟩) := by
  have hgo : (write && !t.w) = false := by
    cases write with
    | false => rfl
    | true => simp [ht rfl]
  show execPageWalkDone die ctx va write s = _
  simp [execPageWalkDone, Nat.not_le.2 hd, hv, hw, hgo]

end

/-- A crew with a live split advances its program timestamp (R116). -/
theorem exec_programTimestampAdvance_of_live {s : State} {id : Nat} {c : Crew} (hc : s.crew id = some c)
    (hr : c.state = .resident) (hs : c.splits ≠ []) :
    exec (.programTimestampAdvance id) s = .next (s.setCrew id { c with pts := c.pts + 1 }) := by
  show Host.Outcome.next (s.modCrew id _) = _
  simp [modCrew_of s id _ c hc, hr, hs]

/-- A line that an assayer asked for arrives, and no slice asks for it any more (R309). -/
theorem exec_lineFill_of_asked {s : State} {line ctx cls va : Nat}
    (h : s.slices.findSome? (fun x => (x.2.prefetch.find? (fun p => p.1 == line)).map Prod.snd) = some (ctx, cls, va)) :
    let t := touchQuiet s (128 * line) ctx cls va
    exec (.lineFill line none) s = .next { t with slices := t.slices.map (fun x =>
      (x.1, { x.2 with prefetch := x.2.prefetch.filter (fun p => p.1 != line) })) } := by
  show execLineFill line none s = _
  simp only [execLineFill, h]

/-- Settles O54: each clause is the event's lemma above; a slice's audit and the end of a window have no guard of their own. -/
theorem repliesAndWaits : Obligations.RepliesAndWaits := by
  refine ⟨fun s n m w derr hm hr => exec_amsgReply_of_reply hm hr, fun s id entry c w hw => ?wait, fun s l => rfl,
    fun s n e he hs => ?answer, fun s die ctx va write hd hv => ?walk, fun s die group => rfl,
    fun s id c hc hr hs => exec_programTimestampAdvance_of_live hc hr hs,
    fun s line ctx cls va h => exec_lineFill_of_asked h⟩
  case wait => exact ⟨exec_waitcReply_of_inFlight hw, exec_monitorRecheck_of_due hw⟩
  case answer =>
    exact ⟨exec_loadReturn_of_load he hs, exec_writeAcknowledgement_of_write he,
      fun reason hr => exec_remoteErrorResponse_of_responds he hr⟩
  case walk =>
    exact ⟨fun f hw => exec_pageWalkDone_of_fail hd hv hw, fun e u hw ht => exec_pageWalkDone_of_entry hd hv hw ht⟩

end Sys2Proof.Machine
end

section
/-! Proofs about the uniform and vector integer instructions (O10). First on which side a row issues its instruction, then
what the shared pseudocode of R200 leaves on each side; then the obligation, read off both tables of instructions. -/

namespace Sys2Proof.Machine

/-! The side of an instruction (R174). -/

/-- Whether the row of an instruction's slot issues it on the uniform side; none for what has no slot. -/
def rowSide (i : Instr) : Option Bool := i.word.bind (fun w => (rowOf w.1).map (fun r => r.form.uniform))

theorem Runs.uniform_eq {i : Instr} {s : State} {e : Env} {b : Bool} (h : Runs i s e) (hi : rowSide i = some b) :
    e.form.uniform = b := by
  obtain ⟨-, -, -, f, r, hword, hrow, -, hform, -⟩ := envOf_spec h.env
  rw [hform]
  simpa [rowSide, hword, hrow] using hi

/-! The pseudocode of R200 on each side. -/

/-- The flags of lanes' results are the lanes' flags, joined in their order. -/
theorem laneFlags_map (ls : List Nat) (k : Nat → LaneOut) :
    laneFlags (ls.map k) = joinFlags ls (fun l => (k l).flags ||| flagIf (k l).dead flagDEAD) := by
  simp only [laneFlags, joinFlags, List.foldl_map, BitVec.or_assoc]

section
variable {i : Instr} {s : State} {e : Env} (h : Runs i s e) (op : IntArgs → Int)
include h

theorem issue_intForm_of_uniform (hu : e.form.uniform = true) :
    let a := e.intArgs s.clock 0
    let y := narrow e.f.sat (typeSigned e.ty) e.bits (op a.1)
    ∃ t, issue i (intForm op) s = .next t ∧
      UniformResult e s t (e.newS s (typeSigned e.ty) e.bits y.1) (flagIf y.2 flagSAT ||| flagIf a.2 flagDEAD) := by
  obtain ⟨u, hdone, hresult⟩ := finishS_result e s (typeSigned e.ty) e.bits (e.intLane s.clock op 0) h.crew
  have hform : intForm op e s = .done u := (if_pos hu).trans hdone
  exact ⟨_, issue_of_form h hform, hresult⟩

theorem issue_intForm_of_vector (hv : e.form.uniform = false) :
    let y : Nat → Nat × Bool := fun l => narrow e.f.sat (typeSigned e.ty) e.bits (op (e.intArgs s.clock l).1)
    ∃ t, issue i (intForm op) s = .next t ∧
      VectorResult e s t e.acting (fun l => e.newV s (typeSigned e.ty) e.bits l (y l).1)
        (joinFlags e.acting (fun l => flagIf (y l).2 flagSAT ||| flagIf (e.intArgs s.clock l).2 flagDEAD)) := by
  obtain ⟨u, hdone, hresult⟩ := finishV_result e s (typeSigned e.ty) e.bits e.acting (e.intLane s.clock op) h.crew
    (fun _ => rfl) (acting_nodup e) (acting_lt e)
  have hform : intForm op e s = .done u := (if_neg (Bool.eq_false_iff.1 hv)).trans hdone
  rw [laneFlags_map] at hresult
  exact ⟨_, issue_of_form h hform, hresult⟩

end

/-! The instructions of Tables 10-1 and 10-2. -/

/-- Every instruction of a table is issued on side `b` and runs the pseudocode of R200 with the operation listed. -/
def IntegerTable (b : Bool) (l : List ((Fields → Instr) × (IntArgs → Int))) : Prop :=
  ∀ p ∈ l, ∀ f, rowSide (p.1 f) = some b ∧ ∀ s, exec (p.1 f) s = issue (p.1 f) (intForm p.2) s

/-- A table is read entry by entry: the dispatch and the rows, listed along it, are what it says. -/
theorem integerTable_of_map {b : Bool} {l : List ((Fields → Instr) × (IntArgs → Int))}
    (hside : l.map (fun p f => rowSide (p.1 f)) = l.map (fun _ _ => some b))
    (hexec : l.map (fun p f s => exec (p.1 f) s) = l.map (fun p f s => issue (p.1 f) (intForm p.2) s)) :
    IntegerTable b l := fun p hp f =>
  ⟨congrFun (List.map_inj_left.1 hside p hp) f, congrFun (congrFun (List.map_inj_left.1 hexec p hp) f)⟩

theorem integerTable_uniformInteger : IntegerTable true uniformInteger := integerTable_of_map rfl rfl

theorem integerTable_vectorInteger : IntegerTable false vectorInteger := integerTable_of_map rfl rfl

/-- Settles O10: every listed instruction runs the pseudocode of R200 on the side of its table. -/
theorem integerResults : Obligations.IntegerResults := by
  refine ⟨fun p hp f s e h => ?uniform, fun p hp f s e h => ?vector⟩
  case uniform =>
    obtain ⟨hside, hexec⟩ := integerTable_uniformInteger p hp f
    rw [hexec]
    exact issue_intForm_of_uniform h p.2 (h.uniform_eq hside)
  case vector =>
    obtain ⟨hside, hexec⟩ := integerTable_vectorInteger p hp f
    rw [hexec]
    exact issue_intForm_of_vector h p.2 (h.uniform_eq hside)

end Sys2Proof.Machine
end

section
/-! Proofs about the checks of the lanes of loads and stores (O35). -/

namespace Sys2Proof.Machine

/-- Where a lane fails its checks, it raises its exception once the lanes' reads are noted. -/
theorem withLanes_of_error {α : Type} {e : Env} {s : State} {ls : List Nat} {k : Nat → Bool × Except LaneFail α} {d : Bool}
    {f : Nat × LaneFail} (h : checkLanes ls k = (d, .error f)) (go : List (Nat × α) → State → Res) :
    e.withLanes s ls k go = e.laneTrap (e.dead s d) f := by
  simp only [Env.withLanes, h]

/-- A uniform form checks one lane. -/
theorem checkLanes_single {α : Type} {l : Nat} {k : Nat → Bool × Except LaneFail α} {d : Bool} {a : α}
    (h : k l = (d, .ok a)) : checkLanes [l] k = (d, .ok [(l, a)]) := by
  simp [checkLanes, h]

section
variable {s : State} {e : Env} (hb : e.tensorBad false = false) {stash d : Bool}
include hb

theorem loadForm_of_failing_lane {f : Nat × LaneFail}
    (h : checkLanes e.memLanes (e.target s stash e.moveBytes needR) = (d, .error f)) :
    loadForm stash e s = e.laneTrap (e.dead s d) f := by
  simp only [loadForm, hb, Bool.false_eq_true, if_false, withLanes_of_error h]

theorem storeForm_of_failing_lane {f : Nat × LaneFail}
    (h : checkLanes e.memLanes (e.storeCheck s stash) = (d, .error f)) :
    storeForm stash e s = e.laneTrap (e.dead s d) f := by
  simp only [storeForm, hb, Bool.false_eq_true, if_false, withLanes_of_error h]

end

/-! The checks of one lane (R107, R241). -/

section
variable {s : State} {e : Env} {stash d : Bool} {l : Nat} (n : Nat) (need : Need)

theorem target_of_misaligned {ad : Addr} (h : e.address s.clock stash l = (d, some ad)) (hn : ad.a % n ≠ 0) :
    e.target s stash n need l = (d, .error (LaneFail.of .ralign (some ad.a))) := by
  simp [Env.target, h, hn]

theorem target_of_clipped (h : e.address s.clock stash l = (d, none)) :
    e.target s stash n need l = (d, .ok .nothing) := by
  simp only [Env.target, h]

end

/-- The loads of R243 share one meaning, each with the space that it names. -/
theorem exec_load_eq {p : (Fields → Instr) × Bool} (hp : p ∈ [(Instr.ld, false), (.lds, true), (.sld, false), (.slds, true)])
    (f : Fields) (s : State) : exec (p.1 f) s = issue (p.1 f) (loadForm p.2) s := by
  fin_cases hp <;> rfl

/-- So do the stores. -/
theorem exec_store_eq {p : (Fields → Instr) × Bool} (hp : p ∈ [(Instr.st, false), (.sts, true), (.sst, false), (.ssts, true)])
    (f : Fields) (s : State) : exec (p.1 f) s = issue (p.1 f) (storeForm p.2) s := by
  fin_cases hp <;> rfl

/-- Settles O35: the first failing lane of a load or a store by its form's lemma; alignment and clipping by the lane's. -/
theorem laneChecks : Obligations.LaneChecks := by
  refine ⟨fun f s e d l x hb => ⟨fun p hp h hc => ?load, fun p hp h hc => ?store⟩, fun e s stash n l need d => ?lane⟩
  case load => exact (exec_load_eq hp f s).trans (issue_of_form h (loadForm_of_failing_lane hb hc))
  case store => exact (exec_store_eq hp f s).trans (issue_of_form h (storeForm_of_failing_lane hb hc))
  case lane => exact ⟨fun ad => target_of_misaligned n need, target_of_clipped n need⟩

end Sys2Proof.Machine
end

section
/-! Proofs about the requests of the stash (O43). -/

namespace Sys2Proof.Machine

/-! `smap` (R103, R246). -/

section
variable {s : State} {e : Env} (hb : e.tensorBad false = false)
include hb

theorem smapForm_of_earlier_request (hr : e.requestsBefore s = true) :
    smapForm e s = .wait (e.keepRequest s (e.request s 3 0)) .stalled := by
  simp only [smapForm, hb, hr, Bool.false_eq_true, if_false, if_true]

theorem smapForm_of_descriptor {d : Bool} {t : Target} {bs : List Byte} {pts : Nat} {s1 : State}
    (hr : e.requestsBefore s = false) (ht : e.target s false 32 needR 0 = (d, .ok t))
    (hd : e.descBytes (e.dead s d) t = (.data bs false, pts, s1)) (hw : descBad (leNat bs) = false) :
    smapForm e s = e.mapWith (e.dropRequest s1 3) (decodeDesc (leNat bs)) pts := by
  simp only [smapForm, hb, hr, withLanes_of_ok (checkLanes_single ht), hd, hw, Bool.false_eq_true, if_false]

end

/-- A crew that joins a mapping accesses none of its pages. -/
theorem mapWith_of_warm {s : State} {e : Env} {d : MapDesc} (pts : Nat)
    (hw : (warmMap s e.core e.ctx e.id d).isSome = true) :
    let r := doSmap (e.endUses s) e.core e.ctx e.id e.c.kernel.affin pts d [] (e.who 0)
    e.mapWith s d pts = .done (e.putS (e.raisePts r.2.2 r.2.1) e.dst r.1) := by
  simp [Env.mapWith, hw]

/-! `sunmap` and `sflush` (R247). -/

section
variable {s : State} {e : Env}

theorem unmapForm_of_no_mapping (kind : Nat)
    (hm : mapAt (e.dead s (e.read s.clock e.srcA 0).2) e.core e.ctx ((e.read s.clock e.srcA 0).1.toNat % 2 ^ 19) = none) :
    unmapForm kind e s = .done (dischargeBoth
      (e.obligeFlags (e.endUses (e.dropRequest (e.dead s (e.read s.clock e.srcA 0).2) kind))) e.id e.flagPair.1 e.flagPair.2) := by
  simp only [unmapForm, Env.uniVal, hm]

theorem unmapForm_of_mapping (kind : Nat) {k : Nat} {m : Mapping}
    (hm : mapAt (e.dead s (e.read s.clock e.srcA 0).2) e.core e.ctx ((e.read s.clock e.srcA 0).1.toNat % 2 ^ 19) = some (k, m)) :
    let s1 := e.dead s (e.read s.clock e.srcA 0).2
    let r := e.request s1 kind k
    unmapForm kind e s =
      if captureReady s1 e.core ((s1.core e.core).reqs.takeWhile (fun q => some q != e.pending s1 kind)) r then
        .done (capture ((e.obligeFlags (e.endUses (e.dropRequest s1 kind))).modCore e.core
          (fun c => { c with reqs := c.reqs ++ [{ r with captured := true }] })) e.core r)
      else .wait (e.keepRequest s1 r) .stalled := by
  simp only [unmapForm, Env.uniVal, hm]
  rfl

end

theorem stashWritebackDone_of_captured {s : State} {core n : Nat} {r : StashReq} (hr : (s.core core).reqs[n]? = some r)
    (hc : r.captured = true) :
    stashWritebackDone s core n = discharge
      (s.modCore core (fun c => { c with reqs := c.reqs.take n ++ c.reqs.drop (n + 1) })) r.crew r.flga := by
  simp only [stashWritebackDone, hr, hc, if_true]

/-- `sunmap` and `sflush` share one meaning, each with the kind of its request. -/
theorem exec_unmap_eq {f : Fields} {p : Instr × Nat} (hp : p ∈ [(Instr.sunmap f, 0), (.sflush f, 1)]) (s : State) :
    exec p.1 s = issue p.1 (unmapForm p.2) s := by
  fin_cases hp <;> rfl

/-- Settles O43: `smap` by whether a request is ahead of it, `sunmap` and `sflush` by whether a mapping stands at the base,
and the end of a write-back by its request. -/
theorem stashForms : Obligations.StashForms := by
  intro f s e
  refine ⟨fun d t bs pts s1 h hb hr ht hd hw => ?descriptor, fun h hb hr => ?earlier, fun s1 d pts hw => mapWith_of_warm pts hw,
    fun p hp h => ?unmap, fun core n r hr hc => ?writeback⟩
  case descriptor => exact issue_of_form h (smapForm_of_descriptor hb hr ht hd hw)
  case earlier => exact issue_of_form h (smapForm_of_earlier_request hb hr)
  case unmap =>
    rw [exec_unmap_eq hp]
    exact ⟨fun hm => issue_of_form h (unmapForm_of_no_mapping p.2 hm),
      fun k m hm => issue_of_form h (unmapForm_of_mapping p.2 hm)⟩
  case writeback => exact congrArg _ (stashWritebackDone_of_captured hr hc)

end Sys2Proof.Machine
end

section
/-! Proofs about parts that fail and what scrubs find (O59). -/

namespace Sys2Proof.Machine

/-! Routers and links (R415, R436, R438, R440). -/

theorem exec_routerFail_of_live {s : State} {r : Nat} (hr : r < 256) (hl : s.routersDown.contains r = false) :
    exec (.routerFail r) s = .next (errRecord (harvestRouters s [r]) (r / 64)
      (unitOut 8 2 r (atBit 16 ((substituteFor (harvestRouters s [r]) r).getD 0xFF)))) := by
  show execRouterFail r s = _
  simp only [execRouterFail, Nat.not_le.2 hr, hl, decide_false, Bool.or_self, Bool.false_eq_true, if_false]

theorem exec_meshResend_of_router {r : Nat} (hr : r < 256) (s : State) :
    exec (.meshResend r) s = .next (errCount s (r / 64) 6) :=
  congrArg Host.Outcome.next (if_pos hr)

theorem cutOff_of_live_link {s : State} {die k : Nat} (hk : k ∈ linksOf die) (hl : s.linksDown.contains k = false) :
    cutOff s die = false :=
  List.all_eq_false.2 ⟨k, hk, Bool.eq_false_iff.1 hl⟩

/-- The state once a link is down and recorded, before what that cuts off. -/
def linkRecorded (s : State) (link : Nat) : State :=
  errRecord { s with linksDown := setAdd s.linksDown link } (linkDie link) (unitOut 7 5 link 0)

/-- A link that goes down cuts off no chiplet that another live link reaches. -/
theorem exec_ucieLinkDown_of_reached {s : State} {link : Nat} (hb : link < 4) (hl : s.linksDown.contains link = false)
    (hr : ∀ d, d < 4 → (linksOf d).contains link = true → ∃ k ∈ linksOf d, (linkRecorded s link).linksDown.contains k = false) :
    exec (.ucieLinkDown link) s = .next (linkRecorded s link) := by
  have hcut : (List.range 4).filter (fun d => (linksOf d).contains link && cutOff (linkRecorded s link) d) = [] := by
    refine List.filter_eq_nil_iff.2 fun d hd hcut => ?_
    obtain ⟨hlink, hcut⟩ := Bool.and_eq_true_iff.1 hcut
    obtain ⟨k, hk, hlive⟩ := hr d (List.mem_range.1 hd) hlink
    exact Bool.eq_false_iff.1 (cutOff_of_live_link hk hlive) hcut
  show execUcieLinkDown link s = _
  unfold linkRecorded at hcut ⊢
  simp only [execUcieLinkDown, Nat.not_le.2 hb, hl, hcut, decide_false, Bool.or_self, Bool.false_eq_true, if_false,
    List.foldl_nil]

/-! Requests beyond the module (R404, R441). -/

section
variable {s : State} {n : Nat} {e : Machine.Ext} (he : tabGet s.exts n = some e)
include he

theorem exec_aditResend_of_due (hp : isPeer e.pa = true) (ht : e.sentAt + 25000 * e.sends ≤ s.clock) :
    exec (.aditResend n) s = .next (if e.sends < 8 then
      errCount { s with exts := tabPut s.exts n { e with sends := e.sends + 1 } } (s.window (windowOf e.pa)).die 9
      else errorResponse s n 4 e) := by
  show execAditResend n s = _
  simp only [execAditResend, he, hp, Nat.not_lt.2 ht, Bool.not_true, decide_false, Bool.or_self, Bool.false_eq_true, if_false]
  split <;> rfl

theorem exec_cxlCompletionTimeout_of_due (hh : isHost e.pa = true) (hk : e.kind.reads = true)
    (ht : e.sentAt + 62500000 ≤ s.clock) :
    exec (.cxlCompletionTimeout n) s = .next (errorResponse s n 3 e) := by
  show execCxlCompletionTimeout n s = _
  simp only [execCxlCompletionTimeout, he, hh, hk, ht, decide_true, Bool.and_self, if_true]

end

/-! Ports and I/O cores (R441, R445, R446). -/

section
variable {s : State} {port : Nat}

theorem exec_aditPortDown_of_live (hp : port < 16) (hl : s.aditsDown.contains port = false) :
    exec (.aditPortDown port) s =
      .next (errRecord { s with aditsDown := setAdd s.aditsDown port } (port / 4) (unitOut 9 6 port 0)) := by
  show execAditPortDown port s = _
  simp only [execAditPortDown, Nat.not_le.2 hp, hl, decide_false, Bool.or_self, Bool.false_eq_true, if_false]

theorem exec_cxlPortDown_of_port (hp : port < 4) :
    exec (.cxlPortDown port) s = .next { s with cxlDown := setAdd s.cxlDown port } :=
  congrArg Host.Outcome.next (if_neg (Nat.not_le.2 hp))

theorem exec_cxlPortUp_of_reached (hc : cutOff s port = false) :
    exec (.cxlPortUp port) s = .next { s with cxlDown := setDel s.cxlDown port } :=
  congrArg Host.Outcome.next (if_neg (Bool.eq_false_iff.1 hc))

theorem exec_ioCoreFail_of_live (hp : port < 64) (hl : s.ioDown.contains port = false) :
    let woken := s.rings.map (fun r => if servedBy s r.1 = some port then (r.1, { r.2 with woken := true }) else r)
    exec (.ioCoreFail port) s =
      .next (errRecord { s with ioDown := setAdd s.ioDown port, rings := woken } (port / 16) (unitOut 17 9 port 0)) := by
  show execIoCoreFail port s = _
  simp only [execIoCoreFail, Nat.not_le.2 hp, hl, decide_false, Bool.or_self, Bool.false_eq_true, if_false, beq_iff_eq]

end

/-! Scrubs (R110, R368, R409, R410). -/

/-- A scrub of a bank group in its refresh window finds one error in a granule of the group that is not poisoned yet. -/
theorem exec_stockpileScrub_of_finding {s : State} {die group a : Nat} (hd : die < 4) (hg : group < 32)
    (hr : refreshing s (0x10000000000 + die * 0x100000000 + group * 0x8000000) = true)
    (hlo : 0x10000000000 + die * 0x100000000 + group * 0x8000000 ≤ a)
    (hhi : a < 0x10000000000 + die * 0x100000000 + group * 0x8000000 + 0x8000000)
    (hp : s.poison.contains (a / 32) = false) (uncorrectable : Bool) :
    exec (.stockpileScrub die group [(a, uncorrectable)]) s = .next
      (if uncorrectable then scrubFound s die 4 4 (32 * die + group) a else errCount s die 4) := by
  show execStockpileScrub die group [(a, uncorrectable)] s = _
  simp only [execStockpileScrub, Nat.not_le.2 hd, Nat.not_le.2 hg, Nat.not_lt.2 hlo, Nat.not_le.2 hhi, hr, hp, Bool.not_true,
    decide_false, Bool.or_self, Bool.false_eq_true, if_false, List.foldl_cons, List.foldl_nil]

/-- The patrol finds one error in a granule of HBM that is not poisoned yet and whose pseudo-channel is not fenced. -/
theorem exec_hbmPatrolScrub_of_finding {s : State} {a : Nat} (ha : isHbm a = true)
    (hp : s.poison.contains (a / 32) = false) (hf : s.fencedPc.contains (pseudoChannel a) = false) (uncorrectable : Bool) :
    exec (.hbmPatrolScrub [(a, uncorrectable)]) s = .next
      (if uncorrectable then
        noteHit (scrubFound s (ownerDie a) 5 3 (pseudoChannel a) a) (ownerDie a) (pseudoChannel a)
       else errCount s (ownerDie a) 5) := by
  show execHbmPatrolScrub [(a, uncorrectable)] s = _
  simp only [execHbmPatrolScrub, ha, hp, hf, Bool.not_true, Bool.or_self, Bool.false_eq_true, if_false, List.foldl_cons,
    List.foldl_nil]

/-! A register's granule (R364, R366). -/

theorem strikeUnit_sreg_of_allocated {s : State} {id n : Nat} {c : Crew} (hc : s.crew id = some c) (ho : c.onCore = true)
    (hn : n < c.kernel.scount) : strikeUnit s (.sreg id n) = s.setCrew id (c.setS n (.bad true)) := by
  simp only [strikeUnit, strikeReg, State.modCrew, hc, ho, hn, if_true]

theorem step_of_lost_sreg {s : State} {id n : Nat} {c : Crew} (hp : s.powered = true) (hl : locksOf s = [])
    (hc : s.crew id = some c) (ho : c.onCore = true) (hn : n < c.kernel.scount) :
    step (s.asked (.hw (.sreg id n))) =
      .next (settleTurn s (s.setCrew id (c.setS n (.bad true))) (.hw (.sreg id n))) :=
  step_asked_next s _ _ hp (turnWaits_unlocked _ _ _ hl (by simp))
    (congrArg Host.Outcome.next (strikeUnit_sreg_of_allocated hc ho hn))

/-- Settles O59: each clause is the event's lemma above; a scrub's finding is correctable or not. -/
theorem failureEvents : Obligations.FailureEvents := by
  refine ⟨fun s r hr hl => exec_routerFail_of_live hr hl, fun s r hr => exec_meshResend_of_router hr s,
    fun s link hb hl hr => exec_ucieLinkDown_of_reached hb hl hr, fun s n e he => ⟨fun hp ht => ?resend, ?timeout⟩,
    fun s port => ⟨exec_aditPortDown_of_live, exec_cxlPortDown_of_port, exec_cxlPortUp_of_reached, exec_ioCoreFail_of_live⟩,
    fun s die group a hd hg hr hlo hhi hp => ?stockpile, fun s id n c => step_of_lost_sreg, fun s a ha hp hf => ?patrol⟩
  case resend =>
    have hsent := exec_aditResend_of_due he hp ht
    exact ⟨fun h8 => hsent.trans (congrArg _ (if_pos h8)), fun h8 => hsent.trans (congrArg _ (if_neg (Nat.not_lt.2 h8)))⟩
  case timeout => exact exec_cxlCompletionTimeout_of_due he
  case stockpile =>
    have hfound := exec_stockpileScrub_of_finding hd hg hr hlo hhi hp
    exact ⟨(hfound false).trans (congrArg _ (if_neg Bool.false_ne_true)),
      (hfound true).trans (congrArg _ (if_pos rfl))⟩
  case patrol =>
    have hfound := exec_hbmPatrolScrub_of_finding ha hp hf
    exact ⟨(hfound false).trans (congrArg _ (if_neg Bool.false_ne_true)),
      (hfound true).trans (congrArg _ (if_pos rfl))⟩

end Sys2Proof.Machine
end

section
/-! Proofs about a uniform load from the stockpile (O37): what a translation and the marked sources leave alone, the lane's
load, the form's outcome, then the obligation. -/

namespace Sys2Proof.Machine

/-! A translation without updates of its tables (R94). -/

/-- Nothing but the TLBs and the free choices taken differs. -/
def OnlyTlbs (s t : State) : Prop := t = { s with tlb := t.tlb, free := t.free }

theorem OnlyTlbs.refl (s : State) : OnlyTlbs s s := rfl

theorem OnlyTlbs.trans {s t u : State} (h : OnlyTlbs s t) (k : OnlyTlbs t u) : OnlyTlbs s u := by
  unfold OnlyTlbs at *
  rw [k, h]

theorem onlyTlbs_tlbRoom (s : State) (at_ : TlbAt) (ctx : Nat) : OnlyTlbs s (tlbRoom s at_ ctx) := by
  unfold tlbRoom
  dsimp only
  split
  · exact OnlyTlbs.refl s
  · split
    · rfl
    · exact OnlyTlbs.refl s

theorem onlyTlbs_setTlb (s : State) (es : List TlbEntry) : OnlyTlbs s { s with tlb := es } := rfl

theorem onlyTlbs_tlbFill (s : State) (at_ : TlbAt) (t : TlbEntry) : OnlyTlbs s (tlbFill s at_ t) :=
  ((onlyTlbs_setTlb s _).trans (onlyTlbs_tlbRoom _ at_ t.ctx)).trans (onlyTlbs_setTlb _ _)

theorem onlyTlbs_noteXlate {x : Xlate} (hu : x.upd = []) (s : State) (ask : Asker) : OnlyTlbs s (noteXlate s ask x) := by
  have hwalk : noteWalk s x.upd = s := by rw [hu]; rfl
  unfold noteXlate
  rw [hwalk]
  clear hwalk
  generalize ask.tlbs = ts
  induction ts generalizing s with
  | nil => exact OnlyTlbs.refl s
  | cons t ts ih =>
    rw [List.foldl_cons]
    split
    · exact ih s
    · exact (onlyTlbs_tlbFill s t x.e).trans (ih _)

section
variable {s t : State} (h : OnlyTlbs s t)
include h

theorem OnlyTlbs.mem : t.mem = s.mem := by rw [h]
theorem OnlyTlbs.latent : t.latent = s.latent := by rw [h]
theorem OnlyTlbs.crew (id : Nat) : t.crew id = s.crew id := by rw [h]; rfl
theorem OnlyTlbs.refreshing (pa : Nat) : Machine.refreshing t pa = Machine.refreshing s pa := by rw [h]; rfl
theorem OnlyTlbs.readBytes (pa n : Nat) : Machine.readBytes t pa n = Machine.readBytes s pa n := by rw [h]; rfl

end

/-! What crews do leaves memory as it reads. -/

section
variable {s t : State} (h : OnlyCrews s t)
include h

theorem OnlyCrews.latent : t.latent = s.latent := by rw [h]
theorem OnlyCrews.refreshing (pa : Nat) : Machine.refreshing t pa = Machine.refreshing s pa := by rw [h]; rfl
theorem OnlyCrews.readBytes (pa n : Nat) : Machine.readBytes t pa n = Machine.readBytes s pa n := by rw [h]; rfl
theorem OnlyCrews.storesAhead (e : Env) (x : Target) : e.storesAhead t x = e.storesAhead s x := by rw [h]; rfl
theorem OnlyCrews.marked (e : Env) : e.marked t = e.marked s := by rw [h]; rfl

end

/-! The end of the marked sources' values (R80) writes general registers only. -/

/-- A change of a crew that no write of a general register meets goes unnoticed by the end of marked runs. -/
theorem endRuns_hom (g : Crew → Crew) (hv : ∀ c n l, (g c).setV n l .dead = g (c.setV n l .dead))
    (hs : ∀ c n, (g c).setS n .dead = g (c.setS n .dead)) (lanes : List Nat) (rs : List (Opnd × Nat)) (c : Crew) :
    rs.foldl (fun c r => c.endRun lanes r) (g c) = g (rs.foldl (fun c r => c.endRun lanes r) c) := by
  refine List.foldl_hom g fun c r => ?_
  unfold Crew.endRun
  split
  · exact List.foldl_hom g fun c i => List.foldl_hom g fun c l => hv c _ l
  · exact List.foldl_hom g fun c i => hs c _
  · rfl

/-- The crew with every marked run ended, whether or not there is one. -/
theorem spent_eq {e : Env} {s : State} {c : Crew} (hc : s.crew e.id = some c) :
    e.spent s = (e.marked s).foldl (fun c r => c.endRun e.lanes r) c := by
  unfold Env.spent Env.endUses
  dsimp only
  split
  · rename_i hm
    rw [List.isEmpty_iff.1 hm, hc]
    rfl
  · rw [crew_modCrew, hc]
    rfl

/-- A crew with the predicates and the kernel of `d`. -/
def Crew.withPredicates (d c : Crew) : Crew := { c with p := d.p, kernel := d.kernel }

section
variable {e : Env} {s : State} (hc : s.crew e.id = some e.c)
include hc

theorem spent_dead (d : Bool) : e.spent (e.dead s d) = (e.spent s).orSticky (flagIf d flagDEAD) := by
  have hd : (e.dead s d).crew e.id = some (e.c.orSticky (flagIf d flagDEAD)) := crew_flag e s _ e.c hc
  rw [spent_eq hd, spent_eq hc, (onlyCrews_dead e s d).marked]
  exact endRuns_hom (Crew.orSticky · _) (fun _ _ _ => rfl) (fun _ _ => rfl) _ _ _

/-- The predicates and the number of lanes stay. -/
theorem pAt_spent (k : Nat) : (e.spent s).pAt k = e.c.pAt k := by
  have hframe := endRuns_hom (Crew.withPredicates e.c) (fun _ _ _ => rfl) (fun _ _ => rfl) e.lanes (e.marked s) e.c
  rw [spent_eq hc]
  exact congrArg (fun c => c.pAt k) hframe

end

@[simp] theorem pAt_writeS (c : Crew) (n k : Nat) (w : Word) : (c.writeS n w).pAt k = c.pAt k := rfl

section
variable {c d : Crew} (h : SameRegs c d)
include h

theorem SameRegs.sAt (n : Nat) : d.sAt n = c.sAt n := by rw [Crew.sAt, h.s]; rfl
theorem SameRegs.vAt (n l : Nat) : d.vAt n l = c.vAt n l := by rw [Crew.vAt, h.v]; rfl
theorem SameRegs.pAt (n : Nat) : d.pAt n = c.pAt n := by rw [Crew.pAt, Crew.lanes, h.p, h.kernel]; rfl

end

/-! The load (R109, R110, R243). -/

theorem isHost_isPeer_of_stockpile {pa : Nat} (hp : isStockpile pa = true) : isHost pa = false ∧ isPeer pa = false := by
  have hrange : 0x10000000000 ≤ pa ∧ pa < 0x10400000000 := by simpa [isStockpile] using hp
  constructor <;> simp only [isHost, isPeer, Bool.and_eq_false_iff, decide_eq_false_iff_not] <;> omega

/-- A page of the stockpile's mode is no core's own, and its bytes lie in the module (R109). -/
theorem refusal_of_stockpile {x : Xlate} (hp : isStockpile x.pa = true) (hm : x.e.cmode = 3) (s : State) (core : Nat) :
    refusal s x core false = none := by
  simp [refusal, deadTarget, hm, isHost_isPeer_of_stockpile hp]

theorem stockPa_of_stockpile {pa : Nat} (hp : isStockpile pa = true) (die : Nat) : stockPa die pa = pa := by
  have hrange : 0x10000000000 ≤ pa ∧ pa < 0x10400000000 := by simpa [isStockpile] using hp
  refine if_neg (Bool.eq_false_iff.1 ?_)
  simp only [isAlias, Bool.and_eq_false_iff, decide_eq_false_iff_not]
  omega

theorem readBytes_of_clean {s : State} {pa n : Nat} (h : (readBytes s pa n).2 = false) :
    readBytes s pa n = (memRead s.mem pa n, false) := by
  unfold readBytes at h ⊢
  dsimp only at h ⊢
  split at h
  · exact absurd h (by simp)
  · rename_i hbad
    exact if_neg hbad

/-- A lane's load of clean stockpile bytes outside a refresh window gives them, and leaves what its translation leaves. -/
theorem loadLane_of_stockpile {e : Env} {s : State} {x : Xlate} (pts l : Nat) {n : Nat} (hu : x.upd = [])
    (hp : isStockpile x.pa = true) (hm : x.e.cmode = 3) (hr : refreshing s x.pa = false) (hl : s.latent = [])
    (hb : (readBytes s x.pa n).2 = false) :
    e.loadLane s pts n l (.glob x) =
      (.data (memRead s.mem x.pa n) false, pts, noteXlate s (askCore e.core) x) := by
  have ht := onlyTlbs_noteXlate hu s (askCore e.core)
  have hout := isHost_isPeer_of_stockpile hp
  have hclean : readBytes s x.pa n = (memRead s.mem x.pa n, false) := readBytes_of_clean hb
  have hfind : ∀ f, detect (noteXlate s (askCore e.core) x) x.pa n f = noteXlate s (askCore e.core) x := fun f => by
    simp [detect, ht.latent, hl]
  simp only [Env.loadLane, refusal_of_stockpile hp hm, stockPa_of_stockpile hp, hout, hp, ht.refreshing, hr, hfind,
    ht.readBytes, hclean, Bool.or_self, Bool.false_eq_true, if_false, if_true]

theorem takeLoad_of_uniform {e : Env} (hf : e.form.uniform = true) (h2 : e.x2 = false) (s : State) (l : Nat) (bs : List Byte)
    (bad : Bool) : e.takeLoad s (l, .data bs bad) = e.putS s e.dst (extendTo64 (typeSigned e.ty) (typeBits e.ty) (leNat bs)) := by
  simp [Env.takeLoad, Env.putLane, loadWords, hf, h2]

/-- The state that a uniform load from the stockpile leaves before its result is written. -/
def Env.atStockpile (e : Env) (s : State) (d : Bool) (x : Xlate) : State :=
  e.raisePts (noteXlate (e.endUses (e.dead s d)) (askCore e.core) x) e.c.pts

/-- A crew that flags have joined and whose program timestamp has risen. -/
def Crew.noting (c : Crew) (f : Flags) (ts : Nat) : Crew := { c.orSticky f with pts := max c.pts ts }

@[simp] theorem sAt_noting (c : Crew) (f : Flags) (ts n : Nat) : (c.noting f ts).sAt n = c.sAt n := rfl
@[simp] theorem vAt_noting (c : Crew) (f : Flags) (ts n l : Nat) : (c.noting f ts).vAt n l = c.vAt n l := rfl
@[simp] theorem pAt_noting (c : Crew) (f : Flags) (ts n : Nat) : (c.noting f ts).pAt n = c.pAt n := rfl

section
variable {e : Env} {s : State} {d : Bool} {x : Xlate} (hu : x.upd = [])
include hu

theorem loadForm_of_stockpile (hf : e.form.uniform = true) (h2 : e.x2 = false) (hb : e.tensorBad false = false)
    (ht : e.target s false e.moveBytes needR 0 = (d, .ok (.glob x))) (hp : isStockpile x.pa = true) (hm : x.e.cmode = 3)
    (hr : refreshing s x.pa = false) (ha : e.storesAhead s (.glob x) = false) (hl : s.latent = [])
    (hc : (readBytes s x.pa e.moveBytes).2 = false) :
    loadForm false e s = .done (e.putS (e.atStockpile s d x) e.dst
      (extendTo64 (typeSigned e.ty) (typeBits e.ty) (leNat (memRead s.mem x.pa e.moveBytes)))) := by
  have ho : OnlyCrews s (e.endUses (e.dead s d)) := (onlyCrews_dead e s d).trans (onlyCrews_endUses e _)
  have hlane := loadLane_of_stockpile (e := e) (s := e.endUses (e.dead s d)) e.c.pts 0 hu hp hm
    ((ho.refreshing _).trans hr) (ho.latent.trans hl) (by rw [ho.readBytes, hc])
  have hlanes : e.memLanes = [0] := if_pos hf
  have hnow : e.storesAhead (e.dead s d) (.glob x) = false := ((onlyCrews_dead e s d).storesAhead e _).trans ha
  rw [ho.mem] at hlane
  simp only [loadForm, hb, hlanes, withLanes_of_ok (checkLanes_single ht), List.any_cons, List.any_nil, hnow,
    Env.targetWaits, Env.fillReads, groupsWait, Env.loadAll, List.foldl_cons, List.foldl_nil, List.nil_append, hlane,
    takeLoad_of_uniform hf h2, Bool.or_self, Bool.false_eq_true, if_false]
  rfl

theorem mem_atStockpile (e : Env) (s : State) (d : Bool) : (e.atStockpile s d x).mem = s.mem :=
  calc (e.atStockpile s d x).mem
      = (noteXlate (e.endUses (e.dead s d)) (askCore e.core) x).mem := (onlyCrews_modCrew _ _ _).mem
    _ = (e.endUses (e.dead s d)).mem := (onlyTlbs_noteXlate hu _ _).mem
    _ = s.mem := ((onlyCrews_dead e s d).trans (onlyCrews_endUses e _)).mem

theorem crew_atStockpile (hc : s.crew e.id = some e.c) :
    (e.atStockpile s d x).crew e.id = some ((e.spent s).noting (flagIf d flagDEAD) e.c.pts) := by
  have hd : (e.dead s d).crew e.id = some (e.c.orSticky (flagIf d flagDEAD)) := crew_flag e s _ e.c hc
  rw [Env.atStockpile, Env.raisePts, crew_modCrew, (onlyTlbs_noteXlate hu _ _).crew, crew_endUses e _ _ hd, spent_dead hc]
  rfl

theorem mem_done_of_stockpile (e : Env) (s : State) (d : Bool) (w : Word) :
    (settleRes e (.done (e.putS (e.atStockpile s d x) e.dst w))).mem = s.mem :=
  ((onlyCrews_putS e _ _ _).trans (onlyCrews_done e _)).mem.trans (mem_atStockpile hu e s d)

/-- Once the load is done its crew holds the result and, in every other register, what it held there. -/
theorem registers_done_of_stockpile (hc : s.crew e.id = some e.c) (w : Word) :
    ∃ c, (settleRes e (.done (e.putS (e.atStockpile s d x) e.dst w))).crew e.id = some c ∧ c.sAt e.dst = .live w ∧
      (∀ k, k ≠ e.dst → c.sAt k = (e.spent s).sAt k) ∧ (∀ r l, c.vAt r l = (e.spent s).vAt r l) ∧
      ∀ k, c.pAt k = e.c.pAt k := by
  have hput : (e.putS (e.atStockpile s d x) e.dst w).crew e.id =
      some (((e.spent s).noting (flagIf d flagDEAD) e.c.pts).writeS e.dst w) := by
    rw [Env.putS, crew_modCrew, crew_atStockpile hu hc]
    rfl
  obtain ⟨c, hdone, hregs⟩ := sameRegs_done e _ _ hput
  refine ⟨c, hdone, ?result, fun k hk => ?uniform, fun r l => ?vector, fun k => ?predicate⟩
  case result => rw [hregs.sAt, sAt_writeS]
  case uniform => rw [hregs.sAt, sAt_writeS_ne _ _ _ _ hk, sAt_noting]
  case vector => rw [hregs.vAt, vAt_writeS, vAt_noting]
  case predicate => rw [hregs.pAt, pAt_writeS, pAt_noting, pAt_spent hc]

end

/-- Settles O37: the form is done; its state's memory is the one before, and its crew has the destination written. -/
theorem stockpileLoadReads : Obligations.StockpileLoadReads := by
  intro f s e d x h h2 hb ht hu hp hr ha hl hm hc
  have hform := loadForm_of_stockpile hu (h.uniform_eq (b := true) rfl) h2 hb ht hp hm hr ha hl hc
  obtain ⟨c, hregs⟩ := registers_done_of_stockpile (d := d) hu h.crew
    (extendTo64 (typeSigned e.ty) (typeBits e.ty) (leNat (memRead s.mem x.pa e.moveBytes)))
  exact ⟨_, c, issue_of_form h hform, fun a => by rw [mem_done_of_stockpile hu], hregs⟩

end Sys2Proof.Machine
end

section
/-! Proofs about atomics, compare-and-swap and reductions (O34). -/

namespace Sys2Proof.Machine

section
variable {s : State} {e : Env} {d : Bool} (hb : e.tensorBad true = false)
include hb

/-- An atomic none of whose lanes is refused leaves what its lanes left, with the old patterns taken (R249, R250). -/
theorem atomForm_of_accepted {step : Nat → Nat → Nat → Option Nat} {ts : List (Nat × Target × Nat × Nat)}
    (hc : checkLanes e.memLanes (e.atomCheck s) = (d, .ok ts)) :
    let r := e.atomAll step (e.endUses (e.dead s d)) ts
    firstRefused r.1 = none →
      atomForm step e s = .done (e.poisoned (r.1.foldl e.takeAtom r.2) (r.1.countP (fun g => g.2.bad))) := by
  intro r hr
  simp only [atomForm, hb, Bool.false_eq_true, if_false, withLanes_of_ok hc]
  exact lateOr_of_accepted (r := (_, firstRefused r.1)) hr

/-- A reduction none of whose updates is refused leaves what its updates left (R125, R251). -/
theorem redForm_of_accepted {ts : List (Nat × Target × Nat)}
    (hc : checkLanes e.memLanes (e.redCheck s) = (d, .ok ts)) :
    let r := eachLane (e.endUses (e.dead s d)) (e.redUpdates ts) (fun s l t => e.redOne s l t.1 t.2)
    r.2 = none → redForm e s = .done r.1 := by
  intro r hr
  simp only [redForm, hb, Bool.false_eq_true, if_false, withLanes_of_ok hc]
  exact lateOr_of_accepted hr

end

/-- The atomics of R249 share one meaning, and so do the compare-and-swaps of R250: only the step of a lane differs. -/
theorem exec_atom_eq {p : (Fields → Instr) × Bool}
    (hp : p ∈ [(Instr.atom, false), (.satom, false), (.atomCas, true), (.satomCas, true)]) (f : Fields) (s : State) :
    exec (p.1 f) s = issue (p.1 f) (fun e s => atomForm (if p.2 then casStep else e.opStep) e s) s := by
  fin_cases hp <;> rfl

theorem exec_red_eq {p : Fields → Instr} (hp : p ∈ [Instr.red, .sred]) (f : Fields) (s : State) :
    exec (p f) s = issue (p f) redForm s := by
  fin_cases hp <;> rfl

/-- Settles O34: an atomic or a reduction that no lane's target refuses is done, by its form's lemma. -/
theorem atomicForms : Obligations.AtomicForms := by
  refine ⟨fun p hp f s e h hb d ts hc hr => ?atomic, fun p hp f s e h hb d ts hc hr => ?reduction⟩
  case atomic => exact (exec_atom_eq hp f s).trans (issue_of_form h (atomForm_of_accepted hb hc hr))
  case reduction => exact (exec_red_eq hp f s).trans (issue_of_form h (redForm_of_accepted hb hc hr))

end Sys2Proof.Machine
end

section
/-! Proofs about a uniform store to HBM (O36): the bytes of a write, the lane's store, the memory that the form leaves, then
the obligation. -/

namespace Sys2Proof.Machine

/-! The bytes. -/

/-- A byte after a write is the written one inside its range, and the former one outside. -/
theorem memGet_memWrite_eq {m : Mem} (h : Memory.wf m = true) (a : Nat) (bs : List Byte) (x : Nat) :
    memGet (memWrite m a bs) x = if a ≤ x ∧ x < a + bs.length then bs.getD (x - a) 0 else memGet m x := by
  split
  case isTrue hin =>
    have hi : x - a < bs.length := by omega
    have hx : a + (x - a) = x := by omega
    have hbyte := memGet_memWrite m a (x - a) bs h hi
    rw [hx] at hbyte
    simp [hbyte, hi]
  case isFalse hout => exact memGet_memWrite_outside m a x bs (by omega)

section
variable {e : Env} (h2 : e.x2 = false) (clock lane : Nat)
include h2

theorem storeData_fst_of_single : (e.storeData clock lane).1 = (wordBytes (e.read clock e.srcB lane).1).take e.moveBytes := by
  simp [Env.storeData, h2]

/-- A store of one register moves as many bytes as it says: no type is wider than a word. -/
theorem length_storeData_of_single : (e.storeData clock lane).1.length = e.moveBytes := by
  have hword : e.moveBytes ≤ 8 := by simpa [Env.moveBytes, h2, Env.bits] using typeBits_bytes e.ty
  simpa [storeData_fst_of_single h2, wordBytes, length_leBytes] using hword

theorem getD_storeData_of_single {i : Nat} (hi : i < e.moveBytes) :
    (e.storeData clock lane).1.getD i 0 = (wordBytes (e.read clock e.srcB lane).1).getD i 0 := by
  simp [storeData_fst_of_single h2, List.getElem?_take_of_lt hi]

end

/-! The store (R115, R243). -/

/-- The lane's check finds its target and its data. -/
theorem storeCheck_of_target {e : Env} {s : State} {stash d : Bool} {l : Nat} {t : Target}
    (ht : e.target s stash e.moveBytes needW l = (d, .ok t)) :
    e.storeCheck s stash l = (d || (e.storeData s.clock l).2, .ok (t, (e.storeData s.clock l).1)) := by
  simp only [Env.storeCheck, ht]

section
variable {x : Xlate} (hp : isHbm x.pa = true)
include hp

/-- A lane's store to HBM that the page's owner takes is performed at the line's home. -/
theorem storeLane_of_hbm {e : Env} {s : State} (hr : refusal (noteXlate s (askCore e.core) x) x e.core true = none)
    (pts l : Nat) (bs : List Byte) :
    e.storeLane s pts l bs (.glob x) =
      (storeHbm (claimPriv (noteXlate s (askCore e.core) x) x e.core) e.core pts x.e.cmode x.pa bs (e.who 1 x), none) := by
  simp only [Env.storeLane, hr, Env.storeTaken, outside_of_hbm x.pa hp, Bool.false_eq_true, if_false]

/-- A store to HBM passes no monitor of host memory. -/
theorem hostWords_of_hbm (s : State) (core l : Nat) (bs : List Byte) : hostWords s core [(l, .glob x, bs)] = s := by
  have hhost : isHost x.pa = false := (Bool.or_eq_false_iff.1 (outside_of_hbm x.pa hp)).1
  simp [hostWords, hhost]

end

/-- The state in which a uniform store acts: its sources are read and its address is translated. -/
def Env.atStore (e : Env) (s : State) (d : Bool) (x : Xlate) : State :=
  noteXlate (e.endUses (e.dead s (d || (e.storeData s.clock 0).2))) (askCore e.core) x

/-- What a uniform store to HBM puts there. -/
def Env.hbmPut (e : Env) (s : State) (d : Bool) (x : Xlate) : Put :=
  storeHbm (claimPriv (e.atStore s d x) x e.core) e.core e.c.pts x.e.cmode x.pa (e.storeData s.clock 0).1 (e.who 1 x)

section
variable {e : Env} {s : State} {d : Bool} {x : Xlate}

theorem storeForm_of_hbm (hf : e.form.uniform = true) (hb : e.tensorBad false = false)
    (ht : e.target s false e.moveBytes needW 0 = (d, .ok (.glob x))) (hp : isHbm x.pa = true)
    (hr : refusal (e.atStore s d x) x e.core true = none) :
    storeForm false e s =
      .done (e.raisePts (settle (e.hbmPut s d x).st e.core (e.hbmPut s d x).cov) (e.hbmPut s d x).pts) := by
  have hlanes : e.memLanes = [0] := if_pos hf
  have hlane := storeLane_of_hbm hp hr e.c.pts 0 (e.storeData s.clock 0).1
  simp only [storeForm, hb, hlanes, withLanes_of_ok (checkLanes_single (storeCheck_of_target ht)), List.any_cons, List.any_nil,
    Env.targetWaits, Env.fillReads, groupsWait, Env.storeAll, List.foldl_cons, List.foldl_nil, List.nil_append, hlane,
    hostWords_of_hbm hp, Bool.or_self, Bool.false_eq_true, if_false]
  rfl

variable (hu : x.upd = []) (hq : NoPartials s)
include hu hq

/-- Reading the sources and translating the address change no byte and hold no update. -/
theorem quiet_atStore : Quiet s (e.atStore s d x) := by
  have ho : OnlyCrews s (e.endUses (e.dead s (d || (e.storeData s.clock 0).2))) :=
    (onlyCrews_dead e s _).trans (onlyCrews_endUses e _)
  have hread : Quiet s (e.endUses (e.dead s (d || (e.storeData s.clock 0).2))) := ⟨ho.mem, hq.of_lines (by rw [ho])⟩
  exact hread.trans (quiet_noteXlate _ _ x hread.2 hu)

/-- Where no update is held for any line, only the store's own bytes reach memory. -/
theorem mem_hbmPut (hm : x.e.cmode ≠ 1) : (e.hbmPut s d x).st.mem = memWrite s.mem x.pa (e.storeData s.clock 0).1 := by
  have hat := quiet_atStore (e := e) (d := d) hu hq
  have hclaim := hat.trans (quiet_claimPriv _ x e.core hat.2)
  rw [Env.hbmPut, mem_storeHbm _ _ _ _ _ _ _ hclaim.2 hm, hclaim.1]

theorem mem_done_of_hbmPut (hm : x.e.cmode ≠ 1) :
    (settleRes e (.done (e.raisePts (settle (e.hbmPut s d x).st e.core (e.hbmPut s d x).cov) (e.hbmPut s d x).pts))).mem =
      memWrite s.mem x.pa (e.storeData s.clock 0).1 := by
  rw [(onlyCrews_done e _).mem, Env.raisePts, mem_modCrew, mem_settle, mem_hbmPut hu hq hm]

end

/-- Settles O36: the form is done, and its memory is the one before with the store's bytes written. -/
theorem storeWritesItsBytesOnly : Obligations.StoreWritesItsBytesOnly := by
  intro f s e d x h hw h2 hb ht hu hp hm hq hr
  refine ⟨_, issue_of_form h (storeForm_of_hbm (h.uniform_eq (b := true) rfl) hb ht hp hr), fun a => ?_⟩
  rw [mem_done_of_hbmPut hu hq hm, memGet_memWrite_eq hw, length_storeData_of_single h2]
  split
  case isTrue hin => exact getD_storeData_of_single h2 _ _ (by omega)
  case isFalse => rfl

end Sys2Proof.Machine
end

section
/-! Proofs about the managed-page forms, the fence and messages (O38). -/

namespace Sys2Proof.Machine

/-! `cwb` and `cinv` (R122, R248). -/

/-- The state once the length and the address of a clean are read. -/
def Env.atClean (e : Env) (s : State) (d : Bool) : State := e.dead (e.dead s (e.read s.clock e.srcB 0).2) d

/-- An address in one of the translated pages, none of a coherent page, whose virtual address lies in `n` bytes from `lo`. -/
def cleanHits (xs : List Xlate) (lo n pa : Nat) : Bool :=
  xs.any (fun x => x.e.cmode != 0 && x.pa / 4096 == pa / 4096 &&
    (lo ≤ x.va / 4096 * 4096 + pa % 4096 && x.va / 4096 * 4096 + pa % 4096 < lo + n))

theorem cleanHits_iff (xs : List Xlate) (lo n pa : Nat) :
    cleanHits xs lo n pa = true ↔ ∃ x ∈ xs, x.e.cmode ≠ 0 ∧ x.pa / 4096 = pa / 4096 ∧
      lo ≤ x.va / 4096 * 4096 + pa % 4096 ∧ x.va / 4096 * 4096 + pa % 4096 < lo + n := by
  simp [cleanHits, and_assoc]

section
variable {s : State} {e : Env} {d : Bool} {ad : Addr} (discard : Bool)
  (had : e.address s.clock false 0 = (d, some ad)) (hl : (e.read s.clock e.srcB 0).1.toNat ≤ 2 ^ 32)
include had hl

/-- A clean whose scope is no wider than the core's own has nothing to do. -/
theorem cleanForm_of_narrow_scope (hs : e.cleanScope ≤ 2) : cleanForm discard e s = .done (e.endUses (e.atClean s d)) := by
  simp only [cleanForm, Env.uniVal, had, Nat.not_lt.2 hl, hs, if_true, if_false]
  rfl

/-- A clean of wider scope cleans the lines of its range. -/
theorem cleanForm_of_wide_scope {xs : List Xlate} (hs : 2 < e.cleanScope) :
    let n := ad.a % 128 + max (e.read s.clock e.srcB 0).1.toNat 1
    translateAll (e.atClean s d) (askCore e.core) e.ctx needR (pagesOf (ad.a / 128 * 128) n) = .ok xs →
    cleanForm discard e s = .done (cleanLines (xs.foldl (fun s x => noteXlate s (askCore e.core) x) (e.endUses (e.atClean s d)))
      e.core (cleanHits xs (ad.a / 128 * 128) n) discard) := by
  intro n hx
  unfold Env.atClean at hx ⊢
  simp only [cleanForm, Env.uniVal, had, Option.map_some, Option.getD_some, Nat.not_lt.2 hl, Nat.not_le.2 hs, if_false, hx, n]
  rfl

end

/-- `cwb` and `cinv` share one meaning; the second discards the copies that it cleans. -/
theorem exec_clean_eq {p : (Fields → Instr) × Bool} (hp : p ∈ [(Instr.cwb, false), (.cinv, true)]) (f : Fields) (s : State) :
    exec (p.1 f) s = issue (p.1 f) (cleanForm p.2) s := by
  fin_cases hp <;> rfl

/-! `amsg` (R253). -/

/-- The state in which a message is sent: its payload and address are read, its address is translated, and its flags are
obliged. -/
def Env.atMessage (e : Env) (s : State) (d : Bool) (x : Xlate) : State :=
  e.obligeFlags (e.endUses (noteXlate (e.dead (e.dead s (e.read s.clock e.srcB 0).2) d) (askCore e.core) x))

/-- A message to a coherent page goes to its home slice, or is answered at once. -/
theorem amsgForm_of_home {s : State} {e : Env} {d : Bool} {ad : Addr} {x : Xlate} {l : Nat}
    (had : e.address s.clock false 0 = (d, some ad)) (h8 : ad.a % 8 = 0)
    (hx : e.xlate (e.dead (e.dead s (e.read s.clock e.srcB 0).2) d) ad.a needR = .ok x) (hm : x.e.cmode = 0)
    (hh : home (e.atMessage s d x) x.pa = some l) :
    amsgForm e s = .done (if takesMessages (e.atMessage s d x) l e.ctx x.e.aclass then
        e.sendMessage (e.atMessage s d x) l x (e.read s.clock e.srcB 0).1
      else dischargeBoth (e.putS (e.atMessage s d x) e.dst 0) e.id e.flagPair.1 e.flagPair.2) := by
  rw [apply_ite Res.done]
  unfold Env.atMessage at *
  simp only [amsgForm, Env.uniVal, had, Option.map_some, Option.getD_some, h8, hx, hm, hh, bne_self_eq_false,
    Bool.false_eq_true, if_false]

/-- Settles O38: a clean by how wide its scope is, the fence by its one form, a message by its home slice. -/
theorem cleanFenceMessage : Obligations.CleanFenceMessage := by
  intro f s e
  refine ⟨fun p hp h d ad had hl => ?clean, fun h => ?fence, fun h d ad x l had h8 hx hm hh => ?message⟩
  case clean =>
    rw [exec_clean_eq hp]
    exact ⟨fun hs => issue_of_form h (cleanForm_of_narrow_scope p.2 had hl hs), fun xs hs hx =>
      ⟨_, issue_of_form h (cleanForm_of_wide_scope p.2 had hl hs hx), cleanHits_iff xs _ _⟩⟩
  case fence => exact issue_of_form h rfl
  case message => exact issue_of_form h (amsgForm_of_home had h8 hx hm hh)

end Sys2Proof.Machine
end

section
/-! Proofs about `cwait` and `hpub` (O41). -/

namespace Sys2Proof.Machine

/-! `cwait` (R268). -/

/-- Noting that a dead register was read leaves every core's units. -/
theorem core_dead (e : Env) (s : State) (b : Bool) (k : Nat) : (e.dead s b).core k = s.core k := by
  rw [onlyCrews_dead e s b]
  rfl

/-- What the counter of a `cwait` is past its operand, modulo 2^32; a difference from 2^31 on is one still to come. -/
def Env.pastCount (e : Env) (s : State) : Nat :=
  (((tabGet (s.core e.core).ctrs e.var).map (fun r => r.value.toNat)).getD 0 + 2 ^ 32 -
    (e.read s.clock e.srcB 0).1.toNat % 2 ^ 32) % 2 ^ 32

section
variable {s : State} {e : Env}

theorem cwaitForm_of_reached (h : e.pastCount s < 2 ^ 31) :
    cwaitForm e s = .done (e.raisePts (e.observe (e.endUses (e.dead s (e.read s.clock e.srcB 0).2)))
      (((tabGet (s.core e.core).ctrs e.var).map RowCtr.ts).getD 0)) := by
  simp only [cwaitForm, Env.uniVal]
  exact if_pos h

theorem cwaitForm_of_ahead (h : 2 ^ 31 ≤ e.pastCount s) :
    cwaitForm e s = .wait (e.dead s (e.read s.clock e.srcB 0).2) .stalled := by
  simp only [cwaitForm, Env.uniVal]
  exact if_neg (Nat.not_lt.2 h)

end

/-! `hpub` (R127, R267, R418). -/

/-- An `hpub` of a double mapping exchanges its halves, or keeps its request and waits. -/
theorem hpubForm_of_double {s : State} {e : Env} {k : Nat} {m : Mapping}
    (hk : mapAt (e.dead s (e.read s.clock e.srcA 0).2) e.core e.ctx ((e.read s.clock e.srcA 0).1.toNat % 2 ^ 19) = some (k, m))
    (hm : m.desc.mode = 2) :
    let s1 := e.dead s (e.read s.clock e.srcA 0).2
    let r := e.request s1 2 k
    let s2 := raiseEng (e.obligeFlags (e.endUses (e.dropRequest s1 2))) e.id e.c.pts
    hpubForm e s = if hiddenDone s1 e.core r.before m then .done (dischargeBoth (exchange s2 e.core k e.id m) e.id r.flgb r.flga)
      else .wait (e.keepRequest s1 r) .stalled := by
  simp only [hpubForm, Env.uniVal, hk, hm, bne_self_eq_false, Bool.false_eq_true, if_false]
  rfl

/-- The exchange of a waiting split's request, once no earlier command writes the hidden half. -/
theorem exec_hpubExchange_of_done {s : State} {core k : Nat} {r : StashReq} {m : Mapping}
    (hr : (s.core core).reqs.find? (fun r => r.kind == 2 && r.entry == k && r.live s) = some r)
    (hk : tabGet (s.core core).maps k = some m) (hd : hiddenDone s core r.before m = true) :
    let s1 := (s.modCore core (fun c => { c with reqs := c.reqs.filter (fun q => q != r) })).modCrew r.crew r.take
    let s2 := raiseEng s1 r.crew (((s1.crew r.crew).map Crew.pts).getD 0)
    let s3 := dischargeBoth (exchange s2 core k r.crew m) r.crew r.flgb r.flga
    exec (.hpubExchange core k) s = .next (noteIdle (advance s3 r.crew r.split r.len) r.crew) := by
  show execHpubExchange core k s = _
  simp only [execHpubExchange, hr, hk, hd, Bool.not_true, Bool.false_eq_true, if_false]

/-- Settles O41: `cwait` by the order of its counter and its operand, `hpub` by whether the hidden half is still written. -/
theorem counterWaitAndPublish : Obligations.CounterWaitAndPublish := by
  intro f s e
  refine ⟨fun h => ?wait, fun k m h hk hm => ?publish, fun core k r m => exec_hpubExchange_of_done⟩
  case wait =>
    simp only [core_dead]
    exact ⟨fun hv => issue_of_form h (cwaitForm_of_reached hv), fun hv => issue_of_form h (cwaitForm_of_ahead hv)⟩
  case publish =>
    have hform := hpubForm_of_double hk hm
    exact ⟨fun hd => issue_of_form h (hform.trans (if_pos hd)),
      fun hd => issue_of_form h (hform.trans (if_neg (Bool.eq_false_iff.1 hd)))⟩

end Sys2Proof.Machine
end

section
/-! Proofs about `mwait` and `bsel.topk` (O45). -/

namespace Sys2Proof.Machine

/-! `mwait` (R275, R388). -/

section
variable {s : State} {e : Env}

theorem mwaitForm_of_outsider (hr : e.id ∉ (s.core e.core).ring) : mwaitForm e s = .exc s .rlamp := by
  simp [mwaitForm, hr]

theorem mwaitForm_of_member (hr : e.id ∈ (s.core e.core).ring) :
    mwaitForm e s = if ∃ c ∈ (s.core e.core).eng, c.crew = e.id then .wait s .stalled else .done (e.observe s) := by
  simp [mwaitForm, hr]

end

/-! `bsel.topk` (R277, R406). -/

/-- The state once the two sources of a `bsel.topk` are read. -/
def Env.atTopk (e : Env) (s : State) : State :=
  e.dead (e.dead s (e.read s.clock e.srcA 0).2) (e.read s.clock e.srcB 0).2

/-- An access of the stash that stands in a mapping of the crew, waits for nothing and meets no refusal. -/
def Env.spotClear (e : Env) (s : State) (p : Nat × Nat × Bool) : Prop :=
  ∃ x, e.spot s p.1 p.2.1 p.2.2 = .ok x ∧ e.targetWaits s p.2.1 p.2.2 x = false ∧ e.spotRefused s p.1 p.2.1 p.2.2 = none

/-- The accesses of a `bsel.topk`, each with its bytes and whether it writes. -/
def Env.topSpots (e : Env) (t : TopK) (base : Nat) : List (Nat × Nat × Bool) :=
  (t.reads (e.bits / 8) base).map (fun x => (x, e.bits / 8, false)) ++ t.writes.map (fun x => (x, 2, true))

/-- What holds of every score's read and of every entry's write holds of every access. -/
theorem forall_topSpots {e : Env} {t : TopK} {base : Nat} {P : Nat × Nat × Bool → Prop}
    (hr : ∀ p ∈ t.reads (e.bits / 8) base, P (p, e.bits / 8, false)) (hw : ∀ p ∈ t.writes, P (p, 2, true)) :
    ∀ p ∈ e.topSpots t base, P p := by
  intro p hp
  rcases List.mem_append.1 hp with hp | hp <;> obtain ⟨a, ha, rfl⟩ := List.mem_map.1 hp
  · exact hr a ha
  · exact hw a ha

/-- A `bsel.topk` all of whose accesses are clear selects row after row. -/
theorem bselTopkForm_of_clear {s : State} {e : Env} :
    let t := topkOf (e.read s.clock e.srcB 0).1.toNat e.dst
    let base := (e.read s.clock e.srcA 0).1.toNat % 2 ^ 19
    let r := (List.range (t.nq + 1)).foldl (e.topRow t base) (e.endUses (e.atTopk s), 0, [])
    t.bad = false → t.list % 8 = 0 → (∀ p ∈ e.topSpots t base, e.spotClear (e.atTopk s) p) →
    bselTopkForm e s = .done (e.poisoned (settle r.1 e.core r.2.2) r.2.1) := by
  intro t base r hb hl h
  have hrefused : (e.topSpots t base).findSome? (fun p => e.spotRefused (e.atTopk s) p.1 p.2.1 p.2.2) = none := by
    refine List.findSome?_eq_none_iff.2 fun p hp => ?_
    obtain ⟨-, -, -, hr⟩ := h p hp
    exact hr
  unfold Env.topSpots Env.atTopk at h hrefused
  simp only [t, base] at hb hl h hrefused
  simp only [bselTopkForm, Env.uniVal, clock_dead, hb, hl, hrefused, bne_self_eq_false, Bool.false_eq_true, if_false]
  split
  case h_1 f hfail =>
    obtain ⟨p, hp, hf⟩ := List.exists_of_findSome?_eq_some hfail
    obtain ⟨x, hx, -⟩ := h p hp
    simp [hx] at hf
  case h_2 =>
    refine if_neg fun hwait => ?_
    obtain ⟨p, hp, hw⟩ := List.any_eq_true.1 hwait
    obtain ⟨x, hx, hno, -⟩ := h p hp
    simp [hx, hno] at hw

/-- Settles O45: `mwait` by the ring and the engine's instructions; `bsel.topk` where every access is clear. -/
theorem engineWaitAndSelect : Obligations.EngineWaitAndSelect := by
  intro f s e
  refine ⟨fun h hr hn => ?idle, fun h hb hl hread hwrite => ?select, fun h hr hn => ?busy,
    fun h hr => issue_of_form h (mwaitForm_of_outsider hr), fun t base q a => ⟨_, _, rfl⟩⟩
  case idle => exact issue_of_form h ((mwaitForm_of_member hr).trans (if_neg fun ⟨c, hc, hid⟩ => hn c hc hid))
  case select => exact issue_of_form h (bselTopkForm_of_clear hb hl (forall_topSpots hread hwrite))
  case busy => exact issue_of_form h ((mwaitForm_of_member hr).trans (if_pos hn))

end Sys2Proof.Machine
end

section
/-! Proofs about what narrowing keeps of an exact integer (O11). -/

namespace Sys2Proof

/-! Saturation (R135). -/

theorem minInt_le_maxInt (sg : Bool) (n : Nat) : minInt sg n ≤ maxInt sg n := by
  have hpos : ∀ m, (0 : Int) < 2 ^ m := fun m => by positivity
  have hn := hpos n
  have hpred := hpos (n - 1)
  cases sg <;> simp only [minInt, maxInt, if_true, if_false, Bool.false_eq_true] <;> omega

section
variable {sg : Bool} {n : Nat} {x : Int}

theorem satInt_of_fits (hmin : minInt sg n ≤ x) (hmax : x ≤ maxInt sg n) : satInt sg n x = x := by
  rw [satInt, max_eq_left hmin, min_eq_left hmax]

theorem satInt_of_above (h : maxInt sg n < x) : satInt sg n x = maxInt sg n :=
  min_eq_right (h.le.trans (le_max_left _ _))

theorem satInt_of_below (h : x < minInt sg n) : satInt sg n x = minInt sg n := by
  rw [satInt, max_eq_right h.le, min_eq_left (minInt_le_maxInt sg n)]

/-! The low bits of an integer (R135). -/

theorem cast_wrapInt : (wrapInt n x : Int) = x % 2 ^ n := Int.toNat_of_nonneg (Int.emod_nonneg _ (by positivity))

theorem wrapInt_lt : wrapInt n x < 2 ^ n := by
  have hlt : x % 2 ^ n < 2 ^ n := Int.emod_lt_of_pos _ (by positivity)
  rw [← cast_wrapInt] at hlt
  exact_mod_cast hlt

/-- What fits a format is read back from its low bits: a negative integer's are those of the integer plus 2^n. -/
theorem readInt_wrapInt (hn : 0 < n) (hmin : minInt sg n ≤ x) (hmax : x ≤ maxInt sg n) :
    readInt sg n (wrapInt n x) = x := by
  have hhalf : (2 : Int) ^ n = 2 * 2 ^ (n - 1) := (mul_pow_sub_one hn.ne' 2).symm
  have hhigh : 2 ^ (n - 1) ≤ wrapInt n x ↔ (2 : Int) ^ (n - 1) ≤ x % 2 ^ n := by
    rw [← cast_wrapInt]
    norm_cast
  have hread : readInt sg n (wrapInt n x) =
      if sg = true ∧ (2 : Int) ^ (n - 1) ≤ x % 2 ^ n then x % 2 ^ n - 2 ^ n else x % 2 ^ n := by
    simp only [readInt, cast_wrapInt, Bool.and_eq_true, decide_eq_true_eq, hhigh]
  rw [hread]
  rcases lt_or_ge x 0 with hneg | hpos
  · cases sg
    case false => exact absurd hmin (not_le.2 hneg)
    case true =>
      simp only [minInt, if_true] at hmin
      have hmod : x % 2 ^ n = x + 2 ^ n := by
        rw [← Int.add_emod_right, Int.emod_eq_of_lt (by omega) (by omega)]
      rw [hmod, if_pos ⟨rfl, by omega⟩, add_sub_cancel_right]
  · have hsmall : x < 2 ^ n ∧ ¬(sg = true ∧ (2 : Int) ^ (n - 1) ≤ x) := by
      cases sg <;> simp only [maxInt, if_true, if_false, Bool.false_eq_true] at hmax <;> simp <;> omega
    rw [Int.emod_eq_of_lt hpos hsmall.1, if_neg hsmall.2]

/-! Narrowing, which wraps, or saturates and then wraps (R135, R200). -/

theorem narrow_lt (sat : Bool) : (narrow sat sg n x).1 < 2 ^ n := by
  cases sat <;> exact wrapInt_lt

theorem narrow_of_fits (sat : Bool) (hmin : minInt sg n ≤ x) (hmax : x ≤ maxInt sg n) :
    narrow sat sg n x = (wrapInt n x, false) := by
  cases sat <;> simp [narrow, satInt_of_fits hmin hmax]

/-- Beyond the format saturation keeps an end of it, which reads as itself, and says so. -/
theorem narrow_of_saturated (hn : 0 < n) {y : Int} (hsat : satInt sg n x = y) (hmin : minInt sg n ≤ y)
    (hmax : y ≤ maxInt sg n) (hne : y ≠ x) :
    readInt sg n (narrow true sg n x).1 = y ∧ (narrow true sg n x).2 = true := by
  simp only [narrow, hsat, if_true]
  exact ⟨readInt_wrapInt hn hmin hmax, bne_iff_ne.2 hne⟩

end

/-- Settles O11: within the format both ways keep the low bits, and beyond it they part. -/
theorem narrowingIsExactOrSaturates : Obligations.NarrowingIsExactOrSaturates := by
  intro sat sg n x hn
  refine ⟨narrow_lt sat, fun ⟨hmin, hmax⟩ => ?fits, fun hs h => ?above, fun hs h => ?below, fun hs => ?wraps⟩
  case fits => rw [narrow_of_fits sat hmin hmax]; exact ⟨readInt_wrapInt hn hmin hmax, rfl⟩
  case above => rw [hs]; exact narrow_of_saturated hn (satInt_of_above h) (minInt_le_maxInt sg n) le_rfl h.ne
  case below => rw [hs]; exact narrow_of_saturated hn (satInt_of_below h) le_rfl (minInt_le_maxInt sg n) h.ne'
  case wraps => rw [hs]; exact ⟨cast_wrapInt, rfl⟩

end Sys2Proof
end

section
/-! Proofs about the elementwise floating instructions (O16): what their shared pseudocode leaves on each side, then the
obligation, read off both tables of instructions. -/

namespace Sys2Proof.Machine

/-! The pseudocode of R216 on each side. -/

/-- One lane of the pseudocode: what its elements give, and whether a source was dead. -/
def Env.floatOut (e : Env) (clock : Nat) (k : Env → Nat → Nat → Nat → Nat × Flags) (l : Nat) : LaneOut :=
  ⟨l, (e.floatLane clock l k).1, (e.floatLane clock l k).2, e.readsDead clock l⟩

section
variable {i : Instr} {s : State} {e : Env} (h : Runs i s e) (k : Env → Nat → Nat → Nat → Nat × Flags)
include h

theorem issue_floatForm_of_uniform (hu : e.form.uniform = true) :
    ∃ t, issue i (floatForm k) s = .next t ∧
      UniformResult e s t (e.newS s false (e.gatherBits e.bits) (e.floatLane s.clock 0 k).1)
        ((e.floatLane s.clock 0 k).2 ||| flagIf (e.readsDead s.clock 0) flagDEAD) := by
  obtain ⟨u, hdone, hresult⟩ := finishS_result e s false (e.gatherBits e.bits) (e.floatOut s.clock k 0) h.crew
  have hform : floatForm k e s = .done u := (if_pos hu).trans hdone
  exact ⟨_, issue_of_form h hform, hresult⟩

theorem issue_floatForm_of_vector (hv : e.form.uniform = false) :
    ∃ t, issue i (floatForm k) s = .next t ∧
      VectorResult e s t e.acting (fun l => e.newV s false (e.gatherBits e.bits) l (e.floatLane s.clock l k).1)
        (joinFlags e.acting (fun l => (e.floatLane s.clock l k).2 ||| flagIf (e.readsDead s.clock l) flagDEAD)) := by
  obtain ⟨u, hdone, hresult⟩ := finishV_result e s false (e.gatherBits e.bits) e.acting (e.floatOut s.clock k) h.crew
    (fun _ => rfl) (acting_nodup e) (acting_lt e)
  have hform : floatForm k e s = .done u := (if_neg (Bool.eq_false_iff.1 hv)).trans hdone
  rw [laneFlags_map] at hresult
  exact ⟨_, issue_of_form h hform, hresult⟩

end

/-! The instructions of Tables 11-1 to 11-4. -/

/-- Every instruction of a table is issued on side `b` and runs the pseudocode of R216 with the operation listed. -/
def FloatTable (b : Bool) (l : List ((Fields → Instr) × (Env → Nat → Nat → Nat → Nat × Flags))) : Prop :=
  ∀ p ∈ l, ∀ f, rowSide (p.1 f) = some b ∧ ∀ s, exec (p.1 f) s = issue (p.1 f) (floatForm p.2) s

/-- A table is read entry by entry: the dispatch and the rows, listed along it, are what it says. -/
theorem floatTable_of_map {b : Bool} {l : List ((Fields → Instr) × (Env → Nat → Nat → Nat → Nat × Flags))}
    (hside : l.map (fun p f => rowSide (p.1 f)) = l.map (fun _ _ => some b))
    (hexec : l.map (fun p f s => exec (p.1 f) s) = l.map (fun p f s => issue (p.1 f) (floatForm p.2) s)) :
    FloatTable b l := fun p hp f =>
  ⟨congrFun (List.map_inj_left.1 hside p hp) f, congrFun (congrFun (List.map_inj_left.1 hexec p hp) f)⟩

theorem floatTable_vectorFloat : FloatTable false vectorFloat := floatTable_of_map rfl rfl

theorem floatTable_uniformFloat : FloatTable true uniformFloat := floatTable_of_map rfl rfl

/-- Settles O16: every listed instruction runs the pseudocode of R216 on the side of its table. -/
theorem floatResults : Obligations.FloatResults := by
  refine ⟨fun p hp f s e h => ?vector, fun p hp f s e h => ?uniform⟩
  case vector =>
    obtain ⟨hside, hexec⟩ := floatTable_vectorFloat p hp f
    rw [hexec]
    exact issue_floatForm_of_vector h p.2 (h.uniform_eq hside)
  case uniform =>
    obtain ⟨hside, hexec⟩ := floatTable_uniformFloat p hp f
    rw [hexec]
    exact issue_floatForm_of_uniform h p.2 (h.uniform_eq hside)

end Sys2Proof.Machine
end

section
/-! Proofs about the control registers and the flags (O25). First how the effects of an instruction on its crew add up; then
the fields of the control registers, and the forms. -/

namespace Sys2Proof.Machine

/-! The effects of an instruction on its crew, one after another. -/

/-- The effects of an instruction lead from `s` to `u`: its crew is `c` there, and nothing but that crew differs. -/
structure Env.Leads (e : Env) (s u : State) (c : Crew) : Prop where
  only : OnlyCrews s u
  crew : u.crew e.id = some c
  others : ∀ d, d ≠ e.id → u.crew d = s.crew d

theorem Env.Leads.start {e : Env} {s : State} {c : Crew} (hc : s.crew e.id = some c) : e.Leads s s c :=
  ⟨OnlyCrews.refl s, hc, fun _ _ => rfl⟩

section
variable {e : Env} {s u : State} {c : Crew} (h : e.Leads s u c)
include h

theorem Env.Leads.modCrew (k : Crew → Crew) : e.Leads s (u.modCrew e.id k) (k c) :=
  ⟨h.only.trans (onlyCrews_modCrew _ _ _), by rw [crew_modCrew, h.crew]; rfl,
    fun d hd => (crew_modCrew_ne _ _ _ _ hd).trans (h.others d hd)⟩

theorem Env.Leads.flag (fl : Flags) : e.Leads s (e.flag u fl) (c.orSticky fl) :=
  ⟨h.only.trans (onlyCrews_flag _ _ _), crew_flag e u fl c h.crew,
    fun d hd => (crew_flag_ne _ _ _ _ hd).trans (h.others d hd)⟩

theorem Env.Leads.endUses : e.Leads s (e.endUses u) (e.spent u) :=
  ⟨h.only.trans (onlyCrews_endUses _ _), crew_endUses e u c h.crew,
    fun d hd => (crew_endUses_ne _ _ _ hd).trans (h.others d hd)⟩

theorem Env.Leads.done : CrewBecomes e.id s (settleRes e (.done u)) c := crewBecomes_done e s u c h.only h.crew h.others

end

/-! The fields of the control registers (R192, Table 22-6). -/

section
variable (c : Crew) (w : Word)

theorem csr_setCsr_fpctl : ((c.setCsr 0 w).csr 0).toNat = w.toNat % 16 := by
  simp only [Crew.setCsr, Crew.csr, BitVec.toNat_ofNat]
  omega

theorem csr_setCsr_sticky : ((c.setCsr 1 w).csr 1).toNat = w.toNat % 512 := by
  simp only [Crew.setCsr, Crew.csr, BitVec.toNat_ofNat]
  omega

theorem csr_setCsr_uie :
    ((c.setCsr 2 w).csr 2).toNat = w.toNat % 2 + 2 * bitNat c.uintPend + 4 * bitNat c.uintRun := by
  have hbit : bitNat (w.getLsbD 0) = w.toNat % 2 := by
    rw [BitVec.getLsbD, Nat.testBit_zero]
    rcases Nat.mod_two_eq_zero_or_one w.toNat with h | h <;> simp [bitNat, h]
  have hle : ∀ b, bitNat b ≤ 1 := fun b => by cases b <;> decide
  have hpend := hle c.uintPend
  have hrun := hle c.uintRun
  simp only [Crew.setCsr, Crew.csr, hbit, BitVec.toNat_ofNat]
  omega

/-- A control register reads as before after a write of another. -/
theorem csr_setCsr_ne {n m : Nat} (h : n ≠ m) : (c.setCsr n w).csr m = c.csr m := by
  match n, m with
  | 0, 0 | 1, 1 | 2, 2 => exact absurd rfl h
  | 0, 1 | 0, 2 | 0, _ + 3 => rfl
  | 1, 0 | 1, 2 | 1, _ + 3 => rfl
  | 2, 0 | 2, 1 | 2, _ + 3 => rfl
  | _ + 3, _ => rfl

end

/-! The forms (R185, R192). -/

section
variable {s : State} {e : Env}

/-- A handler can be enabled only in a crew with uniform registers (R192, Table 22-6). -/
theorem csrwForm_of_no_register (h : e.var = 2 ∧ (e.read s.clock e.srcA 0).1.getLsbD 0 = true ∧ e.c.kernel.scount = 0) :
    csrwForm e s = .exc (e.dead s (e.read s.clock e.srcA 0).2) .ropnd := by
  simp [csrwForm, Env.uniVal, h]

theorem csrwForm_of_allowed (h : ¬(e.var = 2 ∧ (e.read s.clock e.srcA 0).1.getLsbD 0 = true ∧ e.c.kernel.scount = 0)) :
    csrwForm e s = .done ((e.endUses (e.dead s (e.read s.clock e.srcA 0).2)).modCrew e.id
      (fun c => c.setCsr e.var (e.read s.clock e.srcA 0).1)) := by
  simp only [csrwForm, Env.uniVal]
  exact if_neg (by simpa [and_assoc] using h)

/-- Reading the flags observes the engines' work where a flag is set (R185). -/
theorem leads_observed (hc : s.crew e.id = some e.c) :
    e.Leads s (if e.c.flags == 0 then s else e.observe s)
      { e.c with pts := if e.c.flags = 0 then e.c.pts else max e.c.pts e.c.engTs } := by
  by_cases hf : e.c.flags = 0
  · rw [if_pos (beq_iff_eq.2 hf), if_pos hf]
    exact .start hc
  · rw [if_neg (mt beq_iff_eq.1 hf), if_neg hf]
    exact (Env.Leads.start hc).modCrew _

end

/-- Settles O25: each form by what it leads to, each register by its field. -/
theorem controlRegisters : Obligations.ControlRegisters := by
  refine ⟨fun f s e => ⟨fun h => ?csrr, fun h hok => ?csrw, fun h hbad => ?refused, fun h => ?clear, fun h => ?flags⟩,
    fun c w => ⟨csr_setCsr_fpctl c w, csr_setCsr_sticky c w, csr_setCsr_uie c w, rfl, fun n m _ _ => csr_setCsr_ne c w⟩⟩
  case csrr => exact ⟨_, issue_runs h csrrForm, ((Env.Leads.start h.crew).modCrew _).done⟩
  case csrw =>
    exact ⟨_, issue_of_form h (csrwForm_of_allowed hok), (((Env.Leads.start h.crew).flag _).endUses.modCrew _).done⟩
  case refused => exact issue_of_form h (csrwForm_of_no_register hbad)
  case clear => exact ⟨_, issue_runs h flgClrForm, ((Env.Leads.start h.crew).modCrew _).done⟩
  case flags => exact ⟨_, issue_runs h flgRdForm, ((leads_observed h.crew).modCrew _).done⟩

end Sys2Proof.Machine
end

section
/-! Proofs about reductions and scans (O20). First the elements of a word; then the word that a reduction or a scan makes
of its elements, and what its lanes leave where dead registers were noted before. -/

namespace Sys2Proof

/-! Elements of a word (R75). -/

theorem testBit_elemAt (n i : Nat) (w : Word) (j : Nat) :
    (elemAt n i w).testBit j = (decide (j < n) && w.getLsbD (n * i + j)) := by
  rw [elemAt, Nat.testBit_mod_two_pow, Nat.testBit_div_two_pow, Nat.add_comm]
  rfl

/-- The bits of a word once an element is replaced: those of the element are the value's, and the others stay. -/
theorem getLsbD_setElem (n i : Nat) (w : Word) (v : Nat) {k : Nat} (hk : k < 64) :
    (setElem n i w v).getLsbD k =
      if n * i ≤ k ∧ k < n * i + n then v.testBit (k - n * i) else w.getLsbD k := by
  have hlow : w.toNat % 2 ^ (n * i) < 2 ^ (n * i) := Nat.mod_lt _ (by positivity)
  have hmid : 2 ^ (n * i) * (v % 2 ^ n) + w.toNat % 2 ^ (n * i) < 2 ^ (n * (i + 1)) := by
    have hv : v % 2 ^ n + 1 ≤ 2 ^ n := Nat.mod_lt _ (by positivity)
    calc _ < 2 ^ (n * i) * (v % 2 ^ n + 1) := by rw [Nat.mul_add_one]; omega
      _ ≤ 2 ^ (n * i) * 2 ^ n := Nat.mul_le_mul_left _ hv
      _ = 2 ^ (n * (i + 1)) := by rw [← pow_add, Nat.mul_add_one]
  have hsum : setElem n i w v = BitVec.ofNat 64 (2 ^ (n * (i + 1)) * (w.toNat / 2 ^ (n * (i + 1))) +
      (2 ^ (n * i) * (v % 2 ^ n) + w.toNat % 2 ^ (n * i))) := by
    rw [setElem]
    congr 1
    omega
  rw [hsum, BitVec.getLsbD_ofNat, Nat.testBit_two_pow_mul_add _ hmid, Nat.testBit_two_pow_mul_add _ hlow,
    Nat.testBit_div_two_pow, Nat.testBit_mod_two_pow, Nat.testBit_mod_two_pow, Nat.mul_add_one]
  simp only [hk, decide_true, Bool.true_and]
  split
  · rename_i hlt
    by_cases hi : k < n * i
    · simp [hi, Nat.not_le.2 hi, BitVec.getLsbD]
    · simp [hi, hlt, Nat.not_lt.1 hi, show k - n * i < n by omega]
  · rename_i hge
    rw [if_neg (fun h => hge h.2), Nat.sub_add_cancel (Nat.not_lt.1 hge)]
    rfl

theorem elemAt_setElem_same {n i : Nat} (h : n * (i + 1) ≤ 64) (w : Word) (v : Nat) :
    elemAt n i (setElem n i w v) = v % 2 ^ n := by
  refine Nat.eq_of_testBit_eq fun j => ?_
  rw [testBit_elemAt, Nat.testBit_mod_two_pow]
  by_cases hj : j < n
  · rw [Nat.mul_add_one] at h
    rw [getLsbD_setElem _ _ _ _ (by omega), if_pos (by omega), Nat.add_sub_cancel_left]
  · simp [hj]

theorem elemAt_setElem_ne {n i j : Nat} (h : n * (j + 1) ≤ 64) (hne : j ≠ i) (w : Word) (v : Nat) :
    elemAt n j (setElem n i w v) = elemAt n j w := by
  refine Nat.eq_of_testBit_eq fun t => ?_
  rw [testBit_elemAt, testBit_elemAt]
  by_cases ht : t < n
  · have happart : ¬(n * i ≤ n * j + t ∧ n * j + t < n * i + n) := by
      have hstep : ∀ {a b : Nat}, a < b → n * a + n ≤ n * b := fun hab => Nat.mul_le_mul_left n hab
      rcases Nat.lt_or_gt_of_ne hne with hlt | hlt
      · have hbefore := hstep hlt
        omega
      · have hafter := hstep hlt
        omega
    rw [Nat.mul_add_one] at h
    rw [getLsbD_setElem _ _ _ _ (by omega), if_neg happart]
  · simp [ht]

/-- Elements are written one after another: each holds what was written there. -/
theorem elemAt_foldl_setElem (n : Nat) (g : Nat → Nat) (w : Word) {m j : Nat} (hm : n * m ≤ 64) (hj : j < m) :
    elemAt n j ((List.range m).foldl (fun w i => setElem n i w (g i)) w) = g j % 2 ^ n := by
  induction m with
  | zero => exact absurd hj (Nat.not_lt_zero j)
  | succ m ih =>
    rw [List.range_succ, List.foldl_append, List.foldl_cons, List.foldl_nil]
    by_cases hjm : j = m
    · subst hjm
      exact elemAt_setElem_same hm _ _
    · have hle : n * (j + 1) ≤ n * (m + 1) := Nat.mul_le_mul_left n hj
      rw [elemAt_setElem_ne (hle.trans hm) hjm]
      exact ih ((Nat.mul_le_mul_left n (Nat.le_succ m)).trans hm) (by omega)

namespace Machine

/-! The word of a reduction: its elements, the identity where nothing is present, and their flags (R149, R150). -/

/-- Element i of a word becomes what `y i` gives. -/
def Env.redPut (e : Env) (y : Nat → Option Nat × Flags) (a : Word × Flags) (i : Nat) : Word × Flags :=
  (setElem e.bits i a.1 ((y i).1.getD e.redIdentity), a.2 ||| (y i).2)

/-- The word whose elements `y` gives. -/
def Env.redWord (e : Env) (y : Nat → Option Nat × Flags) : Word × Flags :=
  (List.range (64 / e.bits)).foldl (e.redPut y) (0, 0)

section
variable (e : Env) (y : Nat → Option Nat × Flags)

theorem redWord_flags : (e.redWord y).2 = joinFlags (List.range (64 / e.bits)) (fun i => (y i).2) :=
  (List.foldl_hom Prod.snd fun _ _ => rfl).symm

theorem elemAt_redWord {i : Nat} (hi : i < 64 / e.bits) :
    elemAt e.bits i (e.redWord y).1 = (y i).1.getD e.redIdentity % 2 ^ e.bits := by
  have hword : (e.redWord y).1 =
      (List.range (64 / e.bits)).foldl (fun w i => setElem e.bits i w ((y i).1.getD e.redIdentity)) 0 :=
    (List.foldl_hom Prod.fst fun _ _ => rfl).symm
  rw [hword]
  exact elemAt_foldl_setElem _ _ _ (Nat.mul_div_le 64 e.bits) hi

end

/-! Results where dead registers were noted before the marked sources end (R80, R383). -/

theorem orSticky_orSticky (c : Crew) (f g : Flags) : (c.orSticky f).orSticky g = c.orSticky (g ||| f) := by
  simp only [Crew.orSticky, BitVec.or_assoc, BitVec.or_comm f g]

section
variable {e : Env} {s : State} (hc : s.crew e.id = some e.c)
include hc

/-- Dead registers are noted, the marked sources end, flags join. -/
theorem leads_flagged (d : Bool) (fl : Flags) :
    e.Leads s (e.flag (e.endUses (e.dead s d)) fl) ((e.spent s).orSticky (fl ||| flagIf d flagDEAD)) := by
  have hflag := (((Env.Leads.start hc).flag (flagIf d flagDEAD)).endUses).flag fl
  rwa [← Env.dead, spent_dead hc, orSticky_orSticky] at hflag

theorem finishWhole_dead_result (d : Bool) (fl : Flags) (w : Word) :
    ∃ u, e.finishWhole (e.dead s d) fl w = .done u ∧
      UniformResult e s (settleRes e (.done u)) (.live w) (fl ||| flagIf d flagDEAD) :=
  ⟨_, rfl, ((leads_flagged hc d fl).modCrew (fun c => c.writeS e.dst w)).done⟩

theorem finishV_dead_result (d signed : Bool) (n : Nat) (k : Nat → LaneOut) (hk : ∀ l, (k l).lane = l) :
    ∃ u, e.finishV (e.dead s d) signed n (e.acting.map k) = .done u ∧
      VectorResult e s (settleRes e (.done u)) e.acting (fun l => e.newV s signed n l (k l).v)
        (laneFlags (e.acting.map k) ||| flagIf d flagDEAD) := by
  have h := ((leads_flagged hc d (laneFlags (e.acting.map k))).modCrew (fun c => (e.acting.map k).foldl (fun c r =>
    c.setV e.dst r.lane (e.wrote (c.vAt e.dst r.lane) (e.result signed n (c.vAt e.dst r.lane) r.v))) c)).done
  simp only [List.foldl_map, hk] at h
  simp only [Env.finishV, List.foldl_map, hk]
  refine ⟨_, rfl, _, h, foldl_setV_rest e.dst (fun l old => e.wrote old (e.result signed n old (k l).v)) _ _, ?_⟩
  intro r l hl
  rw [vAt_foldl_setV e.dst (fun l old => e.wrote old (e.result signed n old (k l).v)) _ _ (acting_nodup e) (acting_lt e)
    r l hl]
  rfl

end

/-! The forms (R235, R236). -/

/-- Element i of what `vred` gives: the root of the tree over the acting lanes. -/
def Env.redRoot (e : Env) (clock i : Nat) : Option Nat × Flags :=
  e.redNode (e.redVal (e.redVals clock) i) (5 + e.c.kernel.width) 0

/-- Element i of what `vscan` gives lane l: the lanes before it, with it or without. -/
def Env.scanned (e : Env) (clock l i : Nat) : Option Nat × Flags :=
  e.redPrefix (e.redVal (e.redVals clock) i) (if e.f.var.getLsbD 3 then l else l + 1)

/-- A lane's result that is a whole word. -/
def LaneOut.ofWord (l : Nat) (x : Word × Flags) : LaneOut := ⟨l, x.1.toNat, x.2, false⟩

/-- What `vscan` gives lane l. -/
def Env.scanOut (e : Env) (clock l : Nat) : LaneOut := .ofWord l (e.redWord (e.scanned clock l))

/-- An acting lane's source is dead. -/
def Env.redDead (e : Env) (clock : Nat) : Bool := (e.redVals clock).any (fun x => x.2.2)

theorem vredForm_eq (e : Env) (s : State) :
    vredForm e s = e.finishWhole (e.dead s (e.redDead s.clock)) (e.redWord (e.redRoot s.clock)).2
      (e.redWord (e.redRoot s.clock)).1 := rfl

theorem vscanForm_eq (e : Env) (s : State) :
    vscanForm e s = e.finishV (e.dead s (e.redDead s.clock)) false 64 (e.acting.map (e.scanOut s.clock)) := by
  have hlane : e.scanOut s.clock = fun l => (List.range (64 / e.bits)).foldl (fun (a : LaneOut) i =>
      { a with v := (setElem e.bits i (BitVec.ofNat 64 a.v) ((e.scanned s.clock l i).1.getD e.redIdentity)).toNat,
               flags := a.flags ||| (e.scanned s.clock l i).2 }) ⟨l, 0, 0, false⟩ := funext fun l =>
    .symm <| List.foldl_hom (LaneOut.ofWord l) (g₁ := e.redPut (e.scanned s.clock l)) (init := (0, 0)) fun x i => by
      simp [LaneOut.ofWord, Env.redPut]
  rw [hlane]
  rfl

theorem laneFlags_scanOut (e : Env) (clock : Nat) :
    laneFlags (e.acting.map (e.scanOut clock)) =
      joinFlags e.acting (fun l => joinFlags (List.range (64 / e.bits)) (fun i => (e.scanned clock l i).2)) := by
  rw [laneFlags_map]
  simp [Env.scanOut, LaneOut.ofWord, redWord_flags, flagIf]

/-- Settles O20: each form makes the word of its elements, and its lanes' sources are noted first. -/
theorem reduceAndScanResults : Obligations.ReduceAndScanResults := by
  intro f s e
  refine ⟨fun h => ?vred, fun h => ?vscan⟩
  case vred =>
    obtain ⟨u, hdone, hresult⟩ := finishWhole_dead_result h.crew (e.redDead s.clock) (e.redWord (e.redRoot s.clock)).2
      (e.redWord (e.redRoot s.clock)).1
    rw [redWord_flags] at hresult
    exact ⟨_, _, issue_of_form h ((vredForm_eq e s).trans hdone), hresult, fun i hi => elemAt_redWord e _ hi⟩
  case vscan =>
    obtain ⟨u, hdone, hresult⟩ := finishV_dead_result h.crew (e.redDead s.clock) false 64 (e.scanOut s.clock) fun _ => rfl
    rw [laneFlags_scanOut] at hresult
    exact ⟨_, fun l => (e.redWord (e.scanned s.clock l)).1, issue_of_form h ((vscanForm_eq e s).trans hdone), hresult,
      fun l _ i hi => elemAt_redWord e _ hi⟩

end Machine

end Sys2Proof
end

section
/-! Proofs about the encoding in both directions (O1, O2). First that the table of rows knows every instruction;
then what stands above bit 63, the words of crews, clause headers and the custom words of the assayers; then the
obligations. -/

namespace Sys2Proof.Laws.Encoded

/-- The constructors' lemmas together: a word's slot leads back to its instruction. -/
theorem statement_holds (i : Instr) : Statement i :=
  Instr.casesOn (motive := Statement) i
    nop brk br brDiv join call ret exit drainEnd yieldCont flgRd flgClr lampJoin lampTake lampPass csrr csrw uintPost
    uintRet svc waitc spawn nsig npub clauseHeader sadd ssub smul smulh smad sdivs sand sor sxor sandn sshl sshr srol
    sror smov scmp sbfx sbfi spopc sclz sctz sbrev smin smax sabs ssel vadd vsub vmul vmulh vmad vdivs vand vor vxor
    vandn vshl vshr vrol vror vmov vbfx vbfi vpopc vclz vctz vbrev vmin vmax vabs vsel vcmp vplog vpadd vpsub vpmul
    vpmin vpmax vpavg vpabd vpshl vpshr vpdot vpack vunpk sadrt sshpr sshpw sshpb vadrt vinrt vfadd vfsub vfmul vfma
    vfms vfnma vfnms vfmin vfmax vfneg vfabs vfcsgn vfdot2 vfrnd sfadd sfsub sfmul sfma sfmin sfmax vfcmp sfcmp vfcmpm
    vfclass vfrcpe vfrsqe vfrcps vfrsqs vfex2 vflg2 vfsinpi vfcospi vftanh vcvt scvt vperm vmatch vvote vred vscan vrdl
    ld st lds sts sld sst slds ssts smap sunmap sflush stashWritebackDone cwb cinv atom atomCas satom satomCas red sred
    fence amsg amsgReply gbarArr gbarWait collAg collRs collA2a collBar hcp hgth hsct hcmp hpub hpubExchange cwait
    hoistRowDone hoistWatchdogExpire mld mmul mzero mrd mred mwait mkw mkr bselTopk mmulRowCommit engineInsnDone
    lodeBind lodeFree ladd lsub lneg lshl lshr lcmp lclz lmulw lmacw lacc lround asEvt asLd asSt asCas asPf asWake asMsg
    asTlb asLeft asDone handlerDispatch handlerBudgetExpire acceptLaunch claimCrews placeCrew placeClosure
    warmWaitExpire reservationStart binTimerExpire binStallTimer swapOut swapIn monitorRecheck monitorAudit waitcReply
    stockpileRefreshEnd crewHalt crewSave saveDelayTimer crewRestore crewWatchdogExpire kick completionRecord
    noOperation Encoded.seal Encoded.unseal preempt resume invalidateTranslations installAssayers removeAssayers
    debugResume joinModuleGang powerEvaluation collectiveComplete macroSelfTest loadReturn pageWalkDone
    remoteErrorResponse contextInvalidate supervisorTake supervisorDone islandCeilingWrite housekeepingWrite hostAccess
    peerRequest ioDeviceWrite cxlCompletionTimeout cxlPortDown routerFail meshResend ucieLinkDown aditResend
    aditPortDown ioCoreFail stockpileScrub hbmPatrolScrub powerUp attestationRequest writeAcknowledgement
    programTimestampAdvance managedCopyEviction lineFill engineWatchdogExpire cxlPortUp powerLoss applicationCoreAccess

end Sys2Proof.Laws.Encoded

namespace Sys2Proof

/-! Fields of a word as numbers. -/

theorem toNat_fieldAt (n lo w : Nat) : (fieldAt n lo w).toNat = w / 2 ^ lo % 2 ^ n := BitVec.toNat_ofNat ..

theorem bitNat_flagAt (lo w : Nat) : bitNat (flagAt lo w) = w / 2 ^ lo % 2 := by
  rcases Nat.mod_two_eq_zero_or_one (w / 2 ^ lo) with h | h <;> simp [flagAt, h, bitNat]

/-! What stands above bit 63 (R164 to R166). -/

theorem encodeExt96_decode (w : Nat) : encodeExt96 (decodeExt96 w) = w % 2 ^ 32 := by
  simp only [encodeExt96, decodeExt96, toNat_fieldAt, bitNat_flagAt]
  omega

theorem encodeMem_decode {w : Nat} (h : memReserved w = 0) : encodeMem (decodeMem w) = w % 2 ^ 64 := by
  have hzero : w / 2 ^ 26 % 2 ^ 6 = 0 := (toNat_fieldAt 6 26 w).symm.trans (congrArg BitVec.toNat h)
  simp only [encodeMem, decodeMem, toNat_fieldAt, bitNat_flagAt]
  omega

/-- The extension that a word decodes to holds every bit above bit 63 that the word's length gives it. -/
theorem bits_decodeExt {code slot w : Nat} (h0 : code ≠ 0) (h4 : code < 4) (h : memReservedBad code slot w = false) :
    (decodeExt code slot (w / 2 ^ 64)).bits = w / 2 ^ 64 % 2 ^ (32 * unitsOf code - 64) := by
  have hc : code = 1 ∨ code = 2 ∨ code = 3 := by omega
  rcases hc with rfl | rfl | rfl
  case inl => exact (Nat.mod_one _).symm
  case inr.inl => exact encodeExt96_decode _
  case inr.inr =>
    cases hs : memSlot slot with
    | false => simp [decodeExt, hs, Ext.bits, toNat_fieldAt, unitsOf]
    | true =>
      have hres : memReserved (w / 2 ^ 64) = 0 := by simpa [memReservedBad, hs] using h
      simpa [decodeExt, hs, Ext.bits, unitsOf] using encodeMem_decode hres

/-! The words of a crew's code (R156, R162, R163). -/

theorem encode_of_word {i : Instr} {slot : Nat} {f : Fields} (h : i.word = some (slot, f)) :
    encode i = some ⟨32 * unitsOf f.ext.lenCode, encodeFields slot f⟩ := by
  unfold encode
  rw [h]

theorem word_make {slot : Nat} {r : Row} (h : rowOf slot = some r) (f : Fields) :
    (r.make f).word = some (slot, f) := by
  have hslot : r.slot = slot := by simpa using List.find?_some h
  exact hslot ▸ Row.makes_of_mem_rows r (List.mem_of_find?_eq_some h) f

theorem two_le_unitsOf (code : Nat) : 2 ≤ unitsOf code := by
  unfold unitsOf
  split <;> decide

/-- Encoding the fields of a word gives its bits 63 to 0 back beneath what its extension gives. -/
theorem encodeFields_decode (slot w : Nat) (h0 : w % 4 ≠ 0) (hs : slot = (fieldAt 10 2 w).toNat) :
    encodeFields slot (decodeFields (w % 4) slot w) =
      w % 2 ^ 64 + 2 ^ 64 * (decodeExt (w % 4) slot (w / 2 ^ 64)).bits := by
  have hcode := lenCode_decodeExt slot (w / 2 ^ 64) h0 (Nat.mod_lt w (by decide))
  rw [toNat_fieldAt] at hs
  simp only [encodeFields, decodeFields, hcode, toNat_fieldAt, bitNat_flagAt]
  generalize (decodeExt (w % 4) slot (w / 2 ^ 64)).bits = x
  omega

/-- A word that is no header decodes to what the row of its slot makes of its fields, where that passes the checks of the
encoding and the memory form's reserved bits are zero (R375, R381). -/
theorem decodeCrewWord_eq_ok_iff {w : Nat} {i : Instr} (hw : w % 4 ≠ 0) :
    decodeCrewWord w = .ok i ↔
      (∃ r, rowOf (fieldAt 10 2 w).toNat = some r ∧
        r.make (decodeFields (w % 4) (fieldAt 10 2 w).toNat w) = i) ∧
      i.WellFormed ∧ memReservedBad (w % 4) (fieldAt 10 2 w).toNat w = false := by
  simp only [decodeCrewWord, beq_iff_eq, hw, if_false, Instr.WellFormed]
  cases hrow : rowOf (fieldAt 10 2 w).toNat with
  | none => simp
  | some r =>
    simp only [Option.some.injEq, exists_eq_left']
    constructor
    case mp =>
      intro h
      split at h
      · cases h
      · cases h
      · split at h <;> cases h
      · next hcheck =>
        split at h
        · cases h
        · next hres =>
          cases h
          exact ⟨rfl, hcheck, Bool.eq_false_iff.2 hres⟩
    case mpr =>
      rintro ⟨rfl, hcheck, hres⟩
      simp [hcheck, hres]

theorem Form.fits_of_lenOk {fm : Form} {slot : Nat} {x : Ext} (h : fm.lenOk slot x = true) : x.fits slot = true := by
  cases x with
  | short => rfl
  | wide e => rfl
  | imm v => exact ((Bool.and_eq_true _ _).mp h).2
  | mem m => exact ((Bool.and_eq_true _ _).mp h).2

/-- A well-formed instruction has a length that its slot gives it. -/
theorem Instr.WellFormed.fits {i : Instr} {slot : Nat} {f : Fields} (h : i.WellFormed) (hw : i.word = some (slot, f)) :
    f.ext.fits slot = true := by
  obtain ⟨-, hrow⟩ := Laws.Encoded.statement_holds i slot f hw
  obtain ⟨r, hr, -⟩ := Option.map_eq_some_iff.1 hrow
  have hlen : r.form.lenOk slot f.ext = true := by
    by_contra hbad
    rw [Bool.not_eq_true] at hbad
    simp [Instr.WellFormed, checkWord, hw, hr, hbad] at h
  exact Form.fits_of_lenOk hlen

theorem decodeCrewWord_encodeFields {i : Instr} {slot : Nat} {f : Fields} (h : i.WellFormed)
    (hw : i.word = some (slot, f)) : decodeCrewWord (encodeFields slot f) = .ok i := by
  obtain ⟨hslot, hrow⟩ := Laws.Encoded.statement_holds i slot f hw
  obtain ⟨r, hr, hmake⟩ := Option.map_eq_some_iff.1 hrow
  have hfits := h.fits hw
  have hcode := encodeFields_lenCode slot f
  have hpos := lenCode_pos f.ext
  rw [decodeCrewWord_eq_ok_iff (by omega), hcode, encodeFields_slot slot f hslot, decodeFields_encode slot f hslot hfits]
  exact ⟨⟨r, hr, hmake⟩, h, memReservedBad_encode slot f hslot hfits⟩

/-- An instruction that a word decodes to, other than a header, encodes to the word. -/
theorem encode_of_decodeCrewWord {w : Nat} {i : Instr} (hw : w % 4 ≠ 0) (h : decodeCrewWord w = .ok i) :
    encode i = some ⟨32 * unitsOf (w % 4), w % 2 ^ (32 * unitsOf (w % 4))⟩ := by
  obtain ⟨⟨r, hr, rfl⟩, -, hres⟩ := (decodeCrewWord_eq_ok_iff hw).1 h
  have h4 : w % 4 < 4 := Nat.mod_lt w (by decide)
  have hcode : (decodeFields (w % 4) (fieldAt 10 2 w).toNat w).ext.lenCode = w % 4 := lenCode_decodeExt _ _ hw h4
  have hsplit : 2 ^ (32 * unitsOf (w % 4)) = 2 ^ 64 * 2 ^ (32 * unitsOf (w % 4) - 64) := by
    have hunits := two_le_unitsOf (w % 4)
    rw [← Nat.pow_add]
    congr 1
    omega
  rw [encode_of_word (word_make hr _), hcode, encodeFields_decode _ w hw rfl, bits_decodeExt hw h4 hres, hsplit,
    Nat.mod_mul]

/-! Clause headers (R159, R380). -/

theorem encodeHeader_decode {w : Nat} (h0 : w % 4 = 0) (h : fieldAt 35 29 w = 0) :
    encodeHeader (decodeHeader w) = w % 2 ^ 64 := by
  have hzero : w / 2 ^ 29 % 2 ^ 35 = 0 := (toNat_fieldAt 35 29 w).symm.trans (congrArg BitVec.toNat h)
  simp only [encodeHeader, decodeHeader, toNat_fieldAt, bitNat_flagAt]
  omega

theorem decodeCrewWord_header {w : Nat} (h0 : w % 4 = 0) : decodeCrewWord w = decodeHeaderWord w := by
  simp [decodeCrewWord, h0]

theorem decodeHeaderWord_eq_ok_iff {w : Nat} {i : Instr} :
    decodeHeaderWord w = .ok i ↔
      .clauseHeader (decodeHeader w) = i ∧ i.WellFormed ∧ fieldAt 35 29 w = 0 := by
  simp only [decodeHeaderWord, Instr.WellFormed]
  constructor
  case mp =>
    intro h
    split at h
    · cases h
    · next hcheck =>
      split at h
      · next hzero =>
        cases h
        exact ⟨rfl, hcheck, by simpa using hzero⟩
      · cases h
  case mpr =>
    rintro ⟨rfl, hcheck, hzero⟩
    simp [hcheck, hzero]

/-- A header's word leaves the length code and the reserved bits zero. -/
theorem encodeHeader_zeros (h : Header) : encodeHeader h % 4 = 0 ∧ fieldAt 35 29 (encodeHeader h) = 0 := by
  have hclen := h.clen.isLt
  have hyld := bitNat_lt h.yld
  have hwait := h.wait.isLt
  have hflga := h.flga.isLt
  have hflgb := h.flgb.isLt
  refine ⟨?_, fieldAt_of 35 29 _ 0 ?_⟩
  · unfold encodeHeader
    omega
  · change encodeHeader h / 2 ^ 29 % 2 ^ 35 = 0
    unfold encodeHeader
    omega

theorem decodeCrewWord_encodeHeader {h : Header} (hw : (Instr.clauseHeader h).WellFormed) :
    decodeCrewWord (encodeHeader h) = .ok (.clauseHeader h) := by
  obtain ⟨hcode, hzero⟩ := encodeHeader_zeros h
  rw [decodeCrewWord_header hcode, decodeHeaderWord_eq_ok_iff, decodeHeader_encode]
  exact ⟨rfl, hw, hzero⟩

theorem wellFormed_encode_of_decodeHeaderWord {w : Nat} {i : Instr} (h0 : w % 4 = 0) (h : decodeHeaderWord w = .ok i) :
    i.WellFormed ∧ encode i = some ⟨64, w % 2 ^ 64⟩ := by
  obtain ⟨rfl, hwf, hzero⟩ := decodeHeaderWord_eq_ok_iff.1 h
  exact ⟨hwf, congrArg (fun n => some (Code.mk 64 n)) (encodeHeader_decode h0 hzero)⟩

/-! The custom words of the assayers (R307, Table 15-4). -/

/-- The fields of a custom word above its opcode. -/
structure AssayerFields where
  rd : BitVec 5
  funct3 : BitVec 3
  rs1 : BitVec 5
  rs2 : BitVec 5
  funct7 : BitVec 7

def AssayerFields.word (x : AssayerFields) : Nat :=
  0x0B + 2 ^ 7 * x.rd.toNat + 2 ^ 12 * x.funct3.toNat + 2 ^ 15 * x.rs1.toNat + 2 ^ 20 * x.rs2.toNat +
    2 ^ 25 * x.funct7.toNat

def AssayerFields.ofWord (w : Nat) : AssayerFields :=
  ⟨fieldAt 5 7 w, fieldAt 3 12 w, fieldAt 5 15 w, fieldAt 5 20 w, fieldAt 7 25 w⟩

theorem AssayerFields.word_lt (x : AssayerFields) : x.word < 2 ^ 32 := by
  have hregs : x.rd.toNat < 2 ^ 5 ∧ x.rs1.toNat < 2 ^ 5 ∧ x.rs2.toNat < 2 ^ 5 := ⟨x.rd.isLt, x.rs1.isLt, x.rs2.isLt⟩
  have hfuncts : x.funct3.toNat < 2 ^ 3 ∧ x.funct7.toNat < 2 ^ 7 := ⟨x.funct3.isLt, x.funct7.isLt⟩
  unfold word
  omega

theorem AssayerFields.word_opcode (x : AssayerFields) : x.word / 2 ^ 0 % 2 ^ 7 = 0x0B := by
  unfold word
  omega

theorem AssayerFields.ofWord_word (x : AssayerFields) : ofWord x.word = x := by
  obtain ⟨rd, funct3, rs1, rs2, funct7⟩ := x
  have hrd := rd.isLt
  have hfunct3 := funct3.isLt
  have hrs1 := rs1.isLt
  have hrs2 := rs2.isLt
  have hfunct7 := funct7.isLt
  simp only [ofWord, word, mk.injEq]
  refine ⟨fieldAt_of _ _ _ _ ?_, fieldAt_of _ _ _ _ ?_, fieldAt_of _ _ _ _ ?_, fieldAt_of _ _ _ _ ?_,
    fieldAt_of _ _ _ _ ?_⟩ <;> omega

theorem AssayerFields.word_ofWord {w : Nat} (hw : w < 2 ^ 32) (hop : w % 128 = 0x0B) : (ofWord w).word = w := by
  simp only [word, ofWord, toNat_fieldAt]
  omega

/-- The assayer forms, each with the fields of its word. `as.cas` has its third source in bits 31:27. -/
inductive AssayerForm : Instr → AssayerFields → Prop
  | evt (rd : BitVec 5) : AssayerForm (.asEvt rd) ⟨rd, 0, 0, 0, 0⟩
  | ld (rd a : BitVec 5) : AssayerForm (.asLd rd a) ⟨rd, 1, a, 0, 0⟩
  | st (a b : BitVec 5) : AssayerForm (.asSt a b) ⟨0, 2, a, b, 0⟩
  | cas (rd a b c : BitVec 5) : AssayerForm (.asCas rd a b c) ⟨rd, 3, a, b, c ++ 0#2⟩
  | pf (a b : BitVec 5) : AssayerForm (.asPf a b) ⟨0, 4, a, b, 0⟩
  | wake (a : BitVec 5) : AssayerForm (.asWake a) ⟨0, 5, a, 0, 0⟩
  | msg (rd a : BitVec 5) : AssayerForm (.asMsg rd a) ⟨rd, 6, a, 0, 0⟩
  | tlb (rd a : BitVec 5) : AssayerForm (.asTlb rd a) ⟨rd, 7, a, 0, 0⟩
  | left (rd : BitVec 5) : AssayerForm (.asLeft rd) ⟨rd, 7, 0, 0, 1⟩
  | done : AssayerForm .asDone ⟨0, 7, 0, 0, 2⟩

theorem toNat_append_zero (c : BitVec 5) : (c ++ 0#2).toNat = 4 * c.toNat := by
  rw [BitVec.toNat_append, BitVec.toNat_ofNat, Nat.zero_mod, Nat.or_zero, Nat.shiftLeft_eq, Nat.mul_comm]

theorem AssayerForm.encode {i : Instr} {x : AssayerFields} (h : AssayerForm i x) : encode i = some ⟨32, x.word⟩ := by
  cases h
  all_goals
    refine congrArg (fun n => some (Code.mk 32 n)) ?_
    simp only [AssayerFields.word, toNat_append_zero, BitVec.toNat_ofNat, BitVec.ofNat_eq_ofNat]
    omega

/-- Only a crew's instruction, a header and an assayer form have an encoding. -/
theorem encode_cases {i : Instr} {c : Code} (h : encode i = some c) :
    (∃ slot f, i.word = some (slot, f)) ∨ (∃ hd, i = .clauseHeader hd) ∨ ∃ x, AssayerForm i x := by
  cases hw : i.word with
  | some p => exact .inl ⟨p.1, p.2, rfl⟩
  | none =>
    right
    cases i
    case clauseHeader hd => exact .inl ⟨hd, rfl⟩
    case asEvt rd => exact .inr ⟨_, .evt rd⟩
    case asLd rd a => exact .inr ⟨_, .ld rd a⟩
    case asSt a b => exact .inr ⟨_, .st a b⟩
    case asCas rd a b c => exact .inr ⟨_, .cas rd a b c⟩
    case asPf a b => exact .inr ⟨_, .pf a b⟩
    case asWake a => exact .inr ⟨_, .wake a⟩
    case asMsg rd a => exact .inr ⟨_, .msg rd a⟩
    case asTlb rd a => exact .inr ⟨_, .tlb rd a⟩
    case asLeft rd => exact .inr ⟨_, .left rd⟩
    case asDone => exact .inr ⟨_, .done⟩
    -- What is left has a slot, which `hw` denies, or is an event, which `h` denies.
    all_goals cases hw <;> cases h

theorem eq_append_zero {f : BitVec 7} (h : f.toNat % 4 = 0) : f = f.extractLsb' 2 5 ++ 0#2 := by
  apply BitVec.eq_of_toNat_eq
  rw [toNat_append_zero, BitVec.extractLsb'_toNat, Nat.shiftRight_eq_div_pow]
  omega

theorem extractLsb'_append_zero (c : BitVec 5) : (c ++ 0#2).extractLsb' 2 5 = c := by
  apply BitVec.eq_of_toNat_eq
  rw [BitVec.extractLsb'_toNat, toNat_append_zero, Nat.shiftRight_eq_div_pow]
  omega

theorem AssayerFields.fieldAt_rs3 (x : AssayerFields) : fieldAt 5 27 x.word = x.funct7.extractLsb' 2 5 := by
  have hregs : x.rd.toNat < 2 ^ 5 ∧ x.rs1.toNat < 2 ^ 5 ∧ x.rs2.toNat < 2 ^ 5 := ⟨x.rd.isLt, x.rs1.isLt, x.rs2.isLt⟩
  have hfunct3 := x.funct3.isLt
  apply fieldAt_of
  rw [BitVec.extractLsb'_toNat, Nat.shiftRight_eq_div_pow, word]
  omega

/-- The decoder reads an assayer form from exactly the words of its fields. -/
theorem decodeAssayerWord_word_iff {x : AssayerFields} {i : Instr} :
    decodeAssayerWord x.word = some i ↔ AssayerForm i x := by
  have hlt : ¬2 ^ 32 ≤ x.word := Nat.not_le.2 x.word_lt
  have hop : fieldAt 7 0 x.word = 0x0B := fieldAt_of _ _ _ _ x.word_opcode
  obtain ⟨hrd, hfunct3, hrs1, hrs2, hfunct7⟩ := AssayerFields.mk.inj x.ofWord_word
  simp only [decodeAssayerWord, hop, x.fieldAt_rs3, hrd, hfunct3, hrs1, hrs2, hfunct7, hlt]
  clear hlt hop hrd hfunct3 hrs1 hrs2 hfunct7
  obtain ⟨rd, funct3, rs1, rs2, funct7⟩ := x
  constructor
  case mp =>
    intro h
    have h3 : funct3 = 0 ∨ funct3 = 1 ∨ funct3 = 2 ∨ funct3 = 3 ∨ funct3 = 4 ∨ funct3 = 5 ∨ funct3 = 6 ∨
        funct3 = 7 := by bv_omega
    have hzero : funct7.toNat = 0 ↔ funct7 = 0 := by bv_omega
    have hone : funct7.toNat = 1 ↔ funct7 = 1 := by bv_omega
    have htwo : funct7.toNat = 2 ↔ funct7 = 2 := by bv_omega
    rcases h3 with rfl | rfl | rfl | rfl | rfl | rfl | rfl | rfl
    all_goals
      simp only [Bool.or_self, Bool.false_eq_true, bne_self_eq_false, decide_false, BitVec.ofNat_eq_ofNat,
        BitVec.toNat_ofNat, Nat.reduceMod, Nat.reducePow, Bool.and_eq_true, beq_iff_eq, hzero, hone, htwo, if_false,
        Option.ite_none_right_eq_some, Option.some.injEq] at h
    · obtain ⟨⟨⟨rfl, rfl⟩, rfl⟩, rfl⟩ := h
      exact .evt rd
    · obtain ⟨⟨rfl, rfl⟩, rfl⟩ := h
      exact .ld rd rs1
    · obtain ⟨⟨rfl, rfl⟩, rfl⟩ := h
      exact .st rs1 rs2
    · obtain ⟨h4, rfl⟩ := h
      have hcas := AssayerForm.cas rd rs1 rs2 (funct7.extractLsb' 2 5)
      rwa [← eq_append_zero h4] at hcas
    · obtain ⟨⟨rfl, rfl⟩, rfl⟩ := h
      exact .pf rs1 rs2
    · obtain ⟨⟨⟨rfl, rfl⟩, rfl⟩, rfl⟩ := h
      exact .wake rs1
    · obtain ⟨⟨rfl, rfl⟩, rfl⟩ := h
      exact .msg rd rs1
    · split_ifs at h with h0 hregs h1 hregs h2 hregs
      · obtain ⟨⟨rfl, rfl⟩, rfl⟩ := And.intro (And.intro h0 hregs) (Option.some.inj h)
        exact .tlb rd rs1
      · obtain ⟨⟨rfl, rfl, rfl⟩, rfl⟩ := And.intro (And.intro h1 hregs) (Option.some.inj h)
        exact .left rd
      · obtain ⟨⟨rfl, ⟨rfl, rfl⟩, rfl⟩, rfl⟩ := And.intro (And.intro h2 hregs) (Option.some.inj h)
        exact .done
  case mpr =>
    intro h
    cases h
    case cas c => simp [extractLsb'_append_zero, toNat_append_zero]
    all_goals rfl

theorem assayerForm_of_decodeAssayerWord {w : Nat} {i : Instr} (h : decodeAssayerWord w = some i) :
    w < 2 ^ 32 ∧ w % 128 = 0x0B ∧ AssayerForm i (.ofWord w) := by
  have hword : w % 128 = 0x0B ∧ w < 2 ^ 32 := by
    by_contra hbad
    have hguard : (fieldAt 7 0 w).toNat ≠ 0x0B ∨ 2 ^ 32 ≤ w := by
      rw [toNat_fieldAt]
      omega
    have hnone : decodeAssayerWord w = none := by simpa [decodeAssayerWord] using fun ho hl => absurd hl (by omega)
    rw [hnone] at h
    cases h
  obtain ⟨hop, hw⟩ := hword
  rw [← AssayerFields.word_ofWord hw hop] at h
  exact ⟨hw, hop, decodeAssayerWord_word_iff.1 h⟩

/-! The obligations. -/

theorem decodeCode_of_decodeCrewWord {i : Instr} {c : Code} (h32 : 32 < c.nbits) (hdec : decodeCrewWord c.w = .ok i)
    (henc : encode i = some c) : decodeCode c = some i := by
  simp [decodeCode, Nat.not_le.2 h32, hdec, henc]

/-- Settles O1: a crew's instruction and a header are read back by the decoder of crews' words, an assayer form by that of
custom words. -/
theorem decodeOfEncode : Obligations.DecodeOfEncode := by
  intro i c hwf henc
  rcases encode_cases henc with ⟨slot, f, hw⟩ | ⟨hd, rfl⟩ | ⟨x, hx⟩
  · obtain rfl := Option.some.inj ((encode_of_word hw).symm.trans henc)
    have hunits := two_le_unitsOf f.ext.lenCode
    exact decodeCode_of_decodeCrewWord (by dsimp only; omega) (decodeCrewWord_encodeFields hwf hw) henc
  · obtain rfl : ⟨64, encodeHeader hd⟩ = c := Option.some.inj henc
    exact decodeCode_of_decodeCrewWord (show 32 < 64 by decide) (decodeCrewWord_encodeHeader hwf) henc
  · obtain rfl := Option.some.inj (hx.encode.symm.trans henc)
    exact decodeAssayerWord_word_iff.2 hx

/-- Settles O2: a crew's word is a header's or holds fields that its slot's row takes; a custom word is its form's fields. -/
theorem encodeOfDecode : Obligations.EncodeOfDecode := by
  refine ⟨fun w i h => ?crew, fun w i h => ?assayer⟩
  case crew =>
    by_cases h0 : w % 4 = 0
    · rw [h0]
      exact wellFormed_encode_of_decodeHeaderWord h0 (decodeCrewWord_header h0 ▸ h)
    · obtain ⟨-, hwf, -⟩ := (decodeCrewWord_eq_ok_iff h0).1 h
      exact ⟨hwf, encode_of_decodeCrewWord h0 h⟩
  case assayer =>
    obtain ⟨hw, hop, hform⟩ := assayerForm_of_decodeAssayerWord h
    exact ⟨hw, hop, AssayerFields.word_ofWord hw hop ▸ hform.encode⟩

end Sys2Proof
end

section
/-! Proofs about the packed instructions (O13). -/

namespace Sys2Proof.Machine

/-- One lane of a packed form: what its whole sources give, and whether one was dead. -/
def Env.packOut (e : Env) (clock : Nat) (op : Word → Word → Word → Word × Bool) (l : Nat) : LaneOut :=
  let y := op (e.srcA.spread true e.ty (e.read clock e.srcA l).1) (e.srcB.spread true e.ty (e.read clock e.srcB l).1)
    (e.srcC.spread true e.ty (e.read clock e.srcC l).1)
  ⟨l, y.1.toNat, flagIf y.2 flagSAT, e.readsDead clock l⟩

/-- A packed form writes its lanes' words to the acting lanes (R208). -/
theorem issue_packForm {i : Instr} {s : State} {e : Env} (h : Runs i s e)
    (op : Env → Word → Word → Word → Word × Bool) :
    ∃ t, issue i (fun e => packForm (op e) e) s = .next t ∧
      VectorResult e s t e.acting (fun l => e.newV s false 64 l (e.packOut s.clock (op e) l).v)
        (joinFlags e.acting (fun l => (e.packOut s.clock (op e) l).flags ||| flagIf (e.readsDead s.clock l) flagDEAD)) := by
  obtain ⟨u, hdone, hresult⟩ := finishV_result e s false 64 e.acting (e.packOut s.clock (op e)) h.crew
    (fun _ => rfl) (acting_nodup e) (acting_lt e)
  rw [laneFlags_map] at hresult
  exact ⟨_, issue_of_form h hdone, hresult⟩

/-- Every instruction of Table 10-3 runs the packed pseudocode with the operation listed. -/
theorem exec_of_mem_packedForms : ∀ p ∈ packedForms, ∀ f s,
    exec (p.1 f) s = issue (p.1 f) (fun e => packForm (p.2 e) e) s := by
  have hexec : packedForms.map (fun p f s => exec (p.1 f) s) =
      packedForms.map (fun p f s => issue (p.1 f) (fun e => packForm (p.2 e) e) s) := rfl
  exact fun p hp f => congrFun (congrFun (List.map_inj_left.1 hexec p hp) f)

/-- Settles O13: every listed instruction runs the packed pseudocode. -/
theorem packedResults : Obligations.PackedResults := by
  intro p hp f s e h
  rw [exec_of_mem_packedForms p hp]
  exact issue_packForm h p.2

end Sys2Proof.Machine
end

section
/-! Proofs about `br.div` and `join` (O28). First what each meaning answers once its conditions hold; then the obligation,
put together from them. -/

namespace Sys2Proof.Machine

section
variable (e : Env)

/-- The lanes of the split that a `br.div` takes, and those that it leaves behind (R180). -/
def Env.takenLanes : Mask := maskOf e.acting
def Env.otherLanes : Mask := e.x.mask &&& ~~~e.takenLanes

/-- The target and the join label of a `br.div`, the halves of its immediate (R175, R180). -/
def Env.divTarget : Nat := e.label (readInt true 32 (e.immW.toNat % 2 ^ 32))
def Env.divJoin : Nat := e.label (readInt true 32 (e.immW.toNat / 2 ^ 32))

end

/-! `br.div` (R180). -/

section
variable {s : State} {e : Env}

/-- `br.div` by its lanes, the lode, its labels and the free record, in the order of its checks. -/
theorem brDivForm_eq : brDivForm e s =
    if !(e.takenLanes == 0 || e.otherLanes == 0) && e.c.lode.isSome then .exc s .rsplit
    else if !isHeader s e.c e.divTarget || !isHeader s e.c e.divJoin then .exc s .rtarget
    else if e.otherLanes == 0 then .jump (e.goto s e.divTarget false)
    else if e.takenLanes == 0 then .done s
    else (tabFree e.c.divs 16).elim (.exc s .rnest) (fun k => .jump (s.modCrew e.id (fun c =>
      c.diverge e.entry k e.x e.takenLanes e.otherLanes e.divTarget (e.next s) e.divJoin s.clock))) := by
  unfold brDivForm
  cases tabFree e.c.divs 16 <;> rfl

/-- Where every lane is taken the split goes to the target. -/
theorem brDivForm_of_all_taken (ht : isHeader s e.c e.divTarget = true) (hj : isHeader s e.c e.divJoin = true)
    (hn : e.otherLanes = 0) : brDivForm e s = .jump (e.goto s e.divTarget false) := by
  simp only [brDivForm_eq, ht, hj, hn, BEq.rfl, Bool.or_true, Bool.not_true, Bool.false_and, Bool.or_self, Bool.false_eq_true,
    if_false, if_true]

theorem brDivForm_of_none_taken (ht : isHeader s e.c e.divTarget = true) (hj : isHeader s e.c e.divJoin = true)
    (hz : e.takenLanes = 0) (hn : e.otherLanes ≠ 0) : brDivForm e s = .done s := by
  simp only [brDivForm_eq, ht, hj, hz, beq_false_of_ne hn, BEq.rfl, Bool.true_or, Bool.not_true, Bool.false_and, Bool.or_self,
    Bool.false_eq_true, if_false, if_true]

section
variable (hz : e.takenLanes ≠ 0) (hn : e.otherLanes ≠ 0)
include hz hn

/-- Lanes that disagree may not part while a lode is bound (R282, R384). -/
theorem brDivForm_of_lode (hl : e.c.lode.isSome = true) : brDivForm e s = .exc s .rsplit := by
  simp only [brDivForm_eq, beq_false_of_ne hz, beq_false_of_ne hn, hl, Bool.or_self, Bool.not_false, Bool.and_self, if_true]

/-- Lanes that disagree open a divergence in a free record, and without one raise `RNEST`. -/
theorem brDivForm_of_disagreed (ht : isHeader s e.c e.divTarget = true) (hj : isHeader s e.c e.divJoin = true)
    (hl : e.c.lode = none) :
    brDivForm e s = (tabFree e.c.divs 16).elim (.exc s .rnest) (fun k => .jump (s.modCrew e.id (fun c =>
      c.diverge e.entry k e.x e.takenLanes e.otherLanes e.divTarget (e.next s) e.divJoin s.clock))) := by
  simp only [brDivForm_eq, beq_false_of_ne hz, beq_false_of_ne hn, hl, ht, hj, Option.isSome_none, Bool.and_false,
    Bool.not_true, Bool.or_self, Bool.false_eq_true, if_false]

end

/-! `join` (R181). -/

theorem joinForm_outside (hi : e.x.innermost = none) : joinForm e s = .done s := by
  simp only [joinForm, hi]

/-- In a divergence a split waits at its join label, and `join` elsewhere raises `RNEST` (R384). -/
theorem joinForm_inside {k : Nat} {d : Divergence} {cl : Clause} (hi : e.x.innermost = some k)
    (hd : tabGet e.c.divs k = some d) (hc : e.x.clause = some cl) :
    joinForm e s = if d.joinPc = cl.base then
        .jump (settleJoins 17
          (s.modCrew e.id (fun c => c.modSplit e.entry (fun x => { x with state := .joinWait }))) e.id)
      else .exc s .rnest := by
  by_cases hpc : d.joinPc = cl.base
  · simp [joinForm, hi, hd, hc, hpc]
  · simp [joinForm, hi, hd, hc, hpc]

end

/-- Settles O28: `br.div` by whether its lanes agree, and where they do not by the lode and the free record; `join` by
whether the split is in a divergence. -/
theorem divergeAndJoin : Obligations.DivergeAndJoin := by
  intro f s e
  refine ⟨fun h ht hj => ⟨fun hn => ?allTaken, fun hz hn => ?noneTaken, fun hz hn hl => ?lode,
    fun hz hn hl hk => ?full, fun hz hn hl k hk => ?opens⟩, fun h hi => ?outside, fun h k d cl hi hd hc => ?inside⟩
  case allTaken => exact issue_of_form h (brDivForm_of_all_taken ht hj hn)
  case noneTaken => exact issue_of_form h (brDivForm_of_none_taken ht hj hz hn)
  case lode => exact issue_of_form h (brDivForm_of_lode hz hn hl)
  case full => exact issue_of_form h ((brDivForm_of_disagreed hz hn ht hj hl).trans (by rw [hk]; rfl))
  case opens => exact issue_of_form h ((brDivForm_of_disagreed hz hn ht hj hl).trans (by rw [hk]; rfl))
  case outside => exact ⟨_, issue_of_form h (joinForm_outside hi), (Env.Leads.start h.crew).done⟩
  case inside => exact issue_of_form h (joinForm_inside hi hd hc)

end Sys2Proof.Machine
end

section
/-! Proofs about `nop` (O24): where a split stands after an instruction that is done, and the length of its units. -/

namespace Sys2Proof.Machine

/-- The length of an instruction that runs is that of its format's units (R156). -/
theorem Runs.len_eq {i : Instr} {s : State} {e : Env} {slot : Nat} {f : Fields} (h : Runs i s e)
    (hw : i.word = some (slot, f)) : e.len = 4 * unitsOf f.ext.lenCode := by
  obtain ⟨-, -, -, g, r, hword, -, -, -, hlen⟩ := envOf_spec h.env
  obtain ⟨-, rfl⟩ := Prod.mk.inj (Option.some.inj (hw.symm.trans hword))
  exact hlen

/-- After an instruction that is done the split goes on behind it, Ready, with its lanes (R157). -/
theorem split_done {e : Env} {s : State} {c : Crew} {x : Split} (hc : s.crew e.id = some c)
    (hx : c.split e.entry = some x) : ∃ (d : Crew) (y : Split), (settleRes e (.done s)).crew e.id = some d ∧
      d.split e.entry = some y ∧ y.pc = skipFrom s c (x.pc + e.len) ∧ y.mask = x.mask ∧ y.state = .ready := by
  have hsplit (y : Split) (i : Option Nat) : ({ c.setSplit e.entry y with idleFor := i }).split e.entry = some y :=
    split_setSplit c e.entry y
  simp only [settleRes, crew_noteIdle, advance, hc, hx, crew_setCrew, Option.map_some]
  exact ⟨_, _, rfl, hsplit _ _, rfl, rfl, rfl⟩

/-- Settles O24: a `nop` is done with the state as it was. -/
theorem nopHasNoEffect : Obligations.NopHasNoEffect := fun _ _ _ h =>
  ⟨_, issue_runs h nopForm, rfl, (Env.Leads.start h.crew).done, h.len_eq rfl, fun _ _ hc hx => split_done hc hx⟩

end Sys2Proof.Machine
end

section
/-! Proofs about branches, calls and returns (O27). -/

namespace Sys2Proof.Machine

/-- Whether a `br` is taken: by its lanes' condition, or by its uniform source (R179). -/
def Env.branches (e : Env) (s : State) : Bool :=
  match e.var with
  | 0 => e.lanes.any e.cond
  | 1 => e.lanes.all e.cond
  | 2 => (e.read s.clock e.srcA 0).1 != 0
  | _ => (e.read s.clock e.srcA 0).1 == 0

section
variable {s : State} {e : Env}

/-- A `br` to a clause header goes there or on, and elsewhere raises `RTARGET` (R179, R384). -/
theorem brForm_eq : brForm e s =
    let s1 := e.dead s (e.read s.clock e.srcA 0).2
    if isHeader s1 e.c (e.label e.immW.toInt) = true then
      if e.branches s then .jump (e.goto (e.endUses s1) (e.label e.immW.toInt) false) else .done (e.endUses s1)
    else .exc s1 .rtarget := by
  dsimp only
  split
  · next ht => exact if_neg (by simp [Env.uniVal, ht])
  · next ht => exact if_pos (by simp [Env.uniVal, ht])

/-- A `call` to a clause header leaves the address after it in its destination, and elsewhere raises `RTARGET` (R182). -/
theorem callForm_eq : callForm e s =
    if isHeader s e.c (e.label e.immW.toInt) = true then
      .jump (e.goto (e.putS s e.dst (BitVec.ofNat 64 (e.next s))) (e.label e.immW.toInt) false)
    else .exc s .rtarget := by
  split
  · next ht => simp only [callForm, ht, Bool.not_true, Bool.false_eq_true, if_false]
  · next ht => simp only [callForm, ht, Bool.not_false, if_true]

/-- A `ret` goes to the clause header that its source names, and elsewhere raises `RTARGET` (R182). -/
theorem retForm_eq : retForm e s =
    let a := e.read s.clock e.srcA 0
    let s1 := e.dead s a.2
    if isHeader s1 e.c a.1.toNat = true then .jump (e.goto (e.endUses s1) a.1.toNat false)
    else .exc s1 .rtarget := by
  dsimp only
  split
  · next ht => simp only [retForm, Env.uniVal, ht, Bool.not_true, Bool.false_eq_true, if_false]
  · next ht => simp only [retForm, Env.uniVal, ht, Bool.not_false, if_true]

end

/-- Settles O27: each form by whether its target is a clause header. -/
theorem branchCallReturn : Obligations.BranchCallReturn := by
  intro f s e
  refine ⟨fun h ht => ?branch, fun h ht => ?branchRefused, fun h ht => ?call, fun h ht => ?callRefused,
    fun h ht => ?ret, fun h ht => ?retRefused⟩
  case branch => exact issue_of_form h (brForm_eq.trans (if_pos ht))
  case branchRefused => exact issue_of_form h (brForm_eq.trans (if_neg (ne_true_of_eq_false ht)))
  case call => exact issue_of_form h (callForm_eq.trans (if_pos ht))
  case callRefused => exact issue_of_form h (callForm_eq.trans (if_neg (ne_true_of_eq_false ht)))
  case ret => exact issue_of_form h (retForm_eq.trans (if_pos ht))
  case retRefused => exact issue_of_form h (retForm_eq.trans (if_neg (ne_true_of_eq_false ht)))

end Sys2Proof.Machine
end

section
/-! Proofs about the divide step (O12). First what the form leaves on each side; then that 32 steps divide. -/

namespace Sys2Proof.Machine

/-! The form on each side (R200, R204). -/

/-- Lanes that raise no flags of their own leave only `DEAD` (R383). -/
theorem laneFlags_map_of_no_flags {k : Nat → LaneOut} (hk : ∀ l, (k l).flags = 0) (ls : List Nat) :
    laneFlags (ls.map k) = joinFlags ls (fun l => flagIf (k l).dead flagDEAD) :=
  (laneFlags_map ls k).trans (congrArg _ (funext fun l => by rw [hk]; exact BitVec.zero_or))

/-- What a lane of a divide form gives: the value after its steps, and whether a source was dead. -/
def Env.divOut (e : Env) (clock l : Nat) : LaneOut :=
  ⟨l, (divSteps (e.var + 1) (e.elemOf e.ty e.srcB (e.read clock e.srcB l).1)
    (BitVec.ofNat 64 (e.wholeOf e.srcA (e.read clock e.srcA l).1))).toNat, 0,
    (e.read clock e.srcA l).2 || (e.read clock e.srcB l).2⟩

section
variable {i : Instr} {s : State} {e : Env} (h : Runs i s e)
include h

theorem issue_divForm_of_uniform (hu : e.form.uniform = true) : ∃ t, issue i divForm s = .next t ∧
    UniformResult e s t (e.newS s false (if e.view.isSome then e.bits else 64) (e.divOut s.clock 0).v)
      (flagIf (e.divOut s.clock 0).dead flagDEAD) := by
  obtain ⟨u, hdone, hresult⟩ := finishS_result e s false (if e.view.isSome then e.bits else 64) (e.divOut s.clock 0)
    h.crew
  have hform : divForm e s = .done u := (if_pos hu).trans hdone
  have hflags : (e.divOut s.clock 0).flags ||| flagIf (e.divOut s.clock 0).dead flagDEAD =
      flagIf (e.divOut s.clock 0).dead flagDEAD := BitVec.zero_or
  exact ⟨_, issue_of_form h hform, hflags ▸ hresult⟩

theorem issue_divForm_of_vector (hv : e.form.uniform = false) : ∃ t, issue i divForm s = .next t ∧
    VectorResult e s t e.acting
      (fun l => e.newV s false (if e.view.isSome then e.bits else 64) l (e.divOut s.clock l).v)
      (joinFlags e.acting (fun l => flagIf (e.divOut s.clock l).dead flagDEAD)) := by
  obtain ⟨u, hdone, hresult⟩ := finishV_result e s false (if e.view.isSome then e.bits else 64) e.acting
    (e.divOut s.clock) h.crew (fun _ => rfl) (acting_nodup e) (acting_lt e)
  have hform : divForm e s = .done u := (if_neg (Bool.eq_false_iff.1 hv)).trans hdone
  rw [laneFlags_map_of_no_flags (fun _ => rfl)] at hresult
  exact ⟨_, issue_of_form h hform, hresult⟩

end

/-! Steps in a row. -/

/-- The remainder and the partial quotient that a register holds (R204). -/
def halvesOf (a : Word) : Nat × Nat := (a.toNat / 2 ^ 32, a.toNat % 2 ^ 32)

/-- The register that holds a remainder and a partial quotient. -/
def ofHalves (rq : Nat × Nat) : Word := BitVec.ofNat 64 (rq.1 * 2 ^ 32 + rq.2)

/-- Both halves fit. -/
def HalvesFit (rq : Nat × Nat) : Prop := rq.1 < 2 ^ 32 ∧ rq.2 < 2 ^ 32

theorem halvesFit_halvesOf (a : Word) : HalvesFit (halvesOf a) := by
  dsimp only [HalvesFit, halvesOf]
  omega

theorem toNat_ofHalves {rq : Nat × Nat} (h : HalvesFit rq) : (ofHalves rq).toNat = rq.1 * 2 ^ 32 + rq.2 := by
  obtain ⟨hr, hq⟩ := h
  rw [ofHalves, BitVec.toNat_ofNat, Nat.mod_eq_of_lt (by omega)]

theorem halvesOf_ofHalves {rq : Nat × Nat} (h : HalvesFit rq) : halvesOf (ofHalves rq) = rq := by
  rw [halvesOf, toNat_ofHalves h]
  obtain ⟨hr, hq⟩ := h
  exact Prod.ext (by dsimp only; omega) (by dsimp only; omega)

theorem halvesFit_divStep (d : Nat) (rq : Nat × Nat) : HalvesFit (divStep d rq) := by
  dsimp only [HalvesFit, divStep]
  split <;> dsimp only <;> omega

theorem halvesFit_iterate {rq : Nat × Nat} (h : HalvesFit rq) (d k : Nat) : HalvesFit ((divStep d)^[k] rq) :=
  Function.Iterate.rec HalvesFit h (fun rq _ => halvesFit_divStep d rq) k

theorem divSteps_eq_iterate (k d : Nat) (a : Word) : divSteps k d a = ofHalves ((divStep d)^[k] (halvesOf a)) := by
  have hfold (rq : Nat × Nat) : k.fold (fun _ _ rq => divStep d rq) rq = (divStep d)^[k] rq := by
    induction k with
    | zero => rfl
    | succ k ih => rw [Nat.fold_succ, ih, Function.iterate_succ_apply']
  exact congrArg ofHalves (hfold _)

/-- An instruction's steps go on from where those of the one before stopped (R204). -/
theorem divSteps_divSteps (j k d : Nat) (a : Word) : divSteps j d (divSteps k d a) = divSteps (j + k) d a := by
  rw [divSteps_eq_iterate j, divSteps_eq_iterate k, halvesOf_ofHalves (halvesFit_iterate (halvesFit_halvesOf a) d k),
    ← Function.iterate_add_apply, divSteps_eq_iterate]

/-! What the steps have divided (R204). -/

/-- After `k` of 32 steps on dividend `a` the quotient half holds, above `k` bits of quotient `m`, the bits `c` of `a`
that are still to come; `m` and the remainder are those of the bits taken, and by a divisor of 0 all bits of `m` are 1. -/
def DividedTo (a d k : Nat) (rq : Nat × Nat) : Prop :=
  ∃ m c, rq.2 = c * 2 ^ k + m ∧ m < 2 ^ k ∧ c < 2 ^ (32 - k) ∧ a = (m * d + rq.1) * 2 ^ (32 - k) + c ∧
    (0 < d → rq.1 < d) ∧ (d = 0 → m + 1 = 2 ^ k)

theorem dividedTo_zero {a d : Nat} (ha : a < 2 ^ 32) : DividedTo a d 0 (0, a) :=
  ⟨0, a, by simp, by simp, ha, by simp, id, fun _ => rfl⟩

/-- A step takes the top bit `b` of the quotient half into the remainder, and subtracts where it can. -/
theorem divStep_of_bit {d r b x : Nat} (hx : x < 2 ^ 31) (hr : 2 * r + b < 2 ^ 32) :
    divStep d (r, b * 2 ^ 31 + x) =
      if d ≤ 2 * r + b then (2 * r + b - d, 2 * x + 1) else (2 * r + b, 2 * x) := by
  have htop : (b * 2 ^ 31 + x) / 2 ^ 31 = b := by omega
  have hrest : 2 * (b * 2 ^ 31 + x) % 2 ^ 32 = 2 * x := by omega
  dsimp only [divStep]
  rw [htop, hrest, Nat.mod_eq_of_lt (by omega : 2 * r + b - d < 2 ^ 32), Nat.mod_eq_of_lt hr]

theorem DividedTo.step {a d k : Nat} {rq : Nat × Nat} (ha : a < 2 ^ 32) (hk : k < 32) (h : DividedTo a d k rq) :
    DividedTo a d (k + 1) (divStep d rq) := by
  obtain ⟨r, q⟩ := rq
  obtain ⟨m, c, rfl, hm, hc, rfl, hpos, hzero⟩ := h
  dsimp only at *
  -- the bits to come: the next one, `b`, and the `n` after it, `y`
  obtain ⟨n, hn, hn'⟩ : ∃ n, 32 - k = n + 1 ∧ 32 - (k + 1) = n := ⟨31 - k, by omega, by omega⟩
  obtain ⟨b, y, hc', hb, hy⟩ : ∃ b y, c = b * 2 ^ n + y ∧ b < 2 ∧ y < 2 ^ n :=
    ⟨c / 2 ^ n, c % 2 ^ n, by rw [Nat.div_add_mod'], Nat.div_lt_of_lt_mul (by rw [hn] at hc; omega),
      Nat.mod_lt _ (by positivity)⟩
  subst hc'
  have hkn : 2 ^ n * 2 ^ k = 2 ^ 31 := by rw [← pow_add]; congr 1; omega
  have hq : (b * 2 ^ n + y) * 2 ^ k + m = b * 2 ^ 31 + (y * 2 ^ k + m) := by rw [← hkn]; ring
  have hx : y * 2 ^ k + m < 2 ^ 31 := by nlinarith
  have hsum : (m * d + r) * 2 ^ (32 - k) + (b * 2 ^ n + y) = (2 * m * d + (2 * r + b)) * 2 ^ n + y := by
    rw [hn]; ring
  have hr : 2 * r + b < 2 ^ 32 := by
    rw [hsum] at ha
    nlinarith [Nat.one_le_two_pow (n := n), Nat.zero_le (2 * m * d * 2 ^ n)]
  rw [hq, divStep_of_bit hx hr, hsum]
  unfold DividedTo
  rw [hn', pow_succ]
  split
  case isTrue hle =>
    obtain ⟨t, ht⟩ := Nat.exists_eq_add_of_le hle
    rw [ht, Nat.add_sub_cancel_left]
    exact ⟨2 * m + 1, y, by ring, by omega, hy, by ring, by dsimp only; omega, by omega⟩
  case isFalse hlt =>
    exact ⟨2 * m, y, by ring, by omega, hy, by ring, fun _ => Nat.lt_of_not_le hlt, by omega⟩

theorem dividedTo_iterate {a d : Nat} (ha : a < 2 ^ 32) (k : Nat) (hk : k ≤ 32) :
    DividedTo a d k ((divStep d)^[k] (0, a)) := by
  induction k with
  | zero => exact dividedTo_zero ha
  | succ k ih =>
    rw [Function.iterate_succ_apply']
    exact (ih (by omega)).step ha (by omega)

/-- After all 32 steps no bit is to come: the halves are the quotient and the remainder. -/
theorem DividedTo.quotient {a d : Nat} {rq : Nat × Nat} (h : DividedTo a d 32 rq) :
    (0 < d → rq = (a % d, a / d)) ∧ (d = 0 → rq = (a, 2 ^ 32 - 1)) := by
  obtain ⟨r, q⟩ := rq
  obtain ⟨m, c, rfl, hm, hc, rfl, hpos, hzero⟩ := h
  obtain rfl : c = 0 := by omega
  dsimp only at *
  refine ⟨fun hd => ?positive, fun hd => ?zero⟩
  case positive =>
    have hr : r < d := hpos hd
    have ha : (m * d + r) * 2 ^ (32 - 32) + 0 = d * m + r := by ring
    rw [ha, Nat.mul_add_mod, Nat.mod_eq_of_lt hr, Nat.mul_add_div hd, Nat.div_eq_of_lt hr]
    simp
  case zero =>
    have hm' : m = 2 ^ 32 - 1 := by have := hzero hd; omega
    simp [hd, hm']

/-- Settles O12: the form's result on each side, and that 32 steps divide. -/
theorem divideSteps : Obligations.DivideSteps := by
  refine ⟨fun f s e => ⟨fun h => ?uniform, fun h => ?vector⟩, fun a b ha hb => ?divides⟩
  case uniform => exact issue_divForm_of_uniform h (h.uniform_eq rfl)
  case vector => exact issue_divForm_of_vector h (h.uniform_eq rfl)
  case divides =>
    have hstart : halvesOf (BitVec.ofNat 64 a) = (0, a) := by
      rw [halvesOf, BitVec.toNat_ofNat]
      exact Prod.ext (by dsimp only; omega) (by dsimp only; omega)
    have htwo : (divSteps 16 b (divSteps 16 b (BitVec.ofNat 64 a))).toNat =
        ((divStep b)^[32] (0, a)).1 * 2 ^ 32 + ((divStep b)^[32] (0, a)).2 := by
      rw [divSteps_divSteps, divSteps_eq_iterate, hstart, toNat_ofHalves (halvesFit_iterate ⟨by simp, ha⟩ b _)]
    obtain ⟨hpos, hzero⟩ := (dividedTo_iterate (d := b) ha 32 le_rfl).quotient
    dsimp only
    rw [htwo]
    exact ⟨fun h => by rw [hpos h], fun h => by rw [hzero h]; norm_num⟩

end Sys2Proof.Machine
end

section
/-! Proofs about comparisons, selection and predicate logic (O14), which fails in one corner: `vplog` writes a part of a
predicate's granule whose bits are lost, and that granule stays lost and reads as zeros (R366). First what each form leaves
where it holds; then a state that meets the corner. -/

namespace Sys2Proof.Machine

section
variable {f : Fields} {s : State} {e : Env}

theorem bitNat_ne_zero (b : Bool) : (bitNat b != 0) = b := by cases b <;> rfl

/-- `scmp` writes its destination whole (R206). -/
theorem exec_scmp (h : Runs (.scmp f) s e) : ∃ t, exec (.scmp f) s = .next t ∧
    UniformResult e s t (.live (BitVec.ofNat 64 (bitNat (compareInt e.var (e.intArgs s.clock 0).1))))
      (flagIf (e.intArgs s.clock 0).2 flagDEAD) := by
  obtain ⟨u, hdone, hresult⟩ := finishWhole_result e s (flagIf (e.intArgs s.clock 0).2 flagDEAD)
    (BitVec.ofNat 64 (bitNat (compareInt e.var (e.intArgs s.clock 0).1))) h.crew
  exact ⟨_, issue_of_form h hdone, hresult⟩

/-- What a lane of `vcmp` gives. -/
def Env.compared (e : Env) (clock l : Nat) : LaneOut :=
  ⟨l, bitNat (compareInt e.var (e.intArgs clock l).1), 0, (e.intArgs clock l).2⟩

/-- `vcmp` writes a predicate in the acting lanes (R206). -/
theorem exec_vcmp (h : Runs (.vcmp f) s e) : ∃ t, exec (.vcmp f) s = .next t ∧
    PredicateResult e s t e.dst e.acting (fun l => compareInt e.var (e.intArgs s.clock l).1)
      (joinFlags e.acting (fun l => flagIf (e.intArgs s.clock l).2 flagDEAD)) := by
  obtain ⟨u, hdone, hresult⟩ := finishP_result e s e.acting (e.compared s.clock) h.crew (fun _ => rfl) (acting_nodup e)
    (acting_lt e)
  rw [laneFlags_map_of_no_flags (fun _ => rfl)] at hresult
  simp only [Env.compared, bitNat_ne_zero] at hresult
  exact ⟨_, issue_of_form h hdone, hresult⟩

/-- What a lane of `vsel` gives. -/
def Env.selected (e : Env) (clock l : Nat) : LaneOut :=
  ⟨l, if e.cond l then (e.intArgs clock l).1.a else (e.intArgs clock l).1.b, 0, (e.intArgs clock l).2⟩

/-- `vsel` acts in every lane of the mask, by its predicate (R206). -/
theorem exec_vsel (h : Runs (.vsel f) s e) : ∃ t, exec (.vsel f) s = .next t ∧
    VectorResult e s t e.lanes (fun l => e.newV s (typeSigned e.ty) e.bits l (e.selected s.clock l).v)
      (joinFlags e.lanes (fun l => flagIf (e.selected s.clock l).dead flagDEAD)) := by
  obtain ⟨u, hdone, hresult⟩ := finishV_result e s (typeSigned e.ty) e.bits e.lanes (e.selected s.clock) h.crew
    (fun _ => rfl) (lanes_nodup e) (lanes_lt e)
  rw [laneFlags_map_of_no_flags (fun _ => rfl)] at hresult
  exact ⟨_, issue_of_form h hdone, hresult⟩

/-- A mask with bits of lanes written one after another, as a predicate's write does it. -/
def writtenBits (m : Mask) (ls : List (Nat × Bool)) : Mask :=
  ls.foldl (fun (m : Mask) t =>
    if t.2 then m ||| BitVec.ofNat 1024 (2 ^ t.1) else m &&& ~~~(BitVec.ofNat 1024 (2 ^ t.1))) m

theorem getLsbD_writtenBits (m : Mask) {ls : List Nat} (v : Nat → Bool) (hn : ls.Nodup) (hlt : ∀ l ∈ ls, l < 1024)
    {l : Nat} (hl : l < 1024) :
    (writtenBits m (ls.map (fun l => (l, v l)))).getLsbD l = if l ∈ ls then v l else m.getLsbD l := by
  have hfst : (ls.map (fun l => (l, v l))).map Prod.fst = ls := by simp [Function.comp_def]
  have hmem (b : Bool) : (l, b) ∈ ls.map (fun l => (l, v l)) ↔ l ∈ ls ∧ v l = b := by simp
  rw [writtenBits, getLsbD_foldl_mask _ _ _ hl (hfst.symm ▸ hn) (by simpa using hlt)]
  simp only [hmem]
  by_cases hls : l ∈ ls
  · cases v l <;> simp [hls]
  · simp [hls]

/-- What `vplog` makes of its two predicates in a lane (R207). -/
def Env.combined (e : Env) (l : Nat) : Bool :=
  let x := (e.c.pAt e.f.srca.toNat).getLsbD l
  let y := (e.c.pAt e.f.srcb.toNat).getLsbD l
  match e.var with
  | 0 => x && y
  | 1 => x || y
  | 2 => x != y
  | 3 => x && !y
  | _ => !x

/-- The crew's predicates after a `vplog`. -/
def Env.combination (e : Env) : Crew :=
  e.c.setP e.dst (writtenBits (e.c.pAt e.dst) (e.acting.map (fun l => (l, e.combined l))))

theorem combination_rest (e : Env) : e.combination = { e.c with p := e.combination.p } := by
  unfold Env.combination Crew.setP
  split <;> rfl

theorem getLsbD_combination (e : Env) (k : Nat) {l : Nat} (hl : l < 1024) : (e.combination.pAt k).getLsbD l =
    if k = e.dst ∧ k ≠ 15 ∧ l ∈ e.acting then e.combined l else (e.c.pAt k).getLsbD l := by
  unfold Env.combination
  by_cases hk : k = e.dst
  · subst hk
    by_cases h15 : e.dst = 15
    · simp [h15]
    · rw [pAt_setP _ _ _ h15, getLsbD_writtenBits _ _ (acting_nodup e) (acting_lt e) hl]
      simp [h15]
  · rw [pAt_setP_ne _ _ _ _ hk]
    simp [hk]

theorem foundP_of_none_lost {c : Crew} (hl : c.lost = []) (n : Nat) (ls : List Nat) : c.foundP n ls = c := by
  rw [Crew.foundP, hl]
  rfl

/-- `vplog`, with what is then lost of its destination (R207, R366). -/
theorem exec_vplog (h : Runs (.vplog f) s e) : ∃ t, exec (.vplog f) s = .next t ∧ CrewBecomes e.id s t
    (e.combination.foundP e.dst ((e.acting.map (fun l => (l, e.combined l))).map Prod.fst)) :=
  ⟨_, issue_runs h vplogForm, ((Env.Leads.start h.crew).modCrew _).done⟩

/-- `vplog` by a crew that has lost no granule of its predicates, masks and shapes (R207). -/
theorem exec_vplog_of_none_lost (h : Runs (.vplog f) s e) (hl : e.c.lost = []) :
    ∃ t, exec (.vplog f) s = .next t ∧ CrewBecomes e.id s t e.combination := by
  have hnone : e.combination.lost = [] := by rw [combination_rest]; exact hl
  exact foundP_of_none_lost hnone _ _ ▸ exec_vplog h

end

/-! A crew that has lost a register granule. -/

/-- A split that stands in no clause, its mask lane 0 alone. -/
def laneZeroSplit : Split :=
  { pc := 0, mask := 1, state := .ready, innermost := none, clause := none, awaitFlag := 0, wait := none, gang := 0,
    age := 0, waited := 0, left := 0, away := [], groups := [] }

/-- A resident crew of 32 lanes whose granule `g` of the other registers is lost (R366). -/
def crewLacking (g : Nat) : Crew :=
  { Crew.fresh 0 0 none none [] placeKernel 0 0 with
    state := .resident, splits := [(0, laneZeroSplit)], lost := [(g, false)] }

/-- The crew's split acts. -/
def stateLacking (g : Nat) : State := { State.reset with crews := [(0, crewLacking g)], actor := .split 0 0 }

/-- `vplog.and p0, p15, p15`. -/
def andOfOnes : Fields :=
  { dst := 0, srca := 15, srcb := 15, pred := 15, pneg := false, lua := false, lub := false, kpa := false, kpb := false,
    ty := 7, rnd := 0, sat := false, var := 0, ext := .short }

/-- Its issue by a crew that has lost the granule of `p0` in lanes 0 to 63. -/
def andAtIssue : Env :=
  { id := 0, entry := 0, c := crewLacking 0, x := laneZeroSplit, slot := 0x151, f := andOfOnes,
    form := { l64 := true, pred := true, dst := .pnum, a := .pnum, b := .pnum, types := 0x80, vars := 0x1f }, len := 8 }

theorem runs_andOfOnes : Runs (.vplog andOfOnes) (stateLacking 0) andAtIssue where
  env := rfl
  checks := by decide
  ready := by decide
  acts := by decide
  lamp := by decide
  intact := by decide

/-- Refutes O14: `vplog.and p0, p15, p15` acts in lane 0 of a crew that has lost the granule of `p0`. Lanes 1 to 31 of
it are not written, so it stays lost, and bit 0 reads 0 instead of 1. -/
theorem not_compareSelectCombine : ¬ Obligations.CompareSelectCombine := by
  intro h
  obtain ⟨-, -, -, hcombine⟩ := h andOfOnes (stateLacking 0) andAtIssue
  obtain ⟨t, c, hexec, ⟨-, -, d, hd, hsame⟩, -, hbits⟩ := hcombine runs_andOfOnes
  have hclaimed : (d.pAt 0).getLsbD 0 = true := by
    rw [hsame.pAt, hbits 0 0 (by decide)]
    decide +kernel
  have hmodel : ((settleRes andAtIssue (vplogForm andAtIssue (stateLacking 0))).crew andAtIssue.id).map
      (fun d => (d.pAt 0).getLsbD 0) = some false := by decide +kernel
  obtain rfl := Host.Outcome.next.inj ((issue_runs runs_andOfOnes vplogForm).symm.trans hexec)
  rw [hd, Option.map_some, hclaimed] at hmodel
  cases hmodel

end Sys2Proof.Machine
end

section
/-! Proofs about the shape forms (O15), which fails in one corner: `sshpw` writes a 64-bit part of a record whose bits are
lost, and the model leaves that part lost (`Crew.setT`), where R366 has a write of a whole granule clear it. First what each
form leaves; then a state that meets the corner. -/

namespace Sys2Proof.Machine

section
variable {f : Fields} {s : State} {e : Env}

theorem shapeForm_of_bad (hbad : shpBad (e.c.tAt e.f.srcb.toNat) = true) (k : Shape → Res) :
    shapeForm k e s = .exc s .ropnd := if_pos hbad

theorem shapeForm_of_good (hgood : shpBad (e.c.tAt e.f.srcb.toNat) = false) (k : Shape → Res) :
    shapeForm k e s = k (e.c.tAt e.f.srcb.toNat) := if_neg (Bool.eq_false_iff.1 hgood)

/-- A record that no address can be formed through raises `ROPND` (Table 22-7). -/
theorem exec_shape_of_bad (hbad : shpBad (e.c.tAt e.f.srcb.toNat) = true) {k : Fields → Instr}
    (hk : k ∈ [Instr.sadrt, .vadrt, .vinrt]) (h : Runs (k f) s e) :
    exec (k f) s = .next (settleRes e (.exc s .ropnd)) := by
  have hadrt : adrtForm e s = .exc s .ropnd := shapeForm_of_bad hbad _
  have hinrt : vinrtForm e s = .exc s .ropnd := shapeForm_of_bad hbad _
  fin_cases hk
  · exact issue_of_form h hadrt
  · exact issue_of_form h hadrt
  · exact issue_of_form h hinrt

/-- What a lane of `sadrt` and `vadrt` gives (R210). -/
def Env.addressed (e : Env) (l : Nat) : LaneOut :=
  ⟨l, (shpAdrt (e.c.tAt e.f.srcb.toNat) (e.coords l).1).toNat, 0, (e.coords l).2⟩

theorem exec_sadrt (hgood : shpBad (e.c.tAt e.f.srcb.toNat) = false) (h : Runs (.sadrt f) s e) :
    ∃ t, exec (.sadrt f) s = .next t ∧
      UniformResult e s t (e.newS s false 64 (e.addressed 0).v) (flagIf (e.addressed 0).dead flagDEAD) := by
  obtain ⟨u, hdone, hresult⟩ := finishS_result e s false 64 (e.addressed 0) h.crew
  have hform : adrtForm e s = .done u :=
    ((shapeForm_of_good hgood _).trans (if_pos (h.uniform_eq rfl))).trans hdone
  have hflags : (e.addressed 0).flags ||| flagIf (e.addressed 0).dead flagDEAD = flagIf (e.addressed 0).dead flagDEAD :=
    BitVec.zero_or
  exact ⟨_, issue_of_form h hform, hflags ▸ hresult⟩

theorem exec_vadrt (hgood : shpBad (e.c.tAt e.f.srcb.toNat) = false) (h : Runs (.vadrt f) s e) :
    ∃ t, exec (.vadrt f) s = .next t ∧
      VectorResult e s t e.acting (fun l => e.newV s false 64 l (e.addressed l).v)
        (joinFlags e.acting (fun l => flagIf (e.addressed l).dead flagDEAD)) := by
  obtain ⟨u, hdone, hresult⟩ := finishV_result e s false 64 e.acting e.addressed h.crew (fun _ => rfl) (acting_nodup e)
    (acting_lt e)
  have hform : adrtForm e s = .done u :=
    ((shapeForm_of_good hgood _).trans (if_neg (Bool.eq_false_iff.1 (h.uniform_eq rfl)))).trans hdone
  rw [laneFlags_map_of_no_flags (fun _ => rfl)] at hresult
  exact ⟨_, issue_of_form h hform, hresult⟩

/-- What a lane of `vinrt` gives (R209). -/
def Env.tested (e : Env) (l : Nat) : LaneOut :=
  ⟨l, bitNat (shpInside (e.c.tAt e.f.srcb.toNat) (e.coords l).1), 0, (e.coords l).2⟩

theorem exec_vinrt (hgood : shpBad (e.c.tAt e.f.srcb.toNat) = false) (h : Runs (.vinrt f) s e) :
    ∃ t, exec (.vinrt f) s = .next t ∧
      PredicateResult e s t e.dst e.acting (fun l => shpInside (e.c.tAt e.f.srcb.toNat) (e.coords l).1)
        (joinFlags e.acting (fun l => flagIf (e.coords l).2 flagDEAD)) := by
  obtain ⟨u, hdone, hresult⟩ := finishP_result e s e.acting e.tested h.crew (fun _ => rfl) (acting_nodup e) (acting_lt e)
  have hform : vinrtForm e s = .done u := (shapeForm_of_good hgood _).trans hdone
  rw [laneFlags_map_of_no_flags (fun _ => rfl)] at hresult
  simp only [Env.tested, bitNat_ne_zero] at hresult
  exact ⟨_, issue_of_form h hform, hresult⟩

theorem exec_sshpr (h : Runs (.sshpr f) s e) : ∃ t, exec (.sshpr f) s = .next t ∧
    UniformResult e s t (.live (BitVec.ofNat 64 ((e.c.tAt e.f.srcb.toNat).toNat / 2 ^ (64 * e.var)))) 0 := by
  obtain ⟨u, hdone, hresult⟩ := finishWhole_result e s 0
    (BitVec.ofNat 64 ((e.c.tAt e.f.srcb.toNat).toNat / 2 ^ (64 * e.var))) h.crew
  exact ⟨_, issue_of_form h hdone, hresult⟩

/-- The crew whose sources have ended and whose reads of dead registers stand in `STICKY`. -/
def Env.afterRead (e : Env) (s : State) : Crew := e.spent (e.dead s (e.read s.clock e.srcA 0).2)

theorem issue_shapeWrite {i : Instr} (h : Runs i s e) (op : Env → Shape → Word → Shape) :
    ∃ t, issue i (fun e => shapeWrite (op e) e) s = .next t ∧ CrewBecomes e.id s t
      ((e.afterRead s).setT e.dst (op e ((e.afterRead s).tAt e.dst) (e.read s.clock e.srcA 0).1)) :=
  ⟨_, issue_runs h _, ((((Env.Leads.start h.crew).flag _).endUses).modCrew
    (fun c => c.setT e.dst (op e (c.tAt e.dst) (e.read s.clock e.srcA 0).1))).done⟩

theorem setT_of_none_lost {c : Crew} (hl : c.lost = []) (n : Nat) (r : Shape) :
    c.setT n r = { c with t := tabPut c.t n r } := by
  have hkeep : r &&& ~~~(0 : Shape) = r := (congrArg _ BitVec.not_zero).trans BitVec.and_allOnes
  simp only [Crew.setT, hl, List.foldl_nil, hkeep]

/-- `sshpw` and `sshpb` by a crew that has lost no granule of its predicates, masks and shapes (R209). -/
theorem issue_shapeWrite_of_none_lost {i : Instr} (h : Runs i s e) (hl : (e.afterRead s).lost = [])
    (op : Env → Shape → Word → Shape) :
    ∃ t, issue i (fun e => shapeWrite (op e) e) s = .next t ∧ CrewBecomes e.id s t { e.afterRead s with
      t := tabPut (e.afterRead s).t e.dst (op e ((e.afterRead s).tAt e.dst) (e.read s.clock e.srcA 0).1) } :=
  setT_of_none_lost hl _ _ ▸ issue_shapeWrite h op

end

/-! The corner. -/

/-- `sshpw t0, 1`, of the part in bits 63:0. -/
def partOfOne : Fields := { andOfOnes with srca := 961, srcb := 0 }

/-- Its issue by a crew that has lost that part of `t0`. -/
def partAtIssue : Env :=
  { id := 0, entry := 0, c := crewLacking 512, x := laneZeroSplit, slot := 0x0E2, f := partOfOne,
    form := { l64 := true, uniform := true, pred := true, dst := .tnum, a := .uni, types := 0x80, vars := 0xf }, len := 8 }

theorem runs_partOfOne : Runs (.sshpw partOfOne) (stateLacking 512) partAtIssue where
  env := rfl
  checks := by decide
  ready := by decide
  acts := by decide
  lamp := by decide
  intact := by decide

/-- Refutes O15: `sshpw t0, 1` by a crew that has lost bits 63:0 of `t0` writes them whole, and they read 0 instead
of 1. -/
theorem not_shapeResults : ¬ Obligations.ShapeResults := by
  intro h
  obtain ⟨-, -, -, -, -, -, -, hwrites⟩ := h partOfOne (stateLacking 512) partAtIssue
  obtain ⟨hwrite, -⟩ := hwrites _ rfl
  obtain ⟨t, hexec, -, -, d, hd, hsame⟩ := hwrite runs_partOfOne
  have hclaimed : d.t = [(0, 1)] := by
    rw [hsame.t]
    decide +kernel
  have hmodel : ((settleRes partAtIssue (shapeWrite (fun t w => shpSetPart t partAtIssue.var w) partAtIssue
      (stateLacking 512))).crew partAtIssue.id).map Crew.t = some [(0, 0)] := by decide +kernel
  obtain rfl := Host.Outcome.next.inj ((issue_runs runs_partOfOne _).symm.trans hexec)
  rw [hd, Option.map_some, hclaimed] at hmodel
  exact absurd hmodel (by decide +kernel)

end Sys2Proof.Machine
end

section
/-! Proofs about the sign forms (O17): first the bits of a result that is gathered from elements; then what an operation on
the sign bit alone makes of them, and the three operations. -/

namespace Sys2Proof.Machine

/-! Flags of lanes and of elements (R148). -/

theorem joinFlags_concat (ls : List Nat) (a : Nat) (fl : Nat → Flags) :
    joinFlags (ls ++ [a]) fl = joinFlags ls fl ||| fl a := by simp [joinFlags]

theorem joinFlags_of_none {fl : Nat → Flags} (hfl : ∀ l, fl l = 0) (ls : List Nat) : joinFlags ls fl = 0 := by
  induction ls using List.reverseRecOn with
  | nil => rfl
  | append_singleton ls a ih =>
    rw [joinFlags_concat, ih, hfl]
    rfl

/-! Bits and flags of what is gathered (R198, R214). -/

/-- Element i of a word becomes what `k i` gives, and its flags join. -/
def putElem (n : Nat) (k : Nat → Nat × Flags) (a : Word × Flags) (i : Nat) : Word × Flags :=
  (setElem n i a.1 (k i).1, a.2 ||| (k i).2)

theorem foldl_putElem_fst (n : Nat) (k : Nat → Nat × Flags) (ls : List Nat) :
    (ls.foldl (putElem n k) (0, 0)).1 = ls.foldl (fun w i => setElem n i w (k i).1) 0 :=
  (List.foldl_hom Prod.fst fun _ _ => rfl).symm

theorem foldl_putElem_snd (n : Nat) (k : Nat → Nat × Flags) (ls : List Nat) :
    (ls.foldl (putElem n k) (0, 0)).2 = joinFlags ls (fun i => (k i).2) :=
  (List.foldl_hom Prod.snd fun _ _ => rfl).symm

section
variable {e : Env} {n : Nat} {k : Nat → Nat × Flags}

theorem gather_of_view {i : Nat} (hview : e.view = some i) : e.gather n k = k i := by rw [Env.gather, hview]

theorem gather_of_no_view (hview : e.view = none) : e.gather n k =
    (((List.range (64 / n)).foldl (fun w i => setElem n i w (k i).1) 0).toNat,
      joinFlags (List.range (64 / n)) (fun i => (k i).2)) := by
  rw [← foldl_putElem_fst, ← foldl_putElem_snd, Env.gather, hview]
  rfl

/-- A bit that is gathered is one of the view's element, or of the element in whose place it lies. -/
theorem testBit_gather (hn : n ∣ 64) {j : Nat} (hj : j < e.gatherBits n) :
    (e.gather n k).1.testBit j = (k (e.view.getD (j / n))).1.testBit (j % n) := by
  cases hview : e.view with
  | some i =>
    have hlt : j < n := by simpa [Env.gatherBits, hview] using hj
    rw [gather_of_view hview, Nat.mod_eq_of_lt hlt, Option.getD_some]
  | none =>
    have hj : j < 64 := by simpa [Env.gatherBits, hview] using hj
    have helem := elemAt_foldl_setElem n (fun i => (k i).1) 0 (Nat.mul_div_le 64 n) (Nat.div_lt_div_of_lt_of_dvd hn hj)
    have hbit := congrArg (Nat.testBit · (j % n)) helem
    have hlt : j % n < n := Nat.mod_lt j (Nat.pos_of_dvd_of_pos hn (by decide))
    simp only [testBit_elemAt, Nat.testBit_mod_two_pow, hlt, decide_true, Bool.true_and, Nat.div_add_mod] at hbit
    rw [gather_of_no_view hview]
    exact hbit

/-- Elements without flags gather none. -/
theorem gather_flags_of_none (hk : ∀ i, (k i).2 = 0) : (e.gather n k).2 = 0 := by
  cases hview : e.view with
  | some i =>
    rw [gather_of_view hview]
    exact hk i
  | none =>
    rw [gather_of_no_view hview]
    exact joinFlags_of_none hk _

end

/-! Operations on the sign bit (R220). -/

/-- An operation on patterns keeps every bit of the first but the sign bit, which becomes `sign` of both patterns'. -/
def ActsOnSign (k : FFmt → Nat → Nat → Nat) (sign : Bool → Bool → Bool) : Prop :=
  ∀ (f : FFmt) (a b j : Nat), j < f.width →
    (k f a b).testBit j = if j = f.width - 1 then sign (a.testBit j) (b.testBit j) else a.testBit j

theorem actsOnSign_neg : ActsOnSign (fun f a _ => a ^^^ 2 ^ (f.width - 1)) (fun x _ => !x) := by
  intro f a b j _
  rw [Nat.testBit_xor, Nat.testBit_two_pow]
  by_cases hj : j = f.width - 1
  · simp [hj]
  · simp [hj, Ne.symm hj]

theorem actsOnSign_abs : ActsOnSign (fun f a _ => a % 2 ^ (f.width - 1)) (fun _ _ => false) := by
  intro f a b j hlt
  rw [Nat.testBit_mod_two_pow]
  by_cases hj : j = f.width - 1
  · simp [hj]
  · simp [hj, show j < f.width - 1 by omega]

theorem actsOnSign_copySign : ActsOnSign copySign (fun _ y => y) := by
  intro f a b j hlt
  have hsign : copySign f a b = 2 ^ (f.width - 1) * bitNat (b.testBit (f.width - 1)) + a % 2 ^ (f.width - 1) := by
    rw [copySign, FFmt.signBits, FFmt.signOf, Nat.add_comm]
    cases b.testBit (f.width - 1) <;> simp [bitNat]
  rw [hsign, Nat.testBit_two_pow_mul_add _ (Nat.mod_lt _ (by positivity)), Nat.testBit_mod_two_pow]
  by_cases hj : j = f.width - 1
  · subst hj
    cases b.testBit (f.width - 1) <;> simp [bitNat]
  · simp [hj, show j < f.width - 1 by omega]

/-! The forms. -/

/-- The bit of a source that bit j of a result comes from: the same bit, or under a view that of its element. -/
def Env.place (e : Env) (j : Nat) : Nat := (match e.view with | some i => e.bits * i | none => 0) + j

def Env.srcBit (e : Env) (clock : Nat) (o : Opnd) (l j : Nat) : Bool :=
  (o.spread false e.ty (e.read clock o l).1).getLsbD (e.place j)

theorem place_eq (e : Env) {j : Nat} (hj : j < e.gatherBits e.bits) :
    e.place j = e.bits * e.view.getD (j / e.bits) + j % e.bits := by
  unfold Env.place
  cases hview : e.view with
  | some i =>
    have hlt : j < e.bits := by simpa [Env.gatherBits, hview] using hj
    rw [Nat.mod_eq_of_lt hlt, Option.getD_some]
  | none => rw [Option.getD_none, Nat.div_add_mod, Nat.zero_add]

/-- The types of the sign forms: their formats fill their width, and their elements a register. -/
theorem width_of_float {t : Nat} (hlo : 8 ≤ t) (hhi : t ≤ 11) : (ffmt t).width = typeBits t ∧ typeBits t ∣ 64 := by
  interval_cases t <;> decide

section
variable {i : Instr} {s : State} {e : Env} {k : FFmt → Nat → Nat → Nat} {sign : Bool → Bool → Bool}

/-- A pattern operation as an elementwise form takes it. -/
def bitOp (k : FFmt → Nat → Nat → Nat) (e : Env) (a b _c : Nat) : Nat × Flags := (k (ffmt e.ty) a b, 0)

theorem testBit_floatLane_bitOp (hk : ActsOnSign k sign) (hlo : 8 ≤ e.ty) (hhi : e.ty ≤ 11) (clock l : Nat) {j : Nat}
    (hj : j < e.gatherBits e.bits) :
    (e.floatLane clock l (bitOp k)).1.testBit j =
      if j % e.bits = e.bits - 1 then sign (e.srcBit clock e.srcA l j) (e.srcBit clock e.srcB l j)
      else e.srcBit clock e.srcA l j := by
  obtain ⟨hwidth, hdvd⟩ : (ffmt e.ty).width = e.bits ∧ e.bits ∣ 64 := width_of_float hlo hhi
  have hlt : j % e.bits < e.bits := Nat.mod_lt _ (Nat.pos_of_dvd_of_pos hdvd (by decide))
  simp only [Env.srcBit, place_eq e hj]
  rw [Env.floatLane, testBit_gather hdvd hj, bitOp, hk _ _ _ _ (hwidth ▸ hlt), hwidth]
  simp only [testBit_elemAt, hlt, decide_true, Bool.true_and]

theorem floatLane_bitOp_flags (clock l : Nat) : (e.floatLane clock l (bitOp k)).2 = 0 :=
  gather_flags_of_none fun _ => rfl

theorem issue_bitForm_of_actsOnSign (h : Runs i s e) (hv : rowSide i = some false) (hk : ActsOnSign k sign)
    (hlo : 8 ≤ e.ty) (hhi : e.ty ≤ 11) :
    ∃ (t : State) (w : Nat → Nat), issue i (bitForm k) s = .next t ∧
      VectorResult e s t e.acting (fun l => e.newV s false (e.gatherBits e.bits) l (w l))
        (joinFlags e.acting (fun l => flagIf (e.readsDead s.clock l) flagDEAD)) ∧
      ∀ l j, j < e.gatherBits e.bits → (w l).testBit j =
        if j % e.bits = e.bits - 1 then sign (e.srcBit s.clock e.srcA l j) (e.srcBit s.clock e.srcB l j)
        else e.srcBit s.clock e.srcA l j := by
  obtain ⟨t, hexec, hresult⟩ := issue_floatForm_of_vector h (bitOp k) (h.uniform_eq hv)
  have hflags (l : Nat) (d : Flags) : (e.floatLane s.clock l (bitOp k)).2 ||| d = d := by
    rw [floatLane_bitOp_flags]
    exact BitVec.zero_or
  simp only [hflags] at hresult
  exact ⟨t, fun l => (e.floatLane s.clock l (bitOp k)).1, hexec, hresult,
    fun l j hj => testBit_floatLane_bitOp hk hlo hhi s.clock l hj⟩

end

/-- Settles O17: each form is an operation on the sign bit. -/
theorem signForms : Obligations.SignForms := by
  intro f s e hlo hhi
  refine ⟨fun h => ?neg, fun h => ?abs, fun h => ?csgn⟩
  case neg => exact issue_bitForm_of_actsOnSign h rfl actsOnSign_neg hlo hhi
  case abs => exact issue_bitForm_of_actsOnSign h rfl actsOnSign_abs hlo hhi
  case csgn => exact issue_bitForm_of_actsOnSign h rfl actsOnSign_copySign hlo hhi

end Sys2Proof.Machine
end

section
/-! Proofs about dot products, floating comparisons and conversions (O18): each form's lanes, then what it leaves. -/

namespace Sys2Proof.Machine

/-! Flags of lanes, joined (R148). -/

theorem joinFlags_or (ls : List Nat) (f g : Nat → Flags) :
    joinFlags ls (fun l => f l ||| g l) = joinFlags ls f ||| joinFlags ls g := by
  induction ls using List.reverseRecOn with
  | nil => exact BitVec.zero_or.symm
  | append_singleton ls a ih =>
    simp only [joinFlags_concat, ih]
    ac_rfl

theorem flagIf_or (a b : Bool) (f : Flags) : flagIf (a || b) f = flagIf a f ||| flagIf b f := by
  cases a <;> cases b <;> simp [flagIf]

theorem joinFlags_flagIf (ls : List Nat) (b : Nat → Bool) (f : Flags) :
    joinFlags ls (fun l => flagIf (b l) f) = flagIf (ls.any b) f := by
  induction ls using List.reverseRecOn with
  | nil => rfl
  | append_singleton ls a ih =>
    rw [joinFlags_concat, ih, List.any_append, flagIf_or, List.any_cons, List.any_nil, Bool.or_false]

section
variable {f : Fields} {s : State} {e : Env}

/-! The dot product (R222). -/

/-- Half j of what `vfdot2` gives lane l: its addend and two products, summed exactly and rounded once, and the flags. -/
def Env.dotHalf (e : Env) (clock l j : Nat) : Nat × Flags :=
  let val : Nat → Word → Nat → FVal := fun t w i => (ffmt t).decode (dazed e.c.fpctl t (elemAt (typeBits t) i w))
  let wa := e.srcA.spread false e.f.ty2 (e.read clock e.srcA l).1
  let wb := e.srcB.spread false e.f.ty2 (e.read clock e.srcB l).1
  let wc := e.srcC.spread false 9 (e.read clock e.srcC l).1
  let p := mulVal (val e.f.ty2 wa (2 * j)) (val e.f.ty2 wb (2 * j))
  let q := mulVal (val e.f.ty2 wa (2 * j + 1)) (val e.f.ty2 wb (2 * j + 1))
  let x := addVal e.f.rnd.toNat (val 9 wc j) p.1
  let y := addVal e.f.rnd.toNat x.1 q.1
  let r := flushed e.c.fpctl 9 (roundVal fF32 e.f.rnd.toNat false noRBits y.1)
  (r.1, r.2 ||| p.2 ||| q.2 ||| x.2 ||| y.2)

/-- Both halves in a word, with their flags. -/
def Env.dotWord (e : Env) (clock l : Nat) : Word × Flags := (List.range 2).foldl (putElem 32 (e.dotHalf clock l)) (0, 0)

def Env.dotOut (e : Env) (clock l : Nat) : LaneOut :=
  ⟨l, (e.dotWord clock l).1.toNat, (e.dotWord clock l).2, e.readsDead clock l⟩

theorem elemAt_dotWord (e : Env) (clock l : Nat) {j : Nat} (hj : j < 2) :
    elemAt 32 j (e.dotWord clock l).1 = (e.dotHalf clock l j).1 % 2 ^ 32 := by
  rw [Env.dotWord, foldl_putElem_fst]
  exact elemAt_foldl_setElem 32 (fun i => (e.dotHalf clock l i).1) 0 (by decide) hj

theorem dotWord_flags (e : Env) (clock l : Nat) :
    (e.dotWord clock l).2 = (e.dotHalf clock l 0).2 ||| (e.dotHalf clock l 1).2 := by
  have hjoin : (e.dotWord clock l).2 = 0 ||| (e.dotHalf clock l 0).2 ||| (e.dotHalf clock l 1).2 := foldl_putElem_snd ..
  rw [hjoin]
  exact congrArg (· ||| _) BitVec.zero_or

theorem dotForm_eq (e : Env) (s : State) : dotForm e s = e.finishV s false 64 (e.acting.map (e.dotOut s.clock)) := by
  refine congrArg (fun k => e.finishV s false 64 (e.acting.map k)) (funext fun l => ?_)
  refine congrArg (fun x : Word × Flags => LaneOut.mk l x.1.toNat x.2 (e.readsDead s.clock l))
    (?_ : _ = e.dotWord s.clock l)
  refine congrArg (fun step => (List.range 2).foldl step ((0, 0) : Word × Flags))
    (funext₂ fun acc j => Prod.ext rfl ?_)
  simp only [putElem, Env.dotHalf, BitVec.or_assoc]

theorem exec_vfdot2 (h : Runs (.vfdot2 f) s e) : ∃ t, exec (.vfdot2 f) s = .next t ∧
    VectorResult e s t e.acting (fun l => e.newV s false 64 l (e.dotWord s.clock l).1.toNat)
      (joinFlags e.acting (fun l => (e.dotHalf s.clock l 0).2 ||| (e.dotHalf s.clock l 1).2 |||
        flagIf (e.readsDead s.clock l) flagDEAD)) := by
  obtain ⟨u, hdone, hresult⟩ := finishV_result e s false 64 e.acting (e.dotOut s.clock) h.crew (fun _ => rfl)
    (acting_nodup e) (acting_lt e)
  rw [laneFlags_map] at hresult
  simp only [Env.dotOut, dotWord_flags] at hresult
  exact ⟨_, issue_of_form h ((dotForm_eq e s).trans hdone), hresult⟩

/-! Comparisons (R223). -/

/-- What a lane of `vfcmp` gives. -/
def Env.fcompared (e : Env) (clock l : Nat) : LaneOut :=
  ⟨l, bitNat (e.fcompare clock l).1.1, (e.fcompare clock l).1.2, (e.fcompare clock l).2⟩

theorem exec_vfcmp (h : Runs (.vfcmp f) s e) : ∃ t, exec (.vfcmp f) s = .next t ∧
    PredicateResult e s t e.dst e.acting (fun l => (e.fcompare s.clock l).1.1)
      (joinFlags e.acting (fun l => (e.fcompare s.clock l).1.2 ||| flagIf (e.fcompare s.clock l).2 flagDEAD)) := by
  obtain ⟨u, hdone, hresult⟩ := finishP_result e s e.acting (e.fcompared s.clock) h.crew (fun _ => rfl) (acting_nodup e)
    (acting_lt e)
  rw [laneFlags_map] at hresult
  simp only [Env.fcompared, bitNat_ne_zero] at hresult
  exact ⟨_, issue_of_form h hdone, hresult⟩

theorem ofNat_bitNat (n : Nat) (b : Bool) : BitVec.ofNat n (bitNat b) = if b then 1 else 0 := by cases b <;> rfl

theorem exec_sfcmp (h : Runs (.sfcmp f) s e) : ∃ t, exec (.sfcmp f) s = .next t ∧
    UniformResult e s t (.live (if (e.fcompare s.clock 0).1.1 then 1 else 0))
      ((e.fcompare s.clock 0).1.2 ||| flagIf (e.fcompare s.clock 0).2 flagDEAD) := by
  obtain ⟨u, hdone, hresult⟩ := finishWhole_result e s
    ((e.fcompare s.clock 0).1.2 ||| flagIf (e.fcompare s.clock 0).2 flagDEAD)
    (BitVec.ofNat 64 (bitNat (e.fcompare s.clock 0).1.1)) h.crew
  exact ⟨_, issue_of_form h hdone, ofNat_bitNat 64 _ ▸ hresult⟩

/-! Conversions (R228 to R230). -/

/-- What a conversion makes of a lane's sources and the old value of its destination. -/
def Env.converted (e : Env) (clock l : Nat) (old : RegVal) : Word × Flags :=
  e.convert (e.srcA.spread false e.f.ty2 (e.read clock e.srcA l).1) (e.read clock e.srcB l).1 (e.read clock e.srcC l).1
    old.saved

/-- The destination of a conversion, from its old value. -/
def Env.convertedReg (e : Env) (clock l : Nat) (old : RegVal) : RegVal :=
  old.wrote e.convertsPart (e.converted clock l old).1

/-- What a lane's destination becomes, where `y` gives the converted words. -/
def Env.putConverted (e : Env) (y : Nat → Word × Flags) (l : Nat) (old : RegVal) : RegVal :=
  old.wrote e.convertsPart (y l).1

/-- The crew whose sources have ended, as a conversion finds it. -/
def Env.spentDead (e : Env) (s : State) (d : Bool) : Crew := ((e.endUses (e.dead s d)).crew e.id).getD e.c

theorem spentDead_eq (hc : s.crew e.id = some e.c) (d : Bool) :
    e.spentDead s d = (e.spent s).orSticky (flagIf d flagDEAD) := by
  rw [Env.spentDead, crew_endUses e (e.dead s d) _ (crew_flag e s _ e.c hc), Option.getD_some, spent_dead hc]

theorem cvtForm_of_uniform (hu : e.form.uniform = true) :
    let old := (e.spentDead s (e.readsDead s.clock 0)).sAt e.dst
    cvtForm e s = .done ((e.flag (e.endUses (e.dead s (e.readsDead s.clock 0))) (e.converted s.clock 0 old).2).modCrew e.id
      (fun c => c.setS e.dst (e.convertedReg s.clock 0 old))) := if_pos hu

theorem cvtForm_of_vector (hv : e.form.uniform = false) :
    let d := e.acting.any (e.readsDead s.clock)
    let y : Nat → Word × Flags := fun l => e.converted s.clock l ((e.spentDead s d).vAt e.dst l)
    cvtForm e s = .done ((e.flag (e.endUses (e.dead s d)) (joinFlags e.acting (fun l => (y l).2))).modCrew e.id
      (fun c => e.acting.foldl (fun c l => c.setV e.dst l (e.putConverted y l (c.vAt e.dst l))) c)) := by
  refine (if_neg (Bool.eq_false_iff.1 hv)).trans ?_
  simp only [List.map_map, List.any_map, List.foldl_map]
  rfl

theorem exec_scvt (h : Runs (.scvt f) s e) : ∃ t, exec (.scvt f) s = .next t ∧
    UniformResult e s t (e.convertedReg s.clock 0 ((e.spent s).sAt e.dst))
      ((e.converted s.clock 0 ((e.spent s).sAt e.dst)).2 ||| flagIf (e.readsDead s.clock 0) flagDEAD) := by
  have hform := cvtForm_of_uniform (s := s) (h.uniform_eq rfl)
  rw [spentDead_eq h.crew] at hform
  exact ⟨_, issue_of_form h hform, ((leads_flagged h.crew _ _).modCrew _).done⟩

theorem exec_vcvt (h : Runs (.vcvt f) s e) : ∃ t, exec (.vcvt f) s = .next t ∧
    VectorResult e s t e.acting (fun l => e.convertedReg s.clock l ((e.spent s).vAt e.dst l))
      (joinFlags e.acting (fun l => (e.converted s.clock l ((e.spent s).vAt e.dst l)).2 |||
        flagIf (e.readsDead s.clock l) flagDEAD)) := by
  have hform := cvtForm_of_vector (s := s) (h.uniform_eq rfl)
  simp only [spentDead_eq h.crew] at hform
  rw [joinFlags_or, joinFlags_flagIf]
  exact ⟨_, issue_of_form h hform, _, ((leads_flagged h.crew _ _).modCrew _).done,
    foldl_setV_rest _ (e.putConverted _) _ _,
    vAt_foldl_setV _ (e.putConverted _) _ _ (acting_nodup e) (acting_lt e)⟩

end

/-- Settles O18: each form by what it leaves. -/
theorem dotCompareConvertResults : Obligations.DotCompareConvertResults := by
  refine ⟨fun f s e => ⟨fun h => ?dot, exec_vfcmp, exec_sfcmp⟩, fun f s e => ⟨exec_scvt, exec_vcvt⟩⟩
  case dot =>
    obtain ⟨t, hexec, hresult⟩ := exec_vfdot2 h
    exact ⟨t, fun l => (e.dotWord s.clock l).1, hexec, hresult, fun l j hj => elemAt_dotWord e s.clock l hj⟩

end Sys2Proof.Machine
end

section
/-! Proofs about permutation, matching, votes and the reading of a lane (O19), which fails in one corner: `vperm` writes a
part of a predicate's granule whose bits are lost, and the granule stays lost (`Crew.foundP`), as R366 has it. First what
each form leaves, `vperm` by a crew that has lost no such granule; then a state that meets the corner. -/

namespace Sys2Proof.Machine

/-- A crew that has lost these granules of its predicates, masks and shapes. -/
def Crew.withLost (c : Crew) (lost : Tab Bool) : Crew := { c with lost := lost }

/-- A sum of powers of two without repeats has the bits of its exponents. -/
theorem testBit_foldl_two_pow {ls : List Nat} {k : Nat → Nat} (hn : (ls.map k).Nodup) (j : Nat) :
    (ls.foldl (fun m l => m + 2 ^ k l) 0).testBit j = true ↔ ∃ l ∈ ls, k l = j := by
  have hsum : ls.foldl (fun m l => m + 2 ^ k l) 0 = ∑ i ∈ (ls.map k).toFinset, 2 ^ i := by
    rw [List.sum_toFinset _ hn, List.map_map, List.sum_eq_foldl, List.foldl_map]
    rfl
  rw [hsum, ← Nat.mem_bitIndices, ← List.mem_toFinset, Finset.toFinset_bitIndices_sum_two_pow, List.mem_toFinset,
    List.mem_map]

/-- Lanes of one group of n have different places in it. -/
theorem nodup_map_mod {ls : List Nat} (hn : ls.Nodup) {n q : Nat} (hq : ∀ l ∈ ls, l / n = q) : (ls.map (· % n)).Nodup :=
  hn.map_on fun a ha b hb hab => by
    rw [← Nat.div_add_mod a n, ← Nat.div_add_mod b n, hq a ha, hq b hb, hab]

/-- Bit j of the sum over a group's lanes is set when the lane at place j of the group is among them. -/
theorem testBit_group {ls : List Nat} (hn : ls.Nodup) {n q : Nat} (hpos : 0 < n) (hq : ∀ l ∈ ls, l / n = q) (j : Nat) :
    (ls.foldl (fun m l => m + 2 ^ (l % n)) 0).testBit j = true ↔ j < n ∧ n * q + j ∈ ls := by
  rw [testBit_foldl_two_pow (nodup_map_mod hn hq)]
  constructor
  · rintro ⟨l, hl, rfl⟩
    rw [← hq l hl, Nat.div_add_mod]
    exact ⟨Nat.mod_lt l hpos, hl⟩
  · rintro ⟨hj, hmem⟩
    exact ⟨n * q + j, hmem, by rw [Nat.mul_add_mod, Nat.mod_eq_of_lt hj]⟩

section
variable {f : Fields} {s : State} {e : Env}

/-- Dead registers are noted and the marked sources end. -/
theorem leads_spent (hc : s.crew e.id = some e.c) (d : Bool) :
    e.Leads s (e.endUses (e.dead s d)) ((e.spent s).orSticky (flagIf d flagDEAD)) := by
  have hspent := ((Env.Leads.start hc).flag (flagIf d flagDEAD)).endUses
  rwa [← Env.dead, spent_dead hc] at hspent

/-! Matching (R233). -/

/-- The element that `vmatch` compares in a lane. -/
def Env.matched (e : Env) (clock l : Nat) : Nat :=
  elemAt e.bits (e.view.getD 0) (e.srcA.spread false e.ty (e.read clock e.srcA l).1)

/-- The acting lanes of a lane's group with its element. -/
def Env.matches (e : Env) (clock l : Nat) : List Nat :=
  e.acting.filter (fun k => k / 32 == l / 32 && e.matched clock k == e.matched clock l)

/-- What `vmatch` gives a lane. -/
def Env.matchWord (e : Env) (clock l : Nat) : Word :=
  BitVec.ofNat 64 ((e.matches clock l).foldl (fun m k => m + 2 ^ (k % 32)) 0)

theorem getLsbD_matchWord (e : Env) (clock l : Nat) {j : Nat} (hj : j < 64) :
    (e.matchWord clock l).getLsbD j = true ↔
      j < 32 ∧ l / 32 * 32 + j ∈ e.acting ∧ e.matched clock (l / 32 * 32 + j) = e.matched clock l := by
  have hgroup : ∀ k ∈ e.matches clock l, k / 32 = l / 32 := fun k hk => by simp_all [Env.matches]
  have hnodup : (e.matches clock l).Nodup := (acting_nodup e).filter _
  rw [Env.matchWord, BitVec.getLsbD_ofNat, decide_eq_true hj, Bool.true_and, testBit_group hnodup (by decide) hgroup,
    Nat.mul_comm]
  refine and_congr_right fun hlt => ?_
  have hdiv : (l / 32 * 32 + j) / 32 = l / 32 := by omega
  simp [Env.matches, hdiv]

theorem exec_vmatch (h : Runs (.vmatch f) s e) : ∃ t, exec (.vmatch f) s = .next t ∧
    VectorResult e s t e.acting (fun l => .live (e.matchWord s.clock l))
      (flagIf (e.acting.any (fun l => (e.read s.clock e.srcA l).2)) flagDEAD) := by
  have hform : vmatchForm e s = .done (e.putV
      (e.endUses (e.dead s (e.acting.any (fun l => (e.read s.clock e.srcA l).2))))
      (e.acting.map (fun l => (e.dst, l, e.matchWord s.clock l)))) := by
    simp only [vmatchForm, List.map_map, List.any_map, List.filter_map, List.foldl_map]
    rfl
  have hleads := ((leads_spent h.crew (e.acting.any (fun l => (e.read s.clock e.srcA l).2))).modCrew (fun c =>
    (e.acting.map (fun l => (e.dst, l, e.matchWord s.clock l))).foldl (fun c t => c.setV t.1 t.2.1 (.live t.2.2)) c)).done
  refine ⟨_, issue_of_form h hform, _, hleads, ?_⟩
  rw [List.foldl_map]
  exact ⟨foldl_setV_rest e.dst (fun l _ => .live (e.matchWord s.clock l)) _ _,
    vAt_foldl_setV e.dst (fun l _ => .live (e.matchWord s.clock l)) _ _ (acting_nodup e) (acting_lt e)⟩

/-! Votes (R234). -/

/-- The acting lanes whose predicate holds. -/
def Env.voters (e : Env) : List Nat := e.acting.filter (fun l => (e.c.pAt e.f.srca.toNat).getLsbD l)

/-- What `vvote` counts of them: whether there is one, whether it is all, or how many. -/
def Env.tally (e : Env) : Word :=
  match e.var with
  | 0 => if e.voters.isEmpty then 0 else 1
  | 1 => if e.voters.length = e.acting.length then 1 else 0
  | _ => BitVec.ofNat 64 e.voters.length

/-- Group q of 64 of them, as bits. -/
def Env.ballot (e : Env) (q : Nat) : Word :=
  BitVec.ofNat 64 ((e.voters.filter (fun l => l / 64 == q)).foldl (fun m l => m + 2 ^ (l % 64)) 0)

theorem getLsbD_ballot (e : Env) (q : Nat) {j : Nat} (hj : j < 64) :
    (e.ballot q).getLsbD j = true ↔ 64 * q + j ∈ e.voters := by
  have hgroup : ∀ l ∈ e.voters.filter (fun l => l / 64 == q), l / 64 = q := fun l hl => by simp_all
  have hnodup : (e.voters.filter (fun l => l / 64 == q)).Nodup := ((acting_nodup e).filter _).filter _
  rw [Env.ballot, BitVec.getLsbD_ofNat, decide_eq_true hj, Bool.true_and, testBit_group hnodup (by decide) hgroup,
    List.mem_filter, beq_iff_eq]
  have hdiv : (64 * q + j) / 64 = q := by omega
  simp [hj, hdiv]

theorem vvoteForm_of_count (hvar : e.var ≠ 3) : vvoteForm e s = .done (e.putS s e.dst e.tally) := by
  refine (if_neg (mt beq_iff_eq.1 hvar)).trans (congrArg (fun w => Res.done (e.putS s e.dst w)) ?_)
  unfold Env.tally
  generalize e.var = v
  match v with
  | 0 =>
    refine (ofNat_bitNat 64 (!e.voters.isEmpty)).trans ?_
    cases e.voters.isEmpty <;> rfl
  | 1 => exact (ofNat_bitNat 64 _).trans (by simp [Env.voters])
  | _ + 2 => rfl

theorem vvoteForm_of_ballot (hvar : e.var = 3) (hq : (e.read s.clock e.srcB 0).1.toNat ≤ 15) :
    vvoteForm e s = .done (e.putS (e.endUses (e.dead s (e.read s.clock e.srcB 0).2)) e.dst
      (e.ballot (e.read s.clock e.srcB 0).1.toNat)) :=
  (if_pos (beq_iff_eq.2 hvar)).trans (if_neg (Nat.not_lt.2 hq))

theorem vvoteForm_of_no_group (hvar : e.var = 3) (hq : 15 < (e.read s.clock e.srcB 0).1.toNat) :
    vvoteForm e s = .exc (e.dead s (e.read s.clock e.srcB 0).2) .ropnd :=
  (if_pos (beq_iff_eq.2 hvar)).trans (if_pos hq)

theorem exec_vvote_of_count (h : Runs (.vvote f) s e) (hvar : e.var ≠ 3) :
    ∃ t, exec (.vvote f) s = .next t ∧ CrewBecomes e.id s t (e.c.writeS e.dst e.tally) :=
  ⟨_, issue_of_form h (vvoteForm_of_count hvar), ((Env.Leads.start h.crew).modCrew _).done⟩

theorem exec_vvote_of_ballot (h : Runs (.vvote f) s e) (hvar : e.var = 3)
    (hq : (e.read s.clock e.srcB 0).1.toNat ≤ 15) : ∃ t, exec (.vvote f) s = .next t ∧
    UniformResult e s t (.live (e.ballot (e.read s.clock e.srcB 0).1.toNat))
      (flagIf (e.read s.clock e.srcB 0).2 flagDEAD) :=
  ⟨_, issue_of_form h (vvoteForm_of_ballot hvar hq), ((leads_spent h.crew _).modCrew _).done⟩

/-! The reading of a lane (R237). -/

theorem exec_vrdl (h : Runs (.vrdl f) s e) :
    let b := e.read s.clock e.srcB 0
    let a := if b.1.toNat < e.c.lanes then e.read s.clock e.srcA b.1.toNat else (0, false)
    ∃ t, exec (.vrdl f) s = .next t ∧
      UniformResult e s t (.live a.1) (flagIf b.2 flagDEAD ||| flagIf a.2 flagDEAD) := by
  intro b a
  obtain ⟨u, hdone, hresult⟩ := finishWhole_dead_result h.crew b.2 (flagIf a.2 flagDEAD) a.1
  rw [BitVec.or_comm] at hresult
  exact ⟨_, issue_of_form h hdone, hresult⟩

/-! Permutation (R232). -/

/-- The lane that source B selects exists and is in the mask. -/
def Env.selects (e : Env) (clock l : Nat) : Bool :=
  let k := (e.read clock e.srcB l).1.toNat % 1024
  k < e.c.lanes && e.x.mask.getLsbD k

/-- Source A of the lane that a lane reads: the one selected, or its own. -/
def Env.permSource (e : Env) (clock l : Nat) : Word × Bool :=
  e.read clock e.srcA (if e.selects clock l then (e.read clock e.srcB l).1.toNat % 1024 else l)

/-- The element of it that `vperm` gives. -/
def Env.permElem (e : Env) (clock l : Nat) : Nat :=
  elemAt e.bits ((e.read clock e.srcB l).1.toNat / 1024 % 8 % (64 / e.bits))
    (e.srcA.spread false e.ty (e.permSource clock l).1)

/-- What a lane of the destination becomes. -/
def Env.permReg (e : Env) (clock l : Nat) (old : RegVal) : RegVal :=
  e.wrote old (setElem e.bits (e.view.getD 0) old.saved (e.permElem clock l))

/-- An acting lane reads a dead register. -/
def Env.permDead (e : Env) (clock : Nat) : Bool :=
  e.acting.any (fun l => (e.permSource clock l).2 || (e.read clock e.srcB l).2)

/-- The crew with its lanes permuted. -/
def Env.permuted (e : Env) (s : State) : Crew :=
  e.acting.foldl (fun c l => c.setV e.dst l (e.permReg s.clock l (c.vAt e.dst l)))
    ((e.spent s).orSticky (flagIf (e.permDead s.clock) flagDEAD))

/-- The lanes of the predicate that `vperm` writes. -/
def Env.selections (e : Env) (clock : Nat) : List (Nat × Bool) := e.acting.map (fun l => (l, e.selects clock l))

/-- The crew with the predicate written as well. -/
def Env.permutation (e : Env) (s : State) : Crew :=
  (e.permuted s).setP e.var (writtenBits ((e.permuted s).pAt e.var) (e.selections s.clock))

theorem vpermForm_eq (e : Env) (s : State) :
    let u := (e.endUses (e.dead s (e.permDead s.clock))).modCrew e.id (fun c =>
      e.acting.foldl (fun c l => c.setV e.dst l (e.permReg s.clock l (c.vAt e.dst l))) c)
    vpermForm e s = .done (if e.var = 15 then u else e.putP u e.var (e.selections s.clock)) := by
  simp only [vpermForm, List.map_map, List.any_map, List.foldl_map, beq_iff_eq]
  rfl

/-- `vperm`, with what is then lost of its predicate (R232, R366). -/
theorem exec_vperm (h : Runs (.vperm f) s e) : ∃ t, exec (.vperm f) s = .next t ∧ CrewBecomes e.id s t
    (if e.var = 15 then e.permuted s else (e.permutation s).foundP e.var ((e.selections s.clock).map Prod.fst)) := by
  refine ⟨_, issue_of_form h (vpermForm_eq e s), ?_⟩
  have hleads : e.Leads s _ (e.permuted s) := (leads_spent h.crew (e.permDead s.clock)).modCrew (fun c =>
    e.acting.foldl (fun c l => c.setV e.dst l (e.permReg s.clock l (c.vAt e.dst l))) c)
  by_cases h15 : e.var = 15
  · simp only [if_pos h15]
    exact hleads.done
  · simp only [if_neg h15]
    exact (hleads.modCrew _).done

theorem permuted_rest (e : Env) (s : State) : e.permuted s =
    { (e.spent s).orSticky (flagIf (e.permDead s.clock) flagDEAD) with v := (e.permuted s).v } :=
  foldl_setV_rest e.dst (e.permReg s.clock) e.acting _

theorem permutation_rest (e : Env) (s : State) : e.permutation s =
    { (e.spent s).orSticky (flagIf (e.permDead s.clock) flagDEAD) with
      v := (e.permutation s).v, p := (e.permutation s).p } := by
  unfold Env.permutation Crew.setP
  rw [permuted_rest]
  split <;> rfl

theorem vAt_setP (c : Crew) (n : Nat) (m : Mask) (r l : Nat) : (c.setP n m).vAt r l = c.vAt r l := by
  rw [Crew.vAt, setP_crew_v]
  rfl

theorem vAt_permutation (e : Env) (s : State) (r : Nat) {l : Nat} (hl : l < 1024) : (e.permutation s).vAt r l =
    if r = e.dst ∧ l ∈ e.acting then e.permReg s.clock l ((e.spent s).vAt e.dst l) else (e.spent s).vAt r l := by
  rw [Env.permutation, vAt_setP]
  exact vAt_foldl_setV e.dst (e.permReg s.clock) _ _ (acting_nodup e) (acting_lt e) r l hl

theorem pAt_permuted (e : Env) (s : State) (k : Nat) : (e.permuted s).pAt k = (e.spent s).pAt k := by
  rw [permuted_rest]
  rfl

theorem getLsbD_permutation (e : Env) (s : State) (k : Nat) {l : Nat} (hl : l < 1024) :
    ((e.permutation s).pAt k).getLsbD l =
      if k = e.var ∧ k ≠ 15 ∧ l ∈ e.acting then e.selects s.clock l else ((e.spent s).pAt k).getLsbD l := by
  rw [Env.permutation]
  by_cases hk : k = e.var
  · subst hk
    by_cases h15 : e.var = 15
    · simp [h15, pAt_permuted]
    · rw [pAt_setP _ _ _ h15, Env.selections, getLsbD_writtenBits _ _ (acting_nodup e) (acting_lt e) hl, pAt_permuted]
      simp [h15]
  · rw [pAt_setP_ne _ _ _ _ hk, pAt_permuted]
    simp [hk]

/-- The end of the marked sources leaves what is lost of predicates, masks and shapes. -/
theorem lost_spent (hc : s.crew e.id = some e.c) : (e.spent s).lost = e.c.lost := by
  have hframe := endRuns_hom (Crew.withLost · e.c.lost) (fun _ _ _ => rfl) (fun _ _ => rfl) e.lanes (e.marked s) e.c
  rw [spent_eq hc]
  exact congrArg (fun c => c.lost) hframe

/-- `vperm` by a crew that has lost no granule of its predicates, masks and shapes (R232). -/
theorem exec_vperm_of_none_lost (h : Runs (.vperm f) s e) (hl : e.c.lost = []) :
    ∃ t, exec (.vperm f) s = .next t ∧ CrewBecomes e.id s t (e.permutation s) := by
  obtain ⟨t, hexec, hbecomes⟩ := exec_vperm h
  refine ⟨t, hexec, ?_⟩
  by_cases h15 : e.var = 15
  · rw [if_pos h15] at hbecomes
    rwa [Env.permutation, h15, setP_fifteen]
  · have hnone : (e.permutation s).lost = [] := by
      rw [permutation_rest]
      exact (lost_spent h.crew).trans hl
    rwa [if_neg h15, foundP_of_none_lost hnone] at hbecomes

end

/-! The corner. -/

/-- `vperm.n64 v0, 1, 0, p0`: each lane reads the constant 1 in lane 0. -/
def permOfLaneZero : Fields := { andOfOnes with srca := 961, srcb := 960 }

/-- Its issue by a crew that has lost the granule of `p0` in lanes 0 to 63. -/
def permAtIssue : Env :=
  { id := 0, entry := 0, c := crewLacking 0, x := laneZeroSplit, slot := 0x280, f := permOfLaneZero,
    form := { l64 := true, l96 := true, l128 := true, pred := true, dst := .vdst, a := .vec, b := .vecB, types := 0xfff,
              vars := 0xffff, var2 := 0xff01, view := true }, len := 8 }

theorem runs_permOfLaneZero : Runs (.vperm permOfLaneZero) (stateLacking 0) permAtIssue where
  env := rfl
  checks := by decide
  ready := by decide
  acts := by decide
  lamp := by decide
  intact := by decide

/-- Refutes O19: a `vperm` acts in lane 0 of a crew that has lost the granule of its predicate `p0`, and reads lane 0,
which exists and is in the mask. Lanes 1 to 31 of `p0` are not written, so the granule stays lost, and bit 0 reads 0
instead of 1. -/
theorem not_crossLaneResults : ¬ Obligations.CrossLaneResults := by
  intro h
  obtain ⟨hvectors, -⟩ := h
  obtain ⟨hperm, -⟩ := hvectors permOfLaneZero (stateLacking 0) permAtIssue
  obtain ⟨t, c, hexec, ⟨-, -, d, hd, hsame⟩, -, -, hbits⟩ := hperm runs_permOfLaneZero
  have hclaimed : (d.pAt 0).getLsbD 0 = true := by
    rw [hsame.pAt, hbits 0 0 (by decide)]
    decide +kernel
  have hmodel : ((settleRes permAtIssue (vpermForm permAtIssue (stateLacking 0))).crew permAtIssue.id).map
      (fun d => (d.pAt 0).getLsbD 0) = some false := by decide +kernel
  obtain rfl := Host.Outcome.next.inj ((issue_runs runs_permOfLaneZero vpermForm).symm.trans hexec)
  rw [hd, Option.map_some, hclaimed] at hmodel
  cases hmodel

end Sys2Proof.Machine
end

section
/-! Proofs about lodes, their negation and their comparison (O47 to O49): the integer that the limbs of a lode hold and what
writing one leaves; what a lode form does once its checks pass; then the forms. -/

namespace Sys2Proof.Machine

/-! The limbs of an integer (R281). -/

/-- The integer whose limbs are the values of `f` below `w`. -/
def limbSum (f : Nat → Nat) (w : Nat) : Nat := (List.range w).foldl (fun n i => n + f i * 2 ^ (64 * i)) 0

theorem limbSum_succ (f : Nat → Nat) (w : Nat) : limbSum f (w + 1) = limbSum f w + f w * 2 ^ (64 * w) := by
  simp [limbSum, List.range_succ]

theorem limbSum_lt {f : Nat → Nat} (hf : ∀ i, f i < 2 ^ 64) (w : Nat) : limbSum f w < 2 ^ (64 * w) := by
  induction w with
  | zero => simp [limbSum]
  | succ w ih =>
    calc limbSum f (w + 1)
        < 2 ^ (64 * w) + f w * 2 ^ (64 * w) := by rw [limbSum_succ]; exact Nat.add_lt_add_right ih _
      _ = (f w + 1) * 2 ^ (64 * w) := by ring
      _ ≤ 2 ^ 64 * 2 ^ (64 * w) := Nat.mul_le_mul_right _ (hf w)
      _ = 2 ^ (64 * (w + 1)) := by rw [← pow_add]; congr 1; ring

/-- The limbs of an integer sum to it, up to the bits that they hold. -/
theorem limbSum_limbs (v w : Nat) : limbSum (fun i => v / 2 ^ (64 * i) % 2 ^ 64) w = v % 2 ^ (64 * w) := by
  induction w with
  | zero => simp [limbSum, Nat.mod_one]
  | succ w ih => rw [limbSum_succ, ih, Nat.mul_succ, Nat.pow_add, Nat.mod_mul, Nat.mul_comm (2 ^ (64 * w))]

theorem limbSum_congr {f g : Nat → Nat} {w : Nat} (h : ∀ i < w, f i = g i) : limbSum f w = limbSum g w := by
  induction w with
  | zero => rfl
  | succ w ih => rw [limbSum_succ, limbSum_succ, ih fun i hi => h i (by omega), h w (by omega)]

theorem lodeAt_eq (c : Crew) (d : LodeDesc) (r j : Nat) :
    c.lodeAt d r j = limbSum (fun i => (c.vAt r (j * d.w + i)).read.1.toNat) d.w := rfl

theorem lodeAt_lt (c : Crew) (d : LodeDesc) (r j : Nat) : c.lodeAt d r j < 2 ^ d.n :=
  limbSum_lt (fun _ => BitVec.isLt _) d.w

/-- What the limbs of a lode make of every lane of every register. -/
theorem vAt_putLode (c : Crew) {d : LodeDesc} {j : Nat} (hj : j * d.w + d.w ≤ 1024) (r v : Nat) (r' : Nat) {l : Nat}
    (hl : l < 1024) : (c.putLode d r j v).vAt r' l =
      if r' = r ∧ j * d.w ≤ l ∧ l < j * d.w + d.w then .live (BitVec.ofNat 64 (v / 2 ^ (64 * (l - j * d.w))))
      else c.vAt r' l := by
  have hput := vAt_foldl_setV r (fun l _ => .live (BitVec.ofNat 64 (v / 2 ^ (64 * (l - j * d.w)))))
    ((List.range d.w).map (j * d.w + ·)) c (List.nodup_range.map (add_right_injective _))
    (by simp only [List.mem_map, List.mem_range]; omega) r' l hl
  have hmem : l ∈ (List.range d.w).map (j * d.w + ·) ↔ j * d.w ≤ l ∧ l < j * d.w + d.w := by
    simp only [List.mem_map, List.mem_range]
    exact ⟨fun ⟨i, hi, he⟩ => by omega, fun h => ⟨l - j * d.w, by omega, by omega⟩⟩
  simp only [List.foldl_map, Nat.add_sub_cancel_left, hmem] at hput
  exact hput

/-- Settles O47: the limbs written are those read, and no lane of another lode is among them. -/
theorem lodesHoldIntegers : Obligations.LodesHoldIntegers := by
  intro c d r j v hw hj
  refine ⟨lodeAt_lt c d r j, ?same, fun r' j' hj' hne => ?other⟩
  case same =>
    rw [lodeAt_eq, LodeDesc.n, ← limbSum_limbs]
    refine limbSum_congr fun i hi => ?_
    rw [vAt_putLode c hj r v r (by omega), if_pos ⟨rfl, by omega, by omega⟩, Nat.add_sub_cancel_left]
    exact BitVec.toNat_ofNat ..
  case other =>
    rw [lodeAt_eq, lodeAt_eq]
    refine limbSum_congr fun i hi => ?_
    rw [vAt_putLode c hj r v r' (by omega), if_neg]
    rintro ⟨rfl, hlo, hhi⟩
    have hjj : j' ≠ j := fun h => hne (by rw [h])
    rcases Nat.lt_or_gt_of_ne hjj with h | h
    · have := Nat.mul_le_mul_right d.w h
      rw [Nat.succ_mul] at this
      omega
    · have := Nat.mul_le_mul_right d.w h
      rw [Nat.succ_mul] at this
      omega

/-! What a lode form leaves (R285). -/

/-- A crew takes what a lode form gives for its lode j: limbs into a vector register, a word into a uniform one. -/
def Crew.takeLode (d : LodeDesc) (r base : Nat) (val : Option (Nat → Nat)) (uni : Option (Nat → Word)) (c : Crew) (j : Nat) :
    Crew :=
  let c := match val with
    | some f => c.putLode d r j (f j)
    | none => c
  match uni with
  | some f => c.writeS (base + j) (f j)
  | none => c

section
variable (d : LodeDesc) (r base : Nat) (val : Option (Nat → Nat)) (uni : Option (Nat → Word))

theorem putLode_rest (c : Crew) (j v : Nat) : c.putLode d r j v = { c with v := (c.putLode d r j v).v } := by
  have hframe := foldl_setV_rest r (fun l _ => .live (BitVec.ofNat 64 (v / 2 ^ (64 * (l - j * d.w)))))
    ((List.range d.w).map (j * d.w + ·)) c
  simp only [List.foldl_map, Nat.add_sub_cancel_left] at hframe
  exact hframe

theorem takeLode_rest (c : Crew) (j : Nat) : c.takeLode d r base val uni j =
    { c with v := (c.takeLode d r base val uni j).v, s := (c.takeLode d r base val uni j).s } := by
  cases val with
  | none => cases uni <;> rfl
  | some f =>
    have hput := putLode_rest d r c j (f j)
    cases uni with
    | none => simp only [Crew.takeLode]; rw [hput]
    | some g => simp only [Crew.takeLode]; rw [hput]; rfl

theorem foldl_takeLode_rest (js : List Nat) (c : Crew) : js.foldl (Crew.takeLode d r base val uni) c =
    { c with v := (js.foldl (Crew.takeLode d r base val uni) c).v, s := (js.foldl (Crew.takeLode d r base val uni) c).s } := by
  induction js generalizing c with
  | nil => rfl
  | cons j js ih => rw [List.foldl_cons, ih, takeLode_rest]

theorem vAt_takeLode {j : Nat} (hj : j * d.w + d.w ≤ 1024) (c : Crew) (r' : Nat) {l : Nat} (hl : l < 1024) :
    (c.takeLode d r base val uni j).vAt r' l =
      match val with
      | some f => if r' = r ∧ j * d.w ≤ l ∧ l < j * d.w + d.w then .live (BitVec.ofNat 64 (f j / 2 ^ (64 * (l - j * d.w))))
          else c.vAt r' l
      | none => c.vAt r' l := by
  cases val with
  | none => cases uni <;> rfl
  | some f =>
    refine Eq.trans ?_ (vAt_putLode c hj r (f j) r' hl)
    cases uni <;> rfl

theorem sAt_takeLode (c : Crew) (j k : Nat) : (c.takeLode d r base val uni j).sAt k =
      match uni with
      | some f => if k = base + j then .live (f j) else c.sAt k
      | none => c.sAt k := by
  have hs : ∀ v, (c.putLode d r j v).sAt k = c.sAt k := fun v => by rw [putLode_rest]; rfl
  cases uni with
  | none =>
    cases val with
    | none => rfl
    | some f => exact hs (f j)
  | some g =>
    by_cases hk : k = base + j
    · subst hk
      simp [Crew.takeLode]
    · cases val <;> simp [Crew.takeLode, sAt_writeS_ne _ _ _ _ hk, hk, hs]

theorem vAt_foldl_takeLode {q : Nat} (hq : d.w * q ≤ 1024) (c : Crew) (r' : Nat) {l : Nat} (hl : l < 1024) :
    ((List.range q).foldl (Crew.takeLode d r base val uni) c).vAt r' l =
      match val with
      | some f => if r' = r ∧ l < d.w * q then .live (BitVec.ofNat 64 (f (l / d.w) / 2 ^ (64 * (l % d.w)))) else c.vAt r' l
      | none => c.vAt r' l := by
  induction q with
  | zero => cases val <;> simp
  | succ q ih =>
    have hmul : d.w * (q + 1) = q * d.w + d.w := by ring
    have hlo : d.w * q = q * d.w := Nat.mul_comm ..
    rw [List.range_succ, List.foldl_append, List.foldl_cons, List.foldl_nil,
      vAt_takeLode d r base val uni (by omega) _ r' hl, ih (by omega)]
    cases val with
    | none => rfl
    | some f =>
      dsimp only
      by_cases hr : r' = r
      · by_cases hin : q * d.w ≤ l ∧ l < q * d.w + d.w
        · have hdiv : l / d.w = q := Nat.div_eq_of_lt_le (by omega) (by rw [Nat.succ_mul]; omega)
          have hmod : l % d.w = l - q * d.w := by have := Nat.mod_add_div l d.w; rw [hdiv, hlo] at this; omega
          rw [if_pos ⟨hr, hin⟩, if_pos ⟨hr, by omega⟩, hdiv, hmod]
        · rw [if_neg fun h => hin h.2]
          by_cases hlt : l < d.w * q
          · rw [if_pos ⟨hr, hlt⟩, if_pos ⟨hr, by omega⟩]
          · rw [if_neg fun h => hlt h.2, if_neg fun h => hin ⟨by omega, by omega⟩]
      · simp [hr]

theorem sAt_foldl_takeLode (q : Nat) (c : Crew) (k : Nat) : ((List.range q).foldl (Crew.takeLode d r base val uni) c).sAt k =
      match uni with
      | some f => if base ≤ k ∧ k < base + q then .live (f (k - base)) else c.sAt k
      | none => c.sAt k := by
  induction q with
  | zero =>
    cases uni with
    | none => rfl
    | some f => exact (if_neg (by omega)).symm
  | succ q ih =>
    rw [List.range_succ, List.foldl_append, List.foldl_cons, List.foldl_nil, sAt_takeLode, ih]
    cases uni with
    | none => rfl
    | some f =>
      dsimp only
      by_cases hk : k = base + q
      · rw [if_pos hk, if_pos (by omega), hk, Nat.add_sub_cancel_left]
      · rw [if_neg hk]
        exact if_congr (by omega) rfl rfl

end

/-! The checks of a form that names a descriptor (R285, R286). -/

section
variable {i : Instr} {s : State} {e : Env} {bases : List Nat} {d : LodeDesc} (h : LodeRuns i s e bases d)
include h

/-- A lode form that runs acts on its descriptor, once a dead descriptor is noted. -/
theorem LodeRuns.withLode_eq (k : LodeDesc → State → Res) :
    e.withLode s bases k = k d (e.dead s (e.uni e.descNum).2) := by
  obtain ⟨wlog, bound, hlode, hwlog, hw, hbound⟩ := h.bound
  obtain ⟨hbias, hlimit⟩ := h.bias
  have hregs : bases.any (fun b => decide (1024 < b + d.q) || decide (e.c.kernel.scount < b + d.q)) = false := by
    simp only [List.any_eq_false, Bool.or_eq_true, decide_eq_true_eq, not_or]
    exact fun b hb => ⟨by have := (h.held b hb).1; omega, by have := (h.held b hb).2.1; omega⟩
  have hawait : bases.any (fun b => (List.range d.q).any (fun i =>
      e.awaited (e.dead s (e.uni e.descNum).2) (.sreg (b + i), 1))) = false := by
    simp only [List.any_eq_false, List.mem_range, Bool.not_eq_true]
    exact fun b hb i hi => (h.held b hb).2.2 i hi
  have hdesc : (⟨2 ^ wlog, descQ (e.uni e.descNum).1.toNat, descBias (e.uni e.descNum).1.toNat⟩ : LodeDesc) = d := by
    rw [h.count, hbias, ← hw]
  have hbiasOk : decide (64 * 2 ^ wlog < d.bias) = false := by simpa [← hw] using hlimit
  rw [Env.withLode]
  simp only [h.count, hregs, hawait, h.single, hlode, h.lanes, hwlog, hbias, h.clean, hbiasOk, bne_self_eq_false,
    decide_eq_false (Nat.not_lt.2 hbound), Bool.or_self, Bool.not_true, Bool.false_eq_true, if_false]
  rw [← hdesc, h.count, hbias]

end

/-- Flags that join others. -/
theorem foldl_or_flags (ls : List Nat) (fl : Nat → Flags) (init : Flags) :
    ls.foldl (fun g j => g ||| fl j) init = joinFlags ls fl ||| init := by
  induction ls using List.reverseRecOn with
  | nil => exact BitVec.zero_or.symm
  | append_singleton ls a ih =>
    rw [joinFlags_concat, List.foldl_append, ih]
    simp only [List.foldl_cons, List.foldl_nil]
    ac_rfl

/-- Some lode reads a dead limb of a vector register, or a dead uniform register. -/
def Env.limbsDead (e : Env) (d : LodeDesc) (vregs sregs : List Nat) : Bool :=
  (List.range d.q).any (fun j => vregs.any (fun r => e.c.lodeDead d r j) || sregs.any (fun b => (e.uni (b + j)).2))

theorem lodeReadsDead_eq (e : Env) (d : LodeDesc) (vregs sregs : List Nat) :
    e.lodeReadsDead d vregs sregs = ((e.uni e.descNum).2 || e.limbsDead d vregs sregs) := rfl

theorem lodeApply_eq (e : Env) (u : State) (d : LodeDesc) (base : Nat) (vregs sregs : List Nat)
    (val : Option (Nat → Nat)) (uni : Option (Nat → Word)) (fl : Nat → Flags) :
    e.lodeApply u d base vregs sregs (fun j => ⟨val.map (· j), uni.map (· j), fl j⟩) =
      .done ((e.flag (e.endUses u) (joinFlags (List.range d.q) fl ||| flagIf (e.limbsDead d vregs sregs) flagDEAD)).modCrew
        e.id (fun c => (List.range d.q).foldl (Crew.takeLode d e.dst base val uni) c)) := by
  have htake : (Crew.takeLode d e.dst base val uni) = (fun c j =>
      let c := match val.map (· j) with
        | some v => c.putLode d e.dst j v
        | none => c
      match uni.map (· j) with
      | some w => c.writeS (base + j) w
      | none => c) := by
    funext c j
    cases val <;> cases uni <;> rfl
  rw [htake, ← foldl_or_flags]
  simp only [Env.lodeApply, List.foldl_map]
  rfl

section
variable {e : Env} {s u : State} {g : Flags} (hu : e.Leads s u (e.c.orSticky g)) (hc : s.crew e.id = some e.c)
include hu hc

/-- Flags noted before the marked sources end are there after it. -/
theorem Env.Leads.spent_orSticky : e.spent u = (e.spent s).orSticky g := by
  rw [spent_eq hu.crew, spent_eq hc, hu.only.marked]
  exact endRuns_hom (Crew.orSticky · g) (fun _ _ _ => rfl) (fun _ _ => rfl) _ _ _

/-- What `lodeApply` does with one result for each lode, once flags `g` have been noted. -/
theorem lodeApply_result {d : LodeDesc} (hd : d.w * d.q ≤ 1024) (base : Nat) (vregs sregs : List Nat)
    (val : Option (Nat → Nat)) (uni : Option (Nat → Word)) (fl : Nat → Flags) :
    ∃ t, e.lodeApply u d base vregs sregs (fun j => ⟨val.map (· j), uni.map (· j), fl j⟩) = .done t ∧
      LodeResult e s (settleRes e (.done t)) d val base uni
        (joinFlags (List.range d.q) fl ||| (flagIf (e.limbsDead d vregs sregs) flagDEAD ||| g)) := by
  refine ⟨_, lodeApply_eq .., ?_⟩
  have hlead := (hu.endUses.flag (joinFlags (List.range d.q) fl ||| flagIf (e.limbsDead d vregs sregs) flagDEAD)).modCrew
    (fun c => (List.range d.q).foldl (Crew.takeLode d e.dst base val uni) c)
  rw [hu.spent_orSticky hc, orSticky_orSticky, BitVec.or_assoc] at hlead
  refine ⟨_, hlead.done, foldl_takeLode_rest .., fun r l hl => ?lanes, fun k => ?uniforms⟩
  case lanes =>
    refine (vAt_foldl_takeLode d e.dst base val uni hd _ r hl).trans ?_
    cases val <;> rfl
  case uniforms =>
    refine (sAt_foldl_takeLode d e.dst base val uni d.q _ k).trans ?_
    cases uni <;> rfl

end

section
variable {i : Instr} {f : Fields} {s : State} {e : Env} {bases : List Nat} {d : LodeDesc}

/-- A lode form that runs and gives one result for each lode: what it leaves. -/
theorem issue_lodeApply (h : LodeRuns i s e bases d) {body : Env → State → Res} {k : LodeDesc → State → Res} {base : Nat}
    {vregs sregs : List Nat} (val : Option (Nat → Nat)) (uni : Option (Nat → Word)) (fl : Nat → Flags)
    (hbody : body e s = e.withLode s bases k)
    (hk : ∀ u, k d u = e.lodeApply u d base vregs sregs (fun j => ⟨val.map (· j), uni.map (· j), fl j⟩)) :
    ∃ t, issue i body s = .next t ∧ LodeResult e s t d val base uni
      (joinFlags (List.range d.q) fl ||| flagIf (e.lodeReadsDead d vregs sregs) flagDEAD) := by
  have hlead := (Env.Leads.start h.runs.crew).flag (flagIf (e.uni e.descNum).2 flagDEAD)
  obtain ⟨t, happly, hresult⟩ := lodeApply_result hlead h.runs.crew h.fits base vregs sregs val uni fl
  rw [lodeReadsDead_eq, flagIf_or, BitVec.or_comm (flagIf (e.uni e.descNum).2 flagDEAD)]
  exact ⟨_, issue_of_form h.runs (hbody.trans ((h.withLode_eq k).trans ((hk _).trans happly))), hresult⟩

end

/-- Settles O48. -/
theorem negatedLodes : Obligations.NegatedLodes := by
  intro f s e d h
  exact issue_lodeApply h (some fun j => (2 ^ d.n - e.c.lodeAt d e.f.srca.toNat j) % 2 ^ d.n) none
    (fun j => flagIf (e.c.lodeAt d e.f.srca.toNat j == 2 ^ (d.n - 1)) flagLOV) rfl (fun _ => rfl)

section
variable {f : Fields} {s : State} {e : Env} {d : LodeDesc}

/-- A lode form that sets no flag of its own. -/
theorem issue_lodeApply_quiet {i : Instr} {bases : List Nat} (h : LodeRuns i s e bases d) {body : Env → State → Res}
    {k : LodeDesc → State → Res} {base : Nat} {vregs sregs : List Nat} (val : Option (Nat → Nat)) (uni : Option (Nat → Word))
    (hbody : body e s = e.withLode s bases k)
    (hk : ∀ u, k d u = e.lodeApply u d base vregs sregs (fun j => ⟨val.map (· j), uni.map (· j), 0⟩)) :
    ∃ t, issue i body s = .next t ∧
      LodeResult e s t d val base uni (flagIf (e.lodeReadsDead d vregs sregs) flagDEAD) := by
  have hresult := issue_lodeApply h val uni (fun _ => 0) hbody hk
  rwa [joinFlags_of_none (fun _ => rfl), show ∀ g : Flags, 0 ||| g = g from fun _ => BitVec.zero_or] at hresult

/-- The reading by the two's complement tells integers apart. -/
theorem lodeSx_inj {x y : Nat} (hx : x < 2 ^ d.n) (hy : y < 2 ^ d.n) (h : lodeSx d x = lodeSx d y) : x = y := by
  simp only [lodeSx, readInt, Bool.true_and, decide_eq_true_eq] at h
  have hx' : (x : Int) < 2 ^ d.n := by exact_mod_cast hx
  have hy' : (y : Int) < 2 ^ d.n := by exact_mod_cast hy
  split at h <;> split at h <;> omega

/-- The word that `lcmp` writes tells the three cases apart. -/
theorem threeWay_iff {less same : Bool} (hne : less = true → same = false) {u : Word}
    (hu : u = if less then BitVec.allOnes 64 else if same then 0 else 1) :
    (u = 0xFFFFFFFFFFFFFFFF ↔ less = true) ∧ (u = 1 ↔ less = false ∧ same = false) ∧ (u = 0 ↔ same = true) := by
  subst hu
  cases less <;> cases same <;> simp at hne ⊢

theorem exec_lcmp (h : LodeRuns (.lcmp f) s e [e.dst] d) :
    let a := e.c.lodeAt d e.f.srca.toNat
    let b := e.c.lodeAt d e.f.srcb.toNat
    ∃ (t : State) (u : Nat → Word), exec (.lcmp f) s = .next t ∧
      LodeResult e s t d none e.dst (some u) (flagIf (e.lodeReadsDead d [e.f.srca.toNat, e.f.srcb.toNat] []) flagDEAD) ∧
      ∀ j, (e.var = 1 →
          (u j = 0xFFFFFFFFFFFFFFFF ↔ lodeSx d (a j) < lodeSx d (b j)) ∧ (u j = 1 ↔ lodeSx d (b j) < lodeSx d (a j))) ∧
        (e.var ≠ 1 → (u j = 0xFFFFFFFFFFFFFFFF ↔ a j < b j) ∧ (u j = 1 ↔ b j < a j)) ∧ (u j = 0 ↔ a j = b j) := by
  intro a b
  let less : Nat → Bool := fun j => if e.var == 1 then lodeSx d (a j) < lodeSx d (b j) else a j < b j
  let u : Nat → Word := fun j => if less j then BitVec.allOnes 64 else if a j == b j then 0 else 1
  obtain ⟨t, hexec, hresult⟩ := issue_lodeApply_quiet h (body := lodeCmp) none (some u) rfl (fun _ => rfl)
  refine ⟨t, u, hexec, hresult, fun j => ?_⟩
  have hinj : lodeSx d (a j) = lodeSx d (b j) → a j = b j := lodeSx_inj (lodeAt_lt e.c d _ j) (lodeAt_lt e.c d _ j)
  have hless : less j = true ↔ if e.var = 1 then lodeSx d (a j) < lodeSx d (b j) else a j < b j := by
    by_cases hv : e.var = 1 <;> simp [less, hv]
  have hne : less j = true → (a j == b j) = false := by
    rw [hless, beq_eq_false_iff_ne]
    intro hlt heq
    rw [heq] at hlt
    split at hlt <;> exact lt_irrefl _ hlt
  obtain ⟨hall, hone, hzero⟩ := threeWay_iff hne (u := u j) rfl
  rw [← Bool.not_eq_true, hless, beq_eq_false_iff_ne] at hone
  rw [hall, hone, hzero, hless, beq_iff_eq]
  refine ⟨fun hv => ?signed, fun hv => ?unsigned, Iff.rfl⟩
  case signed =>
    simp only [if_pos hv, true_and]
    exact ⟨fun ⟨hnot, hab⟩ => lt_of_le_of_ne (not_lt.1 hnot) fun heq => hab (hinj heq.symm),
      fun hlt => ⟨hlt.not_gt, fun heq => hlt.ne (by rw [heq])⟩⟩
  case unsigned =>
    simp only [if_neg hv, true_and]
    omega

theorem exec_lclz (h : LodeRuns (.lclz f) s e [e.dst] d) :
    let a := e.c.lodeAt d e.f.srca.toNat
    ∃ (t : State) (u : Nat → Nat), exec (.lclz f) s = .next t ∧
      LodeResult e s t d none e.dst (some (fun j => BitVec.ofNat 64 (u j)))
        (flagIf (e.lodeReadsDead d [e.f.srca.toNat] []) flagDEAD) ∧
      ∀ j, (a j = 0 → u j = d.n) ∧ (a j ≠ 0 → u j < d.n ∧ 2 ^ (d.n - 1 - u j) ≤ a j ∧ a j < 2 ^ (d.n - u j)) := by
  intro a
  let u : Nat → Nat := fun j => if a j == 0 then d.n else d.n - 1 - Nat.log2 (a j)
  obtain ⟨t, hexec, hresult⟩ := issue_lodeApply_quiet h (body := lodeClz) none (some fun j => BitVec.ofNat 64 (u j)) rfl
    (fun _ => rfl)
  refine ⟨t, u, hexec, hresult, fun j => ⟨fun h0 => by simp [u, h0], fun h0 => ?_⟩⟩
  have hlog : (a j).log2 < d.n := (Nat.log2_lt h0).2 (lodeAt_lt e.c d _ j)
  have hu : u j = d.n - 1 - (a j).log2 := by simp [u, h0]
  rw [hu, show d.n - 1 - (d.n - 1 - (a j).log2) = (a j).log2 by omega,
    show d.n - (d.n - 1 - (a j).log2) = (a j).log2 + 1 by omega]
  exact ⟨by omega, Nat.log2_self_le h0, Nat.lt_log2_self⟩

end

/-- Settles O49. -/
theorem comparedLodes : Obligations.ComparedLodes := fun _ _ _ _ => ⟨exec_lcmp, exec_lclz⟩

end Sys2Proof.Machine
end

section
/-! Proofs about sums and products of lodes (O50). -/

namespace Sys2Proof.Machine

section
variable {f : Fields} {s : State} {e : Env} {d : LodeDesc}
/-- The product of a lode with its uniform word. -/
def Env.lodeProduct (e : Env) (d : LodeDesc) (j : Nat) : Nat :=
  e.c.lodeAt d e.f.srca.toNat j * (e.uni (e.srccNum + j)).1.toNat

theorem lodeMul_of_product (e : Env) (s : State) : lodeMul false e s = e.withLode s [e.srccNum] (fun d s =>
    e.lodeApply s d e.srccNum [e.f.srca.toNat] [e.srccNum] (fun j =>
      ⟨some (e.lodeProduct d j % 2 ^ d.n), some (BitVec.ofNat 64 (e.lodeProduct d j / 2 ^ d.n)), 0⟩)) := by
  simp only [lodeMul, Bool.false_eq_true, if_false, Env.lodeProduct]

theorem lodeMul_of_sum (e : Env) (s : State) : lodeMul true e s = e.withLode s [e.srccNum] (fun d s =>
    e.lodeApply s d e.srccNum [e.f.srca.toNat, e.f.srcb.toNat] [e.srccNum] (fun j =>
      ⟨some ((e.c.lodeAt d e.f.srcb.toNat j + e.lodeProduct d j) % 2 ^ d.n),
        some (BitVec.ofNat 64 ((e.c.lodeAt d e.f.srcb.toNat j + e.lodeProduct d j) / 2 ^ d.n)), 0⟩)) := by
  simp only [lodeMul, if_true, Env.lodeProduct]

theorem exec_lmulw (h : LodeRuns (.lmulw f) s e [e.srccNum] d) : ∃ t, exec (.lmulw f) s = .next t ∧
    LodeResult e s t d (some fun j => e.lodeProduct d j % 2 ^ d.n) e.srccNum
      (some fun j => BitVec.ofNat 64 (e.lodeProduct d j / 2 ^ d.n))
      (flagIf (e.lodeReadsDead d [e.f.srca.toNat] [e.srccNum]) flagDEAD) :=
  issue_lodeApply_quiet h (some fun j => e.lodeProduct d j % 2 ^ d.n)
    (some fun j => BitVec.ofNat 64 (e.lodeProduct d j / 2 ^ d.n)) (lodeMul_of_product e s) (fun _ => rfl)

theorem exec_lmacw (h : LodeRuns (.lmacw f) s e [e.srccNum] d) :
    let x : Nat → Nat := fun j => e.c.lodeAt d e.f.srcb.toNat j + e.lodeProduct d j
    ∃ t, exec (.lmacw f) s = .next t ∧
      LodeResult e s t d (some fun j => x j % 2 ^ d.n) e.srccNum (some fun j => BitVec.ofNat 64 (x j / 2 ^ d.n))
        (flagIf (e.lodeReadsDead d [e.f.srca.toNat, e.f.srcb.toNat] [e.srccNum]) flagDEAD) :=
  issue_lodeApply_quiet h (some fun j => (e.c.lodeAt d e.f.srcb.toNat j + e.lodeProduct d j) % 2 ^ d.n)
    (some fun j => BitVec.ofNat 64 ((e.c.lodeAt d e.f.srcb.toNat j + e.lodeProduct d j) / 2 ^ d.n)) (lodeMul_of_sum e s)
    (fun _ => rfl)

/-- The exact sum of an addition, or the difference of a subtraction, as one sum with a sign. -/
theorem lodeSum_exact (sub : Bool) (x y z : Int) :
    (if sub then x - y - z else x + y + z) = x + (if sub then -1 else 1) * (y + z) := by
  cases sub <;> simp <;> ring

/-- The carry or borrow in of a lode. -/
def Env.carryIn (e : Env) (j : Nat) : Int :=
  if e.f.var.getLsbD 2 then ((e.uni (e.srccNum + j)).1.toNat : Int) % 2 else 0

/-- What `ladd` or, where `sign` is -1, `lsub` makes of the readings of a lode's sources. -/
def Env.lodeTotal (e : Env) (d : LodeDesc) (sign : Int) (reading : Nat → Int) (j : Nat) : Int :=
  reading (e.c.lodeAt d e.f.srca.toNat j) + sign * (reading (e.c.lodeAt d e.f.srcb.toNat j) + e.carryIn j)

/-- The carry or borrow out of a lode. -/
def Env.carryOut (e : Env) (d : LodeDesc) (sign : Int) (j : Nat) : Bool :=
  e.lodeTotal d sign Nat.cast j < 0 || (2 : Int) ^ d.n ≤ e.lodeTotal d sign Nat.cast j

/-- The overflow that the kind of a sum asks for. -/
def Env.sumFlag (e : Env) (d : LodeDesc) (sign : Int) (j : Nat) : Flags :=
  flagIf (match e.var % 4 with
    | 0 => e.carryOut d sign j
    | 1 => d.outside (e.lodeTotal d sign (lodeSx d) j)
    | _ => false) flagLOV

/-- The uniform registers that a sum reads. -/
def Env.carriesRead (e : Env) : List Nat := if e.f.var.getLsbD 2 then [e.srccNum] else []

theorem lodeSum_eq (sub : Bool) (e : Env) (s : State) :
    let sign : Int := if sub then -1 else 1
    lodeSum sub e s = e.withLode s [e.srccNum] (fun d s =>
      e.lodeApply s d e.srccNum [e.f.srca.toNat, e.f.srcb.toNat] e.carriesRead (fun j =>
        ⟨some (e.lodeTotal d sign Nat.cast j % (2 : Int) ^ d.n).toNat, some (if e.carryOut d sign j then 1 else 0),
          e.sumFlag d sign j⟩)) := by
  have hcin : ∀ j, ((if e.f.var.getLsbD 2 then (e.uni (e.srccNum + j)).1.toNat % 2 else 0 : Nat) : Int) = e.carryIn j := by
    intro j
    unfold Env.carryIn
    split <;> simp
  simp only [lodeSum, hcin, lodeSum_exact, ofNat_bitNat]
  rfl

theorem issue_lodeSum {i : Instr} (sub : Bool) (h : LodeRuns i s e [e.srccNum] d) :
    let sign : Int := if sub then -1 else 1
    ∃ t, issue i (lodeSum sub) s = .next t ∧
      LodeResult e s t d (some fun j => (e.lodeTotal d sign Nat.cast j % (2 : Int) ^ d.n).toNat) e.srccNum
        (some fun j => if e.carryOut d sign j then 1 else 0)
        (joinFlags (List.range d.q) (e.sumFlag d sign) |||
          flagIf (e.lodeReadsDead d [e.f.srca.toNat, e.f.srcb.toNat] e.carriesRead) flagDEAD) :=
  issue_lodeApply h (some fun j => (e.lodeTotal d (if sub then -1 else 1) Nat.cast j % (2 : Int) ^ d.n).toNat)
    (some fun j => if e.carryOut d (if sub then -1 else 1) j then 1 else 0) (e.sumFlag d (if sub then -1 else 1))
    (lodeSum_eq sub e s) (fun _ => rfl)

end

/-- Settles O50. -/
theorem lodeSumsAndProducts : Obligations.LodeSumsAndProducts := by
  refine fun f s e d => ⟨fun p hp h => ?sum, exec_lmulw, exec_lmacw⟩
  fin_cases hp
  · exact issue_lodeSum false h
  · exact issue_lodeSum true h

end Sys2Proof.Machine
end

section
/-! Proofs about shifts of lodes, sums of products in them, and their rounding (O51). -/

namespace Sys2Proof.Machine

section
variable {f : Fields} {s : State} {e : Env} {d : LodeDesc}

/-! Shifts (R290). -/

/-- A shift that runs reads its amount after its descriptor, and refuses one of N or more. -/
theorem LodeRuns.lodeShift_eq {i : Instr} (h : LodeRuns i s e [] d) (op : LodeDesc → Nat → Nat → LodeOut) :
    lodeShift op e s =
      if d.n ≤ (e.uni e.srccNum).1.toNat then
        .exc (e.dead (e.dead s (e.uni e.descNum).2) (e.uni e.srccNum).2) .ropnd
      else e.lodeApply (e.dead (e.dead s (e.uni e.descNum).2) (e.uni e.srccNum).2) d 0 [e.f.srca.toNat] []
        (fun j => op d (e.c.lodeAt d e.f.srca.toNat j) (e.uni e.srccNum).1.toNat) :=
  h.withLode_eq _

theorem issue_lodeShift {i : Instr} (h : LodeRuns i s e [] d) (hm : (e.uni e.srccNum).1.toNat < d.n)
    {op : LodeDesc → Nat → Nat → LodeOut} (val : Nat → Nat) (fl : Nat → Flags)
    (hop : ∀ j, op d (e.c.lodeAt d e.f.srca.toNat j) (e.uni e.srccNum).1.toNat = ⟨some (val j), none, fl j⟩) :
    ∃ t, issue i (lodeShift op) s = .next t ∧ LodeResult e s t d (some val) 0 none
      (joinFlags (List.range d.q) fl |||
        flagIf (e.lodeReadsDead d [e.f.srca.toNat] [] || (e.uni e.srccNum).2) flagDEAD) := by
  have hlead := ((Env.Leads.start h.runs.crew).flag (flagIf (e.uni e.descNum).2 flagDEAD)).flag
    (flagIf (e.uni e.srccNum).2 flagDEAD)
  rw [orSticky_orSticky] at hlead
  obtain ⟨t, happly, hresult⟩ := lodeApply_result hlead h.runs.crew h.fits 0 [e.f.srca.toNat] [] (some val) none fl
  have hform : lodeShift op e s = .done t := by
    rw [h.lodeShift_eq, if_neg (Nat.not_le.2 hm), funext hop]
    exact happly
  have hflags : flagIf (e.lodeReadsDead d [e.f.srca.toNat] [] || (e.uni e.srccNum).2) flagDEAD =
      flagIf (e.limbsDead d [e.f.srca.toNat] []) flagDEAD |||
        (flagIf (e.uni e.srccNum).2 flagDEAD ||| flagIf (e.uni e.descNum).2 flagDEAD) := by
    rw [lodeReadsDead_eq, flagIf_or, flagIf_or]
    ac_rfl
  exact ⟨_, issue_of_form h.runs hform, hflags ▸ hresult⟩

theorem exec_lshl (h : LodeRuns (.lshl f) s e [] d) (hm : (e.uni e.srccNum).1.toNat < d.n) :
    let a := e.c.lodeAt d e.f.srca.toNat
    let m := e.uni e.srccNum
    ∃ t, exec (.lshl f) s = .next t ∧
      LodeResult e s t d (some (fun j => a j * 2 ^ m.1.toNat % 2 ^ d.n)) 0 none
        (joinFlags (List.range d.q) (fun j => flagIf (2 ^ d.n ≤ a j * 2 ^ m.1.toNat) flagLOV) |||
          flagIf (e.lodeReadsDead d [e.f.srca.toNat] [] || m.2) flagDEAD) :=
  issue_lodeShift h hm _ _ (fun _ => rfl)

/-- The fields that an instruction at issue reads are its own, where it ignores none of them. -/
theorem Runs.fields_eq {i : Instr} {s : State} {e : Env} {slot : Nat} {f : Fields} (h : Runs i s e)
    (hw : i.word = some (slot, f)) (hseen : seenFields slot f = f) : e.f = f := by
  obtain ⟨-, -, -, f', r, hword, -, hf, -⟩ := envOf_spec h.env
  obtain ⟨hs, rfl⟩ := Prod.mk.inj (Option.some.inj (hw.symm.trans hword))
  rw [hf, ← hs, hseen]

theorem exec_lshr (h : LodeRuns (.lshr f) s e [] d) (hm : (e.uni e.srccNum).1.toNat < d.n) :
    let a := e.c.lodeAt d e.f.srca.toNat
    let m := e.uni e.srccNum
    ∃ t, exec (.lshr f) s = .next t ∧
      LodeResult e s t d (some (fun j =>
          if e.f.var.getLsbD 0 then (lodeSx d (a j) / (2 : Int) ^ m.1.toNat % (2 : Int) ^ d.n).toNat
          else a j / 2 ^ m.1.toNat)) 0 none
        (flagIf (e.lodeReadsDead d [e.f.srca.toNat] [] || m.2) flagDEAD) := by
  have hsigned : f.var.getLsbD 0 = e.f.var.getLsbD 0 := by rw [h.runs.fields_eq rfl rfl]
  obtain ⟨t, hexec, hresult⟩ := issue_lodeShift h hm (op := lodeShr (f.var.getLsbD 0)) _ (fun _ => 0) (fun _ => rfl)
  rw [joinFlags_of_none (fun _ => rfl), show ∀ g : Flags, 0 ||| g = g from fun _ => BitVec.zero_or, hsigned] at hresult
  exact ⟨t, hexec, hresult⟩

theorem exec_shift_of_excess {i : Instr} (hi : i ∈ [Instr.lshl f, .lshr f]) (h : LodeRuns i s e [] d)
    (hm : d.n ≤ (e.uni e.srccNum).1.toNat) : exec i s =
      .next (settleRes e (.exc (e.dead (e.dead s (e.uni e.descNum).2) (e.uni e.srccNum).2) .ropnd)) := by
  have hform : ∀ op, lodeShift op e s = .exc (e.dead (e.dead s (e.uni e.descNum).2) (e.uni e.srccNum).2) .ropnd :=
    fun op => (h.lodeShift_eq op).trans (if_pos hm)
  fin_cases hi <;> exact issue_of_form h.runs (hform _)

/-! Sums of products, and rounding (R293, R294). -/

/-- The products of the elements of limb l of a lode, each cut at its last place. -/
def Env.limbTerms (e : Env) (d : LodeDesc) (j l : Nat) : List (Int × Flags) :=
  (List.range (64 / e.bits)).map (fun i => laccTerm d.bias
    ((ffmt e.ty).decode (elemAt e.bits i (e.c.vAt e.f.srca.toNat (j * d.w + l)).read.1))
    ((ffmt e.ty).decode (elemAt e.bits i (e.c.vAt e.f.srcb.toNat (j * d.w + l)).read.1)))

/-- Those of all its limbs. -/
def Env.lodeTerms (e : Env) (d : LodeDesc) (j : Nat) : List (Int × Flags) :=
  (List.range d.w).flatMap (e.limbTerms d j)

/-- Terms that join a sum: their values are added and their flags joined. -/
theorem foldl_terms (ts : List (Int × Flags)) (init : Int × Flags) :
    ts.foldl (fun acc t => (acc.1 + t.1, acc.2 ||| t.2)) init =
      (init.1 + (ts.map Prod.fst).sum, ts.foldl (fun g t => g ||| t.2) init.2) := by
  induction ts generalizing init with
  | nil => simp
  | cons t ts ih => rw [List.foldl_cons, ih, List.map_cons, List.sum_cons, List.foldl_cons, add_assoc]

/-- What `lacc` makes of a lode. -/
def Env.accumulated (e : Env) (d : LodeDesc) (j : Nat) : Int :=
  lodeSx d (e.c.lodeAt d e.dst j) + ((e.lodeTerms d j).map Prod.fst).sum

theorem lodeAcc_eq (e : Env) (s : State) : lodeAcc e s = e.withLode s [] (fun d s =>
    e.lodeApply s d 0 [e.f.srca.toNat, e.f.srcb.toNat, e.dst] [] (fun j =>
      ⟨some (e.accumulated d j % (2 : Int) ^ d.n).toNat, none,
        (e.lodeTerms d j).foldl (fun g t => g ||| t.2) 0 ||| flagIf (d.outside (e.accumulated d j)) flagLOV⟩)) := by
  have hsum : ∀ (d : LodeDesc) (j : Nat), (List.range d.w).foldl (fun (acc : Int × Flags) l =>
      (List.range (64 / e.bits)).foldl (fun (acc : Int × Flags) i =>
        let t := laccTerm d.bias
          ((ffmt e.ty).decode (elemAt e.bits i (e.c.vAt e.f.srca.toNat (j * d.w + l)).read.1))
          ((ffmt e.ty).decode (elemAt e.bits i (e.c.vAt e.f.srcb.toNat (j * d.w + l)).read.1))
        (acc.1 + t.1, acc.2 ||| t.2)) acc) (0, 0) =
      (((e.lodeTerms d j).map Prod.fst).sum, (e.lodeTerms d j).foldl (fun g t => g ||| t.2) 0) := by
    intro d j
    rw [← zero_add ((e.lodeTerms d j).map Prod.fst).sum, ← foldl_terms _ (0, 0), Env.lodeTerms, List.foldl_flatMap]
    simp only [Env.limbTerms, List.foldl_map]
  simp only [lodeAcc, hsum]
  rfl

theorem exec_lacc (h : LodeRuns (.lacc f) s e [] d) : ∃ t, exec (.lacc f) s = .next t ∧
    LodeResult e s t d (some fun j => (e.accumulated d j % (2 : Int) ^ d.n).toNat) 0 none
      (joinFlags (List.range d.q) (fun j =>
          (e.lodeTerms d j).foldl (fun g t => g ||| t.2) 0 ||| flagIf (d.outside (e.accumulated d j)) flagLOV) |||
        flagIf (e.lodeReadsDead d [e.f.srca.toNat, e.f.srcb.toNat, e.dst] []) flagDEAD) :=
  issue_lodeApply h (some fun j => (e.accumulated d j % (2 : Int) ^ d.n).toNat) none _ (lodeAcc_eq e s) (fun _ => rfl)

/-- What `lround` makes of a lode, rounded once. -/
def Env.rounded (e : Env) (d : LodeDesc) (j : Nat) : Nat × Flags :=
  let x := lodeSx d (e.c.lodeAt d e.f.srca.toNat j)
  roundFin (ffmt e.ty) e.f.rnd.toNat e.f.sat noRBits (decide (x < 0)) x.natAbs (-(d.bias : Int))

theorem exec_lround (h : LodeRuns (.lround f) s e [e.dst] d) : ∃ t, exec (.lround f) s = .next t ∧
    LodeResult e s t d none e.dst (some fun j => BitVec.ofNat 64 (e.rounded d j).1)
      (joinFlags (List.range d.q) (fun j => (e.rounded d j).2) |||
        flagIf (e.lodeReadsDead d [e.f.srca.toNat] []) flagDEAD) :=
  issue_lodeApply h (body := lodeRound) none (some fun j => BitVec.ofNat 64 (e.rounded d j).1) (fun j => (e.rounded d j).2)
    rfl (fun _ => rfl)

end

/-- Settles O51: each form by what it leaves. -/
theorem lodeShiftsAndRounding : Obligations.LodeShiftsAndRounding :=
  fun _ _ _ _ => ⟨exec_lshl, exec_lshr, fun _ hi => exec_shift_of_excess hi, exec_lacc, exec_lround⟩

end Sys2Proof.Machine
end

section
/-! Proofs about `lode.bind` and `lode.free` (O52). -/

namespace Sys2Proof.Machine

/-- A descriptor that breaks no limit of a binding names lanes of the crew (R281, R386). -/
theorem span_le_of_bindable {lanes v : Nat} (h : bindBad lanes v = false) : descQ v * 2 ^ descWlog v ≤ lanes := by
  simp only [bindBad, Bool.or_eq_false_iff, decide_eq_false_iff_not] at h
  omega

section
variable {s : State} {e : Env} (hs : e.c.single = true)
include hs

theorem lodeBindForm_of_bindable {v : Nat} (hv : (e.uniVal s e.srcB).1.toNat = v) (hb : bindBad e.c.lanes v = false)
    (hm : e.missingLane (BitVec.ofNat 1024 (2 ^ (descQ v * 2 ^ descWlog v) - 1)) = none) :
    lodeBindForm e s = .done ((e.putS (e.endUses (e.uniVal s e.srcB).2) e.dst (e.uniVal s e.srcB).1).modCrew e.id
      (fun c => { c with lode := some (descWlog v, descQ v) })) := by
  have hzero : e.missingLane 0 = none := by simp [Env.missingLane]
  have hmissing : (if e.c.lanes < descQ v * 2 ^ descWlog v then none else e.missingLane
      (if 1024 < descQ v * 2 ^ descWlog v then 0 else BitVec.ofNat 1024 (2 ^ (descQ v * 2 ^ descWlog v) - 1))) = none := by
    rw [if_neg (Nat.not_lt.2 (span_le_of_bindable hb))]
    split
    · exact hzero
    · exact hm
  unfold lodeBindForm
  simp only [hv, hs, Bool.not_true, Bool.false_eq_true, if_false]
  rw [hmissing]
  simp only [hb, Bool.false_eq_true, if_false]

theorem lodeFreeForm_of_bound (hl : e.c.lode.isSome = true) (hm : e.missingLane e.c.lodeLanes = none) :
    lodeFreeForm e s = .done (s.modCrew e.id (fun c => { c with lode := none })) := by
  obtain ⟨l, hl⟩ := Option.isSome_iff_exists.1 hl
  simp [lodeFreeForm, hs, hl, hm]

theorem lodeFreeForm_of_unbound (hl : e.c.lode = none) : lodeFreeForm e s = .exc s .ropnd := by
  simp [lodeFreeForm, hs, hl]

end

/-- Settles O52: each form by its lemma, and what its effects leave of the crew. -/
theorem lodeBinding : Obligations.LodeBinding := by
  intro f s e hs
  refine ⟨fun h => ?bind, fun h hl hm => ?free, fun h hl => ?unbound⟩
  case bind =>
    intro b v hb hm
    have hlead := ((Env.Leads.start h.crew).flag (flagIf b.2 flagDEAD)).endUses
    exact ⟨span_le_of_bindable hb, _, issue_of_form h (lodeBindForm_of_bindable hs rfl hb hm), ((hlead.modCrew _).modCrew _).done⟩
  case free =>
    exact ⟨_, issue_of_form h (lodeFreeForm_of_bound hs hl hm), ((Env.Leads.start h.crew).modCrew _).done⟩
  case unbound => exact issue_of_form h (lodeFreeForm_of_unbound hs hl)

end Sys2Proof.Machine
end

section
/-! Proofs about `mkw` and `mkr` (O26). -/

namespace Sys2Proof.Machine

/-- Settles O26: the rows of both slots ask for no lamp; each form leads its crew to what is written. -/
theorem maskRegisters : Obligations.MaskRegisters := by
  refine ⟨fun f w r hw hr => ?lamp, fun f s e => ⟨fun h => ?write, fun h => ?read⟩⟩
  case lamp =>
    rcases hw with hw | hw <;> (cases hw; cases hr; rfl)
  case write =>
    have hlead := ((Env.Leads.start h.crew).flag (flagIf (e.read s.clock e.srcA 0).2 flagDEAD)).endUses
    exact ⟨_, issue_runs h mkwForm, (hlead.modCrew _).done⟩
  case read => exact ⟨_, issue_runs h mkrForm, ((Env.Leads.start h.crew).modCrew _).done⟩

end Sys2Proof.Machine
end

section
/-! Proofs about the commands that the hoist accepts (O40). -/

namespace Sys2Proof.Machine

/-- No dead register read, nothing noted. -/
@[simp] theorem dead_false (e : Env) (s : State) : e.dead s false = s := rfl

/-- The forms with a control block share one meaning. -/
theorem exec_hoist_eq {f : Fields} {i : Instr} (hi : i ∈ [Instr.hcp f, .hgth f, .hsct f]) (s : State) :
    exec i s = issue i hoistForm s := by
  fin_cases hi <;> rfl

section
variable {s : State} {e : Env}

/-- The command's index comes from lanes (`IDX` 01, R262). -/
def Env.lanesIndex (e : Env) : Bool := blkIdx e.block.1 == 1 && e.slot != opHcp

/-- The lanes' indexes that a command with a control block captures, each with whether its register was dead (R262). -/
def Env.captured (e : Env) (clock : Nat) : List (Word × Bool) :=
  (List.range (if e.lanesIndex && blkLoops e.block.1 != 0 then blkCnt e.block.1 0 else 0)).map (fun l =>
    if (if e.lanesIndex then e.skipMask else 0).getLsbD l then ((0 : Word), false)
    else e.read clock (.vreg (blkIreg e.block.1)) l)

/-- The command that a form with a control block posts. -/
def Env.blockCommand (e : Env) (clock : Nat) : HoistCmd :=
  { e.command (e.c.tAt e.f.srcb.toNat) (e.c.tAt e.dst) e.block.1 with
    index := (e.captured clock).map (fun r => BitVec.ofNat 32 (r.1.toNat % 2 ^ 32))
    skip := if e.lanesIndex then e.skipMask else 0 }

/-- A control block whose registers exist and that breaks no limit is taken up where the command finds its slot. -/
theorem hoistForm_of_allowed
    (hctr : blkRcen e.block.1 = true → e.holdsCtr (e.dead s e.block.2) (blkRcnt e.block.1) = true)
    (hreg : e.lanesIndex = true → e.opndOk (.vreg (blkIreg e.block.1)) 1 = true)
    (hbad : blkBad e.slot e.c.lanes e.block.1 (e.c.tAt e.f.srcb.toNat) (e.c.tAt e.dst) = false)
    (hbase : blkIdx e.block.1 = 2 → blkIbase e.block.1 % 4 = 0) :
    hoistForm e s = match e.slotFor (e.dead s e.block.2) with
      | none => .wait (e.slotWait (e.dead s e.block.2)) .stalled
      | some n => .done (e.post (e.dead (e.slotFound (e.dead s e.block.2))
          ((e.captured (e.slotFound (e.dead s e.block.2)).clock).any Prod.snd)) n
          (e.blockCommand (e.slotFound (e.dead s e.block.2)).clock)) := by
  have hrreg : (blkRcen e.block.1 && !e.holdsCtr (e.dead s e.block.2) (blkRcnt e.block.1) ||
      e.lanesIndex && !e.opndOk (.vreg (blkIreg e.block.1)) 1) = false := by
    rw [Bool.or_eq_false_iff]
    constructor
    · cases h : blkRcen e.block.1 <;> simp_all
    · cases h : e.lanesIndex <;> simp_all
  have halign : (blkIdx e.block.1 == 2 && blkIbase e.block.1 % 4 != 0) = false := by
    cases h : blkIdx e.block.1 == 2
    · rfl
    · simpa using hbase (beq_iff_eq.1 h)
  rw [Env.lanesIndex] at hrreg
  simp only [hoistForm, hrreg, hbad, halign, Bool.false_eq_true, if_false]
  rfl

theorem clock_slotFound (e : Env) (s : State) : (e.slotFound s).clock = s.clock := by
  unfold Env.slotFound
  split <;> rfl

theorem hcmpForm_of_allowed {n : Nat}
    (hbad : shpBad (e.c.tAt e.f.srcb.toNat) = false) (hspace : shpSpace (e.c.tAt e.f.srcb.toNat) = true)
    (hdim : shpNdim (e.c.tAt e.f.srcb.toNat) = 1) (hbits : shpBits (e.c.tAt e.f.srcb.toNat) ≠ 4)
    (hbuf : (e.read s.clock e.srcA 0).1.toNat % 128 = 0) :
    let a := e.read s.clock e.srcA 0
    let c := e.read s.clock e.srcC 0
    let s1 := e.dead (e.dead s a.2) c.2
    e.slotFor s1 = some n → hcmpForm e s = .done (e.post (e.slotFound s1) n
      { e.command (e.c.tAt e.f.srcb.toNat) 0 [] with buf := a.1.toNat, cap := c.1.toNat }) := by
  intro a c s1 hn
  simp only [hcmpForm, Env.uniVal, clock_dead, hbad, hspace, hdim, beq_eq_false_iff_ne.2 hbits, hbuf, Bool.not_true,
    bne_self_eq_false, Bool.or_self, Bool.false_eq_true, if_false, hn, s1, a, c]

end

/-- Settles O40: a form whose operands are allowed posts its command, or waits for a slot. -/
theorem hoistCommandsPost : Obligations.HoistCommandsPost := by
  intro f s e n
  refine ⟨fun i hi h => ?block, fun h => ?compress, fun i hi h hd hctr h1 h2 hbad hslot => ?wait⟩
  case block =>
    intro b s1 lanes src dst hctr hreg hbad hbase hslot
    have hform := hoistForm_of_allowed hctr hreg hbad hbase
    rw [hslot, clock_slotFound, clock_dead] at hform
    exact (exec_hoist_eq hi s).trans (issue_of_form h hform)
  case compress =>
    intro a c s1 src hbad hspace hdim hbits hbuf hslot
    exact issue_of_form h (hcmpForm_of_allowed hbad hspace hdim hbits hbuf hslot)
  case wait =>
    have hlanes : e.lanesIndex = false := by simp [Env.lanesIndex, h1]
    have hform := hoistForm_of_allowed (s := s) (by rwa [hd]) (by simp [hlanes]) hbad (fun h => absurd h h2)
    rw [hd, dead_false, hslot] at hform
    exact (exec_hoist_eq hi s).trans (issue_of_form h hform)

end Sys2Proof.Machine
end

section
/-! Proofs about the instructions that enter the matrix engine's queue (O44). -/

namespace Sys2Proof.Machine

section
variable {s : State} {e : Env}

theorem mldForm_of_allowed (hbad : shpBad (e.c.tAt e.f.srca.toNat) = false)
    (hfmt : shpFmt (e.c.tAt e.f.srca.toNat) = typeFmt e.ty)
    (hscl : sclOf e.f 2 = true → shpBad (if sclOf e.f 2 then e.c.tAt e.f.srcb.toNat else 0) = false ∧
      shpFmt (if sclOf e.f 2 then e.c.tAt e.f.srcb.toNat else 0) = 1) :
    mldForm e s = e.enqueue s (e.c.tAt e.f.srca.toNat) (if sclOf e.f 2 then e.c.tAt e.f.srcb.toNat else 0) 0 0 []
      (fun m => { m with issuedArr := e.var % 4, issuedType := e.ty }) := by
  refine if_neg (Bool.eq_false_iff.1 ?_)
  cases h : sclOf e.f 2 <;> simp_all

theorem mmulForm_of_allowed :
    let k := (s.core e.core).macros
    let ta := e.c.tAt e.f.srca.toNat
    let scl := sclOf e.f 0
    let ts := if scl then e.c.tAt e.srccNum else 0
    let tiles := e.c.acc.drop e.dst
    shpBad ta = false → shpSpace ta = true → shpNdim ta = 1 →
    (scl = true → shpBad ts = false ∧ shpSpace ts = true ∧ shpNdim ts = 1) → (e.ty = 11 ↔ k.issuedType = 11) →
    shpExt ta 1 ≤ 2048 → shpExt ta 1 * arrN k.issuedArr (k.issuedType == 11) ≤ regionSize tiles →
    mmulForm e s = e.enqueue s ta ts (e.c.kAt e.f.srcb.toNat) 0 tiles id := by
  intro k ta scl ts tiles hbad hspace hdim hscl htype hrows hsize
  have htypes : ((e.ty == 11) != (k.issuedType == 11)) = false := by
    rw [bne_eq_false_iff_eq, Bool.eq_iff_iff, beq_iff_eq, beq_iff_eq]
    exact htype
  have hscale : (scl && (shpBad ts || !shpSpace ts || shpNdim ts != 1)) = false := by
    cases h : scl <;> simp_all
  refine if_neg (Bool.eq_false_iff.1 ?_)
  simp only [Bool.or_eq_false_iff, decide_eq_false_iff_not, Nat.not_lt, Bool.not_eq_false', bne_eq_false_iff_eq]
  exact ⟨⟨⟨⟨⟨⟨hbad, hspace⟩, hdim⟩, hscale⟩, bne_eq_false_iff_eq.1 htypes⟩, hrows⟩, hsize⟩

theorem mzeroForm_of_allowed (hv : e.var < 8) (ha : e.dst + e.var + 1 ≤ e.c.kernel.accs) :
    mzeroForm e s = e.enqueue s 0 0 0 0 ((e.c.acc.drop e.dst).take (e.var + 1)) id := by
  refine if_neg (Bool.eq_false_iff.1 ?_)
  simp only [Bool.or_eq_false_iff, decide_eq_false_iff_not]
  omega

theorem mrdForm_of_allowed :
    let td := e.c.tAt e.dst
    let tiles := e.c.acc.drop e.f.srca.toNat
    let v : Word × Bool := if e.f.uv then e.uni e.descNum else (0, false)
    shpBad td = false → shpSpace td = true → shpNdim td = 1 → shpFmt td = typeFmt e.ty →
    shpExt td 0 * shpExt td 1 ≤ regionSize tiles →
    mrdForm e s =
      e.enqueue (e.dead s v.2) td 0 (BitVec.ofNat 64 (v.1.toNat % 256)) (v.1.toNat % 256) tiles id := by
  intro td tiles v hbad hspace hdim hfmt hsize
  have hok : (shpBad td || !shpSpace td || shpNdim td != 1 || shpFmt td != typeFmt e.ty ||
      decide (regionSize tiles < shpExt td 0 * shpExt td 1)) = false := by
    simp only [Bool.or_eq_false_iff, decide_eq_false_iff_not, Nat.not_lt, Bool.not_eq_false', bne_eq_false_iff_eq]
    exact ⟨⟨⟨⟨hbad, hspace⟩, hdim⟩, hfmt⟩, hsize⟩
  refine (if_neg (Bool.eq_false_iff.1 hok)).trans ?_
  obtain ⟨y, hy⟩ : ∃ y, e.f.ext = y := ⟨_, rfl⟩
  cases y with
  | wide x => cases h : x.uv <;> simp [v, td, tiles, Fields.uv, Env.descNum, hy, h]
  | _ => simp [v, td, tiles, Fields.uv, hy]

theorem mredForm_of_allowed :
    let td := e.c.tAt e.dst
    let tiles := e.c.acc.drop e.f.srca.toNat
    shpBad td = false → shpSpace td = false → shpNdim td = 1 → shpFmt td = 9 →
    shpExt td 0 * shpExt td 1 ≤ regionSize tiles → mredForm e s = e.enqueue s td 0 0 0 tiles id := by
  intro td tiles hbad hspace hdim hfmt hsize
  refine if_neg (Bool.eq_false_iff.1 ?_)
  simp only [Bool.or_eq_false_iff, decide_eq_false_iff_not, Nat.not_lt, bne_eq_false_iff_eq]
  exact ⟨⟨⟨⟨hbad, hspace⟩, hdim⟩, hfmt⟩, hsize⟩

end

/-- Settles O44: each instruction whose operands are allowed enters the queue; the queue takes it or makes it wait. -/
theorem engineInstructionsEnqueue : Obligations.EngineInstructionsEnqueue := by
  intro f s e k
  refine ⟨fun h => ?mld, fun h => ?mmul, fun h hv ha => ?mzero, fun h => ?mrd, fun h => ?mred, ?room, ?full⟩
  case mld =>
    intro tb scl ts hbad hfmt hscl
    exact issue_of_form h (mldForm_of_allowed hbad hfmt hscl)
  case mmul =>
    intro ta scl ts tiles hbad hspace hdim hscl htype hrows hsize
    exact issue_of_form h (mmulForm_of_allowed hbad hspace hdim hscl htype hrows hsize)
  case mzero => exact issue_of_form h (mzeroForm_of_allowed hv ha)
  case mrd =>
    intro td tiles v hbad hspace hdim hfmt hsize
    exact issue_of_form h (mrdForm_of_allowed hbad hspace hdim hfmt hsize)
  case mred =>
    intro td tiles hbad hspace hdim hfmt hsize
    exact issue_of_form h (mredForm_of_allowed hbad hspace hdim hfmt hsize)
  case room => exact fun t1 t2 mask scale tiles m hlt => if_neg (Nat.not_le.2 hlt)
  case full => exact fun t1 t2 mask scale tiles m hle => if_pos hle

end Sys2Proof.Machine
end

section
/-! Proofs about the words that the spec writes out (O3). -/

namespace Sys2Proof.Machine

/-- A slot that no entry of the table assigns is refused before anything else of the word is looked at (R381). -/
theorem decodeCrewWord_of_unassigned {w : Nat} (h0 : w % 4 ≠ 0) (h : rowOf (w / 4 % 1024) = none) :
    decodeCrewWord w = .error .rslot := by
  have hslot : (fieldAt 10 2 w).toNat = w / 4 % 1024 := toNat_fieldAt 10 2 w
  simp only [decodeCrewWord, beq_iff_eq, if_neg h0, hslot, h]

/-- The fields of the `hgth` of R453. -/
def gatherFields : Fields :=
  { dst := 1, srca := 16, srcb := 0, pred := 15, pneg := false, lua := false, lub := false, kpa := false, kpb := false,
    ty := 0, rnd := 0, sat := false, var := 0, ext := .short }

/-- Settles O3: each word by evaluation of the decoder, and the unassigned slots by its first question. -/
theorem writtenOutWords : Obligations.WrittenOutWords := by
  refine ⟨⟨⟨gatherFields, by decide +kernel⟩, by decide +kernel, by decide +kernel, by decide +kernel, by decide +kernel,
    ⟨_, rfl⟩, by decide +kernel⟩, fun _ => decodeCrewWord_of_unassigned, fun n hlo hhi => ?_⟩
  interval_cases n <;> decide +kernel

end Sys2Proof.Machine
end

section
/-! Proofs about loads and stores of a crew (O33): what each form answers once its lanes pass their checks, by whether
a lane waits and whether one is refused; then the obligation, put together from them. -/

namespace Sys2Proof.Machine

/-! A load whose lanes pass their checks (R243, R244). -/

section
variable {e : Env} {s : State} {stash d : Bool} {ts : List (Nat × Target)} (hb : e.tensorBad false = false)
  (hc : checkLanes e.memLanes (e.target s stash e.moveBytes needR) = (d, .ok ts))
include hb hc

theorem loadForm_of_waiting
    (hw : ts.any (fun t => e.targetWaits (e.dead s d) e.moveBytes false t.2 || e.storesAhead (e.dead s d) t.2) = true) :
    loadForm stash e s = .wait (e.waitFills (e.dead s d)
      (ts.flatMap (fun t => e.fillReads (e.dead s d) e.moveBytes false t.2))) .stalled := by
  simp only [loadForm, hb, Bool.false_eq_true, if_false, withLanes_of_ok hc, hw, if_true]

theorem loadForm_of_ready
    (hw : ts.any (fun t => e.targetWaits (e.dead s d) e.moveBytes false t.2 || e.storesAhead (e.dead s d) t.2) = false) :
    let r := e.loadAll (e.endUses (e.dead s d)) e.moveBytes ts
    loadForm stash e s = lateOr (e.poisoned (r.1.foldl e.takeLoad (e.raisePts r.2.2 r.2.1))
      (r.1.countP (fun g => g.2.bad))) (firstRefused r.1) := by
  simp only [loadForm, hb, Bool.false_eq_true, if_false, withLanes_of_ok hc, hw]

end

/-! A store whose lanes pass their checks (R243). -/

section
variable {e : Env} {s : State} {stash d : Bool} {ts : List (Nat × Target × List Byte)} (hb : e.tensorBad false = false)
  (hc : checkLanes e.memLanes (e.storeCheck s stash) = (d, .ok ts))
include hb hc

theorem storeForm_of_waiting (hw : ts.any (fun t => e.targetWaits (e.dead s d) e.moveBytes true t.2.1) = true) :
    storeForm stash e s = .wait (e.waitFills (e.dead s d)
      (ts.flatMap (fun t => e.fillReads (e.dead s d) e.moveBytes true t.2.1))) .stalled := by
  simp only [storeForm, hb, Bool.false_eq_true, if_false, withLanes_of_ok hc, hw, if_true]

theorem storeForm_of_ready (hw : ts.any (fun t => e.targetWaits (e.dead s d) e.moveBytes true t.2.1) = false) :
    let r := e.storeAll (e.endUses (e.dead s d)) ts
    storeForm stash e s =
      lateOr (hostWords (e.raisePts (settle r.1.st e.core r.1.cov) r.1.pts) e.core ts) r.2 := by
  simp only [storeForm, hb, Bool.false_eq_true, if_false, withLanes_of_ok hc, hw]

end

/-- Settles O33: each of the eight forms by what its meaning answers; lanes that are ready complete it unless one of them
is refused. -/
theorem loadsAndStores : Obligations.LoadsAndStores := by
  refine ⟨fun p hp f s e h hb d ts hc => ?load, fun p hp f s e h hb d ts hc => ?store⟩
  case load =>
    intro r u waits held
    simp only [exec_load_eq hp]
    refine ⟨fun hw => ?_, fun hw hr => ?_, fun l va pa hw hr => ?_⟩
    · exact issue_of_form h (loadForm_of_waiting hb hc hw)
    · exact issue_of_form h ((loadForm_of_ready hb hc hw).trans (lateOr_of_accepted (r := (u, _)) hr))
    · exact issue_of_form h ((loadForm_of_ready hb hc hw).trans (lateOr_of_refused (r := (u, _)) hr))
  case store =>
    intro r u waits held
    simp only [exec_store_eq hp]
    refine ⟨fun hw => ?_, fun hw hr => ?_, fun l va pa hw hr => ?_⟩
    · exact issue_of_form h (storeForm_of_waiting hb hc hw)
    · exact issue_of_form h ((storeForm_of_ready hb hc hw).trans (lateOr_of_accepted (r := (u, _)) hr))
    · exact issue_of_form h ((storeForm_of_ready hb hc hw).trans (lateOr_of_refused (r := (u, _)) hr))

end Sys2Proof.Machine
end

section
/-! Proofs about the step: the agenda and the power (O6), the turns of events and handlers (O5), and what reset leaves
(O9). -/

namespace Sys2Proof.Machine

/-- Without power a turn is a power-up, or it passes without effect (R342). -/
theorem step_asked_unpowered {s : State} (h : s.powered = false) (turn : Turn) :
    step (s.asked turn) = match turn with
      | .event (.powerUp b) => execPowerUp b s
      | _ => .next s := by
  show (if s.powered = true then _ else _) = _
  rw [if_neg (by simp [h])]
  rfl

/-- Settles O6: an empty agenda by the power; a turn without power by whether it is a power-up. -/
theorem stepOfAgenda : Obligations.StepOfAgenda := by
  intro s
  refine ⟨fun ha hp => ?_, fun ha hp => ?_, fun b hp => ?_, fun turn hp hno => ?_⟩
  · simp only [step, runTurn, ha, hp, if_true]
  · simp only [step, runTurn, ha, hp, Bool.false_eq_true, if_false]
  · exact (step_asked_unpowered hp _).trans (exec_powerUp_of_unpowered hp b)
  · rw [step_asked_unpowered hp]
    split
    · exact absurd rfl (hno _)
    · rfl

theorem turnOf_event {i : Instr} (h : encode i = none) (s : State) :
    turnOf s (.event i) = exec i { s with actor := .none } := by
  simp [turnOf, h]

theorem turnOf_issued_word {i : Instr} (h : (encode i).isSome = true) (s : State) : turnOf s (.event i) = .next s := by
  simp [turnOf, h]

theorem turnOf_handler_running {s u : State} {slice stall : Nat} {i : Instr} (h : handlerTurn s slice stall = .run i u) :
    turnOf s (.handler slice stall) = exec i { u with actor := .handler slice } := by
  simp only [turnOf, handlerStep, h]

/-- Settles O5: each turn is made as its kind says, and without locks or a refresh window it does not wait. -/
theorem stepRunsEventsAndHandlers : Obligations.StepRunsEventsAndHandlers := by
  refine ⟨fun s t i hp hl hw => ⟨fun hi hx => ?_, fun hi => ?_⟩, fun s t u slice stall i hp hl hr hx => ?_⟩
  · exact step_asked_next s t _ hp (turnWaits_event s t i hl hw) ((turnOf_event hi s).trans hx)
  · exact step_asked_next s s _ hp (turnWaits_event s s i hl hw) (turnOf_issued_word hi s)
  · exact step_asked_next s t _ hp (turnWaits_unlocked s t _ hl (fun _ => Turn.noConfusion))
      ((turnOf_handler_running hr).trans hx)

/-- Settles O9: reset's state holds each of them as it is written. -/
theorem resetState : Obligations.ResetState := by
  refine ⟨⟨?mem, ?stash, ?data⟩, rfl, rfl, fun _ => rfl, fun _ _ => rfl, fun _ => rfl, fun _ => rfl, rfl, rfl, rfl, rfl⟩
  case mem => rfl
  case stash => exact fun x hx => nomatch hx
  case data => exact fun x hx => nomatch hx

end Sys2Proof.Machine
end

section
/-! Proofs about the checks that come first (O21) and about taking an exception (O23). -/

namespace Sys2Proof.Machine

/-- Settles O21: what the checks find is all that the instruction answers. -/
theorem checksComeFirst : Obligations.ChecksComeFirst := by
  intro i s e x he hx
  obtain ⟨body, hexec⟩ := exec_eq_run he
  have hrun : e.run i s body = .exc s x := by simp only [Env.run, hx]
  rw [hexec, hrun]
  rfl

/-! Entry of an exception (R376). -/

/-- The break record of an exception, as it is queued. -/
def Trap.record (x : Trap) (entry : Nat) (c : Crew) : QRecord :=
  { kind := 1, split := entry, crewIndex := c.index, code := x.brkCode, slot := 0xFFFF, addr := x.pc, svc := none }

/-- A crew held as faulted, with the break record of its exception waiting for its save. -/
def Crew.faulted (c : Crew) (q : QRecord) : Crew :=
  { c with hold := .fault, pendBrk := c.pendBrk ++ [q], drain := c.state == .draining || c.drain }

section
variable {s : State} {id : Nat} {c : Crew} (hc : s.crew id = some c)
include hc

theorem takeException_unqueued (entry : Nat) (x : Trap) (hr : c.state ≠ .retired) (hx : excRecorded x.exc = false)
    (hq : (s.desc c.ctx).dbgq = 0) : takeException s id entry x = endCrew s id := by
  simp [takeException, hc, hr, hx, hq]

theorem takeException_queued (entry : Nat) (x : Trap) (hr : c.state ≠ .retired) (hx : excRecorded x.exc = false)
    (hq : (s.desc c.ctx).dbgq ≠ 0) : takeException s id entry x = holdCrew s id .fault (x.record entry c) := by
  simp [takeException, hc, hr, hx, hq, Trap.record]

/-- An exception that the error window records, of a crew without a debug queue: the record names the crew's own slot. -/
theorem takeException_recorded_unqueued (entry : Nat) (x : Trap) (hr : c.state ≠ .retired)
    (hx : excRecorded x.exc = true) (hq : (s.desc c.ctx).dbgq = 0) :
    takeException s id entry x =
      endCrew (errRecord s (dieOfCore c.core) { crewRec c 14 1 (x.info entry) (x.pa.map (fun a => a / 32 * 32)) x.va entry with slot := c.slot }) id := by
  cases hs : findSlot s c <;> simp [takeException, hc, hr, hx, hq, hs]

theorem holdCrew_out (q : QRecord) (ho : c.out = true) :
    holdCrew s id .fault q = postBreak (s.setCrew id { c.faulted q with state := .saved }) id := by
  have ho' : (c.faulted q).out = true := ho
  simp only [Crew.faulted] at ho'
  simp only [holdCrew, hc, ho', if_true, Crew.faulted]

theorem holdCrew_awaiting (q : QRecord) (ho : c.out = false) (hl : awaitsLoads s id = true) :
    holdCrew s id .fault q = s.setCrew id { c.faulted q with state := .halted } := by
  have ho' : (c.faulted q).out = false := ho
  simp only [Crew.faulted] at ho'
  simp only [holdCrew, hc, ho', hl, Bool.false_eq_true, if_false, if_true, Crew.faulted]

/-- A crew that awaits nothing is saved in the slot found for it. -/
theorem holdCrew_saved (q : QRecord) (ho : c.out = false) (hl : awaitsLoads s id = false) {n : Nat}
    (hn : findSlot (s.setCrew id (c.faulted q)) (c.faulted q) = .slot n) :
    holdCrew s id .fault q = postBreak (saveInto (s.setCrew id (c.faulted q)) id n (c.faulted q) .saved) id := by
  have ho' : (c.faulted q).out = false := ho
  have hsave : saveCrew (s.setCrew id (c.faulted q)) id .saved =
      saveInto (s.setCrew id (c.faulted q)) id n (c.faulted q) .saved := by
    simp [saveCrew, hn]
  rw [← hsave]
  simp only [Crew.faulted] at ho'
  simp only [holdCrew, hc, ho', hl, Bool.false_eq_true, if_false, Crew.faulted]

end

/-- The codes that the error window records are four of Table 22-1 (R376). -/
theorem excRecorded_iff (x : Exc) : excRecorded x = true ↔ x.code = 10 ∨ x.code = 11 ∨ x.code = 12 ∨ x.code = 17 := by
  cases x <;> decide

/-- Settles O23: without a debug queue the crew is ended; with one it is held, by whether it is out and what it awaits. -/
theorem exceptionEntry : Obligations.ExceptionEntry := by
  refine ⟨fun s id entry c x hc hr hx => ?_, excRecorded_iff, fun s id entry c x hc => takeException_recorded_unqueued hc entry x⟩
  refine ⟨takeException_unqueued hc entry x hr hx, fun hq ho => ?_, fun hq ho hl => ?_, fun hq ho hl n hn => ?_⟩
  · exact (takeException_queued hc entry x hr hx hq).trans (holdCrew_out hc _ ho)
  · exact (takeException_queued hc entry x hr hx hq).trans (holdCrew_awaiting hc _ ho hl)
  · exact (takeException_queued hc entry x hr hx hq).trans (holdCrew_saved hc _ ho hl hn)

end Sys2Proof.Machine
end

section
/-! Proofs about tables that later proofs share: what a filtered or a mapped table gives at a key. -/

namespace Sys2Proof.Machine

/-- A table filtered by its keys keeps a key's value or has none. -/
theorem tabGet_filter {α : Type} (t : Tab α) (p : Nat → Bool) (k : Nat) :
    tabGet (t.filter (fun e => p e.1)) k = if p k then tabGet t k else none := by
  induction t with
  | nil => simp [tabGet]
  | cons e r ih =>
    obtain ⟨i, a⟩ := e
    by_cases hi : i = k
    · subst hi
      cases hp : p i <;> simp [tabGet, hp, ih]
    · cases hp : p i <;> simp [tabGet, hp, hi, ih]

/-- A table whose values are mapped, each with its key, gives the mapped value. -/
theorem tabGet_map {α : Type} (t : Tab α) (f : Nat → α → α) (k : Nat) :
    tabGet (t.map (fun e => (e.1, f e.1 e.2))) k = (tabGet t k).map (f k) := by
  induction t with
  | nil => rfl
  | cons e r ih =>
    obtain ⟨i, a⟩ := e
    by_cases hi : i = k
    · subst hi
      simp [tabGet]
    · simp [tabGet, hi, ih]

end Sys2Proof.Machine
end

section
/-! Proofs about the rows of hoist commands (O42): a row's outcomes by what it and the rows ahead meet, the index that a
row keeps, the watchdog, and the counter. -/

namespace Sys2Proof.Machine

section
variable {s : State} {core slot : Nat} {h : HoistCmd} (hh : tabGet (s.core core).hoist slot = some h) (hp : h.park = none)
include hh hp

/-! A row of a copy (R260, R264, R420). -/

section
variable (hs : stopped s h.ctx = false) (hb : mayBegin s core h = true)
include hs hb

/-- A row that is moved whole leaves what the rows ahead and its commitment, or their failure, make of it. -/
theorem hoistRowDone_of_copied {s1 : State} (ho : h.opc ≠ opHcmp)
    (hc : copyRow (beginRow s core h h.pc).2 core (beginRow s core h h.pc).1 (beginRow s core h h.pc).1.pc = .ok s1)
    (ahead : Ahead) :
    let r := runAhead s1 core (beginRow s core h h.pc).1 ahead
    (r.fail = none → hoistRowDone s core slot ahead = commitRow r.st core slot r.h) ∧
    ∀ f, r.fail = some f → hoistRowDone s core slot ahead = failRow core slot r.h f := by
  intro r
  constructor
  · intro hf
    simp [hoistRowDone, hh, hp, hs, hb, ho, hc, show (runAhead s1 core (beginRow s core h h.pc).1 ahead).fail = none from hf, r]
  · intro f hf
    simp [hoistRowDone, hh, hp, hs, hb, ho, hc, show (runAhead s1 core (beginRow s core h h.pc).1 ahead).fail = some f from hf, r]

/-- A row group of a compression commits, or ends its command for want of room (R266). -/
theorem hoistRowDone_of_compressed {s1 : State} {n carry : Nat} {ends : Bool} (ho : h.opc = opHcmp)
    (hc : compressRow s core h h.pc = .ok (s1, n, carry, ends)) (ahead : Ahead) :
    hoistRowDone s core slot ahead =
      if ends then finishCommand s1 core slot { h with blocks := n }
      else commitRow s1 core slot { h with blocks := n, carry := carry } := by
  simp only [hoistRowDone, hh, hp, hs, hb, ho, hc, Option.isSome_none, Bool.or_self, Bool.not_true, Bool.false_eq_true,
    if_false, beq_self_eq_true, if_true]

end

/-- A command without progress for 2^20 cycles fails (R424). -/
theorem exec_hoistWatchdogExpire_of_idle (hi : 2 ^ 20 ≤ h.idle) :
    exec (.hoistWatchdogExpire core slot) s = .next (failCommand s core slot h (some (12, 0)) none) := by
  show execHoistWatchdogExpire core slot s = _
  have hlt : ¬ h.idle < engineLimit := Nat.not_lt.mpr hi
  simp [execHoistWatchdogExpire, hh, hp, hlt]

end

/-- A row that has begun keeps the index that it read (R262). -/
theorem rowIndex_of_kept {h : HoistCmd} {p : Nat} {v : Nat × Bool} (s : State) (core : Nat) (ho : h.opc ≠ opHcp)
    (hl : blkLoops h.block ≠ 0) (hi : blkIdx h.block = 2) (hk : tabGet h.kept p = some v) :
    rowIndex s core h p = .ok (some (signExt 32 v.1), v.2, s) := by
  simp [rowIndex, ho, hl, hi, hk]

/-- A row counter as a row's commitment leaves it: the one that the block enables counts it (R264). -/
def HoistCmd.counts (h : HoistCmd) (s : State) (k : Nat) (r : RowCtr) : RowCtr :=
  if h.opc ≠ opHcmp ∧ blkRcen h.block = true ∧ k = blkRcnt h.block then
    { r with value := r.value + 1, ts := max r.ts (engPts s h.crew) }
  else r

/-- A commitment counts in the enabled counter alone (R264). -/
theorem ctrs_addCounter (s : State) (core : Nat) (h : HoistCmd) (k : Nat) :
    tabGet ((addCounter s core h 1).core core).ctrs k = (tabGet (s.core core).ctrs k).map (h.counts s k) := by
  by_cases hen : h.opc ≠ opHcmp ∧ blkRcen h.block = true
  · obtain ⟨ho, he⟩ := hen
    have hmap : ((addCounter s core h 1).core core).ctrs =
        (s.core core).ctrs.map (fun e => (e.1, h.counts s e.1 e.2)) := by
      simp only [addCounter, bne_iff_ne.mpr ho, he, Bool.and_self, if_true, modCore_eq, core_setCore]
      refine List.map_congr_left fun e _ => ?_
      by_cases hk : e.1 = blkRcnt h.block <;> simp [HoistCmd.counts, ho, he, hk]
    rw [hmap, tabGet_map]
  · have hoff : (h.opc != opHcmp && blkRcen h.block) = false := by simpa using hen
    have hsame : h.counts s k = id := by
      funext r
      exact if_neg fun ⟨ho, he, _⟩ => hen ⟨ho, he⟩
    simp only [addCounter, hoff, Bool.false_eq_true, if_false, hsame, Option.map_id, id]

/-- Settles O42: each clause by the lemma about its case. -/
theorem hoistRows : Obligations.HoistRows := by
  refine ⟨fun s s1 core slot h ahead hh hp => ⟨?copy, ?compress, ?index, ?watchdog⟩, fun s core h k r hr => ?counter⟩
  case copy =>
    intro hs hb ho b hc r
    obtain ⟨hok, hfail⟩ := hoistRowDone_of_copied hh hp hs hb ho hc ahead
    exact ⟨fun hf => congrArg _ (hok hf), fun f hf => congrArg _ (hfail f hf)⟩
  case compress =>
    intro hs hb ho n carry ends hc
    exact congrArg _ (hoistRowDone_of_compressed hh hp hs hb ho hc ahead)
  case index => exact fun ho hl hi v => rowIndex_of_kept s core ho hl hi
  case watchdog => exact exec_hoistWatchdogExpire_of_idle hh hp
  case counter =>
    rw [ctrs_addCounter, hr]
    rfl

end Sys2Proof.Machine
end

section
/-! Proofs about the matrix engine's own steps (O46). -/

namespace Sys2Proof.Machine

/-- An instruction's accesses as a step begins. -/
def EngCmd.begins (c : EngCmd) (s : State) : EngAcc := ⟨s, 0, 0, c.recorded, none, []⟩

section
variable {s s' : State} {core i : Nat} {c : EngCmd}

/-! Rows of `mmul` (R271, R279). -/

/-- An `mmul` whose row has been taken. -/
def EngCmd.fed (c : EngCmd) (row : Nat) (a : EngAcc) : EngCmd :=
  { c with pos := row + 1, recorded := a.recorded, idle := 0, away := [], groups := [] }

theorem exec_mmulRowCommit_of_row (hr : engRow s core = some (i, c)) (hh : (s.core core).macros.harvested = false)
    {row : Nat} (hrow : nextRow c = some row) (hold : (mmulRow core c row (c.begins s)).1.hold = none) :
    let r := mmulRow core c row (c.begins s)
    let d := c.fed row r.1
    let s1 := mmulPoison (unitFlags (r.1.settle (c.unit core)) c.crew r.2) core d
    exec (.mmulRowCommit core) s = .next (setEng
      (if (nextRow d).isNone && !c.released then discharge s1 c.crew c.flgb else s1) core i
      { d with released := c.released || (nextRow d).isNone }) := by
  intro r d s1
  show execMmulRowCommit core s = _
  simp only [EngCmd.begins] at hold
  simp only [execMmulRowCommit, hr, hh, hrow, hold, Bool.false_eq_true, if_false]
  rfl

/-! Steps and completion of the other instructions (R275, R279, R429). -/

section
variable (ht : engTurn s core = some (i, c, s'))
include ht

/-- An instruction that has taken a step. -/
def EngCmd.stepped (c : EngCmd) (a : EngAcc) : EngCmd :=
  { c with pos := c.after, recorded := a.recorded, idle := 0, away := [], groups := [], acks := c.acks ++ a.acks }

theorem exec_engineInsnDone_of_step (hm : c.slot ≠ 0x391)
    (hl : ¬(c.slot = 0x390 ∧ (s'.core core).macros.harvested = true)) (ho : c.over = false)
    (hold : (engineStep core c c.pos (c.begins s')).1.hold = none) :
    let r := engineStep core c c.pos (c.begins s')
    let s1 := unitFlags (r.1.settle (c.unit core)) c.crew r.2
    let d := c.stepped r.1
    exec (.engineInsnDone core) s = .next (if d.over then completeEngine s1 core i d else setEng s1 core i d) := by
  intro r s1 d
  have hl' : (c.slot == 0x390 && (s'.core core).macros.harvested) = false := by simpa using hl
  show execEngineInsnDone core s = _
  simp only [EngCmd.begins] at hold
  simp only [execEngineInsnDone, ht, beq_eq_false_iff_ne.mpr hm, hl', ho, hold, Bool.false_eq_true, if_false]
  rfl

theorem exec_engineInsnDone_of_over (hm : c.slot ≠ 0x391)
    (hl : ¬(c.slot = 0x390 ∧ (s'.core core).macros.harvested = true)) (ho : c.over = true) :
    exec (.engineInsnDone core) s = .next (completeEngine s' core i c) := by
  have hl' : (c.slot == 0x390 && (s'.core core).macros.harvested) = false := by simpa using hl
  show execEngineInsnDone core s = _
  simp only [execEngineInsnDone, ht, beq_eq_false_iff_ne.mpr hm, hl', ho, Bool.false_eq_true, if_false, if_true]

theorem exec_engineInsnDone_of_mmul (hm : c.slot = 0x391) :
    exec (.engineInsnDone core) s = .next (finishEngine (mmulPoison s' core c) core i c) := by
  show execEngineInsnDone core s = _
  simp [execEngineInsnDone, ht, hm]

theorem exec_engineInsnDone_of_harvested (hl : c.slot = 0x390) (hh : (s'.core core).macros.harvested = true) :
    exec (.engineInsnDone core) s = .next (finishEngine (poisonBlocks s' core c) core i c) := by
  show execEngineInsnDone core s = _
  simp [execEngineInsnDone, ht, hl, hh]

end

theorem completeEngine_of_performed (ha : engineAwaits s c = false) : completeEngine s core i c =
    finishEngine (if wideScope c.scope then raiseCtx s c.ctx (engPts s c.crew) else s) core i c := by
  simp only [completeEngine, ha, Bool.false_eq_true, if_false]

theorem exec_engineWatchdogExpire_of_idle (hi : (engFree s core).find? (fun d => 2 ^ 20 ≤ d.2.idle) = some (i, c)) :
    exec (.engineWatchdogExpire core) s = .next (finishEngine (unitFlags (abandonEngine
      (if c.recorded then s else unitRecord s (c.unit core) 12 0 9 0 none none) core c) c.crew flagDERR) core i c) := by
  show execEngineWatchdogExpire core s = _
  simp only [execEngineWatchdogExpire, hi]

/-! The self-test of an engine without instructions (R429). -/

section
variable (he : (s.core core).eng = []) (hh : (s.core core).macros.harvested = false)
include he hh

theorem exec_macroSelfTest_of_pass : exec (.macroSelfTest core none) s =
    .next (s.modCore core (fun co => { co with macros := { co.macros with fed := [], outs := [] } })) := by
  show execMacroSelfTest core none s = _
  simp [execMacroSelfTest, he, hh]

theorem exec_macroSelfTest_of_fail {m sub : Nat} (hm : m < 8) (hs : sub < 5)
    (hf : (s.core core).macros.fenced.contains (m, sub) = false) :
    exec (.macroSelfTest core (some (m, sub))) s = .next (fenceSub s core m sub) := by
  show execMacroSelfTest core (some (m, sub)) s = _
  simp only [execMacroSelfTest, he, hh, hf, List.any_nil, Bool.or_self, Bool.false_eq_true, if_false, Nat.not_le.mpr hm,
    Nat.not_le.mpr hs, decide_false]

end

end

/-! `mzero` (R272, R428). -/

/-- A step of `mzero` makes one tile's elements +0 and leaves the others. -/
theorem accGet_mzeroStep (s : State) (core : Nat) (c : EngCmd) (p k : Nat) :
    accGet ((mzeroStep s core c p).core core) k =
      if k / 4096 = c.tiles.getD p 8 then 0 else accGet (s.core core) k := by
  simp only [mzeroStep, accGet, modCore_eq, core_setCore, tabGet_filter _ (fun i => i / 4096 != c.tiles.getD p 8)]
  by_cases hk : k / 4096 = c.tiles.getD p 8
  · simp only [hk, bne_self_eq_false, Bool.false_eq_true, if_false, if_true, Option.map_none, Option.getD_none]
  · simp only [hk, bne_iff_ne.mpr hk, if_false, if_true]

/-- It takes the tile's mark, and no other. -/
theorem accPoison_mzeroStep (s : State) (core : Nat) (c : EngCmd) (p t : Nat) :
    t ∈ ((mzeroStep s core c p).core core).accPoison ↔ t ∈ (s.core core).accPoison ∧ t ≠ c.tiles.getD p 8 := by
  simp [mzeroStep, setDel]

/-- Settles O46: each clause by the lemma about its step. -/
theorem engineSteps : Obligations.EngineSteps := by
  refine ⟨fun s core i c => ?_, fun s core c p k _ => ⟨accGet_mzeroStep s core c p k, accPoison_mzeroStep s core c p⟩⟩
  refine ⟨?row, ?step, completeEngine_of_performed, ?mmul, ?harvested, exec_engineWatchdogExpire_of_idle, ?selftest⟩
  case row =>
    intro hr hh row hrow r d s1 last hold
    exact exec_mmulRowCommit_of_row hr hh hrow hold
  case step =>
    intro s' ht hm hl r s1 d
    exact ⟨exec_engineInsnDone_of_step ht hm hl, exec_engineInsnDone_of_over ht hm hl⟩
  case mmul => exact fun s' => exec_engineInsnDone_of_mmul
  case harvested => exact fun s' => exec_engineInsnDone_of_harvested
  case selftest =>
    exact fun he hh => ⟨exec_macroSelfTest_of_pass he hh, fun m sub hm hs hf => exec_macroSelfTest_of_fail he hh hm hs hf⟩

end Sys2Proof.Machine
end

section
/-! What an access leaves of a state beside bytes, timestamps and records: fences and ports, the owners of lines, which
splits and installations stand, and the handlers that run. -/

namespace Sys2Proof.Machine

/-- What of a state no access to a line changes. -/
structure Standing where
  fencedPc : List Nat
  fencedGroups : List Nat
  cxlDown : List Nat
  aditsDown : List Nat
  windows : Tab Window
  hstn : BitVec 32
  owners : Nat → Option (Nat × Nat)
  splits : Nat → Nat → Bool
  handlers : Nat → Option Handler
  installs : Nat → Nat → Bool

def State.standing (s : State) : Standing :=
  { fencedPc := s.fencedPc, fencedGroups := s.fencedGroups, cxlDown := s.cxlDown, aditsDown := s.aditsDown,
    windows := s.windows, hstn := s.hstn, owners := fun a => (tabGet s.lines a).bind Line.owner
    splits := fun id e => ((s.crew id).bind (fun c => c.split e)).isSome
    handlers := fun l => (s.slice l).handler, installs := fun l ctx => (installOf s l ctx).isSome }

/-! What is read off a standing. -/

section
variable {s t : State} (h : t.standing = s.standing)
include h

theorem owner_lineOf_of_standing (pa : Nat) : (lineOf t pa).owner = (lineOf s pa).owner := by
  have ho : ∀ u : State, (lineOf u pa).owner = u.standing.owners (pa / 128) := by
    intro u
    simp only [lineOf, State.standing]
    cases tabGet u.lines (pa / 128) with
    | none => rfl
    | some x => cases hx : (x.held || x.owner.isSome) <;> simp [hx]
  rw [ho, ho, h]

theorem installOf_isSome_of_standing (l ctx : Nat) : (installOf t l ctx).isSome = (installOf s l ctx).isSome :=
  congrFun (congrFun (congrArg Standing.installs h) l) ctx

theorem split_isSome_of_standing (id entry : Nat) :
    ((t.crew id).bind (fun c => c.split entry)).isSome = ((s.crew id).bind (fun c => c.split entry)).isSome :=
  congrFun (congrFun (congrArg Standing.splits h) id) entry

theorem stashOwned_of_standing (pa : Nat) : stashOwned t pa = stashOwned s pa := by
  have ho : ∀ u : State, stashOwned u pa = (u.standing.owners (pa / 128)).isSome := by
    intro u
    simp only [stashOwned, State.standing]
    cases tabGet u.lines (pa / 128) <;> rfl
  rw [ho, ho, h]

theorem fencedAt_of_standing (pa : Nat) : fencedAt t pa = fencedAt s pa := by
  have hp : t.fencedPc = s.fencedPc := congrArg Standing.fencedPc h
  have hg : t.fencedGroups = s.fencedGroups := congrArg Standing.fencedGroups h
  simp only [fencedAt, unitFenced, hp, hg, stashOwned_of_standing h]

theorem deadTarget_of_standing (pa : Nat) : deadTarget t pa = deadTarget s pa := by
  have hc : t.cxlDown = s.cxlDown := congrArg Standing.cxlDown h
  have ha : t.aditsDown = s.aditsDown := congrArg Standing.aditsDown h
  have hw : t.windows = s.windows := congrArg Standing.windows h
  have hn : t.hstn = s.hstn := congrArg Standing.hstn h
  have hd : dStation t pa = dStation s pa := by simp only [dStation, State.window, hw, hn]
  have hl : livePorts t pa = livePorts s pa := by
    have hwin : t.window = s.window := by
      funext i
      rw [State.window, hw]
      rfl
    rw [livePorts, hwin, ha]
    rfl
  simp only [deadTarget, hd, hl, hc]

end

/-! The named updates. -/

section
variable (s : State)

theorem standing_foldl {α : Type} {f : State → α → State} (hf : ∀ s a, (f s a).standing = s.standing) (l : List α) :
    (l.foldl f s).standing = s.standing := by
  induction l generalizing s with
  | nil => rfl
  | cons a r ih => exact (ih _).trans (hf s a)

theorem standing_setLine {pa : Nat} {x : Line} (h : x.owner = (lineOf s pa).owner) :
    (setLine s pa x).standing = s.standing := by
  have ho : ∀ a, (tabGet (tabPut s.lines (pa / 128) x) a).bind Line.owner = (tabGet s.lines a).bind Line.owner := by
    intro a
    by_cases ha : a = pa / 128
    · subst ha
      rw [tabGet_tabPut_same, Option.bind_some, h, lineOf]
      cases tabGet s.lines (pa / 128) with
      | none => rfl
      | some y => cases hy : (y.held || y.owner.isSome) <;> simp [hy]
    · rw [tabGet_tabPut_ne _ _ _ _ ha]
  exact congrArg (fun o => { s.standing with owners := o }) (funext ho)

theorem standing_setCrew {id : Nat} {c d : Crew} (hc : s.crew id = some c)
    (h : ∀ e, (d.split e).isSome = (c.split e).isSome) : (s.setCrew id d).standing = s.standing := by
  have hs : ∀ k e, (((s.setCrew id d).crew k).bind (fun c => c.split e)).isSome =
      ((s.crew k).bind (fun c => c.split e)).isSome := by
    intro k e
    by_cases hk : k = id
    · subst hk
      rw [crew_setCrew, hc]
      exact h e
    · rw [crew_setCrew_ne _ _ _ _ hk]
  exact congrArg (fun o => { s.standing with splits := o }) (funext fun k => funext (hs k))

theorem standing_modCrew {id : Nat} {f : Crew → Crew} (h : ∀ c e, ((f c).split e).isSome = (c.split e).isSome) :
    (s.modCrew id f).standing = s.standing := by
  cases hc : s.crew id with
  | none => rw [modCrew_none _ _ _ hc]
  | some c =>
    rw [modCrew_of _ _ _ _ hc]
    exact standing_setCrew s hc (h c)

theorem standing_setSlice {l : Nat} {x : Slice} (hh : x.handler = (s.slice l).handler)
    (hi : ∀ ctx, (tabGet x.installs ctx).isSome = (installOf s l ctx).isSome) :
    (s.setSlice l x).standing = s.standing := by
  have hs : ∀ k, ((s.setSlice l x).slice k).handler = (s.slice k).handler ∧
      ∀ ctx, (installOf (s.setSlice l x) k ctx).isSome = (installOf s k ctx).isSome := by
    intro k
    by_cases hk : k = l
    · subst hk
      simp only [installOf, slice_setSlice]
      exact ⟨hh, hi⟩
    · simp only [installOf, slice_setSlice_ne _ _ _ _ hk, implies_true, and_self]
  exact congrArg₂ (fun o p => { s.standing with handlers := o, installs := p })
    (funext fun k => (hs k).1) (funext fun k => funext (hs k).2)

theorem standing_modSlice {l : Nat} {f : Slice → Slice} (hh : ∀ x, (f x).handler = x.handler)
    (hi : ∀ x ctx, (tabGet (f x).installs ctx).isSome = (tabGet x.installs ctx).isSome) :
    (s.modSlice l f).standing = s.standing :=
  standing_setSlice s (hh _) (hi _)

end

/-- A table with a value put at a key that it lists lists the same keys. -/
theorem tabGet_tabPut_isSome {α : Type} {t : Tab α} {k : Nat} (h : (tabGet t k).isSome = true) (b : α) (j : Nat) :
    (tabGet (tabPut t k b) j).isSome = (tabGet t j).isSome := by
  by_cases hj : j = k
  · subst hj
    rw [tabGet_tabPut_same, h]
    rfl
  · rw [tabGet_tabPut_ne _ _ _ _ hj]

end Sys2Proof.Machine
end

section
/-! No access to a line changes what stands: one lemma for each function of the access layer, in the order of the
model. -/

namespace Sys2Proof.Machine

section
variable (s : State)

@[simp] theorem standing_draw : s.draw.2.standing = s.standing := rfl

@[simp] theorem standing_count (d cls n : Nat) : (s.count d cls n).standing = s.standing := by
  unfold State.count
  split <;> rfl

@[simp] theorem standing_detectIn (pa n lo len : Nat) (f : Finder) :
    (detectIn s pa n lo len f).standing = s.standing := by
  unfold detectIn
  dsimp only
  split <;> rfl

@[simp] theorem standing_detect (pa n : Nat) (f : Finder) : (detect s pa n f).standing = s.standing := by
  unfold detect
  split <;> simp

@[simp] theorem standing_clearCovered (rs : List (Nat × Nat)) : (clearCovered s rs).standing = s.standing := by
  unfold clearCovered
  split <;> rfl

@[simp] theorem standing_detectBy (pa n : Nat) (w : Option Who) : (detectBy s pa n w).standing = s.standing := by
  unfold detectBy
  split <;> simp

@[simp] theorem standing_noteRts (pa rts : Nat) : (noteRts s pa rts).standing = s.standing := by
  unfold noteRts
  split
  · exact standing_setSlice s rfl (fun _ => rfl)
  · rfl

@[simp] theorem standing_raiseEvent (slice ctx : Nat) (e : AsEvent) :
    (raiseEvent s slice ctx e).standing = s.standing := by
  unfold raiseEvent
  dsimp only
  split
  · rfl
  · next i hi =>
    split
    · rfl
    · exact standing_setSlice s rfl (tabGet_tabPut_isSome (by rw [hi]; rfl) _)

@[simp] theorem standing_fillHome (pa : Nat) (w : Option Who) : (fillHome s pa w).standing = s.standing := by
  have hl : ∀ (u : State) (x : Line), u.standing = s.standing → x.owner = (lineOf s pa).owner →
      (setLine u pa x).standing = s.standing := fun u x hu hx =>
    (standing_setLine u (hx.trans (owner_lineOf_of_standing hu pa).symm)).trans hu
  unfold fillHome
  dsimp only
  split
  · rfl
  · split
    · rfl
    · split
      · exact hl s _ rfl rfl
      · split
        · exact hl s _ rfl rfl
        · rw [standing_raiseEvent]
          exact hl _ _ (standing_raiseEvent s _ _ _) rfl

@[simp] theorem standing_missBeyond (pa : Nat) (w : Option Who) : (missBeyond s pa w).standing = s.standing := by
  unfold missBeyond
  split
  · split <;> simp
  · rfl

/-! Monitors (R65). -/

@[simp] theorem standing_completeWait (crew entry : Nat) (v : Word) (wts : Nat) (bad : Bool) :
    (completeWait s crew entry v wts bad).standing = s.standing := by
  unfold completeWait
  split
  · rfl
  · next c hc =>
    split
    · rfl
    · next x hx =>
      split
      · next w _ _ =>
        split
        · refine standing_setCrew s hc fun e => ?_
          have hends : ∀ (l : List Nat) (c : Crew), (l.foldl (fun (c : Crew) n => { c with s := tabPut c.s n .dead }) c).splits = c.splits := by
            intro l
            induction l with
            | nil => exact fun _ => rfl
            | cons n r ih => exact fun c => ih _
          have hsplits : (tabGet c.splits entry).isSome = true := by
            rw [show tabGet c.splits entry = some x from hx]
            rfl
          have key : ∀ d : Crew, d.splits = c.splits → ∀ y, ((d.setSplit entry y).split e).isSome = (c.split e).isSome := by
            intro d hd y
            simp only [Crew.split, Crew.setSplit, hd]
            exact tabGet_tabPut_isSome hsplits y e
          refine key _ ?_ _
          cases bad <;> exact hends _ _
        · split
          · split
            · rfl
            · exact standing_setCrew s hc fun _ => rfl
          · rfl
      · rfl

@[simp] theorem standing_observeLine (crew pa : Nat) : (observeLine s crew pa).standing = s.standing := by
  unfold observeLine
  split
  · rfl
  · dsimp only
    split
    · exact (standing_noteRts _ _ _).trans (standing_setLine s rfl)
    · rfl

@[simp] theorem standing_countWait (crew : Nat) (b : Bool) : (countWait s crew b).standing = s.standing := by
  unfold countWait
  split <;> simp

@[simp] theorem standing_fireMonitors (l pa : Nat) (m : Monitor) : (fireMonitors s l pa m).standing = s.standing := by
  unfold fireMonitors
  dsimp only
  have hd := standing_detect s (pa / 8 * 8) 8 ⟨7, some m.crew, m.entry, none⟩
  split
  · refine (standing_foldl _ (fun u a => by simp) _).trans ?_
    refine (standing_setSlice _ ?_ fun _ => ?_).trans ?_
    · rfl
    · rfl
    · exact hd
  · exact hd

@[simp] theorem standing_evalMonitors (pa : Nat) : (evalMonitors s pa).standing = s.standing := by
  unfold evalMonitors
  split
  · rfl
  · split
    · rfl
    · split
      · exact standing_setSlice s rfl fun _ => rfl
      · simp

@[simp] theorem standing_wakeRing (pa n r : Nat) : (wakeRing s pa n r).standing = s.standing := by
  unfold wakeRing
  dsimp only
  split <;> rfl

@[simp] theorem standing_wakeRings (pa n : Nat) : (wakeRings s pa n).standing = s.standing := by
  unfold wakeRings
  split
  · exact standing_foldl s (fun u r => standing_wakeRing u _ _ _) _
  · rfl

@[simp] theorem standing_evalRange (pa n : Nat) : (evalRange s pa n).standing = s.standing := by
  unfold evalRange
  dsimp only
  split
  · simp
  · rw [standing_foldl _ (fun u i => standing_evalMonitors u _), standing_wakeRings]

/-! Partials and their merge (R124). -/

@[simp] theorem standing_applyPartials (fuel base : Nat) (ps : List Partial) :
    (applyPartials fuel s base ps).standing = s.standing := by
  induction fuel generalizing s ps with
  | zero => rfl
  | succ n ih =>
    unfold applyPartials
    dsimp only
    split
    · rfl
    · split
      · rfl
      · rw [ih]
        split <;> rfl

@[simp] theorem standing_dueNow (ps : List Partial) (whole : Bool) : (dueNow s ps whole).2.2.standing = s.standing := by
  unfold dueNow
  suffices h : ∀ (a : List Partial × List Partial × State), a.2.2.standing = s.standing →
      (ps.foldl (fun (a : List Partial × List Partial × State) p =>
        if whole || p.late.isNone then (a.1 ++ [p], a.2)
        else
          let d := a.2.2.draw
          if Config.freeChoice d.1 % 2 == 0 then (a.1 ++ [p], a.2.1, d.2)
          else (a.1, a.2.1 ++ [{ p with late := none }], d.2)) a).2.2.standing = s.standing from h _ rfl
  induction ps with
  | nil => exact fun a ha => ha
  | cons p r ih =>
    intro a ha
    refine ih _ ?_
    dsimp only
    split
    · exact ha
    · split <;> exact ha

@[simp] theorem standing_joinLine (pa crew : Nat) : (joinLine s pa crew).standing = s.standing := by
  unfold joinLine
  dsimp only
  split
  · exact standing_setLine s rfl
  · rfl

@[simp] theorem standing_joinBy (pa : Nat) (w : Option Who) : (joinBy s pa w).standing = s.standing := by
  unfold joinBy
  split <;> simp

@[simp] theorem standing_noteReds (crews : List Nat) (ts : Nat) : (noteReds s crews ts).standing = s.standing := by
  unfold noteReds
  refine standing_foldl s (fun u k => ?_) _
  exact standing_modCrew u fun _ _ => rfl

@[simp] theorem standing_unitLine (a pa n : Nat) : (unitLine s a pa n).standing = s.standing := by
  unfold unitLine
  refine (standing_noteRts _ _ _).trans (standing_setLine s ?_)
  simp only [backInvalidate]
  split <;> rfl

@[simp] theorem standing_mergeLine (pa pts : Nat) (whole : Bool) : (mergeLine s pa pts whole).standing = s.standing := by
  unfold mergeLine
  dsimp only
  split
  · rfl
  · rw [standing_foldl _ (fun u p => standing_evalRange u _ _), standing_count, standing_noteRts]
    have h : ∀ u : State, u.standing = s.standing → ∀ x : Line, x.owner = (lineOf s pa).owner →
        (setLine u pa x).standing = s.standing := fun u hu x hx =>
      (standing_setLine u (hx.trans (owner_lineOf_of_standing hu pa).symm)).trans hu
    refine h _ ?_ _ ?_
    · rw [standing_foldl _ (fun u p => standing_noteReds u _ _), standing_applyPartials,
        standing_foldl _ (fun u p => standing_detect u _ _ _), standing_dueNow]
    · simp only [backInvalidate]
      split <;> rfl

@[simp] theorem standing_evictLine (line : Nat) : (evictLine s line).standing = s.standing := by
  have h : ∀ u : State, u.standing = s.standing → ∀ x : Line, x.owner = (lineOf (mergeLine s (128 * line)) (128 * line)).owner →
      (setLine u (128 * line) x).standing = s.standing := fun u hu x hx =>
    (standing_setLine u (hx.trans (owner_lineOf_of_standing
      ((standing_mergeLine s _ _ _).trans hu.symm) _))).trans hu
  unfold evictLine
  dsimp only
  split
  · rfl
  · split
    · simp
    · refine h _ ?_ _ rfl
      rw [standing_modSlice, standing_count]
      · split <;> simp
      · exact fun _ => rfl
      · exact fun _ _ => rfl

@[simp] theorem standing_makeLineRoom (pa : Nat) : (makeLineRoom s pa).standing = s.standing := by
  unfold makeLineRoom
  dsimp only
  split
  · rfl
  · split <;> simp

@[simp] theorem standing_touchHome (pa : Nat) (w : Option Who) : (touchHome s pa w).standing = s.standing := by
  unfold touchHome
  dsimp only
  split
  · rfl
  · split <;> simp

/-! Accesses at the owner and at the home (R115, R121, R123). -/

@[simp] theorem standing_grantLease (l : Line) : (grantLease s l).2.standing = s.standing := by
  unfold grantLease
  split <;> rfl

/-- An access joins the line's partials and merges them. -/
theorem standing_reached (pa pts : Nat) (w : Option Who) :
    (mergeLine (joinBy (touchHome s pa w) pa w) pa pts).standing = s.standing := by simp

theorem owner_backInvalidate (l : Line) : (backInvalidate l).owner = l.owner := by
  unfold backInvalidate
  split <;> rfl

@[simp] theorem standing_ownerLoad (pts pa n : Nat) (w : Option Who) :
    (ownerLoad s pts pa n w).2.2.2.standing = s.standing := by
  unfold ownerLoad
  dsimp only
  rw [standing_detectBy, standing_noteRts, standing_setLine, standing_grantLease, standing_reached]
  exact (owner_lineOf_of_standing (standing_grantLease _ _) pa).symm

@[simp] theorem standing_homeRead (pa n : Nat) (w : Option Who) : (homeRead s pa n w).2.standing = s.standing := by
  simp [homeRead]

@[simp] theorem standing_unitNote (pa n : Nat) (held : Bool) : (unitNote s pa n held).standing = s.standing := by
  unfold unitNote
  dsimp only
  split
  · simp
  · rw [standing_evalRange, standing_foldl, standing_clearCovered]
    intro u i
    split <;> simp

@[simp] theorem standing_unitBytes (pa : Nat) (bs : List Byte) : (unitBytes s pa bs).standing = s.standing := by
  unfold unitBytes
  split <;> rfl

@[simp] theorem standing_unitWrite (pa : Nat) (bs : List Byte) : (unitWrite s pa bs).standing = s.standing := by
  simp only [unitWrite, standing_unitNote, standing_unitBytes]
  exact standing_foldl s (fun u i => standing_mergeLine u _ _ _) _

@[simp] theorem standing_ownerAtomic (pts pa n : Nat) (f : Nat → Option Nat) (w : Option Who) :
    (ownerAtomic s pts pa n f w).2.2.standing = s.standing := by
  have hstruck : ∀ (ts : Nat) (d : BitVec 4) (w' : Option Who),
      let u := mergeLine (joinBy (touchHome s pa w) pa w) pa pts
      (detectBy (noteRts (setLine u pa { backInvalidate (lineOf u pa) with wts := ts, rts := ts, dirty := d }) pa ts)
        pa n w').standing = s.standing := by
    intro ts d w' u
    rw [standing_detectBy, standing_noteRts, standing_setLine, standing_reached]
    exact owner_backInvalidate _
  unfold ownerAtomic
  dsimp only
  split
  · exact hstruck _ _ _
  · split
    · exact hstruck _ _ _
    · rw [standing_evalRange]
      exact hstruck _ _ _

/-! Registers, records and counts (R147, R368, R369). -/

@[simp] theorem standing_pokeNat (pa n v : Nat) : (pokeNat s pa n v).standing = s.standing := standing_unitWrite s _ _

@[simp] theorem standing_orSticky (crew : Nat) (f : Flags) : (orSticky s crew f).standing = s.standing := by
  unfold orSticky
  split
  · rfl
  · next c hc =>
    split
    · rfl
    · split
      · split <;> simp
      · exact standing_setCrew s hc fun _ => rfl

@[simp] theorem standing_errCount (d cls : Nat) : (errCount s d cls).standing = s.standing := by
  unfold errCount errCounts
  dsimp only
  split <;> simp

@[simp] theorem standing_countPoisonRead (d : Nat) (bad : Bool) : (countPoisonRead s d bad).standing = s.standing := by
  unfold countPoisonRead
  split
  · rfl
  · split
    · rfl
    · simp

@[simp] theorem standing_caughtIf (b : Bool) : (s.caughtIf b).standing = s.standing := by
  unfold State.caughtIf
  split <;> rfl

/-! Translations (R94). -/

@[simp] theorem standing_tlbRoom (at_ : TlbAt) (ctx : Nat) : (tlbRoom s at_ ctx).standing = s.standing := by
  unfold tlbRoom
  dsimp only
  split
  · rfl
  · split <;> rfl

@[simp] theorem standing_tlbFill (at_ : TlbAt) (e : TlbEntry) : (tlbFill s at_ e).standing = s.standing :=
  standing_tlbRoom _ _ _

@[simp] theorem standing_noteWalk (upd : Upd) : (noteWalk s upd).standing = s.standing := by
  refine standing_foldl s (fun u p => ?_) _
  dsimp only
  split
  · exact standing_ownerLoad _ _ _ _ _
  · exact standing_ownerAtomic _ _ _ _ _ _

@[simp] theorem standing_noteXlate (ask : Asker) (x : Xlate) : (noteXlate s ask x).standing = s.standing := by
  unfold noteXlate
  dsimp only
  rw [standing_foldl, standing_noteWalk]
  intro u a
  split <;> simp

@[simp] theorem standing_walkPoison (die : Nat) (crew : Option Nat) (split va : Nat) (pte : Option Nat) :
    (walkPoison s die crew split va pte).standing = s.standing := by
  unfold walkPoison
  split
  · rfl
  · dsimp only
    rw [standing_countPoisonRead]
    split <;> simp

@[simp] theorem standing_noteFail (ask : Asker) (crew : Option Nat) (split va : Nat) (f : XFail) :
    (noteFail s ask crew split va f).standing = s.standing := by simp [noteFail]

/-! Requests beyond the module and fetches (R131, R325, R157). -/

@[simp] theorem standing_noteFetch (crew entry : Nat) (c : Crew) (pc n : Nat) :
    (noteFetch s crew entry c pc n).standing = s.standing := by
  unfold noteFetch
  split
  · simp
  · dsimp only
    have hread : ∀ (pa : Nat) (x : Xlate) (w : Option Who), (if isHbm pa then
        (homeRead (noteXlate s (askCore c.core) x) pa n w).2
        else detectBy (noteXlate s (askCore c.core) x) pa n w).standing = s.standing := by
      intro pa x w
      split
      · rw [standing_homeRead, standing_noteXlate]
      · rw [standing_detectBy, standing_noteXlate]
    split
    · rw [standing_orSticky, standing_countPoisonRead, standing_caughtIf, hread]
    · exact hread _ _ _

end

end Sys2Proof.Machine
end

section
/-! Proofs about the forms of the assayers (O60): what each form comes to, case by case; then the obligation, put together
from them. -/

namespace Sys2Proof.Machine

/-- A form of an assayer acts for the handler that runs on the acting slice, with its context's installation. -/
structure Serves (s : State) (l : Nat) (h : Handler) (i : Install) : Prop where
  actor : s.actor = .handler l
  handler : (s.slice l).handler = some h
  install : installOf s l h.ctx = some i

theorem Serves.onHandler_eq {s : State} {l : Nat} {h : Handler} {i : Install} (hs : Serves s l h i)
    {body : State → Nat → Handler → Install → HRes} {r : HRes} (hr : body s l h i = r) :
    onHandler body s = .next (settleHandler s l h r) := by
  simp only [onHandler, hs.actor, hs.handler, hs.install, hr]

theorem asWriteBad_of_standing {s t : State} (h : t.standing = s.standing) (x : Xlate) :
    asWriteBad t x = asWriteBad s x := by
  simp only [asWriteBad, fencedAt_of_standing h, deadTarget_of_standing h]

@[simp] theorem asWriteBad_noteXlate (s : State) (ask : Asker) (y x : Xlate) :
    asWriteBad (noteXlate s ask y) x = asWriteBad s x :=
  asWriteBad_of_standing (standing_noteXlate s ask y) x

section
variable {s : State} {l : Nat} {h : Handler} {i : Install} {rd rs1 rs2 rs3 : BitVec 5} {x : Xlate} {w : AsFail}

/-! A target that breaks a rule (R308, R310). -/

theorem asLdForm_of_breach (ht : asTarget s l h.ctx (h.x rs1).toNat needR = .error w) : asLdForm rd rs1 s l h i = .bad w := by
  simp only [asLdForm, ht]

theorem asWakeForm_of_breach (ht : asTarget s l h.ctx (h.x rs1).toNat needR = .error w) : asWakeForm rs1 s l h i = .bad w := by
  simp only [asWakeForm, ht]

theorem asStForm_of_breach (ht : asTarget s l h.ctx (h.x rs1).toNat needW = .error w) : asStForm rs1 rs2 s l h i = .bad w := by
  simp only [asStForm, ht]

theorem asCasForm_of_breach (ht : asTarget s l h.ctx (h.x rs1).toNat needRW = .error w) :
    asCasForm rd rs1 rs2 rs3 s l h i = .bad w := by
  simp only [asCasForm, ht]

/-! `as.ld` (R129, R308). -/

section
variable (ht : asTarget s l h.ctx (h.x rs1).toNat needR = .ok x) (hl : h.late = false)
include ht hl

section
variable (hm : isHbm x.pa = false) (hd : deadTarget (noteXlate s (askSlice l) x) x.pa = none)
include hm hd

/-- A load beyond the module whose bytes have come takes them. -/
theorem asLdForm_of_answered {v : Away} {bs : List Byte} {bad : Bool}
    (hv : h.away.find? (fun w => w.pa == x.pa && w.size == 8) = some v) (hr : v.reason = 0) (hb : v.data = some (bs, bad)) :
    asLdForm rd rs1 s l h i = .go (countPoisonRead ((noteXlate s (askSlice l) x).caughtIf bad) (dieOfSlice l) bad)
      (rvSet h.regs rd.toNat (leWord bs)) 4 := by
  simp [asLdForm, ht, hl, hm, asPull, hd, hv, hr, hb]

/-- One that has not been asked for is sent, and the handler stalls (R325). -/
theorem asLdForm_of_unasked (hv : h.away.find? (fun w => w.pa == x.pa && w.size == 8) = none) :
    asLdForm rd rs1 s l h i = .stall
      (sendExt (noteXlate s (askSlice l) x) (otherExt (noteXlate s (askSlice l) x) .handler l h.ctx x.va x.pa 8 []))
      (h.away ++ [⟨x.pa, 8, none, 0⟩]) := by
  simp [asLdForm, ht, hl, hm, asPull, hd, hv]

end

/-- The state in which an access of a handler reaches its line. -/
def asReached (s : State) (l : Nat) (h : Handler) (x : Xlate) : State :=
  asMode (touchQuiet (noteXlate s (askSlice l) x) x.pa h.ctx x.e.aclass x.va) x.pa x.e.cmode

section
variable (hm : isHbm x.pa = true)
include hm

theorem asLdForm_of_coherent (hc : x.e.cmode = 0) :
    let s1 := asReached s l h x
    let q := ownerLoad (detect s1 x.pa 8 (asFinder x.va)) (handlerPts s1 l h.ctx) x.pa 8 none
    asLdForm rd rs1 s l h i = .go (countPoisonRead (raiseAs q.2.2.2 l h.ctx q.2.1) (dieOfSlice l) q.1.2)
      (rvSet h.regs rd.toNat (leWord q.1.1)) 4 := by
  simp only [asLdForm, ht, hl, hm, hc, Bool.not_true, Bool.false_eq_true, if_false, beq_self_eq_true, if_true]
  simp only [asReached, hc]

theorem asLdForm_of_managed (hc : x.e.cmode ≠ 0) :
    let u := homeRead (detect (asReached s l h x) x.pa 8 (asFinder x.va)) x.pa 8 none
    asLdForm rd rs1 s l h i = .go (countPoisonRead (raiseAs u.2 l h.ctx (lineOf u.2 x.pa).wts) (dieOfSlice l) u.1.2)
      (rvSet h.regs rd.toNat (leWord u.1.1)) 4 := by
  simp only [asLdForm, ht, hl, hm, beq_eq_false_iff_ne.mpr hc, Bool.not_true, Bool.false_eq_true, if_false, asReached]

end

end

/-! `as.st` (R129, R308). -/

section
variable (ht : asTarget s l h.ctx (h.x rs1).toNat needW = .ok x) (hl : h.late = false)
include ht hl

theorem asStForm_of_refused {r : Nat} (hr : asWriteBad s x = some r) :
    asStForm rs1 rs2 s l h i = .refused (noteXlate s (askSlice l) x) x.va x.pa r := by
  simp only [asStForm, ht, hl, asWriteBad_noteXlate, hr, Bool.false_eq_true, if_false]

theorem asStForm_of_hbm (hr : asWriteBad s x = none) (hm : isHbm x.pa = true) :
    let q := ownerStore (asReached s l h x) (handlerPts (asReached s l h x) l h.ctx) x.pa (wordBytes (h.x rs2)) none
    asStForm rs1 rs2 s l h i = .go (raiseAs (clearCovered q.2 [(x.pa, 8)]) l h.ctx q.1) h.regs 4 := by
  simp only [asStForm, ht, hl, asWriteBad_noteXlate, hr, hm, Bool.not_true, Bool.false_eq_true, if_false, asReached]

end

/-! `as.cas` (R129, R308). -/

section
variable (ht : asTarget s l h.ctx (h.x rs1).toNat needRW = .ok x) (hl : h.late = false)
include ht hl

theorem asCasForm_of_refused {r : Nat} (hr : asWriteBad s x = some r) : asCasForm rd rs1 rs2 rs3 s l h i =
    .refused (unconsumed (noteXlate s (askSlice l) x) x.pa 8 (asFinder x.va)) x.va x.pa r := by
  simp only [asCasForm, ht, hl, asWriteBad_noteXlate, hr, Bool.false_eq_true, if_false]

theorem asCasForm_of_hbm (hr : asWriteBad s x = none) (hm : isHbm x.pa = true) :
    let s1 := asReached s l h x
    let q := ownerAtomic (detect s1 x.pa 8 (asFinder x.va)) (handlerPts s1 l h.ctx) x.pa 8
      (fun old => if old == (h.x rs2).toNat then some (h.x rs3).toNat else none) none
    asCasForm rd rs1 rs2 rs3 s l h i = .go (countPoisonRead (raiseAs q.2.2 l h.ctx q.2.1) (dieOfSlice l) q.1.2)
      (rvSet h.regs rd.toNat (BitVec.ofNat 64 q.1.1)) 4 := by
  simp only [asCasForm, ht, hl, asWriteBad_noteXlate, hr, hm, Bool.not_true, Bool.false_eq_true, if_false, asReached]

end

/-! `as.pf` (R309). -/

theorem asPfForm_of_bad_count (hn : (h.x rs2).toNat = 0 ∨ 32 < (h.x rs2).toNat) :
    asPfForm rs1 rs2 s l h i = .bad (AsFail.at_ 11 (h.x rs1).toNat) := by
  have hb : ((h.x rs2).toNat == 0 || decide (32 < (h.x rs2).toNat)) = true := by simpa using hn
  simp only [asPfForm, hb, if_true]

section
variable (h1 : 1 ≤ (h.x rs2).toNat) (h32 : (h.x rs2).toNat ≤ 32)
include h1 h32

theorem asPfForm_of_breach {y : Xlate}
    (hf : (prefetchPages s l h.ctx (h.x rs1).toNat (h.x rs2).toNat).find? (prefetchBreach s l) = some y) :
    asPfForm rs1 rs2 s l h i = .bad ⟨8, some y.va, some y.pa, some (xfail .rperm y.upd)⟩ := by
  have hb : ((h.x rs2).toNat == 0 || decide (32 < (h.x rs2).toNat)) = false := by
    simp only [Bool.or_eq_false_iff, beq_eq_false_iff_ne, decide_eq_false_iff_not]
    omega
  simp only [asPfForm, hb, hf, Bool.false_eq_true, if_false]

/-- Lines that the map opens are asked for where the slice has room for them, and the handler stalls where it has not. -/
theorem asPfForm_of_open
    (hp : ∀ y ∈ prefetchPages s l h.ctx (h.x rs1).toNat (h.x rs2).toNat, prefetchBreach s l y = false) :
    let pages := prefetchPages s l h.ctx (h.x rs1).toNat (h.x rs2).toNat
    let xs := pages.filter (fun x => !leftAlone s l x)
    asPfForm rs1 rs2 s l h i =
      if 128 < (s.slice l).prefetch.length + xs.length then .stall s h.away
      else .go ((pages.foldl (fun s x => noteXlate s (askSlice l) x)
          (prefetchSkipped s l h.ctx (h.x rs1).toNat (h.x rs2).toNat)).modSlice l (fun y => { y with
            prefetch := y.prefetch ++ xs.map (fun x => (x.pa / 128, (h.ctx, x.e.aclass, x.va))) })) h.regs 2 := by
  have hb : ((h.x rs2).toNat == 0 || decide (32 < (h.x rs2).toNat)) = false := by
    simp only [Bool.or_eq_false_iff, beq_eq_false_iff_ne, decide_eq_false_iff_not]
    omega
  have hf : (prefetchPages s l h.ctx (h.x rs1).toNat (h.x rs2).toNat).find? (prefetchBreach s l) = none := by
    rw [List.find?_eq_none]
    exact fun y hy => by simp [hp y hy]
  simp only [asPfForm, hb, hf, Bool.false_eq_true, if_false]

end

/-! The other forms (R310 to R313). -/

theorem asWakeForm_of_hbm (ht : asTarget s l h.ctx (h.x rs1).toNat needR = .ok x) (hm : isHbm x.pa = true) :
    asWakeForm rs1 s l h i = .go (evalMonitors (noteXlate s (askSlice l) x) x.pa) h.regs 2 := by
  simp only [asWakeForm, ht, hm, if_true]

theorem asMsgForm_of_reply (hk : h.ev.kind = 3) (hr : h.replied = false) : asMsgForm rd rs1 s l h i =
    .ends (chargeHandler (replyTo s h.ev.request (h.x rs1) false (handlerPts s l h.ctx)) l
      { h with replied := true, away := [] } (rvSet h.regs rd.toNat 1) 2) := by
  simp [asMsgForm, hk, hr]

theorem asMsgForm_of_none (hk : h.ev.kind ≠ 3 ∨ h.replied = true) :
    asMsgForm rd rs1 s l h i = .go s (rvSet h.regs rd.toNat 0) 2 := by
  have hb : (h.ev.kind != 3 || h.replied) = true := by simpa using hk
  simp only [asMsgForm, hb, if_true]

theorem asTlbForm_of_missing {f : XFail} (hf : asLook s l h.ctx (h.x rs1).toNat false = .error f) : asTlbForm rd rs1 s l h i =
    .go (noteFail s (askSlice l) none 0 (h.x rs1).toNat f) (rvSet h.regs rd.toNat 0) 2 := by
  simp only [asTlbForm, hf]

theorem asTlbForm_of_found {e : TlbEntry} {u : Upd} (hf : asLook s l h.ctx (h.x rs1).toNat false = .ok (e, u)) :
    asTlbForm rd rs1 s l h i = .go (noteXlate s (askSlice l) ⟨(h.x rs1).toNat, e.pa + (h.x rs1).toNat % 2 ^ e.log, e, u⟩)
      (rvSet h.regs rd.toNat (BitVec.ofNat 64 (asTlbValue s l e (h.x rs1).toNat))) 2 := by
  simp only [asTlbForm, hf]

/-- What `as.evt` charges to the installation. -/
theorem installOf_modInstall (hi : installOf s l h.ctx = some i) (f : Install → Install) :
    installOf (modInstall s l h.ctx f) l h.ctx = some (f i) := by
  have hm : modInstall s l h.ctx f = s.modSlice l (fun x => { x with installs := tabPut x.installs h.ctx (f i) }) := by
    simp only [modInstall, hi]
  simp [hm, installOf]

section
variable (hi : installOf s l h.ctx = some i)
include hi

theorem asEvtForm_of_next {e : AsEvent} {rest : List AsEvent} {a : Nat} (hq : i.queue = e :: rest)
    (he : i.entryOf e = some a) (ha : a = h.entry) (hr : i.removing = false) (hu : i.used + 2 < i.share * 512) :
    asEvtForm rd s l h i = .ends ((takeEvent (endEvent (modInstall s l h.ctx (fun i => { i with used := i.used + 2 })) l h false)
      l h.ctx a e h.regs h.pc).modSlice l (fun x => { x with handler := x.handler.map (fun g => { g with
        regs := rvSet g.regs rd.toNat (BitVec.ofNat 64 (min (rest.countP (fun o => i.entryOf o == some a)) 255)) }) })) := by
  subst ha
  obtain ⟨j, hj, hjq, hje, hjr, hju⟩ : ∃ j, installOf (modInstall s l h.ctx (fun i => { i with used := i.used + 2 })) l h.ctx =
      some j ∧ j.queue = e :: rest ∧ (∀ o, j.entryOf o = i.entryOf o) ∧ j.removing = false ∧ j.used < j.share * 512 :=
    ⟨_, installOf_modInstall hi _, hq, fun _ => rfl, hr, hu⟩
  simp only [asEvtForm, hj, hjq, hje, he, hjr, beq_self_eq_true, Bool.not_false, Bool.and_self,
    decide_eq_true hju, if_true]

theorem asEvtForm_of_none (hn : i.queue = [] ∨ i.share * 512 ≤ i.used + 2) :
    asEvtForm rd s l h i =
      .ends (endHandler (modInstall s l h.ctx (fun i => { i with used := i.used + 2 })) l h false) := by
  obtain ⟨j, hj, hjn⟩ : ∃ j, installOf (modInstall s l h.ctx (fun i => { i with used := i.used + 2 })) l h.ctx = some j ∧
      (j.queue = [] ∨ ¬ j.used < j.share * 512) := by
    refine ⟨_, installOf_modInstall hi _, ?_⟩
    rcases hn with hn | hn
    · exact .inl hn
    · exact .inr (Nat.not_lt.mpr hn)
  simp only [asEvtForm, hj]
  cases hq : j.queue with
  | nil => rfl
  | cons e rest =>
    have hu : ¬ j.used < j.share * 512 := hjn.resolve_left (by simp [hq])
    cases he : j.entryOf e <;> simp only [he, hu, decide_false, Bool.and_false, Bool.false_eq_true, if_false]

end

end

/-- Settles O60: the budget's end by its event, and each form of a handler by what its case comes to. -/
theorem handlerForms : Obligations.HandlerForms := by
  refine ⟨fun s l => rfl, fun s l h i hh => ⟨fun hc => ?budget, fun ha hi => ?_⟩⟩
  case budget =>
    show execHandlerBudgetExpire l s = _
    simp only [execHandlerBudgetExpire, hh, hc, if_true]
  have hs : Serves s l h i := ⟨ha, hh, hi⟩
  refine ⟨fun rd rs1 rs2 rs3 w => ⟨fun ht => ⟨?_, ?_⟩, fun ht => ?_, fun ht => ?_, fun hn => ?_⟩, fun rd rs1 rs2 rs3 x ht hl hr => ?casRefused,
    fun rs1 rs2 x ht hl hr => ?stRefused, fun rd rs1 x ht hl hm hd => ?ldBeyond, fun rd rs1 x ht hl hm => ?ldHbm,
    fun rs1 rs2 x ht hl hr hm => ?stHbm, fun rd rs1 rs2 rs3 x ht hl hr hm => ?casHbm, fun rs1 rs2 h1 h32 => ?pf,
    fun rs1 x ht hm => ?wake, fun rd rs1 => ⟨fun hk hr => ?reply, fun hk => ?noReply⟩,
    fun rd rs1 => ⟨fun f hf => ?tlbMissing, fun e u hf => ?tlbFound⟩, fun rd => ?left, ?done,
    fun rd e rest a hq he hae hr hu => ?evtNext, fun rd hn => ?evtNone⟩
  · exact hs.onHandler_eq (asLdForm_of_breach ht)
  · exact hs.onHandler_eq (asWakeForm_of_breach ht)
  · exact hs.onHandler_eq (asStForm_of_breach ht)
  · exact hs.onHandler_eq (asCasForm_of_breach ht)
  · exact hs.onHandler_eq (asPfForm_of_bad_count hn)
  case casRefused =>
    obtain ⟨r, hr⟩ := Option.ne_none_iff_exists'.mp hr
    rw [hr]
    exact hs.onHandler_eq (asCasForm_of_refused ht hl hr)
  case stRefused =>
    obtain ⟨r, hr⟩ := Option.ne_none_iff_exists'.mp hr
    rw [hr]
    exact hs.onHandler_eq (asStForm_of_refused ht hl hr)
  case ldBeyond =>
    exact ⟨fun v bs bad hv hr hb => hs.onHandler_eq (asLdForm_of_answered ht hl hm hd hv hr hb),
      fun hv => hs.onHandler_eq (asLdForm_of_unasked ht hl hm hd hv)⟩
  case ldHbm =>
    exact ⟨fun hc => hs.onHandler_eq (asLdForm_of_coherent ht hl hm hc),
      fun hc => hs.onHandler_eq (asLdForm_of_managed ht hl hm hc)⟩
  case stHbm => exact hs.onHandler_eq (asStForm_of_hbm ht hl hr hm)
  case casHbm => exact hs.onHandler_eq (asCasForm_of_hbm ht hl hr hm)
  case pf =>
    refine ⟨fun y hf => hs.onHandler_eq (asPfForm_of_breach h1 h32 hf), fun hp hn => ?_, fun hp hn => ?_⟩
    · exact hs.onHandler_eq ((asPfForm_of_open h1 h32 hp).trans (if_pos hn))
    · exact hs.onHandler_eq ((asPfForm_of_open h1 h32 hp).trans (if_neg (Nat.not_lt.mpr hn)))
  case wake => exact hs.onHandler_eq (asWakeForm_of_hbm ht hm)
  case reply => exact hs.onHandler_eq (asMsgForm_of_reply hk hr)
  case noReply => exact hs.onHandler_eq (asMsgForm_of_none hk)
  case tlbMissing => exact hs.onHandler_eq (asTlbForm_of_missing hf)
  case tlbFound => exact hs.onHandler_eq (asTlbForm_of_found hf)
  case left => exact hs.onHandler_eq rfl
  case done => exact hs.onHandler_eq rfl
  case evtNext => exact hs.onHandler_eq (asEvtForm_of_next hi hq he hae hr hu)
  case evtNone => exact hs.onHandler_eq (asEvtForm_of_none hi hn)

end Sys2Proof.Machine
end

section
/-! No step of a module with power stops (O7): every event goes on, a split's turn finds the split that it runs for, and a
handler's form finds its handler. -/

namespace Sys2Proof.Machine

/-- What a turn comes to goes on, and is neither a fault nor a refusal. -/
def Goes (o : Host.Outcome State Fault Refusal) : Prop := ∃ t, o = .next t

theorem goes_next (s : State) : Goes (.next s) := ⟨s, rfl⟩

/-! Events: every branch of each one's meaning goes on. -/

theorem goes_exec_of_event {i : Instr} (h : encode i = none) (s : State) : Goes (exec i s) := by
  -- an instruction with an encoding contradicts `h`
  cases i <;> cases h
  all_goals
    dsimp only [exec, execDrainEnd, execAmsgReply, execHpubExchange, execHoistWatchdogExpire, execMmulRowCommit,
      execEngineInsnDone, execHandlerBudgetExpire, execClaimCrews, execPlaceCrew, execReservationStart,
      execBinTimerExpire, execBinStallTimer, execSwapOut, execSwapIn, execMonitorRecheck, execWaitcReply,
      execSaveDelayTimer, execCrewWatchdogExpire, execCompletionRecord, execNoOperation, execSeal, execUnseal,
      execPreempt, execResume, execInvalidateTranslations, execInstallAssayers, execRemoveAssayers, execDebugResume,
      execJoinModuleGang, withCommand, execPowerEvaluation, execCollectiveComplete, execMacroSelfTest, execLoadReturn,
      execPageWalkDone, execRemoteErrorResponse, execSupervisorDone, execHostAccess, execPeerRequest,
      execIoDeviceWrite, execCxlCompletionTimeout, execRouterFail, execUcieLinkDown, execAditResend, execAditPortDown,
      execIoCoreFail, execStockpileScrub, execWriteAcknowledgement, execManagedCopyEviction, execLineFill,
      execEngineWatchdogExpire, execApplicationCoreAccess]
    repeat' split
  all_goals exact goes_next _

/-! A split's turn: what it fetches runs for the split that stands there. -/

/-- A crew's instruction or a header goes on where the acting split stands. -/
theorem goes_exec_of_split {i : Instr} {s : State} {id entry : Nat} (ha : s.actor = .split id entry)
    (hs : ((s.crew id).bind (fun c => c.split entry)).isSome = true)
    (hi : (∃ hd, i = .clauseHeader hd) ∨ ∃ slot f, i.word = some (slot, f) ∧ (rowOf slot).isSome = true) :
    Goes (exec i s) := by
  obtain ⟨x, hx⟩ := Option.isSome_iff_exists.mp hs
  obtain ⟨c, hc, hcx⟩ := Option.bind_eq_some_iff.mp hx
  obtain ⟨hd, rfl⟩ | ⟨slot, f, hw, hr⟩ := hi
  · exact ⟨passHeader hd id entry c x s, by simp only [exec, execClauseHeader, ha, hc, hcx]⟩
  · obtain ⟨r, hr⟩ := Option.isSome_iff_exists.mp hr
    obtain ⟨body, hbody⟩ := exec_eq_issue (by rw [hw]; rfl : i.word.isSome = true) s
    unfold Goes
    simp only [hbody, issue, envOf, ha, hw, hc, hr, hcx]
    exact goes_next _

theorem decodeHeaderWord_eq_ok {w : Nat} {i : Instr} (h : decodeHeaderWord w = .ok i) : ∃ hd, i = .clauseHeader hd := by
  unfold decodeHeaderWord at h
  dsimp only at h
  split at h
  · cases h
  · split at h
    · cases h
      exact ⟨_, rfl⟩
    · cases h

/-- What bytes decode to that begin no header has the slot of a row. -/
theorem word_of_decodeBytes {bs : List Byte} {i : Instr} {n : Nat} (hw : leNat bs % 4 ≠ 0)
    (h : decodeBytes bs = .ok (i, n)) : ∃ slot f, i.word = some (slot, f) ∧ (rowOf slot).isSome = true := by
  have hmod : ∀ m, 0 < m → leNat (bs.take m) % 4 ≠ 0 := fun m hm => by rwa [leNat_take_mod bs hm]
  unfold decodeBytes at h
  dsimp only at h
  split at h
  · cases h
  · split at h
    · next j hj =>
      cases h
      have hunits := two_le_unitsOf (leNat (bs.take 1) % 4)
      obtain ⟨⟨r, hr, rfl⟩, -, -⟩ := (decodeCrewWord_eq_ok_iff (hmod _ (by omega))).1 hj
      exact ⟨_, _, word_make hr _, by rw [hr]; rfl⟩
    · cases h

/-- What a split fetches is a header or an instruction with the slot of a row. -/
theorem fetchAt_eq_instr {s : State} {c : Crew} {pc p : Nat} {cl k : Option Clause} {i : Instr}
    (h : fetchAt s c pc cl = .instr i p k) :
    (∃ hd, i = .clauseHeader hd) ∨ ∃ slot f, i.word = some (slot, f) ∧ (rowOf slot).isSome = true := by
  unfold fetchAt at h
  dsimp only at h
  split at h
  · cases h
  · split at h
    · cases h
    · split at h
      · cases h
      · split at h
        · cases h
        · split at h
          · split at h
            · cases h
            · split at h
              · cases h
              · next hd =>
                cases h
                exact .inl (decodeHeaderWord_eq_ok hd)
          · split at h
            · cases h
            · next hw =>
              split at h
              · cases h
              · split at h
                · next hd =>
                  cases h
                  exact .inr (word_of_decodeBytes (by simpa using hw) hd)
                · cases h

theorem fetchSplit_eq_instr {s : State} {c : Crew} {x : Split} {p : Nat} {k : Option Clause} {i : Instr}
    (h : fetchSplit s c x = .instr i p k) :
    (∃ hd, i = .clauseHeader hd) ∨ ∃ slot f, i.word = some (slot, f) ∧ (rowOf slot).isSome = true := by
  unfold fetchSplit at h
  dsimp only at h
  split at h
  · split at h
    · exact fetchAt_eq_instr h
    · split at h
      · cases h
      · exact fetchAt_eq_instr h
  · split at h
    · exact fetchAt_eq_instr h
    · split at h
      · exact fetchAt_eq_instr h
      · split at h
        · exact fetchAt_eq_instr h
        · cases h

theorem split_modSplit_isSome (c : Crew) (entry : Nat) (f : Split → Split) (e : Nat) :
    ((c.modSplit entry f).split e).isSome = (c.split e).isSome := by
  unfold Crew.modSplit
  split
  · next x hx => exact tabGet_tabPut_isSome (by rw [show tabGet c.splits entry = some x from hx]; rfl) _ e
  · rfl

/-- A split's place at issue keeps the splits that stand. -/
theorem standing_atInstr (s : State) (id entry pc : Nat) (k : Option Clause) :
    (atInstr s id entry pc k).standing = s.standing := by
  have hactor : ∀ (u : State) a, { u with actor := a }.standing = u.standing := fun _ _ => rfl
  rw [atInstr, hactor]
  exact standing_modCrew s fun c e => split_modSplit_isSome c _ _ e

theorem goes_splitTurn (s : State) (id entry : Nat) : Goes (splitTurn s id entry) := by
  unfold splitTurn
  split
  · exact goes_next s
  · next c hc =>
    split
    · exact goes_next s
    · next x hx =>
      split
      · exact goes_next _
      · split
        · exact goes_next s
        · split
          · exact goes_next _
          · split
            · next i pc k hf =>
              split
              · exact goes_next _
              · have hsome : ((s.crew id).bind (fun c => c.split entry)).isSome = true := by simp [hc, hx]
                have hstand : (atInstr (noteFetch s id entry c pc (fetchLen i)) id entry pc k).standing = s.standing := by
                  rw [standing_atInstr, standing_noteFetch]
                obtain ⟨t, ht⟩ := goes_exec_of_split (i := i) rfl
                  ((split_isSome_of_standing hstand id entry).trans hsome) (fetchSplit_eq_instr hf)
                rw [ht]
                exact goes_next _
            · exact goes_next _

/-! A handler's turn: the form that it fetches runs for the handler on its slice. -/

/-- A custom form goes on where a handler with its installation runs on the acting slice. -/
theorem goes_exec_of_handler {i : Instr} {s : State} {l : Nat} {x : AssayerFields} (hi : AssayerForm i x)
    {h : Handler} (ha : s.actor = .handler l) (hh : (s.slice l).handler = some h)
    (hs : (installOf s l h.ctx).isSome = true) : Goes (exec i s) := by
  obtain ⟨j, hj⟩ := Option.isSome_iff_exists.mp hs
  have hform : ∀ body, Goes (onHandler body s) := fun body =>
    ⟨_, Serves.onHandler_eq ⟨ha, hh, hj⟩ rfl⟩
  cases hi <;> exact hform _

theorem standing_codeHalf {s t : State} {l va w : Nat} {h : Handler} (hc : codeHalf s l h va = .got w t) :
    t.standing = s.standing := by
  unfold codeHalf at hc
  split at hc
  · cases hc
  · dsimp only at hc
    split at hc
    · cases hc
    · split at hc
      · split at hc
        · cases hc
        · split at hc
          · cases hc
          · split at hc
            · cases hc
              exact standing_noteXlate _ _ _
            · cases hc
        · cases hc
      · cases hc
        rw [standing_countPoisonRead, standing_detect]
        split <;> simp

theorem standing_handlerCode {s t : State} {l w : Nat} {h : Handler} {i : Install} (hc : handlerCode s l h i = .got w t) :
    t.standing = s.standing := by
  unfold handlerCode at hc
  dsimp only at hc
  split at hc
  · cases hc
  · split at hc
    · next lo u hlo =>
      split at hc
      · cases hc
        exact standing_codeHalf hlo
      · split at hc
        · cases hc
        · split at hc
          · next hi v hhi =>
            cases hc
            exact (standing_codeHalf hhi).trans (standing_codeHalf hlo)
          · next hno => exact absurd hc (hno _ _)
    · next hno => exact absurd hc (hno _ _)

/-- A handler that is charged still runs, and every context keeps its installation. -/
theorem chargeHandler_runs (s : State) (l : Nat) (h : Handler) (regs : Tab Word) (cost : Nat) :
    (∃ g, ((chargeHandler s l h regs cost).slice l).handler = some g ∧ g.ctx = h.ctx) ∧
    ∀ ctx, (installOf (chargeHandler s l h regs cost) l ctx).isSome = (installOf s l ctx).isSome := by
  have hins : ∀ (f : Install → Install) ctx, (installOf (modInstall s l h.ctx f) l ctx).isSome = (installOf s l ctx).isSome := by
    intro f ctx
    cases hi : installOf s l h.ctx with
    | none => simp only [modInstall, hi]
    | some i =>
      simp only [modInstall, hi]
      simp only [installOf, modSlice_eq, slice_setSlice]
      exact tabGet_tabPut_isSome (by rw [show tabGet (s.slice l).installs h.ctx = some i from hi]; rfl) _ ctx
  constructor
  · exact ⟨{ h with regs := regs, cycles := h.cycles + cost, ahead := h.ahead + cost },
      by simp only [chargeHandler, modSlice_eq, slice_setSlice], rfl⟩
  · intro ctx
    rw [← hins (fun i => { i with used := i.used + cost }) ctx]
    simp only [chargeHandler, installOf, modSlice_eq, slice_setSlice]

theorem handlerTurn_eq_run {s t : State} {l stall : Nat} {i : Instr} (h : handlerTurn s l stall = .run i t) :
    (∃ x, AssayerForm i x) ∧ ∃ g, (t.slice l).handler = some g ∧ (installOf t l g.ctx).isSome = true := by
  have hcharge : ∀ (u : State) (h g : Handler) (regs : Tab Word) (cost : Nat), u.standing = s.standing → g.ctx = h.ctx →
      (installOf s l h.ctx).isSome = true → ∃ k, ((chargeHandler u l g regs cost).slice l).handler = some k ∧
        (installOf (chargeHandler u l g regs cost) l k.ctx).isSome = true := by
    intro u h g regs cost hu hg hi
    obtain ⟨⟨k, hk, hctx⟩, hins⟩ := chargeHandler_runs u l g regs cost
    exact ⟨k, hk, by rw [hins, hctx, hg, installOf_isSome_of_standing hu, hi]⟩
  unfold handlerTurn at h
  split at h
  · cases h
  · next hd hhd =>
    split at h
    · cases h
    · next j hj =>
      extract_lets pause at h
      split at h
      · cases h
      · split at h
        · cases h
        · cases h
        · cases h
        · next w u hu =>
          extract_lets r word late g v at h
          split at h
          · cases h
          · split at h
            · cases h
            · split at h
              · split at h
                · next c hc =>
                  obtain ⟨rfl, ht⟩ := HStep.run.inj h
                  rw [← ht]
                  exact ⟨⟨_, (assayerForm_of_decodeAssayerWord hc).2.2⟩,
                    hcharge _ hd _ _ _ (standing_handlerCode hu) rfl (by rw [hj]; rfl)⟩
                · cases h
              · cases h

theorem goes_handlerStep (s : State) (l stall : Nat) : Goes (handlerStep s l stall) := by
  unfold handlerStep
  split
  · exact goes_next _
  · exact goes_next _
  · next i t h =>
    obtain ⟨⟨x, hx⟩, g, hg, hs⟩ := handlerTurn_eq_run h
    exact goes_exec_of_handler hx rfl hg hs

/-! Turns and steps. -/

theorem goes_turnOf (s : State) (turn : Turn) : Goes (turnOf s turn) := by
  unfold turnOf
  split
  · exact goes_splitTurn s _ _
  · exact goes_handlerStep s _ _
  · exact goes_next _
  · exact goes_next _
  · next i =>
    split
    · exact goes_next _
    · next hi => exact goes_exec_of_event (by simpa using hi) _
  · next id entry _ =>
    obtain ⟨t, ht⟩ := goes_splitTurn s id entry
    rw [ht]
    exact goes_next _
  · next id entry =>
    obtain ⟨t, ht⟩ := goes_splitTurn s id entry
    rw [ht]
    exact goes_next _
  · next core =>
    obtain ⟨t, ht⟩ := goes_exec_of_event (i := .mmulRowCommit core) rfl { s with actor := .none }
    rw [ht]
    exact goes_next _
  · exact goes_next _

/-- Settles O7: an empty agenda is filled, and every turn goes on. -/
theorem poweredStepsGoOn : Obligations.PoweredStepsGoOn := by
  intro s hp
  show Goes (runTurn s)
  unfold runTurn
  split
  · rw [if_pos hp]
    exact goes_next _
  · next turn rest _ =>
    obtain ⟨t, ht⟩ := goes_turnOf { s with agenda := rest } turn
    dsimp only
    rw [if_pos hp, ht]
    exact goes_next _

end Sys2Proof.Machine
end

section
/-! What keeps every memory in its canonical form (O8): the relation that each function of the model is shown to stand in,
and the rules for the named updates of a state. -/

namespace Sys2Proof.Machine

/-- The memories of the second state are canonical where those of the first are. -/
def Keeps (s t : State) : Prop := s.memOk → t.memOk

@[refl] theorem Keeps.refl (s : State) : Keeps s s := fun h => h

@[trans] theorem Keeps.trans {s t u : State} (h : Keeps s t) (k : Keeps t u) : Keeps s u := fun hs => k (h hs)

theorem mem_of_tabGet {α : Type} {t : Tab α} {k : Nat} {a : α} (h : tabGet t k = some a) : (k, a) ∈ t := by
  induction t with
  | nil => cases h
  | cons e r ih =>
    obtain ⟨i, b⟩ := e
    by_cases hi : i = k
    · subst hi
      obtain rfl : b = a := by simpa [tabGet] using h
      exact List.mem_cons_self
    · exact List.mem_cons_of_mem _ (ih (by simpa [tabGet, hi] using h))

theorem mem_tabPut {α : Type} {t : Tab α} {k : Nat} {a : α} {e : Nat × α} (h : e ∈ tabPut t k a) : e = (k, a) ∨ e ∈ t := by
  induction t with
  | nil => exact .inl (by simpa [tabPut] using h)
  | cons f r ih =>
    obtain ⟨i, b⟩ := f
    unfold tabPut at h
    split at h
    · exact List.mem_cons.mp h
    · split at h
      · exact (List.mem_cons.mp h).imp_right (List.mem_cons_of_mem _)
      · rcases List.mem_cons.mp h with h | h
        · exact .inr (h ▸ List.mem_cons_self)
        · exact (ih h).imp_right (List.mem_cons_of_mem _)

theorem mem_of_mem_tabDel {α : Type} {t : Tab α} {k : Nat} {e : Nat × α} (h : e ∈ tabDel t k) : e ∈ t := by
  induction t with
  | nil => exact h
  | cons f r ih =>
    obtain ⟨i, b⟩ := f
    unfold tabDel at h
    split at h
    · exact List.mem_cons_of_mem _ h
    · rcases List.mem_cons.mp h with h | h
      · exact h ▸ List.mem_cons_self
      · exact List.mem_cons_of_mem _ (ih h)

/-! The parts of a state that hold bytes. -/

/-- The stashes of a table of cores are canonical. -/
def StashesOk (cs : Tab Core) : Prop := ∀ c ∈ cs, Memory.wf c.2.stash = true

/-- The data memories of a slice's installations are canonical. -/
def Slice.dataOk (x : Slice) : Prop := ∀ i ∈ x.installs, Memory.wf i.2.data = true

theorem stash_wf {s : State} (h : s.memOk) (c : Nat) : Memory.wf (s.core c).stash = true := by
  obtain ⟨-, hcores, -⟩ := h
  unfold State.core
  cases hc : tabGet s.cores c with
  | none => rfl
  | some x => exact hcores _ (mem_of_tabGet hc)

theorem slice_dataOk {s : State} (h : s.memOk) (l : Nat) : (s.slice l).dataOk := by
  obtain ⟨-, -, hslices⟩ := h
  unfold State.slice
  cases hl : tabGet s.slices l with
  | none => exact fun i hi => nomatch hi
  | some x => exact hslices _ (mem_of_tabGet hl)

theorem dataOk_tabPut {x : Slice} (h : x.dataOk) (ctx : Nat) {i : Install} (hi : Memory.wf i.data = true) :
    ∀ j ∈ tabPut x.installs ctx i, Memory.wf j.2.data = true := by
  intro j hj
  rcases mem_tabPut hj with rfl | hj
  · exact hi
  · exact h j hj

theorem data_wf {s : State} (h : s.memOk) {l ctx : Nat} {i : Install} (hi : installOf s l ctx = some i) :
    Memory.wf i.data = true := slice_dataOk h l _ (mem_of_tabGet hi)

/-! The rules of the named updates. -/

section
variable {s t : State} (h : Keeps s t)
include h

/-- An update of any fields but those that hold bytes. -/
theorem keeps_update {a b c d e f g i j k l m n o p q r u v w x y z a1 b1 c1 d1 e1 f1 g1 i1 j1 k1 l1 m1 n1 o1 p1 q1 r1 u1 v1
    w1 x1 y1 z1 a2 b2 c2 d2 e2 f2} :
    Keeps s ⟨a, t.mem, b, c, d, e, f, g, i, j, k, l, m, n, o, p, q, r, t.cores, t.slices, u, v, w, x, y, z, a1, b1, c1, d1,
      e1, f1, g1, i1, j1, k1, l1, m1, n1, o1, p1, q1, r1, u1, v1, w1, x1, y1, z1, a2, b2, c2, d2, e2, f2⟩ := h

/-- An update of memory, among other fields that hold no bytes. -/
theorem keeps_setMem {mem : Mem} (hm : Memory.wf t.mem = true → Memory.wf mem = true)
    {a b c d e f g i j k l m n o p q r u v w x y z a1 b1 c1 d1 e1 f1 g1 i1 j1 k1 l1 m1 n1 o1 p1 q1 r1 u1 v1
    w1 x1 y1 z1 a2 b2 c2 d2 e2 f2} :
    Keeps s ⟨a, mem, b, c, d, e, f, g, i, j, k, l, m, n, o, p, q, r, t.cores, t.slices, u, v, w, x, y, z, a1, b1, c1, d1,
      e1, f1, g1, i1, j1, k1, l1, m1, n1, o1, p1, q1, r1, u1, v1, w1, x1, y1, z1, a2, b2, c2, d2, e2, f2⟩ := by
  intro hs
  obtain ⟨hmem, hcores, hslices⟩ := h hs
  exact ⟨hm hmem, hcores, hslices⟩

/-- An update of the table of cores, among other fields that hold no bytes. -/
theorem keeps_setCores_of {cores : Tab Core} (hc : StashesOk t.cores → StashesOk cores)
    {a b c d e f g i j k l m n o p q r u v w x y z a1 b1 c1 d1 e1 f1 g1 i1 j1 k1 l1 m1 n1 o1 p1 q1 r1 u1 v1
    w1 x1 y1 z1 a2 b2 c2 d2 e2 f2} :
    Keeps s ⟨a, t.mem, b, c, d, e, f, g, i, j, k, l, m, n, o, p, q, r, cores, t.slices, u, v, w, x, y, z, a1, b1, c1, d1,
      e1, f1, g1, i1, j1, k1, l1, m1, n1, o1, p1, q1, r1, u1, v1, w1, x1, y1, z1, a2, b2, c2, d2, e2, f2⟩ := by
  intro hs
  obtain ⟨hmem, hcores, hslices⟩ := h hs
  exact ⟨hmem, hc hcores, hslices⟩

/-- An update of every core that leaves its stash, among other fields that hold no bytes. -/
theorem keeps_mapCores {fc : Nat × Core → Nat × Core} (hf : ∀ x, (fc x).2.stash = x.2.stash := by intro _; rfl)
    {a b c d e f g i j k l m n o p q r u v w x y z a1 b1 c1 d1 e1 f1 g1 i1 j1 k1 l1 m1 n1 o1 p1 q1 r1 u1 v1
    w1 x1 y1 z1 a2 b2 c2 d2 e2 f2} :
    Keeps s ⟨a, t.mem, b, c, d, e, f, g, i, j, k, l, m, n, o, p, q, r, t.cores.map fc, t.slices, u, v, w, x, y, z, a1, b1,
      c1, d1, e1, f1, g1, i1, j1, k1, l1, m1, n1, o1, p1, q1, r1, u1, v1, w1, x1, y1, z1, a2, b2, c2, d2, e2, f2⟩ := by
  refine keeps_setCores_of h fun hc x hx => ?_
  obtain ⟨y, hy, rfl⟩ := List.mem_map.mp hx
  rw [hf]
  exact hc y hy

/-- An update of every slice that leaves its installations, among other fields that hold no bytes. -/
theorem keeps_mapSlices {fs : Nat × Slice → Nat × Slice} (hf : ∀ x, (fs x).2.installs = x.2.installs := by intro _; rfl)
    {a b c d e f g i j k l m n o p q r u v w x y z a1 b1 c1 d1 e1 f1 g1 i1 j1 k1 l1 m1 n1 o1 p1 q1 r1 u1 v1
    w1 x1 y1 z1 a2 b2 c2 d2 e2 f2} :
    Keeps s ⟨a, t.mem, b, c, d, e, f, g, i, j, k, l, m, n, o, p, q, r, t.cores, t.slices.map fs, u, v, w, x, y, z, a1, b1,
      c1, d1, e1, f1, g1, i1, j1, k1, l1, m1, n1, o1, p1, q1, r1, u1, v1, w1, x1, y1, z1, a2, b2, c2, d2, e2, f2⟩ := by
  intro hs
  obtain ⟨hmem, hcores, hslices⟩ := h hs
  refine ⟨hmem, hcores, fun x hx => ?_⟩
  obtain ⟨y, hy, rfl⟩ := List.mem_map.mp hx
  intro i hi
  rw [hf] at hi
  exact hslices y hy i hi

theorem keeps_ite {u : State} {p : Prop} {_ : Decidable p} (k : Keeps s u) : Keeps s (if p then t else u) := by
  split
  · exact h
  · exact k

theorem keeps_foldl {α : Type} {f : State → α → State} (hf : ∀ u a, Keeps u (f u a)) {l : List α} :
    Keeps s (l.foldl f t) := by
  induction l generalizing t with
  | nil => exact h
  | cons a r ih => exact ih (h.trans (hf t a))

omit h in
/-- A fold over something that holds a state. -/
theorem keeps_foldl_of {α β : Type} {f : β → State} {g : β → α → β} {b : β} {u : State} (hb : Keeps u (f b))
    (hf : ∀ b a, Keeps (f b) (f (g b a))) {l : List α} : Keeps u (f (l.foldl g b)) := by
  induction l generalizing b with
  | nil => exact hb
  | cons a r ih => exact ih (hb.trans (hf b a))

theorem keeps_setCrew {id : Nat} {c : Crew} : Keeps s (t.setCrew id c) := h

theorem keeps_modCrew {id : Nat} {f : Crew → Crew} : Keeps s (t.modCrew id f) := by
  unfold State.modCrew
  split <;> exact h

theorem keeps_setCtx {ctx : Nat} {x : Ctx} : Keeps s (t.setCtx ctx x) := h

theorem keeps_modCtx {ctx : Nat} {f : Ctx → Ctx} : Keeps s (t.modCtx ctx f) := h

theorem keeps_setRing {ring : Nat} {x : Ring} : Keeps s (t.setRing ring x) := h

theorem keeps_modRing {ring : Nat} {f : Ring → Ring} : Keeps s (t.modRing ring f) := h

theorem keeps_modLaunch {l : Nat} {f : Launch → Launch} : Keeps s (t.modLaunch l f) := by
  unfold State.modLaunch
  split <;> exact h

theorem keeps_draw : Keeps s t.draw.2 := h

theorem keeps_fresh : Keeps s t.fresh.2 := h

theorem keeps_setCore_of {c : Nat} {x : Core} (hx : Memory.wf (t.core c).stash = true → Memory.wf x.stash = true) :
    Keeps s (t.setCore c x) := by
  intro hs
  have ht := h hs
  have ⟨hmem, hcores, hslices⟩ := ht
  refine ⟨hmem, fun e he => ?_, hslices⟩
  rcases mem_tabPut he with rfl | he
  · exact hx (stash_wf ht c)
  · exact hcores e he

theorem keeps_setCore {c : Nat} {x : Core} (hx : x.stash = (t.core c).stash := by rfl) : Keeps s (t.setCore c x) :=
  keeps_setCore_of h fun hs => hx ▸ hs

theorem keeps_modCore_of {c : Nat} {f : Core → Core} (hf : ∀ x, Memory.wf x.stash = true → Memory.wf (f x).stash = true) :
    Keeps s (t.modCore c f) := keeps_setCore_of h (hf _)

theorem keeps_modCore {c : Nat} {f : Core → Core} (hf : ∀ x, (f x).stash = x.stash := by intro _; rfl) :
    Keeps s (t.modCore c f) := keeps_setCore h (hf _)

theorem keeps_setSlice_of {l : Nat} {x : Slice} (hx : (t.slice l).dataOk → x.dataOk) : Keeps s (t.setSlice l x) := by
  intro hs
  have ht := h hs
  have ⟨hmem, hcores, hslices⟩ := ht
  refine ⟨hmem, hcores, fun e he => ?_⟩
  rcases mem_tabPut he with rfl | he
  · exact hx (slice_dataOk ht l)
  · exact hslices e he

theorem keeps_setSlice {l : Nat} {x : Slice} (hx : x.installs = (t.slice l).installs := by rfl) :
    Keeps s (t.setSlice l x) :=
  keeps_setSlice_of h fun hs => by unfold Slice.dataOk; rw [hx]; exact hs

theorem keeps_modSlice_of {l : Nat} {f : Slice → Slice} (hf : ∀ x : Slice, x.dataOk → (f x).dataOk) :
    Keeps s (t.modSlice l f) := keeps_setSlice_of h (hf _)

theorem keeps_modSlice {l : Nat} {f : Slice → Slice} (hf : ∀ x, (f x).installs = x.installs := by intro _; rfl) :
    Keeps s (t.modSlice l f) := keeps_setSlice h (hf _)

theorem keeps_modInstall_of {l ctx : Nat} {f : Install → Install}
    (hf : ∀ i : Install, Memory.wf i.data = true → Memory.wf (f i).data = true) : Keeps s (modInstall t l ctx f) := by
  intro hs
  have ht := h hs
  unfold modInstall
  split
  · exact ht
  · next i hi =>
    exact keeps_setSlice_of (.refl t) (fun hx => dataOk_tabPut hx _ (hf i (data_wf ht hi))) ht

theorem keeps_modInstall {l ctx : Nat} {f : Install → Install} (hf : ∀ i, (f i).data = i.data := by intro _; rfl) :
    Keeps s (modInstall t l ctx f) := keeps_modInstall_of h fun i hi => by rw [hf]; exact hi

end

end Sys2Proof.Machine
end

section
/-! The functions that read and write the memories of the module keep them canonical (O8). -/

-- One theorem after the other: side by side, the many short ones would ask for more threads than memory allows.
set_option Elab.async false

namespace Sys2Proof.Machine

/-! The relation for each shape of result that holds a state. -/

/-- The state of a result of an instruction. -/
def Res.st : Res → State
  | .done u | .jump u | .trap u .. | .late u .. | .wait u .. => u

/-- What an optional result holds keeps the memories canonical. -/
def KeepsOpt {α : Type} (f : α → State) (s : State) (o : Option α) : Prop := ∀ a, o = some a → Keeps s (f a)

/-- What a result that may fail without an effect holds keeps the memories canonical. -/
def KeepsOk {ε β : Type} (f : β → State) (s : State) (r : Except ε β) : Prop := ∀ b, r = .ok b → Keeps s (f b)

/-- What a row of the hoist leaves, done or stopped, keeps the memories canonical. -/
def KeepsRow {β : Type} (f : β → State) (s : State) (r : Except RowStop β) : Prop :=
  (∀ b, r = .ok b → Keeps s (f b)) ∧ ∀ e, r = .error e → Keeps s e.part.st

/-- The state that a form of a handler's leaves keeps the memories canonical. -/
def KeepsH (s : State) (r : HRes) : Prop :=
  match r with
  | .go u .. | .stall u .. | .refused u .. | .ends u => Keeps s u
  | .bad _ => True

/-- The state that a fetch of a handler's leaves keeps the memories canonical. -/
def KeepsCode (s : State) (r : HCode) : Prop :=
  match r with
  | .got _ u | .refused u .. | .away u _ => Keeps s u
  | .bad _ => True

/-- The state that the turn of a handler starts from keeps the memories canonical. -/
def KeepsStep (s : State) (r : HStep) : Prop :=
  match r with
  | .run _ u | .ends u => Keeps s u
  | .idle => True

/-- The state that an outcome goes on with keeps the memories canonical. -/
def KeepsO {φ ρ : Type} (s : State) (o : Host.Outcome State φ ρ) : Prop := ∀ u, o = .next u → Keeps s u

section
variable {s u : State} (h : Keeps s u)
include h

theorem keeps_done : Keeps s (Res.done u).st := h
theorem keeps_jump : Keeps s (Res.jump u).st := h
theorem keeps_trap {e : Exc} {lane : Nat} {va pa : Option Nat} : Keeps s (Res.trap u e lane va pa).st := h
theorem keeps_late {lane : Nat} {va pa : Option Nat} : Keeps s (Res.late u lane va pa).st := h
theorem keeps_wait {x : SplitState} : Keeps s (Res.wait u x).st := h
theorem keeps_exc {e : Exc} : Keeps s (Res.exc u e).st := h
theorem keepsH_go {r : Tab Word} {n : Nat} : KeepsH s (.go u r n) := h
theorem keepsH_stall {l : List Away} : KeepsH s (.stall u l) := h
theorem keepsH_refused {va pa r : Nat} : KeepsH s (.refused u va pa r) := h
theorem keepsH_ends : KeepsH s (.ends u) := h
theorem keepsCode_got {w : Nat} : KeepsCode s (.got w u) := h
theorem keepsCode_refused {va pa r : Nat} : KeepsCode s (.refused u va pa r) := h
theorem keepsCode_away {l : List Away} : KeepsCode s (.away u l) := h
theorem keepsStep_run {i : Instr} : KeepsStep s (.run i u) := h
theorem keepsStep_ends : KeepsStep s (.ends u) := h

theorem keepsO_next {φ ρ : Type} : KeepsO (φ := φ) (ρ := ρ) s (.next u) := by
  rintro v ⟨⟩
  exact h

end

theorem keepsH_bad {s : State} {f : AsFail} : KeepsH s (.bad f) := trivial
theorem keepsCode_bad {s : State} {f : AsFail} : KeepsCode s (.bad f) := trivial
theorem keepsStep_idle {s : State} : KeepsStep s .idle := trivial

theorem keepsO_refused {s : State} {φ ρ : Type} {r : ρ} : KeepsO (φ := φ) s (.refused r) := fun _ e => nomatch e
theorem keepsO_fault {s : State} {φ ρ : Type} {r : φ} : KeepsO (ρ := ρ) s (.fault r) := fun _ e => nomatch e

theorem Res.keeps_of_trap {s u : State} {r : Res} (h : Keeps s r.st) {x : Exc} {l : Nat} {va pa : Option Nat}
    (e : r = .trap u x l va pa) : Keeps s u := by
  subst e
  exact h

section
variable {s u : State} {r : HCode} (h : KeepsCode s r)
include h

theorem HCode.keeps_of_got {w : Nat} (e : r = .got w u) : Keeps s u := by
  subst e
  exact h

theorem HCode.keeps_of_refused {va pa n : Nat} (e : r = .refused u va pa n) : Keeps s u := by
  subst e
  exact h

theorem HCode.keeps_of_away {l : List Away} (e : r = .away u l) : Keeps s u := by
  subst e
  exact h

end

theorem HStep.keeps_of_run {s u : State} {r : HStep} {i : Instr} (h : KeepsStep s r) (e : r = .run i u) :
    Keeps s u := by
  subst e
  exact h

theorem HStep.keeps_of_ends {s u : State} {r : HStep} (h : KeepsStep s r) (e : r = .ends u) : Keeps s u := by
  subst e
  exact h

theorem keepsOpt_some {α : Type} {f : α → State} {s : State} {a : α} (h : Keeps s (f a)) : KeepsOpt f s (some a) := by
  rintro b ⟨⟩
  exact h

theorem keepsOpt_none {α : Type} {f : α → State} {s : State} : KeepsOpt f s none := fun _ e => nomatch e

theorem keepsOk_ok {ε β : Type} {f : β → State} {s : State} {b : β} (h : Keeps s (f b)) :
    KeepsOk (ε := ε) f s (.ok b) := by
  rintro c ⟨⟩
  exact h

theorem keepsOk_error {ε β : Type} {f : β → State} {s : State} {e : ε} : KeepsOk f s (.error e) := fun _ e => nomatch e

theorem keepsRow_ok {β : Type} {f : β → State} {s : State} {b : β} (h : Keeps s (f b)) : KeepsRow f s (.ok b) :=
  ⟨keepsOk_ok h, (fun _ e => nomatch e)⟩

theorem keepsRow_error {β : Type} {f : β → State} {s : State} {r : RowStop} (h : Keeps s r.part.st) :
    KeepsRow f s (.error r) := by
  refine ⟨(fun _ e => nomatch e), ?_⟩
  rintro c ⟨⟩
  exact h

section
variable {s t : State} (hk : Keeps s t)
include hk

theorem State.keeps_count {d cls n : Nat} : Keeps s (t.count d cls n) := keeps_ite hk (keeps_update hk)

theorem keeps_poisonRange {pa n : Nat} : Keeps s (poisonRange t pa n) := keeps_ite hk (keeps_update hk)

theorem keeps_detectIn {pa n lo len : Nat} {f : Finder} : Keeps s (detectIn t pa n lo len f) :=
  keeps_ite hk (keeps_update hk)

theorem keeps_detect {pa n : Nat} {f : Finder} : Keeps s (detect t pa n f) := keeps_ite hk (keeps_detectIn hk)

theorem keeps_detectLine {pa n : Nat} {f : Finder} : Keeps s (detectLine t pa n f) := keeps_ite hk (keeps_detectIn hk)

theorem keeps_clearCovered {ranges : List (Nat × Nat)} : Keeps s (clearCovered t ranges) :=
  keeps_ite hk (keeps_update hk)

theorem keeps_detectBy {pa n : Nat} {w : Option Who} : Keeps s (detectBy t pa n w) := by
  unfold detectBy
  split
  · exact keeps_detect hk
  · exact hk

theorem keeps_setLine {pa : Nat} {x : Line} : Keeps s (setLine t pa x) := keeps_update hk

theorem keeps_noteRts {pa rts : Nat} : Keeps s (noteRts t pa rts) := by
  unfold noteRts
  split
  · exact keeps_modSlice hk
  · exact hk

theorem keeps_raiseEvent {slice ctx : Nat} {e : AsEvent} : Keeps s (raiseEvent t slice ctx e) := by
  unfold raiseEvent
  dsimp only
  split
  · exact hk
  · next i hi =>
    refine keeps_ite hk (keeps_setSlice_of hk fun hx => dataOk_tabPut hx _ ?_)
    have hdata := hx _ (mem_of_tabGet hi)
    repeat' split
    all_goals exact hdata

theorem keeps_fillHome {pa : Nat} {w : Option Who} : Keeps s (fillHome t pa w) := by
  unfold fillHome
  refine keeps_ite hk ?_
  dsimp only
  split
  · exact hk
  · split
    · exact keeps_setLine hk
    · exact keeps_ite (keeps_setLine hk) (keeps_raiseEvent (keeps_setLine (keeps_raiseEvent hk)))

theorem keeps_missBeyond {pa : Nat} {w : Option Who} : Keeps s (missBeyond t pa w) := by
  unfold missBeyond
  split
  · exact keeps_ite hk (keeps_raiseEvent hk)
  · exact hk

theorem keeps_completeWait {crew entry : Nat} {v : Word} {wts : Nat} {bad : Bool} :
    Keeps s (completeWait t crew entry v wts bad) := by
  unfold completeWait
  dsimp only
  split
  · exact hk
  · split
    · exact hk
    · split
      · exact keeps_ite (keeps_setCrew hk) (keeps_ite (keeps_ite hk (keeps_setCrew hk)) hk)
      · exact hk

theorem keeps_observeLine {crew pa : Nat} : Keeps s (observeLine t crew pa) := by
  unfold observeLine
  dsimp only
  split
  · exact hk
  · exact keeps_ite (keeps_noteRts (keeps_setLine hk)) hk

theorem keeps_countWait {crew : Nat} {counts : Bool} : Keeps s (countWait t crew counts) := by
  unfold countWait
  split
  · exact State.keeps_count hk
  · exact hk

theorem keeps_fireMonitors {l pa : Nat} {first : Monitor} : Keeps s (fireMonitors t l pa first) :=
  keeps_ite (keeps_foldl (keeps_setSlice (keeps_update (keeps_detect hk))) (fun _ _ => keeps_countWait
    (keeps_observeLine (keeps_completeWait (.refl _))))) (keeps_update (keeps_detect hk))

theorem keeps_evalMonitors {pa : Nat} : Keeps s (evalMonitors t pa) := by
  unfold evalMonitors
  dsimp only
  split
  · exact hk
  · split
    · exact hk
    · exact keeps_ite (keeps_update (keeps_modSlice hk)) (keeps_fireMonitors hk)

theorem keeps_wakeRing {pa n r : Nat} : Keeps s (wakeRing t pa n r) := keeps_ite (keeps_setRing hk) hk

theorem keeps_wakeRings {pa n : Nat} : Keeps s (wakeRings t pa n) :=
  keeps_ite (keeps_foldl hk (fun _ _ => keeps_wakeRing (.refl _))) hk

theorem keeps_evalRange {pa n : Nat} : Keeps s (evalRange t pa n) :=
  keeps_ite (keeps_wakeRings hk) (keeps_foldl (keeps_wakeRings hk) (fun _ _ => keeps_evalMonitors (.refl _)))

theorem keeps_applyPartials {fuel base : Nat} {ps : List Partial} : Keeps s (applyPartials fuel t base ps) := by
  induction fuel generalizing t ps with
  | zero => exact hk
  | succ n ih =>
    unfold applyPartials
    dsimp only
    refine keeps_ite hk ?_
    split
    · exact hk
    · refine ih ?_
      split
      · exact hk
      · exact keeps_setMem (keeps_draw hk) (memWrite_wf _ _ _)

theorem keeps_asMode {pa cmode : Nat} : Keeps s (asMode t pa cmode) :=
  keeps_ite (keeps_ite hk (keeps_setLine hk)) (keeps_ite (keeps_setLine hk) hk)

theorem keeps_dueNow {ps : List Partial} {whole : Bool} : Keeps s (dueNow t ps whole).2.2 := by
  unfold dueNow
  refine keeps_foldl_of (f := fun a : List Partial × List Partial × State => a.2.2) hk fun a p => ?_
  dsimp only
  split
  · rfl
  · split <;> exact keeps_draw (.refl _)

theorem keeps_joinLine {pa crew : Nat} : Keeps s (joinLine t pa crew) := keeps_ite (keeps_setLine hk) hk

theorem keeps_joinBy {pa : Nat} {w : Option Who} : Keeps s (joinBy t pa w) := by
  unfold joinBy
  split
  · exact keeps_joinLine hk
  · exact hk

theorem keeps_joinAll {crew : Nat} : Keeps s (joinAll t crew) :=
  keeps_modCrew (keeps_foldl hk (fun _ _ => keeps_joinLine (.refl _)))

theorem keeps_noteReds {crews : List Nat} {ts : Nat} : Keeps s (noteReds t crews ts) :=
  keeps_foldl hk (fun _ _ => keeps_modCrew (.refl _))

theorem keeps_unitLine {a pa n : Nat} : Keeps s (unitLine t a pa n) := keeps_noteRts (keeps_update (keeps_setLine hk))

theorem keeps_mergeLine {pa pts : Nat} {whole : Bool} : Keeps s (mergeLine t pa pts whole) :=
  keeps_ite hk (keeps_foldl (State.keeps_count (keeps_noteRts (keeps_setLine (keeps_foldl (keeps_applyPartials
    (keeps_foldl (keeps_dueNow hk) (fun _ _ => keeps_detect (.refl _)))) (fun _ _ => keeps_noteReds (.refl _))))))
    (fun _ _ => keeps_evalRange (.refl _)))

theorem keeps_evictLine {line : Nat} : Keeps s (evictLine t line) := by
  unfold evictLine
  refine keeps_ite hk ?_
  dsimp only
  split
  · exact keeps_mergeLine hk
  · refine keeps_setLine (keeps_modSlice (State.keeps_count ?_))
    split
    · exact keeps_raiseEvent (keeps_draw (keeps_mergeLine hk))
    · exact keeps_mergeLine hk

theorem keeps_makeLineRoom {pa : Nat} : Keeps s (makeLineRoom t pa) := by
  unfold makeLineRoom
  dsimp only
  refine keeps_ite hk ?_
  split
  · exact keeps_evictLine (keeps_draw hk)
  · exact hk

theorem keeps_touchHome {pa : Nat} {w : Option Who} : Keeps s (touchHome t pa w) :=
  keeps_ite hk (keeps_ite (keeps_fillHome (keeps_makeLineRoom hk)) (keeps_missBeyond hk))

theorem keeps_grantLease {l : Line} : Keeps s (grantLease t l).2 := by
  unfold grantLease
  dsimp only
  split
  · exact keeps_draw hk
  · exact hk

theorem keeps_ownerLoad {pts pa n : Nat} {w : Option Who} : Keeps s (ownerLoad t pts pa n w).2.2.2 :=
  keeps_detectBy (keeps_noteRts (keeps_setLine (keeps_grantLease (keeps_mergeLine (keeps_joinBy (keeps_touchHome
    hk))))))

theorem keeps_ownerStore {pts pa : Nat} {bs : List Byte} {w : Option Who} : Keeps s (ownerStore t pts pa bs w).2 :=
  keeps_evalRange (keeps_setMem (keeps_noteRts (keeps_setLine (keeps_mergeLine (keeps_joinBy (keeps_touchHome hk)))))
    (memWrite_wf _ _ _))

theorem keeps_homeRead {pa n : Nat} {w : Option Who} : Keeps s (homeRead t pa n w).2 :=
  keeps_detectBy (keeps_mergeLine (keeps_joinBy (keeps_touchHome hk)))

theorem keeps_unitNote {pa n : Nat} {held : Bool} : Keeps s (unitNote t pa n held) :=
  keeps_ite (keeps_clearCovered hk) (keeps_evalRange (keeps_foldl (keeps_clearCovered hk) (fun _ _ => keeps_ite (.refl
    _) (keeps_unitLine (keeps_mergeLine (keeps_touchHome (.refl _)))))))

theorem keeps_unitBytes {pa : Nat} {bs : List Byte} : Keeps s (unitBytes t pa bs) := by
  have hput : ∀ (l : List (Byte × Nat)) (m : Mem), Memory.wf m = true →
      Memory.wf (l.foldl (fun m b => if fencedAt t (pa + b.2) then m else memPut m (pa + b.2) b.1) m) = true := by
    intro l
    induction l with
    | nil => exact fun m hm => hm
    | cons b r ih =>
      intro m hm
      rw [List.foldl_cons]
      split
      · exact ih m hm
      · exact ih _ (memPut_wf _ _ _ hm)
  unfold unitBytes
  dsimp only
  split
  · exact keeps_setMem hk (memWrite_wf _ _ _)
  · exact keeps_setMem hk (hput _ _)

theorem keeps_unitMem {pa n : Nat} {m : Mem} (hm : Memory.wf t.mem = true → Memory.wf m = true) :
    Keeps s (unitMem t pa n m) := keeps_ite (keeps_setMem hk hm) (keeps_unitBytes hk)

theorem keeps_unitWrite {pa : Nat} {bs : List Byte} : Keeps s (unitWrite t pa bs) :=
  keeps_unitNote (keeps_unitBytes (keeps_foldl hk (fun _ _ => keeps_mergeLine (.refl _))))

theorem keeps_ownerAtomic {pts pa n : Nat} {f : Nat → Option Nat} {w : Option Who} :
    Keeps s (ownerAtomic t pts pa n f w).2.2 := by
  unfold ownerAtomic
  dsimp only
  split
  · exact keeps_detectBy (keeps_noteRts (keeps_setLine (keeps_mergeLine (keeps_joinBy (keeps_touchHome hk)))))
  · split
    · exact keeps_detectBy (keeps_noteRts (keeps_setLine (keeps_mergeLine (keeps_joinBy (keeps_touchHome hk)))))
    · exact keeps_evalRange (keeps_setMem (keeps_detectBy (keeps_noteRts (keeps_setLine (keeps_mergeLine (keeps_joinBy
        (keeps_touchHome hk)))))) (memWrite_wf _ _ _))

theorem keeps_redAt {die pts pa size op ty v : Nat} {w : Option Who} {late : Option Nat} :
    Keeps s (redAt t die pts pa size op ty v w late) :=
    keeps_ite (keeps_noteReds (keeps_ownerAtomic hk)) (keeps_ite (keeps_noteReds (keeps_ownerAtomic (keeps_mergeLine
      hk))) (keeps_setLine hk))

theorem keeps_redWord {die pts pa op ty v : Nat} {w : Option Who} {inScope : Bool} :
    Keeps s (redWord t die pts pa op ty v w inScope) :=
    keeps_ite (keeps_redAt (keeps_redAt hk)) (keeps_ite (keeps_redAt (keeps_redAt (keeps_draw hk))) (keeps_redAt hk))

theorem keeps_pokeNat {pa n v : Nat} : Keeps s (pokeNat t pa n v) := keeps_unitWrite hk

theorem keeps_orSticky {crew : Nat} {f : Flags} : Keeps s (orSticky t crew f) := by
  unfold orSticky
  dsimp only
  split
  · exact hk
  · refine keeps_ite hk (keeps_ite ?_ (keeps_setCrew hk))
    split
    · exact keeps_pokeNat hk
    · exact hk

theorem keeps_discharge {crew n : Nat} : Keeps s (discharge t crew n) := by
  unfold discharge
  refine keeps_ite hk ?_
  dsimp only
  split
  · exact hk
  · refine keeps_ite hk (keeps_ite ?_ (keeps_ite (keeps_setCrew hk) (keeps_setCrew hk)))
    split
    · exact hk
    · exact keeps_ite hk (keeps_ite (keeps_ite (keeps_setCrew (keeps_pokeNat (keeps_pokeNat hk))) (keeps_pokeNat
        (keeps_pokeNat hk))) (keeps_pokeNat hk))

theorem keeps_pokeUniform {crew n : Nat} {w : Word} : Keeps s (pokeUniform t crew n w) := by
  unfold pokeUniform
  split
  · exact hk
  · refine keeps_ite ?_ (keeps_setCrew hk)
    split
    · exact keeps_unitWrite hk
    · exact hk

theorem keeps_errCounts {d cls n : Nat} : Keeps s (errCounts t d cls n) := keeps_ite hk (keeps_pokeNat hk)

theorem keeps_errCount {d cls : Nat} : Keeps s (errCount t d cls) := keeps_errCounts hk

theorem keeps_queuePut {ctx : Nat} {debug : Bool} {q : QRecord} : Keeps s (queuePut t ctx debug q) :=
  keeps_update (keeps_setCtx (keeps_unitWrite hk))

theorem keeps_queuePost {ctx : Nat} {debug : Bool} {q : QRecord} : Keeps s (queuePost t ctx debug q) :=
  keeps_ite hk (keeps_ite (keeps_queuePut hk) (keeps_ite (keeps_setCtx hk) (keeps_setCtx hk)))

theorem keeps_queueDrain {fuel ctx : Nat} {debug : Bool} : Keeps s (queueDrain fuel t ctx debug) := by
  induction fuel generalizing t with
  | zero => exact hk
  | succ n ih =>
    unfold queueDrain
    dsimp only
    split
    · exact hk
    · exact keeps_ite (ih (keeps_queuePut (keeps_setCtx hk))) hk

theorem keeps_raiseEngTs {crew ts : Nat} : Keeps s (raiseEngTs t crew ts) := by
  unfold raiseEngTs
  dsimp only
  split
  · exact hk
  · refine keeps_ite hk (keeps_ite ?_ (keeps_setCrew hk))
    split
    · exact keeps_ite (keeps_pokeNat hk) hk
    · exact hk

theorem keeps_raisePts {crew ts : Nat} : Keeps s (raisePts t crew ts) := by
  unfold raisePts
  split
  · exact hk
  · exact keeps_ite (keeps_raiseEngTs hk) (keeps_setCrew hk)

theorem keeps_svcProgress {ctx k : Nat} : Keeps s (svcProgress t ctx k) := by
  unfold svcProgress
  dsimp only
  split
  · exact hk
  · exact keeps_ite (keeps_modCrew (keeps_discharge (keeps_raiseEngTs (keeps_modCtx (keeps_ite (keeps_discharge
      (keeps_setCtx hk)) hk))))) (keeps_ite (keeps_discharge (keeps_setCtx hk)) hk)

theorem keeps_queueScan {ctx : Nat} : Keeps s (queueScan t ctx) :=
  keeps_queueDrain (keeps_queueDrain (keeps_foldl hk (fun _ _ => keeps_svcProgress (.refl _))))

theorem keeps_queueHook {pa n : Nat} : Keeps s (queueHook t pa n) :=
  keeps_foldl hk (fun _ _ => keeps_ite (keeps_queueScan (.refl _)) (.refl _))

theorem keeps_notice {r : ErrRec} : Keeps s (notice t r) := by
  unfold notice
  dsimp only
  split
  · exact hk
  · exact keeps_ite hk (keeps_ite (keeps_queuePut hk) hk)

theorem keeps_errRecord {d : Nat} {r : ErrRec} : Keeps s (errRecord t d r) := by
  unfold errRecord
  refine keeps_ite hk (keeps_notice ?_)
  dsimp only
  split
  · exact keeps_ite (keeps_update (keeps_ite (keeps_pokeNat (keeps_errCount hk)) (keeps_ite (keeps_pokeNat
      (keeps_unitWrite (keeps_errCount hk))) (keeps_update (keeps_pokeNat (keeps_unitWrite (keeps_errCount hk)))))))
      (keeps_ite (keeps_pokeNat (keeps_errCount hk)) (keeps_ite (keeps_pokeNat (keeps_unitWrite (keeps_errCount hk)))
      (keeps_update (keeps_pokeNat (keeps_unitWrite (keeps_errCount hk))))))
  · exact keeps_ite (keeps_pokeNat (keeps_errCount hk)) (keeps_ite (keeps_pokeNat (keeps_unitWrite (keeps_errCount
      hk))) (keeps_update (keeps_pokeNat (keeps_unitWrite (keeps_errCount hk)))))

theorem keeps_countPoisonRead {d : Nat} {bad : Bool} : Keeps s (countPoisonRead t d bad) :=
  keeps_ite hk (keeps_ite (keeps_update hk) (keeps_errCount hk))

theorem State.keeps_caughtIf {b : Bool} : Keeps s (t.caughtIf b) := keeps_ite (keeps_update hk) hk

theorem keeps_tlbRoom {at_ : TlbAt} {ctx : Nat} : Keeps s (tlbRoom t at_ ctx) := by
  unfold tlbRoom
  refine keeps_ite hk ?_
  dsimp only
  split
  · exact keeps_update (keeps_draw hk)
  · exact hk

theorem keeps_tlbFill {at_ : TlbAt} {e : TlbEntry} : Keeps s (tlbFill t at_ e) :=
  keeps_update (keeps_tlbRoom (keeps_update hk))

theorem keeps_noteWalk {upd : Upd} : Keeps s (noteWalk t upd) :=
  keeps_foldl hk (fun _ _ => keeps_ite (keeps_update (keeps_ownerLoad (.refl _))) (keeps_update (keeps_ownerAtomic
    (.refl _))))

theorem keeps_noteXlate {ask : Asker} {x : Xlate} : Keeps s (noteXlate t ask x) :=
  keeps_foldl (keeps_noteWalk hk) (fun _ _ => keeps_ite (.refl _) (keeps_tlbFill (.refl _)))

theorem keeps_walkPoison {die : Nat} {crew : Option Nat} {split va : Nat} {pte : Option Nat} :
    Keeps s (walkPoison t die crew split va pte) := by
  unfold walkPoison
  dsimp only
  split
  · exact hk
  · exact keeps_countPoisonRead (keeps_ite (keeps_detect hk) hk)

theorem keeps_noteFail {ask : Asker} {crew : Option Nat} {split va : Nat} {f : XFail} :
    Keeps s (noteFail t ask crew split va f) := keeps_walkPoison (keeps_noteWalk hk)

theorem keeps_fixPriv {x : Xlate} {core : Nat} : Keeps s (fixPriv t x core) := keeps_ite hk (keeps_setLine hk)

theorem keeps_notePrivRefusal {x : Xlate} {die owner : Nat} : Keeps s (notePrivRefusal t x die owner) := keeps_update hk

theorem keeps_tlbInvalidate {ctx va pages : Nat} : Keeps s (tlbInvalidate t ctx va pages) := by
  unfold tlbInvalidate
  refine keeps_foldl (keeps_foldl (keeps_update hk) ?_) (fun _ _ => keeps_ite (keeps_setLine (.refl _)) (.refl _))
  intro u a
  dsimp only
  split
  · exact keeps_ite (keeps_setLine (.refl _)) (.refl _)
  · exact .refl _

theorem keeps_detectVirtual {ask : Asker} {ctx va n : Nat} {need : Need} {f : Finder} {pts : Nat} :
    Keeps s (detectVirtual t ask ctx va n need f pts) := by
  unfold detectVirtual
  dsimp only
  split
  · exact keeps_noteFail hk
  · exact keeps_foldl hk (fun _ _ => keeps_detect (keeps_foldl (keeps_noteXlate (.refl _)) (fun _ _ => keeps_ite
      (keeps_mergeLine (keeps_touchHome (.refl _))) (.refl _))))

theorem keeps_keepCopy {core pa : Nat} {c : Copy} : Keeps s (keepCopy t core pa c) := keeps_modCore hk

end

end Sys2Proof.Machine
end

section
/-! The functions of managed copies, stash mappings, save areas, rings, bins and contexts keep the memories canonical (O8). -/

-- One theorem after the other: side by side, the many short ones would ask for more threads than memory allows.
set_option Elab.async false

namespace Sys2Proof.Machine

section
variable {s t : State} (hk : Keeps s t)
include hk

theorem keeps_loadCoherent {core pts pa n : Nat} {w : Who} : Keeps s (loadCoherent t core pts pa n w).st := by
  unfold loadCoherent
  dsimp only
  split
  · split
    · exact hk
    · exact keeps_keepCopy (keeps_ownerLoad (keeps_detectLine hk))
  · exact keeps_keepCopy (keeps_ownerLoad (keeps_detectLine hk))



theorem keeps_pokeMirrors {core pts pa : Nat} {bs : List Byte} : Keeps s (pokeMirrors t core pts pa bs).2 := by
  unfold pokeMirrors
  refine keeps_foldl_of (f := fun a : List Cover × State => a.2) (keeps_ite hk (keeps_modCore hk)) ?_
  intro u a
  dsimp only
  split
  · exact keeps_modCore_of (.refl _) (fun _ h => memWrite_wf _ _ _ h)
  · exact .refl _

theorem keeps_managedCopy {core pa : Nat} {w : Who} : Keeps s (managedCopy t core pa w).2 := by
  unfold managedCopy
  dsimp only
  split
  · exact hk
  · exact keeps_homeRead (keeps_detectLine hk)

theorem keeps_loadManaged {core pts pa n : Nat} {w : Who} : Keeps s (loadManaged t core pts pa n w).st :=
  keeps_keepCopy (keeps_managedCopy hk)

theorem keeps_storeManaged {core pts pa : Nat} {bs : List Byte} {w : Who} :
    Keeps s (storeManaged t core pts pa bs w).st := keeps_pokeMirrors (keeps_keepCopy (keeps_managedCopy hk))

theorem keeps_loadHbm {core pts cmode pa n : Nat} {w : Who} : Keeps s (loadHbm t core pts cmode pa n w).st := by
  unfold loadHbm
  dsimp only
  split
  · exact keeps_loadCoherent hk
  · exact keeps_loadManaged hk
  · exact keeps_homeRead hk

theorem keeps_storeHbm {core pts cmode pa : Nat} {bs : List Byte} {w : Who} :
    Keeps s (storeHbm t core pts cmode pa bs w).st := by
  unfold storeHbm
  dsimp only
  split
  · exact keeps_ownerStore hk
  · exact keeps_storeManaged hk
  · exact keeps_evalRange (keeps_setMem (keeps_setLine (keeps_mergeLine (keeps_joinBy (keeps_touchHome hk))))
      (memWrite_wf _ _ _))

theorem keeps_claimPriv {x : Xlate} {core : Nat} : Keeps s (claimPriv t x core) :=
  keeps_ite (keeps_fixPriv hk) (keeps_ite (keeps_asMode hk) hk)

theorem keeps_settle {core : Nat} {cov : List Cover} : Keeps s (settle t core cov) :=
  keeps_ite (keeps_ite (keeps_foldl (keeps_clearCovered hk) (fun _ _ => keeps_evalRange (.refl _)))
    (keeps_clearCovered hk)) (keeps_setCore (keeps_ite (keeps_foldl (keeps_clearCovered hk) (fun _ _ =>
    keeps_evalRange (.refl _))) (keeps_clearCovered hk)))

theorem keeps_setMap {core e : Nat} {m : Mapping} : Keeps s (setMap t core e m) := keeps_modCore hk

omit hk in
theorem wf_foldl {α : Type} {f : Mem → α → Mem} (hf : ∀ m a, Memory.wf m = true → Memory.wf (f m a) = true)
    {l : List α} {m : Mem} (hm : Memory.wf m = true) : Memory.wf (l.foldl f m) = true := by
  induction l generalizing m with
  | nil => exact hm
  | cons a r ih => exact ih (hf m a hm)

omit hk in
theorem memPuts_wf {α : Type} {p : α → Nat} {b : α → Byte} {l : List α} {m : Mem} (hm : Memory.wf m = true) :
    Memory.wf (l.foldl (fun m i => memPut m (p i) (b i)) m) = true := wf_foldl (fun _ _ => memPut_wf _ _ _) hm

omit hk in
theorem stash_wf_foldl {α : Type} {f : Core → α → Core}
    (hf : ∀ c a, Memory.wf c.stash = true → Memory.wf (f c a).stash = true) {l : List α} {c : Core}
    (hc : Memory.wf c.stash = true) : Memory.wf (l.foldl f c).stash = true := by
  induction l generalizing c with
  | nil => exact hc
  | cons a r ih => exact ih (hf c a hc)

omit hk in
theorem intoStash_wf {c : Core} {data : LineData} {marks : BitVec 4} {dirty : BitVec 128}
    {spots : List (Nat × Nat × Nat)} (hc : Memory.wf c.stash = true) :
    Memory.wf (intoStash c data marks dirty spots).stash = true := by
  refine stash_wf_foldl (fun c t hc => ?_) hc
  dsimp only
  split
  · exact memWrite_wf _ _ _ hc
  · exact stash_wf_foldl (fun _ _ => memPut_wf _ _ _) hc

theorem keeps_fillLine {core entry pts : Nat} {m : Mapping} {g : Seg} {x : Xlate} {w : Who} :
    Keeps s (fillLine t core entry pts m g x w).2.2 := by
  unfold fillLine
  dsimp only
  split
  · split
    · exact keeps_setCore hk
    · split
      · exact keeps_setCore hk
      · exact keeps_setCore_of (keeps_ownerLoad (keeps_detectLine (keeps_asMode hk))) (fun h => intoStash_wf h)
  · exact keeps_setCore_of (keeps_detectLine hk) (fun h => intoStash_wf h)
  · exact keeps_setCore_of (keeps_managedCopy (keeps_detectLine (keeps_asMode hk))) (fun h => intoStash_wf h)
  · exact keeps_setCore_of (keeps_homeRead (keeps_detectLine (keeps_claimPriv hk))) (fun h => intoStash_wf h)

theorem keeps_fillLines {core entry pts : Nat} {g : Seg} {xs : List Xlate} {who : Xlate → Who} :
    Keeps s (fillLines t core entry pts g xs who).2 := by
  unfold fillLines
  dsimp only
  split
  · exact hk
  · split
    · refine keeps_foldl_of (f := fun a : Nat × List Nat × State => a.2.2) hk ?_
      intro u a
      split
      · exact .refl _
      · exact keeps_fillLine (.refl _)
    · split
      · refine keeps_foldl_of (f := fun a : Nat × List Nat × State => a.2.2) hk ?_
        intro u a
        split
        · exact .refl _
        · exact keeps_fillLine (.refl _)
      · refine keeps_setMap (keeps_foldl_of (f := fun a : Nat × List Nat × State => a.2.2) hk ?_)
        intro u a
        split
        · exact .refl _
        · exact keeps_fillLine (.refl _)

theorem keeps_useMap {core entry : Nat} : Keeps s (useMap t core entry) := by
  unfold useMap
  dsimp only
  split
  · exact hk
  · exact keeps_setMap (keeps_fresh hk)

theorem keeps_readSeg {core entry pts : Nat} {m : Mapping} {g : Seg} {w : Who} :
    Keeps s (readSeg t core entry pts m g w).st := by
  unfold readSeg
  dsimp only
  split
  · split
    · split
      · exact keeps_ownerLoad hk
      · split
        · exact keeps_loadCoherent hk
        · exact hk
    · exact keeps_loadHbm hk
    · exact hk
  · exact hk

theorem keeps_loseLine {o : Option (Nat × Nat)} {pa : Nat} : Keeps s (loseLine t o pa) := by
  unfold loseLine
  dsimp only
  split
  · exact hk
  · split
    · exact hk
    · exact keeps_setMap hk

theorem keeps_writeSeg {core entry pts : Nat} {m : Mapping} {g : Seg} {bs : List Byte} {w : Who} :
    Keeps s (writeSeg t core entry pts m g bs w).st := by
  unfold writeSeg
  dsimp only
  split
  · split
    · split
      · exact keeps_storeHbm hk
      · split
        · split
          · exact keeps_setMap (keeps_ownerStore (keeps_setLine (keeps_mergeLine (keeps_touchHome hk))))
          · exact keeps_ownerStore (keeps_setLine (keeps_mergeLine (keeps_touchHome hk)))
        · split
          · exact keeps_setMap (keeps_ownerStore (keeps_setLine (keeps_mergeLine (keeps_touchHome (keeps_loseLine
              hk)))))
          · exact keeps_ownerStore (keeps_setLine (keeps_mergeLine (keeps_touchHome (keeps_loseLine hk))))
    · split
      · exact keeps_setMap (keeps_storeHbm hk)
      · exact keeps_storeHbm hk
    · split
      · split
        · split
          · split
            · split
              · split
                · exact keeps_keepCopy (keeps_pokeMirrors (keeps_setMap hk))
                · exact keeps_pokeMirrors (keeps_setMap hk)
              · split
                · exact keeps_keepCopy (keeps_pokeMirrors (keeps_setMap hk))
                · exact keeps_pokeMirrors (keeps_setMap hk)
            · split
              · split
                · exact keeps_keepCopy (keeps_pokeMirrors (keeps_setMap hk))
                · exact keeps_pokeMirrors (keeps_setMap hk)
              · split
                · exact keeps_keepCopy (keeps_pokeMirrors (keeps_setMap hk))
                · exact keeps_pokeMirrors (keeps_setMap hk)
          · split
            · split
              · split
                · exact keeps_keepCopy (keeps_pokeMirrors (keeps_setMap hk))
                · exact keeps_pokeMirrors (keeps_setMap hk)
              · split
                · exact keeps_keepCopy (keeps_pokeMirrors (keeps_setMap hk))
                · exact keeps_pokeMirrors (keeps_setMap hk)
            · split
              · split
                · exact keeps_keepCopy (keeps_pokeMirrors (keeps_setMap hk))
                · exact keeps_pokeMirrors (keeps_setMap hk)
              · split
                · exact keeps_keepCopy (keeps_pokeMirrors (keeps_setMap hk))
                · exact keeps_pokeMirrors (keeps_setMap hk)
        · split
          · split
            · split
              · split
                · exact keeps_keepCopy (keeps_pokeMirrors (keeps_setMap hk))
                · exact keeps_pokeMirrors (keeps_setMap hk)
              · split
                · exact keeps_keepCopy (keeps_pokeMirrors (keeps_setMap hk))
                · exact keeps_pokeMirrors (keeps_setMap hk)
            · split
              · split
                · exact keeps_keepCopy (keeps_pokeMirrors (keeps_setMap hk))
                · exact keeps_pokeMirrors (keeps_setMap hk)
              · split
                · exact keeps_keepCopy (keeps_pokeMirrors (keeps_setMap hk))
                · exact keeps_pokeMirrors (keeps_setMap hk)
          · split
            · split
              · split
                · exact keeps_keepCopy (keeps_pokeMirrors (keeps_setMap hk))
                · exact keeps_pokeMirrors (keeps_setMap hk)
              · split
                · exact keeps_keepCopy (keeps_pokeMirrors (keeps_setMap hk))
                · exact keeps_pokeMirrors (keeps_setMap hk)
            · split
              · split
                · exact keeps_keepCopy (keeps_pokeMirrors (keeps_setMap hk))
                · exact keeps_pokeMirrors (keeps_setMap hk)
              · split
                · exact keeps_keepCopy (keeps_pokeMirrors (keeps_setMap hk))
                · exact keeps_pokeMirrors (keeps_setMap hk)
      · split
        · exact keeps_keepCopy (keeps_pokeMirrors hk)
        · exact keeps_pokeMirrors hk
    · refine keeps_modCore_of ?_ (fun _ h => memWrite_wf _ _ _ h)
      split
      · exact keeps_setMap hk
      · exact hk
  · exact keeps_modCore_of hk (fun _ h => memWrite_wf _ _ _ h)

theorem keeps_refuseWriteBack {core : Nat} {who : Option (Nat × Nat)} {pa va : Nat} {fenced : Bool}
    {dirty : BitVec 128} : Keeps s (refuseWriteBack t core who pa va fenced dirty) :=
    keeps_errRecord (keeps_ite (keeps_errCount hk) hk)

theorem keeps_writeBackBytes {pa wts : Nat} {dirty : BitVec 128} {src : Nat → Byte × Bool} {fields : Bool} :
    Keeps s (writeBackBytes t pa wts dirty src fields) := by
  unfold writeBackBytes
  dsimp only
  refine keeps_evalRange ?_
  split
  · exact keeps_clearCovered (keeps_setMem (keeps_noteRts (keeps_setLine (keeps_homeRead hk))) memPuts_wf)
  · exact keeps_foldl (keeps_clearCovered (keeps_setMem (keeps_noteRts (keeps_setLine (keeps_homeRead hk))) memPuts_wf))
      fun _ _ => keeps_poisonRange (.refl _)

theorem keeps_dropLine {l : MLine} {owned : Bool} : Keeps s (dropLine t l owned) :=
  keeps_foldl (keeps_setMem hk memPuts_wf) (fun _ _ => keeps_poisonRange (.refl _))

theorem keeps_writeBackLine {core entry key : Nat} {who : Option (Nat × Nat)} {ends : Bool} :
    Keeps s (writeBackLine t core entry key who ends) := by
  unfold writeBackLine
  dsimp only
  split
  · exact hk
  · split
    · exact hk
    · exact keeps_ite hk (keeps_ite (keeps_refuseWriteBack (keeps_ite (keeps_dropLine (keeps_setMap hk)) (keeps_ite
        (keeps_dropLine (keeps_setMap hk)) (keeps_setMap hk)))) (keeps_ite (keeps_writeBackBytes (keeps_setMap hk))
        (keeps_setMap hk)))

theorem keeps_releaseLine {core entry : Nat} {l : MLine} : Keeps s (releaseLine t core entry l) :=
  keeps_ite (keeps_setLine hk) hk

theorem keeps_flushMap {core entry : Nat} {who : Option (Nat × Nat)} {ends : Bool} :
    Keeps s (flushMap t core entry who ends) := by
  unfold flushMap
  split
  · exact hk
  · exact keeps_foldl hk (fun _ _ => keeps_writeBackLine (.refl _))

theorem keeps_giveBack {o : Option (Nat × Nat)} {pa : Nat} : Keeps s (giveBack t o pa) := by
  unfold giveBack
  dsimp only
  split
  · exact hk
  · split
    · exact keeps_loseLine hk
    · exact keeps_loseLine (keeps_foldl hk (fun _ _ => keeps_writeBackLine (.refl _)))

theorem keeps_endMap {core entry : Nat} {who : Option (Nat × Nat)} : Keeps s (endMap t core entry who) := by
  unfold endMap
  dsimp only
  split
  · exact hk
  · exact keeps_modCore_of (keeps_foldl (keeps_flushMap hk) (fun _ _ => keeps_releaseLine (.refl _))) (fun _ h =>
      memClear_wf _ _ _ h)

theorem keeps_pinLines {core entry pts : Nat} {xs : List Xlate} {who : Xlate → Who} :
    Keeps s (pinLines t core entry pts xs who).2 := by
  unfold pinLines
  refine keeps_foldl_of (f := fun a : Nat × State => a.2) hk ?_
  intro u a
  dsimp only
  split
  · exact .refl _
  · split
    · refine keeps_setLine ?_
      split
      · exact keeps_homeRead (keeps_detectLine (keeps_setLine (keeps_giveBack (.refl _))))
      · exact keeps_ownerLoad (keeps_asMode (keeps_detectLine (keeps_setLine (keeps_giveBack (.refl _)))))
    · refine keeps_setMap (keeps_setLine ?_)
      split
      · exact keeps_homeRead (keeps_detectLine (keeps_setLine (keeps_giveBack (.refl _))))
      · exact keeps_ownerLoad (keeps_asMode (keeps_detectLine (keeps_setLine (keeps_giveBack (.refl _)))))

theorem keeps_doSmap {core ctx crew affin pts : Nat} {d : MapDesc} {xs : List Xlate} {who : Xlate → Who} :
    Keeps s (doSmap t core ctx crew affin pts d xs who).2.2 := by
  unfold doSmap
  dsimp only
  split
  · split
    · exact hk
    · exact keeps_useMap (keeps_setMap hk)
  · split
    · exact hk
    · split
      · exact hk
      · split
        · exact keeps_foldl hk (fun _ _ => keeps_endMap (.refl _))
        · exact keeps_useMap (keeps_pinLines (keeps_modCore_of (keeps_foldl hk (fun _ _ => keeps_endMap (.refl _)))
            (fun _ h => memClear_wf _ _ _ h)))

theorem keeps_writeBackCopy {core line : Nat} : Keeps s (writeBackCopy t core line) := by
  unfold writeBackCopy
  dsimp only
  split
  · exact hk
  · exact keeps_ite hk (keeps_ite (keeps_refuseWriteBack (keeps_modCore hk)) (keeps_writeBackBytes (keeps_modCore hk)))

theorem keeps_cleanLines {core : Nat} {hit : Nat → Bool} {discard : Bool} :
    Keeps s (cleanLines t core hit discard) := by
  unfold cleanLines
  refine keeps_foldl (keeps_foldl hk (fun _ _ => keeps_ite (keeps_modCore (keeps_writeBackCopy (.refl _)))
    (keeps_writeBackCopy (.refl _)))) ?_
  intro u a
  refine keeps_ite (.refl _) (keeps_foldl (.refl _) ?_)
  intro u a
  refine keeps_ite ?_ (keeps_writeBackLine (.refl _))
  dsimp only
  split
  · exact keeps_setMap (keeps_writeBackLine (.refl _))
  · exact keeps_writeBackLine (.refl _)

theorem keeps_sendExt {e : Ext} {w : Option Who} : Keeps s (sendExt t e w) :=
  keeps_update (keeps_fresh (keeps_missBeyond hk))

theorem keeps_refuseOther {die ukind unit path : Nat} {who : Option (Nat × Nat)} {pa : Nat} {va : Option Nat}
    {reason : Nat} : Keeps s (refuseOther t die ukind unit path who pa va reason) := keeps_errRecord hk

theorem keeps_pullVirtual {ask : Asker} {ctx va n : Nat} {need : Need} :
    Keeps s (pullVirtual t ask ctx va n need).2 := by
  unfold pullVirtual
  refine keeps_foldl_of (f := fun a : Bool × State => a.2) hk ?_
  intro u a
  dsimp only
  split
  · exact .refl _
  · split
    · exact keeps_refuseOther (keeps_update (.refl _))
    · exact keeps_update (keeps_sendExt (.refl _))

theorem keeps_pulled {ask : Asker} {ctx va n : Nat} {need : Need} : Keeps s (pulled t ask ctx va n need) :=
  keeps_update hk

omit hk in
theorem writeTiles_wf {m : Mem} {co : Core} {c : Crew} {a : Nat} (hm : Memory.wf m = true) :
    Memory.wf (writeTiles m co c a) = true := wf_foldl (fun _ _ => wf_foldl fun _ _ => memWrite_wf _ _ _) hm

theorem keeps_writeSave {id : Nat} {c : Crew} {a : Nat} : Keeps s (writeSave t id c a) := by
  unfold writeSave
  refine keeps_foldl (keeps_unitNote (keeps_unitMem hk fun hm => writeTiles_wf ?_)) (fun _ _ => keeps_poisonRange
    (.refl _))
  have hif : ∀ {p : Prop} {_ : Decidable p} {m : Mem} (a : Nat) (bs : List Byte), Memory.wf m = true →
      Memory.wf (if p then memWrite m a bs else m) = true := by
    intro p _ m a bs hm
    split
    · exact memWrite_wf _ _ _ hm
    · exact hm
  refine wf_foldl (fun _ _ => hif _ _) ?_
  refine wf_foldl (fun _ _ => memWrite_wf _ _ _) (wf_foldl (fun _ _ => memWrite_wf _ _ _) (memWrite_wf _ _ _ ?_))
  refine wf_foldl (fun _ _ => memWrite_wf _ _ _) (wf_foldl (fun _ _ => memWrite_wf _ _ _) ?_)
  refine wf_foldl (fun _ _ => memWrite_wf _ _ _) (wf_foldl (fun _ _ => hif _ _) ?_)
  exact memWrite_wf _ _ _ (memClear_wf _ _ _ hm)

theorem keeps_raiseCtx {ctx pts : Nat} : Keeps s (raiseCtx t ctx pts) := keeps_modCtx hk

theorem keeps_saveInto {id n : Nat} {c : Crew} {st : CrewState} : Keeps s (saveInto t id n c st) :=
  keeps_setCrew (keeps_raiseCtx (keeps_writeSave (keeps_modCore (keeps_modCtx (keeps_joinAll hk)))))

theorem keeps_freeSlot {c : Crew} : Keeps s (freeSlot t c) := by
  unfold freeSlot
  dsimp only
  split
  · exact hk
  · exact keeps_modCtx (keeps_pokeNat hk)

theorem keeps_restoreRows {id : Nat} {c : Crew} {a : Nat} : Keeps s (restoreRows t id c a) :=
  keeps_ite hk (keeps_modCore hk)

theorem keeps_foundArea {c : Crew} {a : Nat} : Keeps s (foundArea t c a) := keeps_detect hk

theorem keeps_syncTiles {id : Nat} : Keeps s (syncTiles t id) := by
  unfold syncTiles
  dsimp only
  split
  · exact hk
  · split
    · exact keeps_ite hk (keeps_pokeNat (keeps_unitNote (keeps_unitMem hk (fun h => writeTiles_wf (memClear_wf _ _ _
        h)))))
    · exact hk

theorem keeps_loadTiles {c : Crew} {a : Nat} {tiles : List Nat} : Keeps s (loadTiles t c a tiles) := keeps_setCore hk

theorem keeps_restoreFrom {id : Nat} {c : Crew} {n : Nat} : Keeps s (restoreFrom t id c n) :=
  keeps_setCrew (keeps_restoreRows (keeps_ite hk (keeps_loadTiles hk)))

theorem keeps_giveLamp {core id pts : Nat} : Keeps s (giveLamp t core id pts) :=
  keeps_modCrew (keeps_raisePts (keeps_modCore hk))

theorem keeps_joinRing {core id ctx : Nat} : Keeps s (joinRing t core id ctx) :=
  keeps_ite hk (keeps_ite (keeps_giveLamp (keeps_setCore hk)) (keeps_setCore hk))

theorem keeps_passLamp {core : Nat} : Keeps s (passLamp t core) := by
  unfold passLamp
  dsimp only
  split
  · exact hk
  · exact keeps_ite hk (keeps_giveLamp hk)

theorem keeps_leaveRing {core id : Nat} : Keeps s (leaveRing t core id) :=
  keeps_ite hk (keeps_setCore (keeps_ite (keeps_passLamp hk) hk))

theorem keeps_takeCtrs {core key : Nat} {mask : BitVec 8} : Keeps s (takeCtrs t core key mask) := keeps_modCore hk

theorem keeps_dropCtrs {core key : Nat} : Keeps s (dropCtrs t core key) := keeps_ite hk (keeps_modCore hk)

theorem keeps_byIoCore {r : Nat} {f : State → State} (hf : ∀ u, Keeps u (f u)) : Keeps s (byIoCore t r f) :=
  keeps_update ((keeps_update hk).trans (hf _))

theorem keeps_ioLoad {r pa n : Nat} : Keeps s (ioLoad t r pa n) :=
  keeps_byIoCore hk (fun _ => keeps_countPoisonRead (keeps_update (keeps_ownerLoad (keeps_detect (.refl _)))))

theorem keeps_writeHead {r : Nat} : Keeps s (writeHead t r) := by
  unfold writeHead
  exact keeps_byIoCore hk (fun _ => keeps_unitWrite (.refl _))

theorem keeps_putCompletion {r seq ctag status ptype reason clock : Nat} :
    Keeps s (putCompletion t r seq ctag status ptype reason clock) := by
  unfold putCompletion
  exact keeps_writeHead (keeps_modRing (keeps_byIoCore (keeps_ioLoad hk) (fun _ => keeps_unitWrite (keeps_update
    (.refl _)))))

theorem keeps_complete {r epoch seq ctag status ptype reason : Nat} :
    Keeps s (complete t r epoch seq ctag status ptype reason) :=
    keeps_ite (keeps_putCompletion (keeps_modRing hk)) (keeps_modRing (keeps_modRing hk))

theorem keeps_settleCtx {ctx : Nat} : Keeps s (settleCtx t ctx) := keeps_modCtx hk

theorem keeps_settleLaunch {l : Nat} : Keeps s (settleLaunch t l) := by
  unfold settleLaunch
  dsimp only
  split
  · exact hk
  · exact keeps_ite hk (keeps_complete (keeps_modLaunch hk))

theorem keeps_gangTs {launch table phase pts : Nat} : Keeps s (gangTs t launch table phase pts) := keeps_modLaunch hk

theorem keeps_wakeGang {launch table : Nat} : Keeps s (wakeGang t launch table) := keeps_update hk

theorem keeps_checkGang {launch table phase : Nat} : Keeps s (checkGang t launch table phase) :=
  keeps_ite (keeps_wakeGang hk) hk

theorem keeps_breakGang {launch table : Nat} : Keeps s (breakGang t launch table) := keeps_wakeGang (keeps_modLaunch hk)

theorem keeps_dropMonitors {p : Monitor → Bool} : Keeps s (dropMonitors t p) := keeps_mapSlices hk

theorem keeps_dropAdopter {core id : Nat} : Keeps s (dropAdopter t core id) := keeps_modCore hk

theorem keeps_releaseCrew {id : Nat} {c : Crew} : Keeps s (releaseCrew t id c) :=
  keeps_settleCtx (keeps_dropCtrs (keeps_setCrew (keeps_dropMonitors (keeps_freeSlot (keeps_dropAdopter (keeps_ite
    (keeps_leaveRing (keeps_raiseCtx (keeps_joinAll hk))) (keeps_raiseCtx (keeps_joinAll hk))))))))

theorem keeps_gangRelief {l : Nat} {gangs : List GangName} : Keeps s (gangRelief t l gangs) := by
  unfold gangRelief
  refine keeps_foldl hk ?_
  intro u a
  split
  · exact .refl _
  · split
    · exact .refl _
    · refine keeps_foldl (.refl _) ?_
      intro u a
      split
      · exact .refl _
      · split
        · exact .refl _
        · exact keeps_ite (keeps_checkGang (.refl _)) (.refl _)

theorem keeps_retireCrew {id : Nat} : Keeps s (retireCrew t id) := by
  unfold retireCrew
  dsimp only
  split
  · exact keeps_joinAll hk
  · split
    · exact keeps_releaseCrew (keeps_joinAll hk)
    · exact keeps_settleLaunch (keeps_gangRelief (keeps_foldl (keeps_modLaunch (keeps_releaseCrew (keeps_joinAll hk)))
        (fun _ _ => keeps_gangTs (keeps_gangTs (.refl _)))))

theorem keeps_endCrew {id : Nat} : Keeps s (endCrew t id) := by
  unfold endCrew
  dsimp only
  split
  · exact hk
  · refine keeps_ite hk ?_
    split
    · exact keeps_releaseCrew (keeps_modCore hk)
    · refine keeps_settleLaunch (keeps_modLaunch (keeps_foldl (keeps_releaseCrew (keeps_modCore hk)) ?_))
      intro u a
      split
      · exact keeps_ite (keeps_breakGang (.refl _)) (.refl _)
      · exact .refl _

theorem keeps_setBin {ctx node die : Nat} {b : Bin} : Keeps s (setBin t ctx node die b) := keeps_modCtx hk

theorem keeps_binLaunch {ctx node die : Nat} {nd : Node} : Keeps s (binLaunch t ctx node die nd) :=
  keeps_setBin (keeps_setCrew (keeps_fresh hk))

theorem keeps_binFire {fuel ctx node die : Nat} : Keeps s (binFire fuel t ctx node die) := by
  induction fuel generalizing t ctx node die with
  | zero =>
    unfold binFire
    exact hk
  | succ n ih =>
    unfold binFire
    dsimp only
    split
    · exact hk
    · exact keeps_ite hk (keeps_ite (ih (keeps_binLaunch hk)) hk)

theorem keeps_wakeSpawners {ctx node die : Nat} : Keeps s (wakeSpawners t ctx node die) :=
  keeps_update (keeps_setBin hk)

theorem keeps_fireEnters {hpa : Nat} : Keeps s (fireEnters t hpa) := keeps_pokeNat hk

theorem keeps_failNode {ctx node die : Nat} : Keeps s (failNode t ctx node die) := by
  unfold failNode
  exact keeps_errRecord (keeps_modCtx (keeps_update (keeps_foldl hk (fun _ _ => keeps_wakeSpawners (keeps_setBin
    (keeps_foldl (keeps_ite (.refl _) (keeps_errCounts (.refl _))) (fun _ _ => keeps_errCount (keeps_fireEnters (.refl
    _)))))))))

theorem keepsOpt_spillOne {ctx die : Nat} {nd : Node} : KeepsOpt (fun x => x) s (spillOne t ctx die nd) := by
  unfold spillOne
  dsimp only
  split
  · exact keepsOpt_none
  · split
    · exact keepsOpt_none
    · exact keepsOpt_some (keeps_unitWrite (keeps_draw (keeps_noteXlate (keeps_draw hk))))

theorem keepsOpt_spillMany {k ctx die : Nat} {nd : Node} : KeepsOpt (fun x => x) s (spillMany k t ctx die nd) := by
  induction k generalizing t ctx die nd with
  | zero =>
    unfold spillMany
    exact keepsOpt_some hk
  | succ n ih =>
    unfold spillMany
    split
    · exact keepsOpt_none
    · next he =>
        exact ih ((keepsOpt_spillOne hk) _ he)

theorem keeps_deposit {ctx node die : Nat} {recs : List (List Byte)} : Keeps s (deposit t ctx node die recs) := by
  unfold deposit
  dsimp only
  split
  · exact hk
  · refine keeps_ite (keeps_foldl hk (fun _ _ => keeps_errCount (.refl _))) ?_
    split
    · exact keeps_failNode (keeps_setBin hk)
    · next he1 =>
        exact keeps_binFire ((keepsOpt_spillMany (keeps_setBin hk)) _ he1)

theorem keeps_slotFire {ctx node die hpa : Nat} {segs : List (Nat × Nat)} :
    Keeps s (slotFire t ctx node die hpa segs) := by
  unfold slotFire
  dsimp only
  split
  · exact hk
  · exact keeps_ite (keeps_setBin (keeps_pokeNat hk)) (keeps_deposit hk)

theorem keeps_enterHeld {fuel ctx node die : Nat} : Keeps s (enterHeld fuel t ctx node die) := by
  induction fuel generalizing t ctx node die with
  | zero =>
    unfold enterHeld
    exact hk
  | succ n ih =>
    unfold enterHeld
    dsimp only
    split
    · exact hk
    · refine keeps_ite hk ?_
      split
      · exact hk
      · exact ih (keeps_deposit (keeps_fireEnters (keeps_setBin (keeps_draw hk))))

theorem keeps_binRelief {ctx node die : Nat} : Keeps s (binRelief t ctx node die) := by
  unfold binRelief
  dsimp only
  split
  · exact hk
  · exact keeps_enterHeld (keeps_ite (keeps_wakeSpawners hk) hk)

theorem keeps_takeRecords {c : Crew} : Keeps s (takeRecords t c) := by
  unfold takeRecords
  dsimp only
  split
  · exact hk
  · exact keeps_binRelief (keeps_setBin hk)

theorem keeps_resetCrews {ctx : Nat} : Keeps s (resetCrews t ctx) :=
  keeps_mapCores (keeps_foldl (keeps_foldl (keeps_foldl (keeps_update hk) (fun _ _ => keeps_modLaunch (.refl _))) (fun
    _ _ => keeps_modCrew (.refl _))) (fun _ _ => keeps_endCrew (.refl _)))

theorem keeps_resetMaps {ctx : Nat} : Keeps s (resetMaps t ctx) :=
  keeps_foldl hk (fun _ _ => keeps_foldl (keeps_modCore (.refl _)) (fun _ _ => keeps_endMap (.refl _)))

theorem keeps_resetContext {ctx cause : Nat} : Keeps s (resetContext t ctx cause) := by
  unfold resetContext
  refine keeps_errRecord (keeps_modCtx (keeps_foldl (keeps_resetMaps (keeps_modCtx (keeps_dropMonitors
    (keeps_resetCrews hk)))) ?_))
  intro u a
  split
  · exact keeps_complete (.refl _)
  · exact .refl _

theorem keepsOpt_resetAtRestore {c : Crew} {n : Nat} : KeepsOpt (fun x => x) s (resetAtRestore t c n) := by
  unfold resetAtRestore
  dsimp only
  split
  · exact keepsOpt_some (keeps_resetContext hk)
  · split
    · exact keepsOpt_some (keeps_resetContext (keeps_foundArea hk))
    · exact keepsOpt_none

theorem keeps_saveCrew {id : Nat} {st : CrewState} : Keeps s (saveCrew t id st) := by
  unfold saveCrew
  split
  · exact hk
  · split
    · exact keeps_saveInto hk
    · exact keeps_resetContext hk
    · exact keeps_resetContext hk

theorem keeps_makeRoom {fuel core own : Nat} {k : Kernel} : Keeps s (makeRoom fuel t core own k) := by
  induction fuel generalizing t core own k with
  | zero =>
    unfold makeRoom
    exact hk
  | succ n ih =>
    unfold makeRoom
    refine keeps_ite hk ?_
    split
    · exact hk
    · exact ih (keeps_endMap hk)

theorem keeps_postBreak {id : Nat} : Keeps s (postBreak t id) := by
  unfold postBreak
  split
  · exact hk
  · exact keeps_foldl (keeps_setCrew hk) (fun _ _ => keeps_queuePost (.refl _))

theorem keeps_holdCrew {id : Nat} {kind : HoldKind} {q : QRecord} : Keeps s (holdCrew t id kind q) := by
  unfold holdCrew
  dsimp only
  split
  · exact hk
  · exact keeps_ite (keeps_postBreak (keeps_setCrew hk)) (keeps_ite (keeps_setCrew hk) (keeps_postBreak
      (keeps_saveCrew (keeps_setCrew hk))))

theorem keeps_tellExts {id entry pc at_ : Nat} : Keeps s (tellExts t id entry pc at_) := keeps_update hk

theorem keeps_takeException {id entry : Nat} {t' : Trap} : Keeps s (takeException t id entry t') := by
  unfold takeException
  dsimp only
  split
  · exact hk
  · exact keeps_ite (keeps_ite (keeps_errRecord hk) hk) (keeps_ite (keeps_holdCrew (keeps_ite (keeps_errRecord hk)
      hk)) (keeps_endCrew (keeps_ite (keeps_errRecord hk) hk)))

theorem keeps_returnCrew {id : Nat} : Keeps s (returnCrew t id) := by
  unfold returnCrew
  split
  · exact hk
  · split
    · exact hk
    · split
      · next he2 =>
          exact (keepsOpt_resetAtRestore hk) _ he2
      · exact keeps_modCtx (keeps_restoreFrom (keeps_makeRoom hk))

theorem keeps_swapOut {id : Nat} : Keeps s (swapOut t id) :=
  keeps_ite (keeps_modCrew hk) (keeps_modCrew (keeps_saveCrew hk))

theorem keeps_settleHalt {id : Nat} : Keeps s (settleHalt t id) := by
  unfold settleHalt
  split
  · exact hk
  · exact keeps_ite (keeps_ite (keeps_swapOut hk) (keeps_postBreak (keeps_saveCrew hk))) hk

end

end Sys2Proof.Machine
end

section
/-! The issue of an instruction, its exceptions and the accesses of its lanes keep the memories canonical (O8). -/

-- One theorem after the other: side by side, the many short ones would ask for more threads than memory allows.
set_option Elab.async false

namespace Sys2Proof.Machine

section
variable {s t : State} (hk : Keeps s t)
include hk

theorem Env.keeps_flag {e : Env} {f : Flags} : Keeps s (e.flag t f) := keeps_ite hk (keeps_modCrew hk)

theorem Env.keeps_dead {e : Env} {b : Bool} : Keeps s (e.dead t b) := Env.keeps_flag hk

theorem Env.keeps_putS {e : Env} {n : Nat} {w : Word} : Keeps s (e.putS t n w) := keeps_modCrew hk

theorem Env.keeps_putV {e : Env} {ws : List (Nat × Nat × Word)} : Keeps s (e.putV t ws) := keeps_modCrew hk

theorem Env.keeps_putP {e : Env} {n : Nat} {ls : List (Nat × Bool)} : Keeps s (e.putP t n ls) := keeps_modCrew hk

theorem Env.keeps_endUses {e : Env} : Keeps s (e.endUses t) := keeps_ite hk (keeps_modCrew hk)

theorem keeps_findGranules {id entry : Nat} {c : Crew} {gs : List (Bool × Nat × Nat)} :
    Keeps s (findGranules t id entry c gs) :=
    keeps_ite hk (keeps_foldl (keeps_modCrew hk) (fun _ _ => keeps_ite (keeps_errRecord (keeps_modCrew (.refl _)))
      (keeps_errCount (.refl _))))

theorem Env.keeps_foundLost {e : Env} : Keeps s (e.foundLost t) :=
  keeps_ite hk (keeps_foldl (keeps_findGranules (Env.keeps_flag hk)) (fun _ _ => keeps_ite (keeps_errRecord
    (keeps_modCrew (.refl _))) (keeps_errCount (.refl _))))

theorem Env.keeps_obligeFlags {e : Env} : Keeps s (e.obligeFlags t) := keeps_modCrew hk

theorem keeps_dischargeBoth {crew a b : Nat} : Keeps s (dischargeBoth t crew a b) :=
  keeps_discharge (keeps_discharge hk)

theorem Res.keeps_exc {e : Exc} : Keeps s (Res.exc t e).st := keeps_trap hk

theorem keeps_noteIdle {id : Nat} : Keeps s (noteIdle t id) := keeps_modCrew hk

theorem keeps_advance {id entry len : Nat} : Keeps s (advance t id entry len) := by
  unfold advance
  dsimp only
  split
  · exact hk
  · split
    · exact hk
    · exact keeps_setCrew hk

theorem keeps_waitHere {id entry : Nat} {st : SplitState} : Keeps s (waitHere t id entry st) := keeps_modCrew hk

omit hk in
theorem keeps_settleRes {e : Env} {r : Res} (hr : Keeps s r.st) : Keeps s (settleRes e r) := by
  unfold settleRes
  cases r with
  | done u => exact keeps_noteIdle (keeps_advance hr)
  | jump u => exact keeps_noteIdle hr
  | wait u x => exact keeps_noteIdle (keeps_waitHere hr)
  | late u lane va pa => exact keeps_takeException (keeps_noteIdle (keeps_advance (keeps_tellExts hr)))
  | trap u x lane va pa => exact keeps_takeException hr

theorem Env.keeps_run {e : Env} {i : Instr} {body : Env → State → Res} (hb : ∀ u, Keeps u (body e u).st) :
    Keeps s (e.run i t body).st := by
  have hlost := (Env.keeps_foundLost (e := e) hk).trans (hb _)
  unfold Env.run
  split
  · exact hk
  · split
    · exact hk
    · split
      · exact Env.keeps_endUses hk
      · split
        · exact hk
        · split
          · next he =>
            split
            · exact hk.trans (hb _)
            · exact Res.keeps_of_trap hlost he
          · exact hlost

theorem keepsO_issue {i : Instr} {body : Env → State → Res} (hb : ∀ e u, Keeps u (body e u).st) :
    KeepsO s (issue i body t) := by
  unfold issue
  split
  · exact keepsO_next (keeps_settleRes (Env.keeps_run hk (hb _)))
  · exact keepsO_fault

theorem Env.keeps_uniVal {e : Env} {o : Opnd} : Keeps s (e.uniVal t o).2 := Env.keeps_dead hk

theorem Env.keeps_laneTrap {e : Env} {f : Nat × LaneFail} : Keeps s (e.laneTrap t f).st :=
  keeps_trap (keeps_walkPoison (keeps_noteWalk hk))

theorem Env.keeps_withLanes {α : Type} {e : Env} {ls : List Nat} {k : Nat → Bool × Except LaneFail α}
    {go : List (Nat × α) → State → Res} (hg : ∀ as u, Keeps u (go as u).st) :
    Keeps s (Env.withLanes e t ls k go).st := by
  unfold Env.withLanes
  dsimp only
  split
  · exact Env.keeps_laneTrap (Env.keeps_dead hk)
  · exact (Env.keeps_dead hk).trans (hg _ _)

theorem Env.keeps_raisePts {e : Env} {ts : Nat} : Keeps s (e.raisePts t ts) := keeps_modCrew hk

theorem Env.keeps_observe {e : Env} : Keeps s (e.observe t) := keeps_modCrew hk

theorem Env.keeps_fenced {e : Env} {sc : Nat} : Keeps s (e.fenced t sc) := by
  unfold Env.fenced
  dsimp only
  split
  · exact keeps_ite (keeps_raiseCtx (keeps_joinAll hk)) (keeps_joinAll hk)
  · exact keeps_joinAll hk

theorem Env.keeps_waitFills {e : Env} {pas : List Nat} : Keeps s (e.waitFills t pas) := keeps_ite (keeps_modCrew hk) hk

theorem keeps_fillSeg {ask : Asker} {core ctx entry pts origin : Nat} {m : Mapping} {g : Seg} {write : Bool}
    {finder : Option Nat} : Keeps s (fillSeg t ask core ctx entry pts origin m g write finder).2 :=
    keeps_fillLines (keeps_foldl hk (fun _ _ => keeps_noteXlate (.refl _)))

theorem keeps_stashLoad {ask : Asker} {core ctx crew entry pts origin a n : Nat} :
    Keeps s (stashLoad t ask core ctx crew entry pts origin a n).st := by
  unfold stashLoad
  dsimp only
  split
  · exact hk
  · refine keeps_foldl_of (f := fun a : Got => a.st) (keeps_useMap hk) ?_
    intro u a
    split
    · exact keeps_fillSeg (.refl _)
    · exact keeps_readSeg (keeps_fillSeg (.refl _))

theorem keeps_stashStore {ask : Asker} {core ctx crew entry pts origin a : Nat} {bs : List Byte} :
    Keeps s (stashStore t ask core ctx crew entry pts origin a bs).st := by
  unfold stashStore
  dsimp only
  split
  · exact hk
  · refine keeps_foldl_of (f := fun a : Put => a.st) (keeps_useMap hk) ?_
    intro u a
    split
    · exact keeps_fillSeg (.refl _)
    · exact keeps_writeSeg (keeps_fillSeg (.refl _))

theorem keeps_noteOwner {x : Xlate} {die reason : Nat} : Keeps s (noteOwner t x die reason) := by
  unfold noteOwner
  refine keeps_ite ?_ hk
  split
  · exact keeps_notePrivRefusal hk
  · exact hk

theorem keeps_unconsumed {pa n : Nat} {f : Finder} : Keeps s (unconsumed t pa n f) :=
  keeps_ite (keeps_update (keeps_detect hk)) hk

theorem Env.keeps_noteRefused {e : Env} {x : Xlate} {reason n : Nat} {write : Bool} :
    Keeps s (e.noteRefused t x reason n write) := keeps_ite (keeps_noteOwner hk) (keeps_unconsumed (keeps_noteOwner hk))

theorem Env.keeps_loadLane {e : Env} {pts n l : Nat} {t' : Target} : Keeps s (e.loadLane t pts n l t').2.2 := by
  unfold Env.loadLane
  dsimp only
  split
  · exact hk
  · split
    · exact Env.keeps_noteRefused (keeps_noteXlate hk)
    · exact keeps_stashLoad hk
  · split
    · exact Env.keeps_noteRefused (keeps_noteXlate hk)
    · split
      · exact keeps_sendExt (keeps_noteXlate hk)
      · split
        · exact keeps_detect (keeps_noteXlate hk)
        · exact keeps_loadHbm (keeps_claimPriv (keeps_noteXlate hk))

theorem Env.keeps_loadAll {e : Env} {n : Nat} {ts : List (Nat × Target)} : Keeps s (e.loadAll t n ts).2.2 :=
  keeps_foldl_of (f := fun a : List (Nat × LaneGot) × Nat × State => a.2.2) hk (fun _ _ => Env.keeps_loadLane (.refl _))

theorem Env.keeps_storeTaken {e : Env} {pts l : Nat} {bs : List Byte} {x : Xlate} :
    Keeps s (e.storeTaken t pts l bs x).st := by
  unfold Env.storeTaken
  split
  · exact keeps_sendExt hk
  · exact keeps_storeHbm (keeps_claimPriv hk)

theorem Env.keeps_storeLane {e : Env} {pts l : Nat} {bs : List Byte} {t' : Target} :
    Keeps s (e.storeLane t pts l bs t').1.st := by
  unfold Env.storeLane
  dsimp only
  split
  · exact hk
  · split
    · exact Env.keeps_noteRefused (keeps_noteXlate hk)
    · exact keeps_stashStore hk
  · split
    · exact Env.keeps_noteRefused (keeps_noteXlate hk)
    · exact Env.keeps_storeTaken (keeps_noteXlate hk)

theorem keeps_extMonitors {pa : Nat} {bs : List Byte} : Keeps s (extMonitors t pa bs) := by
  unfold extMonitors
  dsimp only
  split
  · exact hk
  · exact keeps_ite hk (keeps_foldl hk (fun _ _ => keeps_ite (keeps_foldl (keeps_modSlice (keeps_ite (.refl _)
      (keeps_draw (.refl _)))) (fun _ _ => keeps_completeWait (.refl _))) (keeps_ite (.refl _) (keeps_draw (.refl _)))))

theorem keeps_lateOr {l : LateLane} : Keeps s (lateOr t l).st := by
  unfold lateOr
  split
  · exact keeps_late hk
  · exact keeps_done hk

theorem keeps_eachLane {α : Type} {ls : List (Nat × α)} {f : State → Nat → α → State × Option (Nat × Nat)}
    (hf : ∀ u k a, Keeps u (f u k a).1) : Keeps s (eachLane t ls f).1 :=
    keeps_foldl_of (f := fun a : State × LateLane => a.1) hk fun _ _ => hf _ _ _

theorem keeps_freeBytes {n : Nat} : Keeps s (freeBytes n t).2 := keeps_update hk



theorem keeps_replyTo {request : Option Nat} {w : Word} {derr : Bool} {pts : Nat} :
    Keeps s (replyTo t request w derr pts) := by
  unfold replyTo
  split
  · exact hk
  · split
    · exact hk
    · exact keeps_ite hk (keeps_update hk)

theorem keeps_acceptMsg {request : Option Nat} : Keeps s (acceptMsg t request) := by
  unfold acceptMsg
  split
  · exact hk
  · split
    · exact hk
    · exact keeps_ite hk (keeps_discharge (keeps_update hk))

theorem keeps_admitWaiting {fuel l ctx : Nat} : Keeps s (admitWaiting fuel t l ctx) := by
  induction fuel generalizing t l ctx with
  | zero =>
    unfold admitWaiting
    exact hk
  | succ n ih =>
    unfold admitWaiting
    dsimp only
    split
    · exact hk
    · split
      · exact hk
      · exact keeps_ite hk (ih (keeps_acceptMsg (keeps_modInstall hk)))

theorem keeps_dropEvents {l ctx : Nat} {derr : Bool} : Keeps s (dropEvents t l ctx derr) := by
  unfold dropEvents
  dsimp only
  split
  · exact hk
  · exact keeps_modInstall (keeps_foldl hk (fun _ _ => keeps_replyTo (keeps_acceptMsg (.refl _))))

theorem keeps_removeInstall {l ctx : Nat} : Keeps s (removeInstall t l ctx) :=
  keeps_update (keeps_modSlice_of (keeps_dropEvents hk) fun _ hx i hi => hx i (mem_of_mem_tabDel hi))

theorem keeps_endEvent {l : Nat} {h' : Handler} {spent : Bool} : Keeps s (endEvent t l h' spent) :=
  keeps_modInstall (keeps_ite (keeps_replyTo hk) hk)

theorem keeps_turnOver {l ctx : Nat} : Keeps s (turnOver t l ctx) := by
  unfold turnOver
  refine keeps_modInstall_of hk fun i hi => ?_
  split <;> exact hi

theorem keeps_endHandler {l : Nat} {h' : Handler} {spent : Bool} : Keeps s (endHandler t l h' spent) := by
  unfold endHandler
  dsimp only
  split
  · exact keeps_ite (keeps_removeInstall (keeps_modSlice (keeps_turnOver (keeps_endEvent hk)))) (keeps_modSlice
      (keeps_turnOver (keeps_endEvent hk)))
  · exact keeps_modSlice (keeps_turnOver (keeps_endEvent hk))

theorem keeps_asRecord {l : Nat} {h' : Handler} {cls sev info : Nat} {va pa : Option Nat} :
    Keeps s (asRecord t l h' cls sev info va pa) := keeps_errRecord hk

theorem keeps_budgetEnd {l : Nat} {h' : Handler} : Keeps s (budgetEnd t l h') := by
  unfold budgetEnd
  dsimp only
  split
  · exact keeps_endHandler (keeps_modInstall hk)
  · exact keeps_asRecord (keeps_endHandler (keeps_modInstall hk))

theorem keeps_breach {l : Nat} {h' : Handler} {f : AsFail} : Keeps s (breach t l h' f) := by
  unfold breach
  dsimp only
  split
  · refine keeps_endHandler ?_
    split
    · exact keeps_noteFail hk
    · exact hk
  · refine keeps_asRecord (keeps_asRecord (keeps_endHandler ?_))
    split
    · exact keeps_noteFail hk
    · exact hk

theorem keeps_touchQuiet {pa ctx cls va : Nat} : Keeps s (touchQuiet t pa ctx cls va) :=
  keeps_ite hk (keeps_setLine (keeps_makeLineRoom hk))

theorem keeps_lockLine {ctx : Nat} {e : AsEvent} : Keeps s (lockLine t ctx e).2 := by
  unfold lockLine
  split
  · exact hk
  · split
    · exact hk
    · exact keeps_touchQuiet hk

theorem keeps_takeEvent {l ctx entry : Nat} {e : AsEvent} {regs : Tab Word} {pc : Nat} :
    Keeps s (takeEvent t l ctx entry e regs pc) := by
  unfold takeEvent
  refine keeps_admitWaiting (keeps_modSlice (keeps_modInstall ?_))
  split
  · exact keeps_lockLine hk
  · exact hk

theorem keeps_dispatch {l : Nat} : Keeps s (dispatch t l) := by
  unfold dispatch
  refine keeps_ite hk ?_
  dsimp only
  split
  · exact hk
  · split
    · exact keeps_ite (keeps_modInstall (keeps_modSlice hk)) (keeps_modSlice hk)
    · split
      · exact keeps_ite (keeps_modInstall (keeps_modSlice hk)) (keeps_modSlice hk)
      · split
        · exact keeps_takeEvent (keeps_ite (keeps_modInstall (keeps_modSlice hk)) (keeps_modSlice hk))
        · exact keeps_turnOver (keeps_admitWaiting (keeps_replyTo (keeps_modInstall (keeps_ite (keeps_modInstall
            (keeps_modSlice hk)) (keeps_modSlice hk)))))

theorem keepsO_execHandlerBudgetExpire {slice : Nat} : KeepsO s (execHandlerBudgetExpire slice t) := by
  unfold execHandlerBudgetExpire
  split
  · exact keepsO_next hk
  · exact keepsO_next (keeps_ite (keeps_budgetEnd hk) hk)

end

end Sys2Proof.Machine
end

section
/-! The forms of the assayers, the atomics and the matrix engine keep the memories canonical (O8). -/

-- One theorem after the other: side by side, the many short ones would ask for more threads than memory allows.
set_option Elab.async false

namespace Sys2Proof.Machine

section
variable {s t : State} (hk : Keeps s t)
include hk

theorem keeps_refuseHandler {l : Nat} {h' : Handler} {va pa reason : Nat} :
    Keeps s (refuseHandler t l h' va pa reason) := keeps_asRecord (keeps_endHandler hk)

theorem keeps_chargeHandler {l : Nat} {h' : Handler} {regs : Tab Word} {cost : Nat} :
    Keeps s (chargeHandler t l h' regs cost) := keeps_modSlice (keeps_modInstall hk)

omit hk in
theorem Slice.dataOk_stalls {x : Slice} {n : Nat} (h : x.dataOk) : (x.stalls n).dataOk := by
  unfold Slice.stalls
  split
  · exact h
  · dsimp only
    unfold Slice.dataOk
    dsimp only
    split
    · exact h
    · next i hi => exact dataOk_tabPut h _ (h _ (mem_of_tabGet hi))

theorem keeps_settleHandler {l : Nat} {h : Handler} {r : HRes} (hr : KeepsH s r) : Keeps s (settleHandler t l h r) := by
  unfold settleHandler
  cases r with
  | go u regs cost => exact keeps_chargeHandler hr
  | stall u away => exact keeps_chargeHandler hr
  | bad f => exact keeps_breach hk
  | refused u va pa reason => exact keeps_refuseHandler hr
  | ends u => exact hr

omit hk in
theorem KeepsH.of_keeps {u : State} {r : HRes} (h : KeepsH u r) (hu : Keeps s u) : KeepsH s r := by
  cases r with
  | bad f => trivial
  | _ => exact Keeps.trans hu h

theorem keepsO_onHandler {body : State → Nat → Handler → Install → HRes} (hb : ∀ u l h i, KeepsH u (body u l h i)) :
    KeepsO s (onHandler body t) := by
  unfold onHandler
  split
  · split
    · split
      · exact keepsO_next (keeps_settleHandler hk (.of_keeps (hb _ _ _ _) hk))
      · exact keepsO_fault
    · exact keepsO_fault
  · exact keepsO_fault

theorem keeps_raiseAs {l ctx ts : Nat} : Keeps s (raiseAs t l ctx ts) := keeps_modInstall hk

theorem keepsH_asPull {l : Nat} {h : Handler} {x : Xlate} {data : List Byte} {go : State → List Byte → Bool → HRes}
    (hg : ∀ u bs bad, KeepsH u (go u bs bad)) : KeepsH s (asPull t l h x data go) := by
  unfold asPull
  split
  · exact keepsH_refused hk
  · split
    · split
      · exact keepsH_refused hk
      · split
        · exact .of_keeps (hg _ _ _) (State.keeps_caughtIf hk)
        · exact keepsH_stall hk
    · exact keepsH_stall (keeps_sendExt hk)

theorem keepsH_asLdForm {rd rs1 : BitVec 5} {l : Nat} {h' : Handler} {y5 : Install} :
    KeepsH s (asLdForm rd rs1 t l h' y5) := by
  unfold asLdForm
  dsimp only
  split
  · exact keepsH_bad
  · split
    · exact keepsH_go hk
    · split
      · exact keepsH_asPull (keeps_noteXlate hk) (fun _ _ _ => keepsH_go (keeps_countPoisonRead (.refl _)))
      · refine keepsH_go (keeps_countPoisonRead ?_)
        split
        · exact keeps_raiseAs (keeps_ownerLoad (keeps_detect (keeps_asMode (keeps_touchQuiet (keeps_noteXlate hk)))))
        · exact keeps_raiseAs (keeps_homeRead (keeps_detect (keeps_asMode (keeps_touchQuiet (keeps_noteXlate hk)))))

theorem keepsH_asStForm {rs1 rs2 : BitVec 5} {l : Nat} {h' : Handler} {y5 : Install} :
    KeepsH s (asStForm rs1 rs2 t l h' y5) := by
  unfold asStForm
  dsimp only
  split
  · exact keepsH_bad
  · split
    · exact keepsH_go hk
    · split
      · exact keepsH_refused (keeps_noteXlate hk)
      · split
        · exact keepsH_go (keeps_extMonitors (keeps_sendExt (keeps_noteXlate hk)))
        · exact keepsH_go (keeps_raiseAs (keeps_clearCovered (keeps_ownerStore (keeps_asMode (keeps_touchQuiet
            (keeps_noteXlate hk))))))

theorem keepsH_asCasForm {rd rs1 rs2 rs3 : BitVec 5} {l : Nat} {h' : Handler} {y7 : Install} :
    KeepsH s (asCasForm rd rs1 rs2 rs3 t l h' y7) := by
  unfold asCasForm
  dsimp only
  split
  · exact keepsH_bad
  · split
    · exact keepsH_go hk
    · split
      · exact keepsH_refused (keeps_unconsumed (keeps_noteXlate hk))
      · split
        · exact keepsH_asPull (keeps_noteXlate hk) (fun _ _ _ => keepsH_go (keeps_countPoisonRead (keeps_ite
            (keeps_extMonitors (.refl _)) (.refl _))))
        · exact keepsH_go (keeps_countPoisonRead (keeps_raiseAs (keeps_ownerAtomic (keeps_detect (keeps_asMode
            (keeps_touchQuiet (keeps_noteXlate hk)))))))

theorem keeps_prefetchSkipped {l ctx va n : Nat} : Keeps s (prefetchSkipped t l ctx va n) := by
  unfold prefetchSkipped
  refine keeps_foldl hk ?_
  intro u a
  split
  · exact .refl _
  · exact keeps_noteFail (.refl _)

theorem keepsH_asPfForm {rs1 rs2 : BitVec 5} {l : Nat} {h' : Handler} {y5 : Install} :
    KeepsH s (asPfForm rs1 rs2 t l h' y5) := by
  unfold asPfForm
  dsimp only
  split
  · exact keepsH_bad
  · split
    · exact keepsH_bad
    · split
      · exact keepsH_stall hk
      · exact keepsH_go (keeps_modSlice (keeps_foldl (keeps_prefetchSkipped hk) (fun _ _ => keeps_noteXlate (.refl _))))

theorem keepsH_asWakeForm {rs1 : BitVec 5} {l : Nat} {h' : Handler} {y4 : Install} :
    KeepsH s (asWakeForm rs1 t l h' y4) := by
  unfold asWakeForm
  dsimp only
  split
  · exact keepsH_bad
  · split
    · exact keepsH_go (keeps_evalMonitors (keeps_noteXlate hk))
    · exact keepsH_asPull (keeps_noteXlate hk) (fun _ _ _ => keepsH_go (keeps_ite (.refl _) (keeps_extMonitors (.refl
        _))))

theorem keepsH_asMsgForm {rd rs1 : BitVec 5} {l : Nat} {h' : Handler} {y5 : Install} :
    KeepsH s (asMsgForm rd rs1 t l h' y5) := by
  unfold asMsgForm
  dsimp only
  split
  · exact keepsH_go hk
  · exact keepsH_ends (keeps_chargeHandler (keeps_replyTo hk))

theorem keepsH_asTlbForm {rd rs1 : BitVec 5} {l : Nat} {h' : Handler} {y5 : Install} :
    KeepsH s (asTlbForm rd rs1 t l h' y5) := by
  unfold asTlbForm
  dsimp only
  split
  · exact keepsH_go (keeps_noteFail hk)
  · exact keepsH_go (keeps_noteXlate hk)

theorem keepsH_asLeftForm {rd : BitVec 5} {y2 : Nat} {h' : Handler} {y4 : Install} :
    KeepsH s (asLeftForm rd t y2 h' y4) := keepsH_go hk

theorem keepsH_asDoneForm {l : Nat} {h' : Handler} {y3 : Install} : KeepsH s (asDoneForm t l h' y3) :=
  keepsH_ends (keeps_endHandler (keeps_modInstall hk))

theorem keepsH_asEvtForm {rd : BitVec 5} {l : Nat} {h' : Handler} {y4 : Install} :
    KeepsH s (asEvtForm rd t l h' y4) := by
  unfold asEvtForm
  dsimp only
  split
  · exact keepsH_ends (keeps_endHandler (keeps_modInstall hk))
  · exact keepsH_ends (keeps_modSlice (keeps_takeEvent (keeps_endEvent (keeps_modInstall hk))))

theorem keepsCode_codeHalf {l : Nat} {h' : Handler} {va : Nat} : KeepsCode s (codeHalf t l h' va) := by
  unfold codeHalf
  dsimp only
  split
  · exact keepsCode_bad
  · split
    · exact keepsCode_bad
    · split
      · split
        · exact keepsCode_refused (keeps_noteXlate hk)
        · split
          · exact keepsCode_refused (keeps_noteXlate hk)
          · split
            · exact keepsCode_got (keeps_noteXlate hk)
            · exact keepsCode_away (keeps_noteXlate hk)
        · exact keepsCode_away (keeps_sendExt (keeps_noteXlate hk))
      · exact keepsCode_got (keeps_countPoisonRead (keeps_detect (keeps_ite (keeps_mergeLine (keeps_noteXlate hk))
          (keeps_noteXlate hk))))

theorem keepsCode_handlerCode {l : Nat} {h' : Handler} {i : Install} : KeepsCode s (handlerCode t l h' i) := by
  unfold handlerCode
  dsimp only
  split
  · exact keepsCode_bad
  · split
    · next he =>
        split
        · exact keepsCode_got (HCode.keeps_of_got (keepsCode_codeHalf hk) he)
        · split
          · exact keepsCode_bad
          · split
            · next he1 =>
                exact keepsCode_got (HCode.keeps_of_got (keepsCode_codeHalf (HCode.keeps_of_got (keepsCode_codeHalf
                  hk) he)) he1)
            · exact keepsCode_codeHalf (HCode.keeps_of_got (keepsCode_codeHalf hk) he)
    · exact keepsCode_codeHalf hk

theorem keeps_baseStep {l : Nat} {h' : Handler} {i : Install} {w len : Nat} : Keeps s (baseStep t l h' i w len) := by
  unfold baseStep
  dsimp only
  split
  · exact keeps_chargeHandler hk
  · exact keeps_ite (keeps_breach hk) (keeps_chargeHandler (keeps_countPoisonRead hk))
  · exact keeps_ite (keeps_breach hk) (keeps_chargeHandler (keeps_modInstall_of hk (fun _ h => memWrite_wf _ _ _ h)))
  · exact keeps_breach hk
  · exact keeps_breach hk

theorem keepsStep_handlerTurn {l stall : Nat} : KeepsStep s (handlerTurn t l stall) := by
  unfold handlerTurn
  split
  · exact keepsStep_idle
  · split
    · exact keepsStep_ends (keeps_endHandler hk)
    · extract_lets pause
      split
      · exact keepsStep_ends (keeps_budgetEnd hk)
      · split
        · exact keepsStep_ends (keeps_breach hk)
        · next he => exact keepsStep_ends (keeps_refuseHandler (HCode.keeps_of_refused (keepsCode_handlerCode hk) he))
        · next he => exact keepsStep_ends (keeps_chargeHandler (HCode.keeps_of_away (keepsCode_handlerCode hk) he))
        · next he =>
          have hgot := HCode.keeps_of_got (keepsCode_handlerCode hk) he
          extract_lets r word pause'
          split
          · exact keepsStep_ends (keeps_budgetEnd hgot)
          · next g u g' _ =>
            have hu : Keeps s u := keeps_chargeHandler hgot
            clear_value u g'
            split
            · exact keepsStep_ends (keeps_breach hu)
            · split
              · split
                · exact keepsStep_run hu
                · exact keepsStep_ends (keeps_breach hu)
              · exact keepsStep_ends (keeps_baseStep hu)

theorem Env.keeps_putLane {e : Env} {lane : Nat} {ws : List (Nat × Word)} : Keeps s (e.putLane t lane ws) :=
  keeps_ite (keeps_foldl hk (fun _ _ => Env.keeps_putS (.refl _))) (Env.keeps_putV hk)

theorem Env.keeps_poisoned {e : Env} {n : Nat} : Keeps s (e.poisoned t n) :=
  keeps_ite hk (Env.keeps_flag (keeps_foldl hk (fun _ _ => keeps_countPoisonRead (.refl _))))

theorem Env.keeps_takeLoad {e : Env} {g : Nat × LaneGot} : Keeps s (e.takeLoad t g) := by
  unfold Env.takeLoad
  split
  · exact Env.keeps_putLane hk
  · exact hk
  · exact Env.keeps_putLane hk

theorem keeps_loadForm {stashForm : Bool} {e : Env} : Keeps s (loadForm stashForm e t).st := by
  unfold loadForm
  dsimp only
  split
  · exact Res.keeps_exc hk
  · refine Env.keeps_withLanes hk ?_
    intro u a
    split
    · exact keeps_wait (Env.keeps_waitFills (.refl _))
    · exact keeps_lateOr (Env.keeps_poisoned (keeps_foldl (Env.keeps_raisePts (Env.keeps_loadAll (Env.keeps_endUses
        (.refl _)))) (fun _ _ => Env.keeps_takeLoad (.refl _))))

theorem Env.keeps_storeAll {e : Env} {ts : List (Nat × Target × List Byte)} : Keeps s (e.storeAll t ts).1.st :=
  keeps_foldl_of (f := fun a : Put × LateLane => a.1.st) hk (fun _ _ => Env.keeps_storeLane (.refl _))

theorem keeps_hostWords {core : Nat} {ts : List (Nat × Target × List Byte)} : Keeps s (hostWords t core ts) := by
  unfold hostWords
  refine keeps_foldl hk ?_
  intro u a
  split
  · exact keeps_ite (keeps_extMonitors (.refl _)) (.refl _)
  · exact .refl _

theorem keeps_storeForm {stashForm : Bool} {e : Env} : Keeps s (storeForm stashForm e t).st := by
  unfold storeForm
  dsimp only
  split
  · exact Res.keeps_exc hk
  · refine Env.keeps_withLanes hk ?_
    intro u a
    split
    · exact keeps_wait (Env.keeps_waitFills (.refl _))
    · exact keeps_lateOr (keeps_hostWords (Env.keeps_raisePts (keeps_settle (Env.keeps_storeAll (Env.keeps_endUses
        (.refl _))))))

theorem Env.keeps_atomLane {e : Env} {l : Nat} {x : Xlate} {f : Nat → Option Nat} {data : List Byte} :
    Keeps s (e.atomLane t l x f data).2 := by
  unfold Env.atomLane
  dsimp only
  split
  · exact Env.keeps_noteRefused (keeps_noteXlate hk)
  · split
    · exact keeps_sendExt (keeps_noteXlate hk)
    · exact keeps_ite (keeps_ownerAtomic (keeps_claimPriv (keeps_noteXlate hk))) (Env.keeps_raisePts
        (keeps_ownerAtomic (keeps_claimPriv (keeps_noteXlate hk))))

theorem Env.keeps_atomAll {e : Env} {step : Nat → Nat → Nat → Option Nat} {ts : List (Nat × Target × Nat × Nat)} :
    Keeps s (e.atomAll step t ts).2 := by
  unfold Env.atomAll
  refine keeps_foldl_of (f := fun a : List (Nat × LaneGot) × State => a.2) hk ?_
  intro u a
  dsimp only
  split
  · exact Env.keeps_atomLane (.refl _)
  · exact .refl _

theorem Env.keeps_takeAtom {e : Env} {g : Nat × LaneGot} : Keeps s (e.takeAtom t g) := by
  unfold Env.takeAtom
  split
  · exact Env.keeps_putLane hk
  · exact hk
  · exact Env.keeps_putLane hk

theorem keeps_atomForm {step : Nat → Nat → Nat → Option Nat} {e : Env} : Keeps s (atomForm step e t).st := by
  unfold atomForm
  dsimp only
  split
  · exact Res.keeps_exc hk
  · exact Env.keeps_withLanes hk (fun _ _ => keeps_lateOr (Env.keeps_poisoned (keeps_foldl (Env.keeps_atomAll
      (Env.keeps_endUses (.refl _))) (fun _ _ => Env.keeps_takeAtom (.refl _)))))

theorem keeps_atomOp {e : Env} : Keeps s (atomOp e t).st := keeps_atomForm hk

theorem keeps_casOp {e : Env} : Keeps s (casOp e t).st := keeps_atomForm hk

theorem Env.keeps_redOne {e : Env} {l : Nat} {x : Xlate} {v : Nat} : Keeps s (e.redOne t l x v).1 := by
  unfold Env.redOne
  dsimp only
  split
  · exact Env.keeps_noteRefused (keeps_noteXlate hk)
  · split
    · exact keeps_extMonitors (keeps_sendExt (keeps_freeBytes (keeps_noteXlate hk)))
    · exact keeps_ite (Env.keeps_raisePts (keeps_redWord (keeps_claimPriv (keeps_noteXlate hk)))) (keeps_redWord
        (keeps_claimPriv (keeps_noteXlate hk)))

theorem keeps_redForm {e : Env} : Keeps s (redForm e t).st := by
  unfold redForm
  dsimp only
  split
  · exact Res.keeps_exc hk
  · exact Env.keeps_withLanes hk (fun _ _ => keeps_lateOr (keeps_eachLane (Env.keeps_endUses (.refl _)) (fun _ _ _ =>
      Env.keeps_redOne (.refl _))))

theorem keeps_cleanForm {discard : Bool} {e : Env} : Keeps s (cleanForm discard e t).st := by
  unfold cleanForm
  dsimp only
  split
  · exact Res.keeps_exc (Env.keeps_dead (Env.keeps_uniVal hk))
  · split
    · exact keeps_done (Env.keeps_endUses (Env.keeps_dead (Env.keeps_uniVal hk)))
    · split
      · exact Env.keeps_laneTrap (Env.keeps_dead (Env.keeps_uniVal hk))
      · exact keeps_done (keeps_cleanLines (keeps_foldl (Env.keeps_endUses (Env.keeps_dead (Env.keeps_uniVal hk)))
          (fun _ _ => keeps_noteXlate (.refl _))))

theorem keeps_fenceForm {e : Env} : Keeps s (fenceForm e t).st := by
  unfold fenceForm
  split
  · exact keeps_wait hk
  · exact keeps_done (Env.keeps_fenced hk)

theorem Env.keeps_sendMessage {e : Env} {slice : Nat} {x : Xlate} {payload : Word} :
    Keeps s (e.sendMessage t slice x payload) :=
    keeps_ite (keeps_discharge (keeps_raiseEvent (keeps_update (keeps_joinAll (keeps_fresh hk))))) (keeps_raiseEvent
      (keeps_update (keeps_joinAll (keeps_fresh hk))))

theorem keeps_amsgForm {e : Env} : Keeps s (amsgForm e t).st := by
  unfold amsgForm
  dsimp only
  split
  · exact Env.keeps_laneTrap (Env.keeps_dead (Env.keeps_uniVal hk))
  · split
    · exact Env.keeps_laneTrap (Env.keeps_dead (Env.keeps_uniVal hk))
    · split
      · exact Env.keeps_laneTrap (Env.keeps_dead (Env.keeps_uniVal hk))
      · split
        · exact keeps_done (keeps_dischargeBoth (Env.keeps_putS (Env.keeps_obligeFlags (Env.keeps_endUses
            (keeps_noteXlate (Env.keeps_dead (Env.keeps_uniVal hk)))))))
        · split
          · exact keeps_done (Env.keeps_sendMessage (Env.keeps_obligeFlags (Env.keeps_endUses (keeps_noteXlate
              (Env.keeps_dead (Env.keeps_uniVal hk))))))
          · exact keeps_done (keeps_dischargeBoth (Env.keeps_putS (Env.keeps_obligeFlags (Env.keeps_endUses
              (keeps_noteXlate (Env.keeps_dead (Env.keeps_uniVal hk)))))))

theorem keeps_raiseEng {crew ts : Nat} : Keeps s (raiseEng t crew ts) := keeps_modCrew hk

theorem UnitWho.keeps_ask {u : UnitWho} {n : Nat} {x : Xlate} : Keeps s (u.ask t n x).2 := by
  unfold UnitWho.ask
  split
  · exact hk
  · exact keeps_sendExt hk

theorem UnitWho.keeps_refused {u : UnitWho} {reason : Nat} {x : Xlate} {write : Bool} :
    Keeps s (u.refused t reason x write) :=
    keeps_ite (keeps_noteOwner (keeps_noteXlate hk)) (keeps_unconsumed (keeps_noteOwner (keeps_noteXlate hk)))

theorem UnitWho.keeps_noteFail {u : UnitWho} {va : Nat} {f : XFail} : Keeps s (u.noteFail t va f) :=
  Machine.keeps_noteFail hk

theorem UnitWho.keepsOk_read {u : UnitWho} {stash swz : Bool} {a n : Nat} :
    KeepsOk (fun x => x.2.2) s (u.read t stash swz a n) := by
  unfold UnitWho.read
  dsimp only
  split
  · exact keepsOk_error
  · split
    · split
      · exact keepsOk_error
      · exact keepsOk_ok (keeps_raiseEng (keeps_stashLoad hk))
    · split
      · exact keepsOk_error
      · split
        · exact keepsOk_error
        · split
          · exact keepsOk_error
          · split
            · split
              · exact keepsOk_error
              · split
                · exact keepsOk_ok (State.keeps_caughtIf (keeps_claimPriv (keeps_noteXlate hk)))
                · exact keepsOk_error
            · split
              · exact keepsOk_ok (keeps_detect (keeps_claimPriv (keeps_noteXlate hk)))
              · split
                · exact keepsOk_ok (keeps_raiseEng (keeps_homeRead (keeps_asMode (keeps_claimPriv (keeps_noteXlate
                    hk)))))
                · exact keepsOk_ok (keeps_raiseEng (keeps_loadHbm (keeps_claimPriv (keeps_noteXlate hk))))

theorem UnitWho.keepsOk_write {u : UnitWho} {stash swz : Bool} {a : Nat} {bs : List Byte} :
    KeepsOk (fun x => x.2) s (u.write t stash swz a bs) := by
  unfold UnitWho.write
  dsimp only
  split
  · exact keepsOk_error
  · split
    · split
      · exact keepsOk_error
      · split
        · exact keepsOk_ok (keeps_modCore_of hk (fun _ h => memWrite_wf _ _ _ h))
        · exact keepsOk_ok (keeps_raiseEng (keeps_stashStore hk))
    · split
      · exact keepsOk_error
      · split
        · exact keepsOk_error
        · split
          · exact keepsOk_error
          · split
            · exact keepsOk_error
            · split
              · exact keepsOk_ok (keeps_extMonitors (keeps_sendExt (keeps_claimPriv (keeps_noteXlate hk))))
              · split
                · exact keepsOk_ok (keeps_setMem (keeps_claimPriv (keeps_noteXlate hk)) (memWrite_wf _ _ _))
                · split
                  · exact keepsOk_ok (keeps_evalRange (keeps_setMem (keeps_setLine (keeps_homeRead (keeps_asMode
                      (keeps_claimPriv (keeps_noteXlate hk))))) (memWrite_wf _ _ _)))
                  · exact keepsOk_ok (keeps_raiseEng (keeps_storeHbm (keeps_claimPriv (keeps_noteXlate hk))))

theorem UnitWho.keepsOk_readElem {u : UnitWho} {t' : Shape} {xs : List Int} :
    KeepsOk (fun x => x.2.2) s (u.readElem t t' xs) := by
  unfold UnitWho.readElem
  dsimp only
  split
  · exact keepsOk_ok hk
  · split
    · exact keepsOk_error
    · next he1 =>
        exact keepsOk_ok ((UnitWho.keepsOk_read hk) _ he1)

theorem UnitWho.keepsOk_writeElem {u : UnitWho} {t' : Shape} {xs : List Int} {v : Nat} :
    KeepsOk (fun x => x.2) s (u.writeElem t t' xs v) := by
  unfold UnitWho.writeElem
  dsimp only
  split
  · exact keepsOk_ok hk
  · split <;> exact UnitWho.keepsOk_write hk

theorem keeps_taint {core : Nat} {cov : List Cover} : Keeps s (taint t core cov) := by
  unfold taint
  refine keeps_foldl hk ?_
  intro u a
  dsimp only
  split
  · exact keeps_poisonRange (.refl _)
  · exact keeps_modCore (.refl _)
  · exact .refl _

theorem keeps_unitRecord {u : UnitWho} {cls sev path reason : Nat} {va pa : Option Nat} :
    Keeps s (unitRecord t u cls sev path reason va pa) := keeps_errRecord hk

theorem keeps_putHoistRecord {core slot : Nat} {h' : HoistCmd} {ivec : Nat} :
    Keeps s (putHoistRecord t core slot h' ivec) := keeps_modCtx (keeps_pokeNat (keeps_unitWrite (keeps_unitWrite hk)))

theorem keeps_unitFlags {crew : Nat} {f : Flags} : Keeps s (unitFlags t crew f) := keeps_ite hk (keeps_orSticky hk)

theorem keeps_unitDerr {u : UnitWho} {reads : Nat} : Keeps s (unitDerr t u reads) :=
  keeps_ite hk (keeps_unitFlags (keeps_foldl hk (fun _ _ => keeps_countPoisonRead (.refl _))))



theorem Env.keeps_enqueue {e : Env} {t1 t2 : Shape} {mask : Word} {scale : Nat} {tiles : List Nat}
    {f : Macros → Macros} : Keeps s (e.enqueue t t1 t2 mask scale tiles f).st := by
  unfold Env.enqueue
  dsimp only
  split
  · exact keeps_wait hk
  · exact keeps_done (keeps_modCore (keeps_raiseEng (Env.keeps_obligeFlags (Env.keeps_endUses hk))))

theorem keeps_mldForm {e : Env} : Keeps s (mldForm e t).st := by
  unfold mldForm
  dsimp only
  split
  · split
    · exact Res.keeps_exc hk
    · exact Env.keeps_enqueue hk
  · split
    · exact Res.keeps_exc hk
    · exact Env.keeps_enqueue hk

theorem keeps_mmulForm {e : Env} : Keeps s (mmulForm e t).st := by
  unfold mmulForm
  dsimp only
  split
  · split
    · split
      · exact Res.keeps_exc hk
      · exact Env.keeps_enqueue hk
    · split
      · exact Res.keeps_exc hk
      · exact Env.keeps_enqueue hk
  · split
    · exact Res.keeps_exc hk
    · exact Env.keeps_enqueue hk

theorem keeps_mzeroForm {e : Env} : Keeps s (mzeroForm e t).st := by
  unfold mzeroForm
  dsimp only
  split
  · exact Res.keeps_exc hk
  · exact Env.keeps_enqueue hk

theorem keeps_mrdForm {e : Env} : Keeps s (mrdForm e t).st := by
  unfold mrdForm
  dsimp only
  split
  · exact Res.keeps_exc (Env.keeps_dead hk)
  · exact Env.keeps_enqueue (Env.keeps_dead hk)

theorem keeps_mredForm {e : Env} : Keeps s (mredForm e t).st := by
  unfold mredForm
  dsimp only
  split
  · exact Res.keeps_exc hk
  · exact Env.keeps_enqueue hk

theorem keeps_mwaitForm {e : Env} : Keeps s (mwaitForm e t).st := by
  unfold mwaitForm
  split
  · exact Res.keeps_exc hk
  · split
    · exact keeps_wait hk
    · exact keeps_done (Env.keeps_observe hk)

theorem keeps_mkwForm {e : Env} : Keeps s (mkwForm e t).st :=
  keeps_done (keeps_modCrew (Env.keeps_endUses (Env.keeps_uniVal hk)))

theorem keeps_mkrForm {e : Env} : Keeps s (mkrForm e t).st := keeps_done (Env.keeps_putS hk)

omit hk in
theorem EngAcc.keeps_refused {a : EngAcc} (hk : Keeps s a.st) {u : UnitWho} {reason : Nat} {va pa : Option Nat} :
    Keeps s (a.refused u reason va pa).st := keeps_ite hk (keeps_unitRecord hk)

omit hk in
theorem EngAcc.keeps_stop {a : EngAcc} (hk : Keeps s a.st) {u : UnitWho} {f : UStop} : Keeps s (a.stop u f).st := by
  unfold EngAcc.stop
  split
  · exact EngAcc.keeps_refused (UnitWho.keeps_noteFail hk)
  · exact EngAcc.keeps_refused hk
  · exact EngAcc.keeps_refused (UnitWho.keeps_refused hk)
  · exact hk
  · exact hk

omit hk in
theorem EngAcc.keeps_elem {a : EngAcc} (hk : Keeps s a.st) {u : UnitWho} {t' : Shape} {xs : List Int} :
    Keeps s (a.elem u t' xs).2.st := by
  unfold EngAcc.elem
  dsimp only
  split
  · exact EngAcc.keeps_stop hk
  · split
    · exact EngAcc.keeps_stop hk
    · next he1 =>
        exact (UnitWho.keepsOk_readElem hk) _ he1

omit hk in
theorem EngAcc.keeps_elems {a : EngAcc} (hk : Keeps s a.st) {u : UnitWho} {t' : Shape} {xs : List (List Int)} :
    Keeps s (a.elems u t' xs).2.st :=
    keeps_foldl_of (f := fun a : List (Nat × Bool) × EngAcc => a.2.st) hk (fun _ _ => EngAcc.keeps_elem (.refl _))

omit hk in
theorem keeps_mldBlock {a : EngAcc} (hk : Keeps s a.st) {core : Nat} {c : EngCmd} {arr : Nat} {bf : Bool}
    {m j col : Nat} : Keeps s (mldBlock core c arr bf m j col a).st := by
  unfold mldBlock
  refine keeps_modCore ?_
  split
  · exact EngAcc.keeps_elem (EngAcc.keeps_elems hk)
  · exact EngAcc.keeps_elems hk

theorem keeps_startMld {core : Nat} {c : EngCmd} : Keeps s (startMld t core c) := keeps_modCore hk

omit hk in
theorem keeps_mldStep {a : EngAcc} (hk : Keeps s a.st) {core : Nat} {c : EngCmd} {p : Nat} :
    Keeps s (mldStep core c p a).st := by
  unfold mldStep
  refine keeps_foldl_of (f := fun a : EngAcc => a.st) ?_ (fun _ _ => keeps_mldBlock (.refl _))
  split
  · exact keeps_startMld hk
  · exact hk

theorem keeps_poisonTiles {core : Nat} {ts : List Nat} : Keeps s (poisonTiles t core ts) := keeps_modCore hk

theorem keeps_noteFed {core : Nat} {ts : List Nat} : Keeps s (noteFed t core ts) := keeps_modCore hk

theorem keeps_engineFinds {core : Nat} {c : EngCmd} : Keeps s (engineFinds t core c) :=
  keeps_update (keeps_errRecord hk)

theorem keeps_readPair {core : Nat} {c : EngCmd} {k : Nat} : Keeps s (readPair t core c k).2 := by
  unfold readPair
  split
  · exact hk
  · exact keeps_ite (keeps_engineFinds (keeps_modCore hk)) hk

theorem keeps_findBlocks {core : Nat} {c : EngCmd} : Keeps s (findBlocks t core c) :=
  keeps_foldl hk (fun _ _ => keeps_modCore (keeps_update (keeps_engineFinds (.refl _))))

omit hk in
theorem keeps_mmulRow {a : EngAcc} (hk : Keeps s a.st) {core : Nat} {c : EngCmd} {row : Nat} :
    Keeps s (mmulRow core c row a).1.st := by
  unfold mmulRow
  refine keeps_noteFed (keeps_ite (keeps_poisonTiles (keeps_modCore (keeps_foldl_of (f := fun a : Nat × State => a.2) ?_
    ?_))) (keeps_modCore (keeps_foldl_of (f := fun a : Nat × State => a.2) ?_ ?_)))
  · split
    · exact EngAcc.keeps_elems (EngAcc.keeps_elems (keeps_findBlocks hk))
    · exact EngAcc.keeps_elems (keeps_findBlocks hk)
  · intro u a
    dsimp only
    split
    · exact .refl _
    · exact keeps_readPair (.refl _)
  · split
    · exact EngAcc.keeps_elems (EngAcc.keeps_elems (keeps_findBlocks hk))
    · exact EngAcc.keeps_elems (keeps_findBlocks hk)
  · intro u a
    dsimp only
    split
    · exact .refl _
    · exact keeps_readPair (.refl _)

theorem keeps_setEng {core i : Nat} {c : EngCmd} : Keeps s (setEng t core i c) := keeps_modCore hk

theorem keepsOpt_engTurn {core : Nat} : KeepsOpt (fun x => x.2.2) s (engTurn t core) := by
  unfold engTurn
  dsimp only
  split
  · exact keepsOpt_none
  · exact keepsOpt_some hk
  · intro x hx
    obtain ⟨c, -, rfl⟩ := Option.map_eq_some_iff.mp hx
    exact keeps_draw hk

omit hk in
theorem EngAcc.keeps_settle {a : EngAcc} (hk : Keeps s a.st) {u : UnitWho} : Keeps s (a.settle u) :=
  keeps_ite (keeps_unitDerr hk) (keeps_unitFlags (keeps_unitDerr hk))

theorem keeps_mmulPoison {core : Nat} {c : EngCmd} : Keeps s (mmulPoison t core c) :=
  keeps_ite hk (keeps_unitFlags (keeps_poisonTiles hk))

theorem keeps_engineHold {core i : Nat} {c : EngCmd} {f : UStop} : Keeps s (engineHold t core i c f) := by
  unfold engineHold
  dsimp only
  split
  · exact keeps_setEng (UnitWho.keeps_ask hk)
  · exact keeps_setEng hk

theorem keepsO_execMmulRowCommit {core : Nat} : KeepsO s (execMmulRowCommit core t) := by
  unfold execMmulRowCommit
  dsimp only
  split
  · exact keepsO_next hk
  · split
    · exact keepsO_next hk
    · split
      · exact keepsO_next hk
      · split
        · exact keepsO_next (keeps_engineHold hk)
        · exact keepsO_next (keeps_setEng (keeps_ite (keeps_discharge (keeps_mmulPoison (keeps_unitFlags
            (EngAcc.keeps_settle (keeps_mmulRow hk))))) (keeps_mmulPoison (keeps_unitFlags (EngAcc.keeps_settle
            (keeps_mmulRow hk))))))

theorem keeps_mzeroStep {core : Nat} {c : EngCmd} {p : Nat} : Keeps s (mzeroStep t core c p) := keeps_modCore hk

omit hk in
theorem keeps_mrdElem {a : EngAcc × List Cover × List Cover × Flags} (hk : Keeps s a.1.st) {core : Nat} {c : EngCmd}
    {p : Nat × Nat} : Keeps s (mrdElem core c a p).1.st := by
  unfold mrdElem
  dsimp only
  split
  · exact EngAcc.keeps_stop (keeps_readPair hk)
  · next he => exact UnitWho.keepsOk_writeElem (keeps_readPair hk) _ he

theorem keeps_noteOut {core : Nat} {c : EngCmd} : Keeps s (noteOut t core c) := keeps_modCore hk

omit hk in
theorem keeps_mrdStep {a : EngAcc} (hk : Keeps s a.st) {core : Nat} {c : EngCmd} {p : Nat} :
    Keeps s (mrdStep core c p a).1.st :=
    keeps_ite (keeps_noteOut (keeps_taint (keeps_settle (keeps_foldl_of (f := fun a : EngAcc × List Cover × List Cover
      × Flags => a.1.st) hk (fun _ _ => keeps_mrdElem (.refl _)))))) (keeps_taint (keeps_settle (keeps_foldl_of (f :=
      fun a : EngAcc × List Cover × List Cover × Flags => a.1.st) hk (fun _ _ => keeps_mrdElem (.refl _)))))

omit hk in
theorem keeps_mredElem {a : EngAcc} (hk : Keeps s a.st) {core : Nat} {c : EngCmd} {p : Nat × Nat} :
    Keeps s (mredElem core c a p).st := by
  unfold mredElem
  dsimp only
  split
  · exact hk
  · split
    · exact EngAcc.keeps_stop (keeps_readPair hk)
    · split
      · exact EngAcc.keeps_stop (keeps_readPair hk)
      · split
        · exact EngAcc.keeps_stop (keeps_readPair hk)
        · split
          · split
            · exact keeps_claimPriv (keeps_noteXlate (keeps_readPair hk))
            · exact keeps_extMonitors (keeps_sendExt (keeps_freeBytes (keeps_claimPriv (keeps_noteXlate
                (keeps_readPair hk)))))
          · split
            · exact keeps_poisonRange (keeps_claimPriv (keeps_noteXlate (keeps_readPair hk)))
            · exact keeps_ite (keeps_raiseEng (keeps_redWord (keeps_claimPriv (keeps_noteXlate (keeps_readPair hk)))))
                (keeps_redWord (keeps_claimPriv (keeps_noteXlate (keeps_readPair hk))))

omit hk in
theorem keeps_mredStep {a : EngAcc} (hk : Keeps s a.st) {core : Nat} {c : EngCmd} {p : Nat} :
    Keeps s (mredStep core c p a).st := by
  unfold mredStep
  dsimp only
  split
  · exact keeps_noteOut (keeps_foldl_of (f := fun a : EngAcc => a.st) hk (fun _ _ => keeps_mredElem (.refl _)))
  · exact keeps_foldl_of (f := fun a : EngAcc => a.st) hk (fun _ _ => keeps_mredElem (.refl _))

theorem keeps_poisonBlocks {core : Nat} {c : EngCmd} : Keeps s (poisonBlocks t core c) := keeps_modCore hk

theorem keeps_finishEngine {core i : Nat} {c : EngCmd} : Keeps s (finishEngine t core i c) :=
  keeps_syncTiles (keeps_discharge (keeps_ite (keeps_modCore hk) (keeps_discharge (keeps_modCore hk))))

omit hk in
theorem keeps_engineStep {a : EngAcc} (hk : Keeps s a.st) {core : Nat} {c : EngCmd} {p : Nat} :
    Keeps s (engineStep core c p a).1.st := by
  unfold engineStep
  split
  · exact keeps_mldStep hk
  · exact keeps_mzeroStep hk
  · exact keeps_mrdStep hk
  · exact keeps_mredStep hk

theorem keeps_completeEngine {core i : Nat} {c : EngCmd} : Keeps s (completeEngine t core i c) :=
  keeps_ite (keeps_setEng hk) (keeps_finishEngine (keeps_ite (keeps_raiseCtx hk) hk))

theorem keepsO_execEngineInsnDone {core : Nat} : KeepsO s (execEngineInsnDone core t) := by
  unfold execEngineInsnDone
  dsimp only
  split
  · exact keepsO_next hk
  · next he =>
      split
      · exact keepsO_next (keeps_finishEngine (keeps_mmulPoison ((keepsOpt_engTurn hk) _ he)))
      · split
        · exact keepsO_next (keeps_finishEngine (keeps_poisonBlocks ((keepsOpt_engTurn hk) _ he)))
        · split
          · exact keepsO_next (keeps_completeEngine ((keepsOpt_engTurn hk) _ he))
          · split
            · exact keepsO_next (keeps_engineHold ((keepsOpt_engTurn hk) _ he))
            · exact keepsO_next (keeps_ite (keeps_completeEngine (keeps_unitFlags (EngAcc.keeps_settle
                (keeps_engineStep ((keepsOpt_engTurn hk) _ he))))) (keeps_setEng (keeps_unitFlags (EngAcc.keeps_settle
                (keeps_engineStep ((keepsOpt_engTurn hk) _ he))))))

theorem keeps_abandonEngine {core : Nat} {c : EngCmd} : Keeps s (abandonEngine t core c) := by
  unfold abandonEngine
  dsimp only
  split
  · exact keeps_modCore (keeps_ite (keeps_startMld hk) hk)
  · exact keeps_poisonTiles hk
  · exact hk

theorem keepsO_execEngineWatchdogExpire {core : Nat} : KeepsO s (execEngineWatchdogExpire core t) := by
  unfold execEngineWatchdogExpire
  dsimp only
  split
  · exact keepsO_next hk
  · exact keepsO_next (keeps_finishEngine (keeps_unitFlags (keeps_abandonEngine (keeps_ite hk (keeps_unitRecord hk)))))

theorem keeps_fenceSub {core m sub : Nat} : Keeps s (fenceSub t core m sub) := by
  unfold fenceSub
  exact keeps_errRecord (keeps_foldl (keeps_poisonTiles (keeps_modCore hk)) (fun _ _ => keeps_unitFlags (.refl _)))

theorem keepsO_execMacroSelfTest {core : Nat} {failing : Option (Nat × Nat)} :
    KeepsO s (execMacroSelfTest core failing t) := by
  unfold execMacroSelfTest
  dsimp only
  split
  · exact keepsO_next hk
  · split
    · exact keepsO_next (keeps_modCore hk)
    · split
      · exact keepsO_next hk
      · exact keepsO_next (keeps_fenceSub hk)

end

end Sys2Proof.Machine
end

section
/-! The commands of the hoist, the exchanges of stash mappings and the scheduler keep the memories canonical (O8). -/

-- One theorem after the other: side by side, the many short ones would ask for more threads than memory allows.
set_option Elab.async false

namespace Sys2Proof.Machine

section
variable {s t : State} (hk : Keeps s t)
include hk

theorem Env.keeps_topLoad {e : Env} {reads : List Nat} : Keeps s (e.topLoad t reads).2.2 := by
  unfold Env.topLoad
  refine keeps_foldl_of (f := fun a : List (Nat × Bool) × Nat × State => a.2.2) hk ?_
  intro u a
  dsimp only
  split
  · split <;> exact Env.keeps_loadLane (.refl _)
  · exact .refl _

omit hk in
theorem Env.keeps_topRow {a : State × Nat × List Cover} (hk : Keeps s a.1) {e0 : Env} {t' : TopK} {base q : Nat} :
    Keeps s (e0.topRow t' base a q).1 :=
    keeps_modCrew (Env.keeps_raisePts (Env.keeps_storeAll (Env.keeps_raisePts (Env.keeps_topLoad hk))))

theorem keeps_bselTopkForm {e : Env} : Keeps s (bselTopkForm e t).st := by
  unfold bselTopkForm
  dsimp only
  split
  · exact Res.keeps_exc (Env.keeps_uniVal (Env.keeps_uniVal hk))
  · split
    · exact Env.keeps_laneTrap (Env.keeps_uniVal (Env.keeps_uniVal hk))
    · split
      · exact Env.keeps_laneTrap (Env.keeps_uniVal (Env.keeps_uniVal hk))
      · split
        · exact keeps_wait (Env.keeps_waitFills (Env.keeps_uniVal (Env.keeps_uniVal hk)))
        · exact keeps_lateOr (Env.keeps_poisoned (keeps_settle (keeps_foldl_of (f := fun a : State × Nat × List Cover
            => a.1) (Env.keeps_endUses (Env.keeps_uniVal (Env.keeps_uniVal hk))) (fun _ _ => Env.keeps_topRow (.refl
            _)))))

theorem Env.keeps_slotWait {e : Env} : Keeps s (e.slotWait t) := keeps_modCore hk

theorem Env.keeps_slotFound {e : Env} : Keeps s (e.slotFound t) := keeps_ite hk (keeps_modCore hk)

theorem Env.keeps_post {e : Env} {slot : Nat} {h' : HoistCmd} : Keeps s (e.post t slot h') :=
  keeps_modCore (keeps_raiseEng (Env.keeps_obligeFlags (Env.keeps_endUses hk)))

theorem keeps_hoistForm {e : Env} : Keeps s (hoistForm e t).st := by
  unfold hoistForm
  dsimp only
  split
  · exact Res.keeps_exc (Env.keeps_dead hk)
  · split
    · exact Res.keeps_exc (Env.keeps_dead hk)
    · split
      · exact Env.keeps_laneTrap (Env.keeps_dead hk)
      · split
        · exact keeps_wait (Env.keeps_slotWait (Env.keeps_dead hk))
        · exact keeps_done (Env.keeps_post (Env.keeps_dead (Env.keeps_slotFound (Env.keeps_dead hk))))

theorem keeps_hcmpForm {e : Env} : Keeps s (hcmpForm e t).st := by
  unfold hcmpForm
  dsimp only
  split
  · exact Res.keeps_exc (Env.keeps_uniVal (Env.keeps_uniVal hk))
  · split
    · exact Env.keeps_laneTrap (Env.keeps_uniVal (Env.keeps_uniVal hk))
    · split
      · exact keeps_wait (Env.keeps_slotWait (Env.keeps_uniVal (Env.keeps_uniVal hk)))
      · exact keeps_done (Env.keeps_post (Env.keeps_slotFound (Env.keeps_uniVal (Env.keeps_uniVal hk))))

theorem keeps_cwaitForm {e : Env} : Keeps s (cwaitForm e t).st := by
  unfold cwaitForm
  dsimp only
  split
  · exact keeps_done (Env.keeps_raisePts (Env.keeps_observe (Env.keeps_endUses (Env.keeps_uniVal hk))))
  · exact keeps_wait (Env.keeps_uniVal hk)

theorem keepsOk_rowIndex {core : Nat} {h' : HoistCmd} {p : Nat} :
    KeepsOk (fun x => x.2.2) s (rowIndex t core h' p) := by
  unfold rowIndex
  dsimp only
  split
  · exact keepsOk_ok hk
  · split
    · exact keepsOk_ok hk
    · split
      · exact keepsOk_ok hk
      · split
        · exact keepsOk_error
        · next he1 =>
            exact keepsOk_ok ((UnitWho.keepsOk_read hk) _ he1)

theorem RowAcc.keeps_from : Keeps s (RowAcc.from t).st := hk

omit hk in
theorem keepsRow_rowElem {a : RowAcc} (hk : Keeps s a.st) {core : Nat} {h' : HoistCmd} {xs xd : List Int} {j : Nat} :
    KeepsRow (fun x => x.st) s (rowElem core h' xs xd a j) := by
  unfold rowElem
  dsimp only
  split
  · exact keepsRow_error hk
  · next he =>
      split
      · exact keepsRow_error ((UnitWho.keepsOk_readElem hk) _ he)
      · next he1 =>
          exact keepsRow_ok ((UnitWho.keepsOk_writeElem ((UnitWho.keepsOk_readElem hk) _ he)) _ he1)

omit hk in
theorem keepsRow_rowElems {a : RowAcc} (hk : Keeps s a.st) {n core : Nat} {h' : HoistCmd} {xs xd : List Int} {j : Nat} :
    KeepsRow (fun x => x.st) s (rowElems n core h' xs xd a j) := by
  induction n generalizing core h' xs xd a j with
  | zero =>
    unfold rowElems
    exact keepsRow_ok hk
  | succ n ih =>
    unfold rowElems
    split
    · next he =>
        exact keepsRow_error ((keepsRow_rowElem hk).2 _ he)
    · next he =>
        exact ih ((keepsRow_rowElem hk).1 _ he)

omit hk in
theorem keeps_rowMarks {a : RowAcc} (hk : Keeps s a.st) {core : Nat} : Keeps s (rowMarks core a) :=
  keeps_taint (keeps_settle hk)

omit hk in
theorem keeps_rowEnd {a : RowAcc} (hk : Keeps s a.st) {core : Nat} {h' : HoistCmd} : Keeps s (rowEnd core h' a) :=
  keeps_unitFlags (keeps_unitDerr (keeps_rowMarks hk))

theorem keeps_beginRow {core : Nat} {h' : HoistCmd} {p : Nat} : Keeps s (beginRow t core h' p).2 := by
  unfold beginRow
  split
  · exact hk
  · split
    · next he =>
        exact (keepsOk_rowIndex hk) _ he
    · exact hk

theorem keepsOk_rowSides {core : Nat} {h' : HoistCmd} {p : Nat} :
    KeepsOk (fun x => x.2.2) s (rowSides t core h' p) := by
  unfold rowSides
  dsimp only
  split
  · exact keepsOk_ok hk
  · split
    · exact keepsOk_error
    · next he =>
        split <;> exact keepsOk_ok ((keepsOk_rowIndex hk) _ he)

theorem keepsRow_copyRow {core : Nat} {h' : HoistCmd} {p : Nat} : KeepsRow (fun x => x) s (copyRow t core h' p) := by
  unfold copyRow
  split
  · exact keepsRow_error (RowAcc.keeps_from hk)
  · next he =>
      exact keepsRow_ok (keeps_unitDerr ((keepsOk_rowSides hk) _ he))
  · next he =>
      split
      · next he1 =>
          exact keepsRow_error ((keepsRow_rowElems (RowAcc.keeps_from ((keepsOk_rowSides hk) _ he))).2 _ he1)
      · next he1 =>
          exact keepsRow_ok (keeps_rowEnd ((keepsRow_rowElems (RowAcc.keeps_from ((keepsOk_rowSides hk) _ he))).1 _
            he1))

theorem keepsRow_aheadElem {core : Nat} {h' : HoistCmd} {p j : Nat} :
    KeepsRow (fun x => x) s (aheadElem t core h' p j) := by
  unfold aheadElem
  split
  · exact keepsRow_error (RowAcc.keeps_from hk)
  · next he =>
      split
      · split
        · next he1 =>
            exact keepsRow_ok (keeps_rowEnd ((keepsRow_rowElem (RowAcc.keeps_from ((keepsOk_rowSides hk) _ he))).1 _
              he1))
        · next he1 =>
            exact keepsRow_error ((keepsRow_rowElem (RowAcc.keeps_from ((keepsOk_rowSides hk) _ he))).2 _ he1)
      · exact keepsRow_ok hk
  · exact keepsRow_ok hk

theorem keepsOk_cmpWrite {fuel : Nat} {u : UnitWho} {a : Nat} {bs : List Byte} {cov : List Cover} :
    KeepsOk (fun x => x.2) s (cmpWrite fuel u t a bs cov) := by
  induction fuel generalizing t u a bs cov with
  | zero =>
    unfold cmpWrite
    exact keepsOk_ok hk
  | succ n ih =>
    unfold cmpWrite
    dsimp only
    split
    · exact keepsOk_ok hk
    · split
      · exact keepsOk_error
      · next he =>
          exact ih ((UnitWho.keepsOk_write hk) _ he)

omit hk in
theorem keepsOk_cmpBlock {n : Nat} {u : UnitWho} {x : Shape} {g b : Nat} {a : State × List (Nat × Bool)}
    (hk : Keeps s a.1) : KeepsOk (fun x => x.1) s (cmpBlock n u x g b a) := by
  induction n generalizing a with
  | zero => exact keepsOk_ok hk
  | succ n ih =>
    unfold cmpBlock
    dsimp only
    split
    · exact keepsOk_error
    · next he => exact ih (UnitWho.keepsOk_readElem hk _ he)

omit hk in
theorem keepsOk_ite {ε β : Type} {f : β → State} {r q : Except ε β} {p : Prop} {_ : Decidable p} (hr : KeepsOk f s r)
    (hq : KeepsOk f s q) : KeepsOk f s (if p then r else q) := by
  split
  · exact hr
  · exact hq

omit hk in
theorem keepsOk_cmpGroup {n : Nat} {u : UnitWho} {x : Shape} {g : Nat} {a : State × List (List (Nat × Bool))}
    (hk : Keeps s a.1) : KeepsOk (fun x => x.1) s (cmpGroup n u x g a) := by
  induction n generalizing a with
  | zero => exact keepsOk_ok hk
  | succ n ih =>
    unfold cmpGroup
    split
    · exact keepsOk_error
    · next he => exact ih (keepsOk_cmpBlock hk _ he)

theorem keepsRow_compressRow {core : Nat} {h : HoistCmd} {g : Nat} :
    KeepsRow (fun x => x.1) s (compressRow t core h g) := by
  unfold compressRow
  dsimp only
  split
  · exact keepsRow_ok (keeps_unitFlags hk)
  · split
    · split
      · exact keepsRow_error hk
      · next he => exact keepsRow_ok (keeps_settle (keepsOk_cmpWrite hk _ he))
    · split
      · exact keepsRow_error hk
      · next he =>
        have hgroup := keepsOk_cmpGroup hk _ he
        split
        · exact keepsRow_error hk
        · next he =>
          have hdata := keepsOk_cmpWrite hgroup _ he
          split
          · exact keepsRow_error hk
          · next he =>
            have hmap := keepsOk_cmpWrite hdata _ he
            split
            · exact keepsRow_error hk
            · next he =>
              have hhead := keepsOk_ite (keepsOk_cmpWrite hmap) (keepsOk_ok (f := fun x : List Cover × State => x.2)
                hmap) _ he
              refine keepsRow_ok (keeps_unitDerr (keeps_foldl (keeps_settle hhead) fun u a => ?_))
              split
              · exact keeps_poisonRange (.refl _)
              · exact .refl _

theorem keeps_addCounter {core : Nat} {h' : HoistCmd} {n : Nat} : Keeps s (addCounter t core h' n) :=
  keeps_ite (keeps_modCore hk) hk

theorem keeps_finishCommand {core slot : Nat} {h' : HoistCmd} : Keeps s (finishCommand t core slot h') :=
  keeps_discharge (keeps_ite (keeps_modCore hk) (keeps_discharge (keeps_modCore hk)))

theorem keeps_putCommand {core slot : Nat} {h' : HoistCmd} : Keeps s (putCommand t core slot h') := keeps_modCore hk

theorem keeps_failCommand {core slot : Nat} {h' : HoistCmd} {rec : Option (Nat × Nat)} {va : Option Nat} :
    Keeps s (failCommand t core slot h' rec va) := by
  unfold failCommand
  refine keeps_finishCommand ?_
  split
  · exact keeps_unitRecord (keeps_addCounter (keeps_unitFlags hk))
  · exact keeps_addCounter (keeps_unitFlags hk)

theorem keeps_parkCommand {core slot : Nat} {h' : HoistCmd} {p : Park} : Keeps s (parkCommand t core slot h' p) := by
  unfold parkCommand
  exact keeps_unitRecord (keeps_putHoistRecord (keeps_putCommand hk))

omit hk in
theorem keeps_failRow {f : RowStop} (hk : Keeps s f.part.st) {core slot : Nat} {h' : HoistCmd} :
    Keeps s (failRow core slot h' f) := by
  unfold failRow
  dsimp only
  split
  · exact keeps_failCommand (keeps_unitRecord (UnitWho.keeps_refused (keeps_rowEnd hk)))
  · exact keeps_failCommand (keeps_rowEnd hk)
  · exact keeps_failCommand (UnitWho.keeps_noteFail (keeps_rowEnd hk))
  · exact keeps_rowEnd hk

theorem keeps_stopCommand {core slot : Nat} {h : HoistCmd} {f : RowStop} (hf : Keeps s f.part.st) :
    Keeps s (stopCommand t core slot h f) := by
  unfold stopCommand
  split
  · exact keeps_putCommand hk
  · exact keeps_putCommand (UnitWho.keeps_ask hk)
  · exact keeps_ite (keeps_parkCommand (UnitWho.keeps_noteFail (keeps_rowMarks hf))) (keeps_failRow hf)
  · exact keeps_failRow hf

omit hk in
theorem keeps_aheadStep {a : AheadAcc} (hk : Keeps s a.st) {core p j : Nat} : Keeps s (aheadStep core a p j).st := by
  unfold aheadStep
  split
  · exact hk
  · split
    · next he => exact (keepsRow_aheadElem hk).1 _ he
    · next he =>
      split
      · exact hk
      · exact hk
      · split
        · exact UnitWho.keeps_noteFail (keeps_rowMarks ((keepsRow_aheadElem hk).2 _ he))
        · exact hk
      · exact hk

omit hk in
theorem keepsOpt_aheadStep_fail {a : AheadAcc} (hk : Keeps s a.st) (hf : KeepsOpt (fun f => f.part.st) s a.fail)
    {core p j : Nat} : KeepsOpt (fun f => f.part.st) s (aheadStep core a p j).fail := by
  unfold aheadStep
  split
  · exact hf
  · split
    · exact hf
    · next he =>
      have hfail := keepsOpt_some (f := fun f : RowStop => f.part.st) ((keepsRow_aheadElem hk).2 _ he)
      split
      · exact hf
      · exact hf
      · split
        · exact hf
        · exact hfail
      · exact hfail

theorem keeps_runAhead {core : Nat} {h : HoistCmd} {ahead : Ahead} :
    Keeps s (runAhead t core h ahead).st ∧ KeepsOpt (fun f => f.part.st) s (runAhead t core h ahead).fail := by
  have hbegin (p : Nat) : Keeps s ((List.range p).foldl (fun (a : HoistCmd × State) p =>
      if h.pc < p then beginRow a.2 core a.1 p else a) (h, t)).2 := by
    refine keeps_foldl_of (f := fun a : HoistCmd × State => a.2) hk fun a p => ?_
    split
    · exact keeps_beginRow (.refl _)
    · rfl
  have helems (n : Nat) (l : List (Nat × Nat)) (a : AheadAcc)
      (ha : Keeps s a.st ∧ KeepsOpt (fun f => f.part.st) s a.fail) :
      let b := l.foldl (fun a t => if h.pc < t.1 && t.1 < n then aheadStep core a t.1 t.2 else a) a
      Keeps s b.st ∧ KeepsOpt (fun f => f.part.st) s b.fail := by
    induction l generalizing a with
    | nil => exact ha
    | cons x r ih =>
      refine ih _ ?_
      dsimp only
      split
      · exact ⟨keeps_aheadStep ha.1, keepsOpt_aheadStep_fail ha.1 ha.2⟩
      · exact ha
  unfold runAhead
  dsimp only
  split
  · exact ⟨hk, keepsOpt_none⟩
  · exact helems _ _ _ ⟨hbegin _, keepsOpt_none⟩

theorem keeps_commitRow {core slot : Nat} {h' : HoistCmd} : Keeps s (commitRow t core slot h') := by
  unfold commitRow
  refine keeps_ite (keeps_finishCommand (keeps_addCounter hk)) ?_
  split
  · exact keeps_ite (keeps_parkCommand (keeps_addCounter hk)) (keeps_putCommand (keeps_addCounter hk))
  · exact keeps_putCommand (keeps_addCounter hk)

theorem keeps_hoistRowDone {core slot : Nat} {ahead : Ahead} : Keeps s (hoistRowDone t core slot ahead) := by
  unfold hoistRowDone
  split
  · exact hk
  · refine keeps_ite hk ?_
    split
    · split
      · next he => exact keeps_stopCommand hk ((keepsRow_compressRow hk).2 _ he)
      · next he =>
        have hrow := (keepsRow_compressRow hk).1 _ he
        exact keeps_ite (keeps_finishCommand hrow) (keeps_commitRow hrow)
    · have hbegin := keeps_beginRow (core := core) (h' := ‹HoistCmd›) (p := (‹HoistCmd› : HoistCmd).pc) hk
      dsimp only
      split
      · next he => exact keeps_stopCommand hbegin ((keepsRow_copyRow hbegin).2 _ he)
      · next he =>
        obtain ⟨hahead, hfail⟩ := keeps_runAhead (core := core) (ahead := ahead) ((keepsRow_copyRow hbegin).1 _ he)
        split
        · next hf => exact keeps_failRow (hfail _ hf)
        · exact keeps_commitRow hahead

theorem keepsO_execHoistWatchdogExpire {core slot : Nat} : KeepsO s (execHoistWatchdogExpire core slot t) := by
  unfold execHoistWatchdogExpire
  split
  · exact keepsO_next hk
  · split
    · exact keepsO_next hk
    · exact keepsO_next (keeps_failCommand hk)

theorem keeps_exchange {core entry crew : Nat} {m : Mapping} : Keeps s (exchange t core entry crew m) := by
  unfold exchange
  refine keeps_foldl (keeps_modCrew (keeps_setMap (keeps_foldl (keeps_foldl hk fun _ _ => keeps_mergeLine (.refl _))
    fun u l => ?_))) fun _ _ => keeps_evalRange (.refl _)
  extract_lets pa a b c new newBad oldBad old stash p v x src y w z
  have hstash (hc : Memory.wf (u.core core).stash = true) : Memory.wf stash = true :=
    memWrite_wf _ _ _ (memClear_wf _ _ _ hc)
  clear_value stash p
  have hv : Keeps u v := keeps_setCore_of (.refl _) hstash
  clear_value src y v
  have hw : Keeps u w := keeps_noteRts (keeps_setLine hv)
  clear_value w new
  have hz : Keeps u z := keeps_clearCovered (keeps_setMem hw (memWrite_wf _ _ _))
  clear_value z
  exact keeps_foldl hz fun _ _ => keeps_poisonRange (.refl _)

theorem Env.keeps_keepRequest {e : Env} {r : StashReq} : Keeps s (e.keepRequest t r) := keeps_ite hk (keeps_modCore hk)

theorem Env.keeps_dropRequest {e : Env} {kind : Nat} : Keeps s (e.dropRequest t kind) := keeps_modCore hk

theorem keeps_hpubForm {e : Env} : Keeps s (hpubForm e t).st := by
  unfold hpubForm
  dsimp only
  split
  · exact Res.keeps_exc (Env.keeps_uniVal hk)
  · split
    · exact Res.keeps_exc (Env.keeps_uniVal hk)
    · split
      · exact keeps_done (keeps_dischargeBoth (keeps_exchange (keeps_raiseEng (Env.keeps_obligeFlags
          (Env.keeps_endUses (Env.keeps_dropRequest (Env.keeps_uniVal hk)))))))
      · exact keeps_wait (Env.keeps_keepRequest (Env.keeps_uniVal hk))

theorem keepsO_execHpubExchange {core entry : Nat} : KeepsO s (execHpubExchange core entry t) := by
  unfold execHpubExchange
  dsimp only
  split
  · split
    · exact keepsO_next hk
    · exact keepsO_next (keeps_noteIdle (keeps_advance (keeps_dischargeBoth (keeps_exchange (keeps_raiseEng
        (keeps_modCrew (keeps_modCore hk)))))))
  · exact keepsO_next hk

theorem keeps_schedTouch {die ctx va n : Nat} {need : Need} : Keeps s (schedTouch t die ctx va n need) :=
  keeps_ite hk (keeps_countPoisonRead (keeps_detectVirtual hk))

theorem keeps_touchLaunch {die ctx p : Nat} : Keeps s (touchLaunch t die ctx p) := by
  unfold touchLaunch
  dsimp only
  refine keeps_ite hk ?_
  split
  · exact keeps_foldl (keeps_schedTouch (keeps_schedTouch (keeps_ite (keeps_schedTouch hk) hk))) (fun _ _ => keeps_ite
      (keeps_schedTouch (.refl _)) (.refl _))
  · exact keeps_schedTouch (keeps_schedTouch (keeps_ite (keeps_schedTouch hk) hk))

theorem keeps_pullRanges {die ctx : Nat} {rs : List (Nat × Nat × Need)} : Keeps s (pullRanges t die ctx rs).2 := by
  unfold pullRanges
  dsimp only
  refine keeps_foldl_of (f := fun a : Bool × State => a.2) hk ?_
  exact fun u a => keeps_pullVirtual (.refl _)

theorem keeps_pullLaunch {die ctx p : Nat} : Keeps s (pullLaunch t die ctx p).2 := by
  unfold pullLaunch
  dsimp only
  split
  · exact keeps_pullRanges (keeps_pullRanges hk)
  · exact keeps_pullRanges hk

theorem keeps_launchPulled {die ctx p : Nat} : Keeps s (launchPulled t die ctx p) :=
  keeps_foldl hk (fun _ _ => keeps_pulled (.refl _))

theorem keeps_acceptLaunch {ring : Nat} : Keeps s (acceptLaunch t ring) := by
  unfold acceptLaunch
  split
  · exact hk
  · extract_lets ctx die q pull
    have hpull : Keeps s pull.2 := keeps_pullLaunch hk
    split
    · exact hk
    · split
      · exact hpull
      · next u v epoch w found x _ _ =>
        have hx : Keeps s x := keeps_launchPulled (keeps_touchLaunch (keeps_writeHead (keeps_modRing hpull)))
        clear_value x found
        split
        · exact keeps_errRecord (keeps_complete hx)
        · refine keeps_update (keeps_fresh ?_)
          split
          · exact keeps_modCtx hx
          · exact hx

theorem keeps_bindTiles {core ctx n : Nat} : Keeps s (bindTiles t core ctx n).2 := keeps_modCore hk

theorem keeps_placeAt {id core part : Nat} : Keeps s (placeAt t id core part) := by
  unfold placeAt
  dsimp only
  split
  · exact hk
  · refine keeps_takeRecords ?_
    split
    · exact keeps_modLaunch (keeps_ite (keeps_joinRing (keeps_modCtx (keeps_setCrew (keeps_bindTiles (keeps_takeCtrs
        (keeps_makeRoom hk)))))) (keeps_modCtx (keeps_setCrew (keeps_bindTiles (keeps_takeCtrs (keeps_makeRoom hk))))))
    · exact keeps_ite (keeps_joinRing (keeps_modCtx (keeps_setCrew (keeps_bindTiles (keeps_takeCtrs (keeps_makeRoom
        hk)))))) (keeps_modCtx (keeps_setCrew (keeps_bindTiles (keeps_takeCtrs (keeps_makeRoom hk)))))

theorem keeps_claimOne {l die : Nat} {x : Launch} {index : Nat} : Keeps s (claimOne t l die x index).2 :=
  keeps_setCrew (keeps_fresh hk)

theorem keeps_claimSome {n l die : Nat} : Keeps s (claimSome n t l die) := by
  induction n generalizing t l die with
  | zero =>
    unfold claimSome
    exact hk
  | succ n ih =>
    unfold claimSome
    dsimp only
    split
    · exact hk
    · exact keeps_ite hk (ih (keeps_modLaunch (keeps_claimOne hk)))

theorem keepsOpt_placeOnCores {ids order : List Nat} : KeepsOpt (fun x => x) s (placeOnCores t ids order) := by
  induction ids generalizing t with
  | nil => exact keepsOpt_some hk
  | cons id rest ih =>
    unfold placeOnCores
    split
    · exact keepsOpt_none
    · split
      · exact keepsOpt_none
      · split
        · exact keepsOpt_none
        · exact ih (keeps_placeAt hk)

theorem keepsOpt_placeAnywhere {ids dies : List Nat} : KeepsOpt (fun x => x) s (placeAnywhere t ids dies) := by
  induction ids generalizing t with
  | nil => exact keepsOpt_some hk
  | cons id rest ih =>
    unfold placeAnywhere
    split
    · exact keepsOpt_none
    · split
      · exact keepsOpt_none
      · exact ih (keeps_placeAt hk)

omit hk in
theorem keepsOpt_findSome? {α β : Type} {f : β → State} {g : α → Option β} (hg : ∀ a, KeepsOpt f s (g a)) {l : List α} :
    KeepsOpt f s (l.findSome? g) := by
  intro b hb
  obtain ⟨a, -, ha⟩ := List.exists_of_findSome?_eq_some hb
  exact hg a b ha

theorem keepsOpt_placeGroups {groups : List (List Nat)} {others dies : List Nat} :
    KeepsOpt (fun x => x) s (placeGroups t groups others dies) := by
  induction groups generalizing t with
  | nil => exact keepsOpt_placeAnywhere hk
  | cons g rest ih =>
    unfold placeGroups
    refine keepsOpt_findSome? fun d => ?_
    split
    · exact ih hk
    · split
      · exact keepsOpt_none
      · split
        · exact keepsOpt_none
        · next he => exact ih (keepsOpt_placeOnCores hk _ he)

theorem keeps_joinInOrder {before : State} {ids : List Nat} : Keeps s (joinInOrder before t ids) := by
  unfold joinInOrder
  refine keeps_foldl hk fun u core => keeps_ite (.refl _) (keeps_foldl (keeps_modCore (.refl _)) fun v id => ?_)
  split
  · exact keeps_joinRing (.refl _)
  · exact .refl _

theorem keepsOpt_placedClosure {die l : Nat} {x : Launch} : KeepsOpt (fun x => x) s (placedClosure t die l x) := by
  unfold placedClosure
  split
  · exact keepsOpt_none
  · dsimp only
    split
    · exact keepsOpt_none
    · next he =>
      refine keepsOpt_some (keeps_modLaunch (keeps_joinInOrder (keepsOpt_placeGroups ?_ _ he)))
      refine keeps_foldl_of (f := fun a : List (Nat × Nat) × State => a.2) hk fun _ _ => ?_
      exact keeps_modCrew (keeps_claimOne (.refl _))

theorem keepsO_execClaimCrews {die count : Nat} : KeepsO s (execClaimCrews die count t) := by
  unfold execClaimCrews
  split
  · exact keepsO_next hk
  · exact keepsO_next (keeps_claimSome hk)

theorem keepsO_execPlaceCrew {crew : Nat} : KeepsO s (execPlaceCrew crew t) := by
  unfold execPlaceCrew
  split
  · exact keepsO_next hk
  · split
    · exact keepsO_next hk
    · split
      · exact keepsO_next hk
      · exact keepsO_next (keeps_placeAt hk)

theorem keeps_placeClosure {die : Nat} : Keeps s (placeClosure t die) := by
  unfold placeClosure
  have hfound : KeepsOpt (fun x => x) s ((queuedOn t die).findSome? (fun e =>
      if e.2.nextInGang && !closureYields t die e.1 e.2 then placedClosure t die e.1 e.2 else none)) := by
    refine keepsOpt_findSome? fun e => ?_
    split
    · exact keepsOpt_placedClosure hk
    · exact keepsOpt_none
  cases he : (queuedOn t die).findSome? (fun e =>
      if e.2.nextInGang && !closureYields t die e.1 e.2 then placedClosure t die e.1 e.2 else none) with
  | none => exact hk
  | some u => exact hfound u he

end

end Sys2Proof.Machine
end

section
/-! Pre-emption, the engines' save areas, the rings and their commands, and the queues keep the memories canonical (O8). -/

-- One theorem after the other: side by side, the many short ones would ask for more threads than memory allows.
set_option Elab.async false

namespace Sys2Proof.Machine

section
variable {s t : State} (hk : Keeps s t)
include hk

theorem keepsO_execReservationStart {crew : Nat} : KeepsO s (execReservationStart crew t) := by
  unfold execReservationStart
  dsimp only
  split
  · split
    · exact keepsO_next (keeps_setCrew hk)
    · exact keepsO_next hk
  · split
    · split
      · exact keepsO_next (keeps_modLaunch hk)
      · exact keepsO_next hk
    · exact keepsO_next hk
  · exact keepsO_next hk

theorem keepsO_execBinTimerExpire {ctx node die : Nat} : KeepsO s (execBinTimerExpire ctx node die t) := by
  unfold execBinTimerExpire
  dsimp only
  split
  · split
    · exact keepsO_next (keeps_binLaunch hk)
    · exact keepsO_next hk
  · exact keepsO_next hk

theorem keepsO_execBinStallTimer {crew : Nat} : KeepsO s (execBinStallTimer crew t) := by
  unfold execBinStallTimer
  dsimp only
  split
  · exact keepsO_next hk
  · split
    · split
      · exact keepsO_next (keeps_errRecord (keeps_setCrew hk))
      · exact keepsO_next hk
    · exact keepsO_next hk

theorem keepsO_execSwapOut {crew : Nat} : KeepsO s (execSwapOut crew t) := by
  unfold execSwapOut
  split
  · exact keepsO_next hk
  · split
    · exact keepsO_next (keeps_swapOut hk)
    · exact keepsO_next hk

theorem keeps_getD {o : Option State} (ho : KeepsOpt (fun x => x) s o) : Keeps s (o.getD t) := by
  cases o with
  | none => exact hk
  | some u => exact ho u rfl

theorem keepsO_execSwapIn {crew : Nat} : KeepsO s (execSwapIn crew t) := by
  unfold execSwapIn
  split
  · exact keepsO_next hk
  · split
    · split
      · exact keepsO_next hk
      · exact keepsO_next (keeps_getD (keeps_restoreFrom (keeps_makeRoom hk)) (keepsOpt_resetAtRestore hk))
    · exact keepsO_next hk

omit hk in
theorem macroRegions_wf {m : Mem} {a : Nat} {x : Macros} (hm : Memory.wf m = true) :
    Memory.wf (macroRegions m a x) = true :=
    wf_foldl (fun _ _ => memWrite_wf _ _ _) (wf_foldl (fun _ _ => memWrite_wf _ _ _) hm)

theorem keeps_findLost {core ctx : Nat} : Keeps s (findLost t core ctx) := by
  unfold findLost
  refine keeps_ite hk ?_
  dsimp only
  split
  · exact keeps_findBlocks hk
  · exact keeps_modCore (keeps_foldl hk (fun _ _ => keeps_errRecord (.refl _)))

theorem keeps_writeEngines {core ctx : Nat} : Keeps s (writeEngines t core ctx) := by
  unfold writeEngines
  extract_lets u a co cmds insns m1 m2 m3 m4 m5 v keys w
  have hu : Keeps s u := keeps_findLost hk
  have hm3 (h : Memory.wf u.mem = true) : Memory.wf m3 = true :=
    wf_foldl (fun _ _ h => memWrite_wf _ _ _ (memWrite_wf _ _ _ h)) (memWrite_wf _ _ _ (memClear_wf _ _ _ h))
  have hm4 (h : Memory.wf u.mem = true) : Memory.wf m4 = true := wf_foldl (fun _ _ => memWrite_wf _ _ _) (hm3 h)
  clear_value m3 m4
  have hm5 (h : Memory.wf u.mem = true) : Memory.wf m5 = true := by
    dsimp only [m5]
    split
    · exact macroRegions_wf (hm4 h)
    · exact hm4 h
  clear_value m5
  exact keeps_modCore (keeps_modCtx (keeps_unitNote (keeps_setMem hu hm5)))

theorem keeps_saveEngines {core ctx : Nat} : Keeps s (saveEngines t core ctx) :=
  keeps_ite hk (keeps_ite (keeps_modCtx hk) (keeps_ite (keeps_resetContext hk) (keeps_modCtx (keeps_writeEngines hk))))

theorem keeps_saveHalted {id : Nat} : Keeps s (saveHalted t id) := by
  unfold saveHalted
  split
  · exact hk
  · exact keeps_ite hk (keeps_ite (keeps_postBreak (keeps_saveCrew hk)) (keeps_saveCrew hk))

theorem keeps_pokeLamp {core id : Nat} : Keeps s (pokeLamp t core id) := by
  unfold pokeLamp
  split
  · exact hk
  · split
    · exact keeps_pokeNat hk
    · exact hk

theorem keeps_closeRing {core ctx : Nat} : Keeps s (closeRing t core ctx) :=
  keeps_ite hk (keeps_modCore (keeps_foldl hk (fun _ _ => keeps_pokeLamp (.refl _))))

theorem keeps_settlePreempt {ctx : Nat} : Keeps s (settlePreempt t ctx) := keeps_ite (keeps_modCtx hk) hk

theorem keeps_eachCrew {ctx : Nat} {f : Crew → Crew} : Keeps s (eachCrew t ctx f) := keeps_update hk

theorem keeps_beginPreempt {ctx : Nat} : Keeps s (beginPreempt t ctx) :=
  keeps_modCtx (keeps_eachCrew (keeps_dropMonitors hk))

theorem keeps_haltCrews {ctx : Nat} : Keeps s (haltCrews t ctx) :=
  keeps_settlePreempt (keeps_modCtx (keeps_eachCrew (keeps_eachCrew (keeps_dropMonitors hk))))

theorem keeps_saveCore {core ctx : Nat} : Keeps s (saveCore t core ctx) :=
  keeps_ite hk (keeps_ite (keeps_foldl hk (fun _ _ => keeps_ite (keeps_saveHalted (.refl _)) (.refl _))) (keeps_ite
    (keeps_saveEngines (keeps_foldl hk (fun _ _ => keeps_ite (keeps_saveHalted (.refl _)) (.refl _))))
    (keeps_settlePreempt (keeps_closeRing (keeps_saveEngines (keeps_foldl hk (fun _ _ => keeps_ite (keeps_saveHalted
    (.refl _)) (.refl _))))))))

theorem keepsO_execSaveDelayTimer {crew : Nat} : KeepsO s (execSaveDelayTimer crew t) := by
  unfold execSaveDelayTimer
  dsimp only
  split
  · exact keepsO_next hk
  · split
    · exact keepsO_next (keeps_errRecord (keeps_modCtx hk))
    · exact keepsO_next hk

theorem keeps_readEngines {core ctx : Nat} : Keeps s (readEngines t core ctx) := by
  unfold readEngines
  refine keeps_modCore (keeps_foldl hk ?_)
  intro u a
  dsimp only
  split
  · exact keeps_modCore (.refl _)
  · exact .refl _

theorem keeps_reopenRing {core ctx : Nat} {ms : List (Nat × Nat × Bool)} : Keeps s (reopenRing t core ctx ms) :=
  keeps_ite hk (keeps_modCore hk)

theorem keeps_reopenCore {core ctx : Nat} {ms : List (Nat × Nat × Bool)} : Keeps s (reopenCore t core ctx ms) := by
  unfold reopenCore
  dsimp only
  split
  · exact hk
  · exact keeps_ite (keeps_resetContext hk) (keeps_ite (keeps_resetContext (keeps_detect hk)) (keeps_modCtx (keeps_ite
      (keeps_readEngines (keeps_reopenRing hk)) (keeps_reopenRing hk))))

theorem keepsOpt_restoreOne {id : Nat} : KeepsOpt (fun x => x) s (restoreOne t id) := by
  unfold restoreOne
  dsimp only
  split
  · exact keepsOpt_none
  · split
    · exact keepsOpt_none
    · split
      · exact keepsOpt_none
      · split
        · next he2 =>
            exact keepsOpt_some ((keepsOpt_resetAtRestore hk) _ he2)
        · exact keepsOpt_some (keeps_restoreFrom (keeps_makeRoom (keeps_takeCtrs hk)))

theorem keepsOpt_restoreAll {ids : List Nat} : KeepsOpt (fun x => x) s (restoreAll ids t) := by
  induction ids generalizing t with
  | nil => exact keepsOpt_some hk
  | cons id r ih =>
    unfold restoreAll
    split
    · exact keepsOpt_none
    · next he => exact ih (keepsOpt_restoreOne hk _ he)

theorem keeps_restoreGroups {ids : List Nat} {ctx : Nat} : Keeps s (restoreGroups ids ctx t) := by
  unfold restoreGroups
  refine keeps_foldl hk ?_
  intro u a
  split
  · exact keeps_ite (keeps_getD (.refl _) (keepsOpt_restoreAll (.refl _))) (.refl _)
  · exact .refl _

theorem keeps_finishResume {ctx : Nat} : Keeps s (finishResume t ctx) :=
  keeps_foldl (keeps_eachCrew (keeps_modCtx hk)) (fun _ _ => keeps_binFire (.refl _))

theorem keeps_restoreContext {ctx : Nat} : Keeps s (restoreContext t ctx) := by
  unfold restoreContext
  exact keeps_ite (keeps_finishResume (keeps_foldl (keeps_restoreGroups hk) (fun _ _ => keeps_ite (keeps_reopenCore
    (.refl _)) (.refl _)))) (keeps_foldl (keeps_restoreGroups hk) (fun _ _ => keeps_ite (keeps_reopenCore (.refl _))
    (.refl _)))

theorem keeps_wdogEnd {id : Nat} {c : Crew} : Keeps s (wdogEnd t id c) :=
  keeps_endCrew (keeps_foldl hk (fun _ _ => keeps_errRecord (.refl _)))

theorem keepsO_execCrewWatchdogExpire {crew : Nat} : KeepsO s (execCrewWatchdogExpire crew t) := by
  unfold execCrewWatchdogExpire
  split
  · exact keepsO_next hk
  · exact keepsO_next (keeps_ite (keeps_wdogEnd hk) hk)

theorem keeps_dropDesc {ctx : Nat} : Keeps s (dropDesc t ctx) := keeps_update (keeps_ite (keeps_resetContext hk) hk)

theorem keeps_ringRecord {ring info : Nat} : Keeps s (ringRecord t ring info) := by
  unfold ringRecord
  exact keeps_errRecord hk

theorem keeps_ringAnomaly {ring code : Nat} : Keeps s (ringAnomaly t ring code) := by
  unfold ringAnomaly
  exact keeps_writeHead (keeps_modRing (keeps_ringRecord hk))

theorem keeps_lapped {ring ahead : Nat} : Keeps s (lapped t ring ahead) := by
  unfold lapped
  exact keeps_ringRecord (keeps_writeHead (keeps_modRing hk))

theorem keeps_forward {ring : Nat} : Keeps s (forward t ring) :=
  keeps_ite (keeps_modRing (keeps_ite (keeps_ioLoad hk) (keeps_writeHead (keeps_modRing (keeps_ioLoad hk)))))
    (keeps_modRing (keeps_ite (keeps_ioLoad hk) (keeps_writeHead (keeps_modRing (keeps_ioLoad hk)))))

theorem keeps_serveOnce {ring : Nat} : Keeps s (serveOnce t ring).1 := by
  unfold serveOnce
  extract_lets r u cd v w d
  have hu : Keeps s u := keeps_ioLoad (keeps_ioLoad hk)
  clear_value u
  have hv : Keeps s v := keeps_ite (keeps_ringAnomaly hu) hu
  clear_value v
  have hw : Keeps s w := keeps_ite (keeps_modRing hv) hv
  clear_value w d
  split
  · exact hw
  · split
    · exact keeps_ite hw (keeps_modRing (keeps_ringAnomaly hw))
    · next x _ _ =>
      have hx : Keeps s x := keeps_ite (keeps_modRing hw) hw
      clear_value x
      split
      · dsimp only
        exact keeps_lapped hx
      · split
        · exact hx
        · exact keeps_forward hx

theorem keeps_serveRing {fuel ring : Nat} : Keeps s (serveRing fuel t ring) := by
  induction fuel generalizing t ring with
  | zero =>
    unfold serveRing
    exact hk
  | succ n ih =>
    unfold serveRing
    exact keeps_ite (ih (keeps_serveOnce hk)) (keeps_serveOnce hk)

theorem keepsO_execCompletionRecord {ring : Nat} : KeepsO s (execCompletionRecord ring t) := by
  unfold execCompletionRecord
  split
  · exact keepsO_next hk
  · split
    · exact keepsO_next (keeps_putCompletion (keeps_modRing hk))
    · exact keepsO_next hk

theorem keeps_endCommand {ring seq p status reason : Nat} : Keeps s (endCommand t ring seq p status reason) := by
  unfold endCommand
  exact keeps_complete (keeps_ite (keeps_ringRecord (keeps_modRing hk)) (keeps_modRing hk))

theorem keeps_startCommand {ring seq p : Nat} : Keeps s (startCommand t ring seq p) := keeps_modRing hk

theorem keepsO_withCommand {ring ty : Nat} {start go : Nat → Nat → State → State}
    (hstart : ∀ seq p u, Keeps u (start seq p u)) (hgo : ∀ seq p u, Keeps u (go seq p u)) :
    KeepsO s (withCommand ring ty t start go) := by
  unfold withCommand
  split
  · exact keepsO_next hk
  · split
    · exact keepsO_next hk
    · split
      · exact keepsO_next (hk.trans (hgo _ _ _))
      · split
        · exact keepsO_next (keeps_endCommand hk)
        · exact keepsO_next (hk.trans (hstart _ _ _))

theorem keeps_refusePacket {ring seq p : Nat} : Keeps s (refusePacket t ring seq p) := by
  unfold refusePacket
  exact keeps_complete (keeps_ringAnomaly (keeps_modRing hk))

theorem keepsO_execNoOperation {ring : Nat} : KeepsO s (execNoOperation ring t) := by
  unfold execNoOperation
  split
  · exact keepsO_next (keeps_ite hk (keeps_ite (keeps_endCommand hk) (keeps_ite (keeps_refusePacket hk) hk)))
  · exact keepsO_next hk

theorem keeps_dropStockLines : Keeps s (dropStockLines t) := keeps_mapCores hk

theorem keepsO_execSeal {ring : Nat} : KeepsO s (execSeal ring t) :=
  keepsO_withCommand hk (fun _ _ _ => keeps_ite (.refl _) (keeps_endCommand (keeps_dropStockLines (keeps_update (.refl
    _))))) (fun _ _ _ => keeps_ite (.refl _) (keeps_endCommand (keeps_dropStockLines (keeps_update (.refl _)))))

theorem keepsO_execUnseal {ring : Nat} : KeepsO s (execUnseal ring t) := by
  unfold execUnseal
  exact keepsO_withCommand hk (fun _ _ _ => keeps_endCommand (keeps_dropStockLines (keeps_update (.refl _)))) (fun _ _
    _ => keeps_endCommand (keeps_dropStockLines (keeps_update (.refl _))))

theorem keeps_preemptStart {ring seq p : Nat} : Keeps s (preemptStart ring seq p t) :=
  keeps_ite (keeps_endCommand hk) (keeps_ite (keeps_endCommand (keeps_modCtx hk)) (keeps_startCommand
    (keeps_beginPreempt hk)))

theorem keeps_preemptGo {ring seq p : Nat} : Keeps s (preemptGo ring seq p t) := by
  unfold preemptGo
  split
  · exact keeps_endCommand hk
  · exact keeps_endCommand hk
  · exact hk

theorem keeps_resumeStart {ring seq p : Nat} : Keeps s (resumeStart ring seq p t) :=
  keeps_startCommand (keeps_modCtx hk)

theorem keeps_resumeGo {ring seq p : Nat} : Keeps s (resumeGo ring seq p t) := keeps_ite (keeps_endCommand hk) hk

theorem keeps_retryParked {ctx va pages : Nat} : Keeps s (retryParked t ctx va pages) :=
  keeps_ite (keeps_mapCores hk) (keeps_foldl (keeps_mapCores hk) (fun _ _ => keeps_ite (.refl _) (keeps_ite
    (keeps_pokeNat (.refl _)) (.refl _))))

theorem keepsO_execInvalidateTranslations {ring : Nat} : KeepsO s (execInvalidateTranslations ring t) :=
  keepsO_withCommand hk (fun _ _ _ => keeps_endCommand (keeps_retryParked (keeps_tlbInvalidate (.refl _)))) (fun _ _ _
    => keeps_endCommand (keeps_retryParked (keeps_tlbInvalidate (.refl _))))

theorem keeps_touchWhole {l ctx va n : Nat} : Keeps s (touchWhole t l ctx va n) :=
  keeps_ite hk (keeps_countPoisonRead (keeps_detectVirtual hk))

theorem keeps_pullInstall {l ctx va : Nat} : Keeps s (pullInstall t l ctx va).2 := by
  unfold pullInstall
  extract_lets pull r
  have hpull (rs : List (Nat × Nat)) (u : State) : Keeps u (pull rs u).2 := by
    dsimp only [pull]
    refine keeps_foldl_of (f := fun a : Bool × State => a.2) (b := (true, u)) (.refl _) fun _ _ => ?_
    exact keeps_pullVirtual (.refl _)
  split
  · exact (hk.trans (hpull _ _)).trans (hpull _ _)
  · exact hk.trans (hpull _ _)

theorem keeps_installPulled {l ctx va : Nat} : Keeps s (installPulled t l ctx va) :=
  keeps_foldl hk (fun _ _ => keeps_pulled (.refl _))

theorem keeps_touchTable {l ctx va : Nat} : Keeps s (touchTable t l ctx va) := by
  unfold touchTable
  dsimp only
  split
  · exact keeps_touchWhole hk
  · exact keeps_touchWhole (keeps_touchWhole (keeps_touchWhole hk))

theorem keeps_installOn {l ctx : Nat} {x : Nat × List Byte × List Byte} : Keeps s (installOn t l ctx x) := by
  unfold installOn
  refine keeps_update (keeps_modSlice_of hk ?_)
  intro y hy
  exact dataOk_tabPut hy _ (memWrite_wf [] _ _ rfl)

theorem keeps_installStart {ring seq p : Nat} : Keeps s (installStart ring seq p t) := by
  unfold installStart
  extract_lets ctx ls pull
  have hpull : Keeps s pull.2 := by
    refine keeps_foldl_of (f := fun a : Bool × State => a.2) hk fun _ _ => ?_
    exact keeps_pullInstall (.refl _)
  clear_value pull
  split
  · exact hk
  · split
    · exact keeps_ite hpull (keeps_startCommand hpull)
    · next u reads v full done _ _ =>
      have hu : Keeps s u := keeps_foldl hpull fun _ _ => keeps_touchTable (.refl _)
      have hv : Keeps s v := keeps_foldl hu fun _ _ => keeps_installPulled (.refl _)
      have hdone : Keeps s done := by
        refine keeps_foldl hv fun a r => ?_
        split
        · exact keeps_ite (.refl _) (keeps_installOn (.refl _))
        · rfl
      clear_value done
      exact keeps_ite (keeps_endCommand hdone) (keeps_ite (keeps_endCommand hdone) (keeps_endCommand hdone))

theorem keeps_removeGo {ring seq p : Nat} : Keeps s (removeGo ring seq p t) := keeps_ite hk (keeps_endCommand hk)

theorem keeps_removeStart {ring seq p : Nat} : Keeps s (removeStart ring seq p t) :=
  keeps_removeGo (keeps_startCommand (keeps_foldl hk (fun _ _ => keeps_ite (keeps_modInstall (.refl _))
    (keeps_removeInstall (.refl _)))))

theorem keeps_debugStart {ring seq p : Nat} : Keeps s (debugStart ring seq p t) := by
  unfold debugStart
  dsimp only
  split
  · exact hk
  · exact keeps_ite hk (keeps_endCommand (keeps_returnCrew hk))

theorem keeps_joinStart {ring seq p : Nat} : Keeps s (joinStart ring seq p t) := by
  unfold joinStart
  dsimp only
  split
  · exact hk
  · exact keeps_endCommand (keeps_modLaunch hk)

theorem keeps_writeCeil {i ceil : Nat} : Keeps s (writeCeil t i ceil) := keeps_ite hk (keeps_update hk)

theorem keeps_writeBinding {r n : Nat} : Keeps s (writeBinding t r n) :=
  keeps_ite (keeps_writeHead (keeps_unitWrite (keeps_setRing (keeps_update hk)))) (keeps_update hk)

theorem keeps_writeDesc {ctx q : Nat} {v : Word} : Keeps s (writeDesc t ctx q v) :=
  keeps_update (keeps_ite (keeps_dropDesc hk) hk)

theorem keeps_writeHouse {addr : Nat} {v : Word} : Keeps s (writeHouse t addr v) :=
  keeps_ite hk (keeps_ite (keeps_update hk) (keeps_ite (keeps_update hk) (keeps_ite (keeps_ite (keeps_update hk) hk)
    (keeps_ite (keeps_writeBinding hk) (keeps_ite (keeps_writeCeil hk) (keeps_ite (keeps_writeDesc hk) hk))))))

theorem keeps_evaluatePower {die : Nat} {duties : List (Nat × Nat × Nat)} : Keeps s (evaluatePower t die duties) :=
  keeps_update hk

theorem keeps_dutiesOf {die : Nat} {duties : List (Nat × Nat × Nat)} : Keeps s (dutiesOf t die duties).2 := by
  unfold dutiesOf
  refine keeps_foldl_of (f := fun a : List (Nat × Nat × Nat) × State => a.2) hk ?_
  intro u a
  dsimp only
  split
  · exact .refl _
  · exact keeps_draw (keeps_draw (.refl _))

theorem keepsO_execPowerEvaluation {die : Nat} {duties : List (Nat × Nat × Nat)} :
    KeepsO s (execPowerEvaluation die duties t) := by
  unfold execPowerEvaluation
  dsimp only
  split
  · exact keepsO_next (keeps_evaluatePower (keeps_dutiesOf hk))
  · exact keepsO_next hk

theorem keeps_byAppCore {hart : Nat} {f : State → State} (hf : ∀ u, Keeps u (f u)) : Keeps s (byAppCore t hart f) :=
  keeps_update ((keeps_update hk).trans (hf _))

end

end Sys2Proof.Machine
end

section
/-! Power, boot and the forms that only write registers and the crew's own tables keep the memories canonical (O8). -/

-- One theorem after the other: side by side, the many short ones would ask for more threads than memory allows.
set_option Elab.async false

namespace Sys2Proof.Machine

section
variable {s t : State} (hk : Keeps s t)
include hk

theorem keeps_storeState {ctx : Nat} {debug : Bool} {index st : Nat} : Keeps s (storeState t ctx debug index st) :=
  keeps_queueScan (keeps_byAppCore hk (fun _ => keeps_pokeNat (.refl _)))

theorem keepsO_execSupervisorDone {ctx : Nat} {debug : Bool} {index : Nat} {reply : Word} :
    KeepsO s (execSupervisorDone ctx debug index reply t) := by
  unfold execSupervisorDone
  dsimp only
  split
  · refine keepsO_next (keeps_storeState (keeps_ite hk ?_))
    split
    · exact keeps_byAppCore (keeps_noteWalk hk) (fun _ => keeps_unitWrite (.refl _))
    · exact hk
  · exact keepsO_next hk

omit hk in
theorem keeps_reset : Keeps s State.reset := fun _ => ⟨rfl, fun _ h => (nomatch h), fun _ h => (nomatch h)⟩

omit hk in
theorem keeps_unpowered : Keeps s (unpowered t) := keeps_update keeps_reset

theorem keeps_bootStop {fail : Nat} : Keeps s (bootStop t fail) := keeps_update hk

theorem keeps_bootTrain {b : BootInput} : Keeps s (bootTrain t b) := by
  intro hs
  obtain ⟨hmem, hcores, -⟩ := hk hs
  refine ⟨hmem, hcores, fun x hx i hi => ?_⟩
  obtain ⟨r, -, rfl⟩ := List.mem_map.mp hx
  exact nomatch hi

theorem keeps_bootStep {b : BootInput} : Keeps s (bootStep t b) := by
  unfold bootStep
  split
  · split
    · exact keeps_bootStop hk
    · exact keeps_update hk
  · dsimp only
    split
    · exact keeps_bootStop (keeps_bootTrain hk)
    · exact keeps_update (keeps_bootTrain hk)
  · exact keeps_setMem hk fun _ => rfl
  · exact keeps_update hk
  · split
    · exact keeps_bootStop hk
    · exact keeps_update hk

theorem keeps_bootOn : Keeps s (bootOn t) := by
  unfold bootOn
  split
  · exact keeps_bootStep hk
  · exact hk

omit hk in
theorem keeps_bootState {b : BootInput} : Keeps s (bootState t b) := keeps_update keeps_reset

theorem keepsO_execPowerUp {boot : BootInput} : KeepsO s (execPowerUp boot t) :=
  keepsO_next (keeps_ite hk keeps_bootState)

omit hk in
theorem keepsO_execPowerLoss : KeepsO s (execPowerLoss t) := keepsO_next keeps_unpowered

theorem keeps_inheritWork {id : Nat} {c : Crew} {es : List Nat} {entry : Nat} :
    Keeps s (inheritWork t id c es entry) := keeps_update hk

theorem keeps_settleJoins {fuel id : Nat} : Keeps s (settleJoins fuel t id) := by
  induction fuel generalizing t with
  | zero => exact hk
  | succ n ih =>
    unfold settleJoins
    split
    · next hfuel _ =>
      cases hfuel
      split
      · exact hk
      · exact ih (keeps_inheritWork (keeps_setCrew hk))
    · exact hk

theorem keeps_lastExit {id : Nat} : Keeps s (lastExit t id) := by
  unfold lastExit
  dsimp only
  split
  · exact hk
  · refine keeps_ite (keeps_modCrew ?_) (keeps_retireCrew ?_)
    · split
      · exact keeps_gangRelief (keeps_leaveRing hk)
      · exact keeps_leaveRing hk
    · split
      · exact keeps_gangRelief (keeps_leaveRing hk)
      · exact keeps_leaveRing hk

theorem Env.keeps_goto {e : Env} {target : Nat} {fresh : Bool} : Keeps s (e.goto t target fresh) := keeps_modCrew hk

theorem keeps_nopForm {y0 : Env} : Keeps s (nopForm y0 t).st := keeps_done hk

theorem keeps_brkForm {e : Env} : Keeps s (brkForm e t).st := by
  unfold brkForm
  dsimp only
  split
  · exact keeps_done hk
  · exact keeps_jump (keeps_holdCrew (keeps_advance hk))

theorem keeps_brForm {e : Env} : Keeps s (brForm e t).st := by
  unfold brForm
  dsimp only
  split
  · exact Res.keeps_exc (Env.keeps_uniVal hk)
  · split
    · split
      · exact keeps_jump (Env.keeps_goto (Env.keeps_endUses (Env.keeps_uniVal hk)))
      · exact keeps_done (Env.keeps_endUses (Env.keeps_uniVal hk))
    · split
      · exact keeps_jump (Env.keeps_goto (Env.keeps_endUses (Env.keeps_uniVal hk)))
      · exact keeps_done (Env.keeps_endUses (Env.keeps_uniVal hk))
    · split
      · exact keeps_jump (Env.keeps_goto (Env.keeps_endUses (Env.keeps_uniVal hk)))
      · exact keeps_done (Env.keeps_endUses (Env.keeps_uniVal hk))
    · split
      · exact keeps_jump (Env.keeps_goto (Env.keeps_endUses (Env.keeps_uniVal hk)))
      · exact keeps_done (Env.keeps_endUses (Env.keeps_uniVal hk))

theorem keeps_brDivForm {e : Env} : Keeps s (brDivForm e t).st := by
  unfold brDivForm
  dsimp only
  split
  · exact Res.keeps_exc hk
  · split
    · exact Res.keeps_exc hk
    · split
      · exact keeps_jump (Env.keeps_goto hk)
      · split
        · exact keeps_done hk
        · split
          · exact Res.keeps_exc hk
          · exact keeps_jump (keeps_modCrew hk)

theorem keeps_joinForm {e : Env} : Keeps s (joinForm e t).st := by
  unfold joinForm
  split
  · exact keeps_done hk
  · split
    · split
      · exact Res.keeps_exc hk
      · exact keeps_jump (keeps_settleJoins (keeps_modCrew hk))
    · exact Res.keeps_exc hk

theorem keeps_callForm {e : Env} : Keeps s (callForm e t).st := by
  unfold callForm
  dsimp only
  split
  · exact Res.keeps_exc hk
  · exact keeps_jump (Env.keeps_goto (Env.keeps_putS hk))

theorem keeps_retForm {e : Env} : Keeps s (retForm e t).st := by
  unfold retForm
  dsimp only
  split
  · exact Res.keeps_exc (Env.keeps_uniVal hk)
  · exact keeps_jump (Env.keeps_goto (Env.keeps_endUses (Env.keeps_uniVal hk)))

theorem keeps_exitForm {e : Env} : Keeps s (exitForm e t).st := by
  unfold exitForm
  dsimp only
  split
  · exact Res.keeps_exc hk
  · split
    · split
      · exact keeps_jump (keeps_lastExit (keeps_settleJoins (keeps_modCrew (keeps_advance hk))))
      · exact keeps_jump (keeps_settleJoins (keeps_modCrew (keeps_advance hk)))
    · exact keeps_jump (keeps_settleJoins (keeps_modCrew (keeps_advance hk)))

theorem keeps_yieldContForm {e : Env} : Keeps s (yieldContForm e t).st := by
  unfold yieldContForm
  dsimp only
  split
  · exact Res.keeps_exc hk
  · split
    · exact keeps_jump (Env.keeps_goto (Env.keeps_observe hk))
    · exact keeps_jump (keeps_modCrew hk)

theorem keeps_flgRdForm {e : Env} : Keeps s (flgRdForm e t).st :=
  keeps_done (Env.keeps_putS (keeps_ite hk (Env.keeps_observe hk)))

theorem keeps_flgClrForm {e : Env} : Keeps s (flgClrForm e t).st := keeps_done (keeps_modCrew hk)

theorem keeps_lampJoinForm {e : Env} : Keeps s (lampJoinForm e t).st := by
  unfold lampJoinForm
  split
  · exact Res.keeps_exc hk
  · split
    · exact Res.keeps_exc hk
    · exact keeps_done (keeps_ite (keeps_joinRing hk) hk)

theorem keeps_lampTakeForm {e : Env} : Keeps s (lampTakeForm e t).st := by
  unfold lampTakeForm
  split
  · exact Res.keeps_exc hk
  · split
    · exact Res.keeps_exc hk
    · split
      · exact keeps_done hk
      · exact keeps_wait hk

theorem keeps_lampPassForm {e : Env} : Keeps s (lampPassForm e t).st := by
  unfold lampPassForm
  split
  · exact Res.keeps_exc hk
  · split
    · exact Res.keeps_exc hk
    · exact keeps_done (keeps_passLamp (Env.keeps_fenced hk))

theorem keeps_csrrForm {e : Env} : Keeps s (csrrForm e t).st := keeps_done (Env.keeps_putS hk)

theorem keeps_csrwForm {e : Env} : Keeps s (csrwForm e t).st := by
  unfold csrwForm
  dsimp only
  split
  · exact Res.keeps_exc (Env.keeps_uniVal hk)
  · exact keeps_done (keeps_modCrew (Env.keeps_endUses (Env.keeps_uniVal hk)))

theorem keeps_postInterrupt {id : Nat} {c0 : Crew} {ts : Nat} : Keeps s (postInterrupt t id c0 ts) := by
  unfold postInterrupt
  refine keeps_ite ?_ (keeps_setCrew (keeps_raiseEngTs hk))
  dsimp only
  split
  · exact keeps_pokeNat (keeps_raiseEngTs hk)
  · exact keeps_raiseEngTs hk

theorem keeps_uintPostForm {e : Env} : Keeps s (uintPostForm e t).st := by
  unfold uintPostForm
  dsimp only
  split
  · split
    · exact keeps_done (Env.keeps_putS (keeps_postInterrupt (Env.keeps_endUses (Env.keeps_fenced (Env.keeps_uniVal
        hk)))))
    · exact keeps_done (Env.keeps_putS (Env.keeps_endUses (Env.keeps_fenced (Env.keeps_uniVal hk))))
  · exact keeps_done (Env.keeps_putS (Env.keeps_endUses (Env.keeps_fenced (Env.keeps_uniVal hk))))

theorem keeps_uintRetForm {e : Env} : Keeps s (uintRetForm e t).st := by
  unfold uintRetForm
  dsimp only
  split
  · exact Res.keeps_exc hk
  · split
    · exact Res.keeps_exc (Env.keeps_uniVal hk)
    · exact keeps_jump (keeps_modCrew (Env.keeps_goto (Env.keeps_uniVal hk)))

theorem keeps_svcForm {e : Env} : Keeps s (svcForm e t).st := by
  unfold svcForm
  dsimp only
  split
  · exact Env.keeps_laneTrap (Env.keeps_uniVal (Env.keeps_uniVal hk))
  · split
    · exact Env.keeps_laneTrap (Env.keeps_uniVal (Env.keeps_uniVal hk))
    · split
      · exact Env.keeps_laneTrap (Env.keeps_uniVal (Env.keeps_uniVal hk))
      · split
        · exact keeps_wait (Env.keeps_uniVal (Env.keeps_uniVal hk))
        · split
          · exact keeps_done (keeps_dischargeBoth (Env.keeps_obligeFlags (Env.keeps_endUses (Env.keeps_fenced
              (keeps_noteXlate (Env.keeps_uniVal (Env.keeps_uniVal hk)))))))
          · exact keeps_done (keeps_queuePost (keeps_modCrew (Env.keeps_obligeFlags (Env.keeps_endUses
              (Env.keeps_fenced (keeps_noteXlate (Env.keeps_uniVal (Env.keeps_uniVal hk))))))))

theorem keeps_waitcForm {e : Env} : Keeps s (waitcForm e t).st := by
  unfold waitcForm
  dsimp only
  split
  · exact Env.keeps_laneTrap (Env.keeps_uniVal (Env.keeps_dead hk))
  · split
    · exact Env.keeps_laneTrap (Env.keeps_uniVal (Env.keeps_dead hk))
    · split
      · exact Env.keeps_laneTrap (Env.keeps_uniVal (Env.keeps_dead hk))
      · exact keeps_jump (keeps_modCrew (keeps_noteXlate (Env.keeps_uniVal (Env.keeps_dead hk))))

theorem keeps_spawnForm {e : Env} : Keeps s (spawnForm e t).st := by
  unfold spawnForm
  dsimp only
  split
  · exact Res.keeps_exc hk
  · split
    · exact keeps_done (Env.keeps_endUses hk)
    · split
      · exact keeps_wait (keeps_modCrew (keeps_setBin hk))
      · exact keeps_done (keeps_deposit (Env.keeps_endUses (Env.keeps_fenced (Env.keeps_dead hk))))

theorem Env.keeps_updateSlot {e : Env} {x : Xlate} {delta : Nat} {node : Option Nat} :
    Keeps s (e.updateSlot t x delta node) :=
    keeps_ite (keeps_countPoisonRead (Env.keeps_raisePts (keeps_ownerAtomic (keeps_noteXlate hk)))) (keeps_ite
      (keeps_slotFire (Env.keeps_raisePts (keeps_ownerAtomic (keeps_noteXlate hk)))) (Env.keeps_raisePts
      (keeps_ownerAtomic (keeps_noteXlate hk))))

theorem Env.keeps_signalLane {e : Env} {s0 : State} {x : Xlate} : Keeps s (e.signalLane s0 t x).1 := by
  unfold Env.signalLane
  split
  · exact Env.keeps_noteRefused hk
  · exact Env.keeps_updateSlot hk

theorem keeps_nsigForm {e : Env} : Keeps s (nsigForm e t).st :=
  Env.keeps_withLanes hk (fun _ _ => keeps_lateOr (keeps_eachLane (Env.keeps_endUses (keeps_ite (.refl _)
    (Env.keeps_fenced (.refl _)))) (fun _ _ _ => Env.keeps_signalLane (.refl _))))

theorem Env.keeps_storeRecord {e : Env} {s0 : State} {bs : List Byte} {xs : List (Xlate × Nat)} :
    Keeps s (e.storeRecord s0 t bs xs).1 := by
  induction xs generalizing t bs with
  | nil => exact hk
  | cons x r ih =>
    unfold Env.storeRecord
    dsimp only
    split
    · exact Env.keeps_noteRefused (keeps_noteXlate hk)
    · exact ih (keeps_settle (Env.keeps_raisePts (Env.keeps_storeTaken (keeps_noteXlate hk))))

theorem Env.keeps_publishLane {e : Env} {recs : List (Nat × List Byte)} {s0 : State} {l : Nat}
    {x : Xlate × List (Xlate × Nat) × Nat} : Keeps s (e.publishLane recs s0 t l x).1 := by
  unfold Env.publishLane
  split
  · exact Env.keeps_noteRefused hk
  · dsimp only
    split
    · exact Env.keeps_storeRecord hk
    · exact Env.keeps_updateSlot (Env.keeps_storeRecord hk)

theorem keeps_npubForm {e : Env} : Keeps s (npubForm e t).st := by
  unfold npubForm
  dsimp only
  split
  · exact Res.keeps_exc hk
  · exact Env.keeps_withLanes hk (fun _ _ => keeps_lateOr (keeps_eachLane (Env.keeps_endUses (keeps_ite (.refl _)
      (Env.keeps_fenced (.refl _)))) (fun _ _ _ => Env.keeps_publishLane (.refl _))))

theorem keeps_deliver {id entry : Nat} {c : Crew} {x : Split} : Keeps s (deliver t id entry c x) :=
  keeps_ite (keeps_takeException (keeps_setCrew hk)) (keeps_modCrew (keeps_findGranules hk))

theorem keeps_passHeader {h' : Header} {id entry : Nat} {c : Crew} {x : Split} :
    Keeps s (passHeader h' id entry c x t) := by
  unfold passHeader
  dsimp only
  split
  · exact keeps_takeException hk
  · exact keeps_ite (keeps_deliver hk) (keeps_ite (keeps_waitHere hk) (keeps_setCrew hk))

theorem keepsO_execClauseHeader {h' : Header} : KeepsO s (execClauseHeader h' t) := by
  unfold execClauseHeader
  split
  · split
    · split
      · exact keepsO_next (keeps_passHeader hk)
      · exact keepsO_fault
    · exact keepsO_fault
  · exact keepsO_fault

theorem keepsO_execDrainEnd {crew : Nat} : KeepsO s (execDrainEnd crew t) := by
  unfold execDrainEnd
  split
  · split
    · exact keepsO_next (keeps_retireCrew hk)
    · exact keepsO_next hk
  · exact keepsO_next hk

theorem Env.keeps_finishV {e : Env} {signed : Bool} {n : Nat} {rs : List LaneOut} :
    Keeps s (e.finishV t signed n rs).st := keeps_done (keeps_modCrew (Env.keeps_flag (Env.keeps_endUses hk)))

theorem Env.keeps_finishS {e : Env} {signed : Bool} {n : Nat} {r : LaneOut} : Keeps s (e.finishS t signed n r).st :=
  keeps_done (keeps_modCrew (Env.keeps_flag (Env.keeps_endUses hk)))

theorem Env.keeps_finishWhole {e : Env} {fl : Flags} {w : Word} : Keeps s (e.finishWhole t fl w).st :=
  keeps_done (Env.keeps_putS (Env.keeps_flag (Env.keeps_endUses hk)))

theorem Env.keeps_finishP {e : Env} {rs : List LaneOut} : Keeps s (e.finishP t rs).st :=
  keeps_done (Env.keeps_putP (Env.keeps_flag (Env.keeps_endUses hk)))

theorem keeps_intForm {op : IntArgs → Int} {e : Env} : Keeps s (intForm op e t).st := by
  unfold intForm
  split
  · exact Env.keeps_finishS hk
  · exact Env.keeps_finishV hk

theorem keeps_divForm {e : Env} : Keeps s (divForm e t).st := by
  unfold divForm
  dsimp only
  split
  · exact Env.keeps_finishS hk
  · exact Env.keeps_finishV hk

theorem keeps_scmpForm {e : Env} : Keeps s (scmpForm e t).st := Env.keeps_finishWhole hk

theorem keeps_vcmpForm {e : Env} : Keeps s (vcmpForm e t).st := Env.keeps_finishP hk

theorem keeps_vselForm {e : Env} : Keeps s (vselForm e t).st := Env.keeps_finishV hk

theorem keeps_vplogForm {e : Env} : Keeps s (vplogForm e t).st := keeps_done (Env.keeps_putP hk)

theorem keeps_packForm {op : Word → Word → Word → Word × Bool} {e : Env} : Keeps s (packForm op e t).st :=
  Env.keeps_finishV hk

theorem keeps_pack2 {op : Int → Int → Int} {e : Env} : Keeps s (pack2 op e t).st := keeps_packForm hk

theorem keeps_shapeForm {k : Shape → Res} {e : Env} (hf : ∀ r, Keeps s (k r).st) : Keeps s (shapeForm k e t).st := by
  unfold shapeForm
  dsimp only
  split
  · exact keeps_exc hk
  · exact hf _

theorem keeps_adrtForm {e : Env} : Keeps s (adrtForm e t).st := by
  unfold adrtForm
  refine keeps_shapeForm hk ?_
  intro u
  dsimp only
  split
  · exact Env.keeps_finishS hk
  · exact Env.keeps_finishV hk

theorem keeps_vinrtForm {e : Env} : Keeps s (vinrtForm e t).st := keeps_shapeForm hk (fun _ => Env.keeps_finishP hk)

theorem keeps_sshprForm {e : Env} : Keeps s (sshprForm e t).st := Env.keeps_finishWhole hk

theorem keeps_shapeWrite {op : Shape → Word → Shape} {e : Env} : Keeps s (shapeWrite op e t).st :=
  keeps_done (keeps_modCrew (Env.keeps_endUses (Env.keeps_uniVal hk)))

theorem keeps_floatForm {k : Env → Nat → Nat → Nat → Nat × Flags} {e : Env} : Keeps s (floatForm k e t).st := by
  unfold floatForm
  dsimp only
  split
  · exact Env.keeps_finishS hk
  · exact Env.keeps_finishV hk

theorem keeps_roundForm {op : Nat → FVal → FVal → FVal → FVal × Flags} {e : Env} : Keeps s (roundForm op e t).st :=
  keeps_floatForm hk

theorem keeps_minMaxForm {wantMax : Bool} {e : Env} : Keeps s (minMaxForm wantMax e t).st := keeps_floatForm hk

theorem keeps_bitForm {k : FFmt → Nat → Nat → Nat} {e : Env} : Keeps s (bitForm k e t).st := keeps_floatForm hk

theorem keeps_rndForm {e : Env} : Keeps s (rndForm e t).st := keeps_floatForm hk

theorem keeps_estForm {k : Nat → Nat → Nat × Flags} {e : Env} : Keeps s (estForm k e t).st := keeps_floatForm hk

theorem keeps_dotForm {e : Env} : Keeps s (dotForm e t).st := Env.keeps_finishV hk

theorem keeps_vfcmpForm {e : Env} : Keeps s (vfcmpForm e t).st := Env.keeps_finishP hk

theorem keeps_sfcmpForm {e : Env} : Keeps s (sfcmpForm e t).st := Env.keeps_finishWhole hk

theorem keeps_fcmpmForm {e : Env} : Keeps s (fcmpmForm e t).st := keeps_floatForm hk

theorem keeps_cvtForm {e : Env} : Keeps s (cvtForm e t).st := by
  unfold cvtForm
  dsimp only
  split <;> exact keeps_done (keeps_modCrew (Env.keeps_flag (Env.keeps_endUses (Env.keeps_dead hk))))

theorem keeps_vpermForm {e : Env} : Keeps s (vpermForm e t).st :=
  keeps_done (keeps_ite (keeps_modCrew (Env.keeps_endUses (Env.keeps_dead hk))) (Env.keeps_putP (keeps_modCrew
    (Env.keeps_endUses (Env.keeps_dead hk)))))

theorem keeps_vmatchForm {e : Env} : Keeps s (vmatchForm e t).st :=
  keeps_done (Env.keeps_putV (Env.keeps_endUses (Env.keeps_dead hk)))

theorem keeps_vvoteForm {e : Env} : Keeps s (vvoteForm e t).st := by
  unfold vvoteForm
  dsimp only
  split
  · split
    · exact Res.keeps_exc (Env.keeps_uniVal hk)
    · exact keeps_done (Env.keeps_putS (Env.keeps_endUses (Env.keeps_uniVal hk)))
  · exact keeps_done (Env.keeps_putS hk)

theorem keeps_vredForm {e : Env} : Keeps s (vredForm e t).st := Env.keeps_finishWhole (Env.keeps_dead hk)

theorem keeps_vscanForm {e : Env} : Keeps s (vscanForm e t).st := Env.keeps_finishV (Env.keeps_dead hk)

theorem keeps_vrdlForm {e : Env} : Keeps s (vrdlForm e t).st := Env.keeps_finishWhole (Env.keeps_uniVal hk)

end

end Sys2Proof.Machine
end

section
/-! Lodes, the agents beyond the cores, answers, and the faults of the fabric keep the memories canonical (O8). -/

-- One theorem after the other: side by side, the many short ones would ask for more threads than memory allows.
set_option Elab.async false

namespace Sys2Proof.Machine

section
variable {s t : State} (hk : Keeps s t)
include hk

theorem Env.keeps_withLode {e : Env} {bases : List Nat} {k : LodeDesc → State → Res} (hf : ∀ d u, Keeps u (k d u).st) :
    Keeps s (e.withLode t bases k).st := by
  have hdead {b : Bool} : Keeps s (e.dead t b) := Env.keeps_dead hk
  unfold Env.withLode
  dsimp only
  split
  · exact keeps_exc hdead
  · split
    · exact keeps_wait hdead
    · split
      · exact keeps_exc hdead
      · split
        · exact keeps_exc hdead
        · split
          · exact keeps_trap hdead
          · split
            · exact keeps_exc hdead
            · exact hdead.trans (hf _ _)

theorem Env.keeps_lodeApply {e : Env} {d : LodeDesc} {ubase : Nat} {vregs sregs : List Nat} {op : Nat → LodeOut} :
    Keeps s (e.lodeApply t d ubase vregs sregs op).st :=
    keeps_done (keeps_modCrew (Env.keeps_flag (Env.keeps_endUses hk)))

theorem keeps_lodeSum {sub : Bool} {e : Env} : Keeps s (lodeSum sub e t).st := by
  unfold lodeSum
  exact Env.keeps_withLode hk (fun _ _ => Env.keeps_lodeApply (.refl _))

theorem keeps_lodeNeg {e : Env} : Keeps s (lodeNeg e t).st :=
  Env.keeps_withLode hk (fun _ _ => Env.keeps_lodeApply (.refl _))

theorem keeps_lodeShift {op : LodeDesc → Nat → Nat → LodeOut} {e : Env} : Keeps s (lodeShift op e t).st := by
  unfold lodeShift
  refine Env.keeps_withLode hk ?_
  intro u a
  dsimp only
  split
  · exact Res.keeps_exc (Env.keeps_dead (.refl _))
  · exact Env.keeps_lodeApply (Env.keeps_dead (.refl _))

theorem keeps_lodeCmp {e : Env} : Keeps s (lodeCmp e t).st :=
  Env.keeps_withLode hk (fun _ _ => Env.keeps_lodeApply (.refl _))

theorem keeps_lodeClz {e : Env} : Keeps s (lodeClz e t).st :=
  Env.keeps_withLode hk (fun _ _ => Env.keeps_lodeApply (.refl _))

theorem keeps_lodeMul {acc : Bool} {e : Env} : Keeps s (lodeMul acc e t).st := by
  unfold lodeMul
  exact Env.keeps_withLode hk (fun _ _ => Env.keeps_lodeApply (.refl _))

theorem keeps_lodeAcc {e : Env} : Keeps s (lodeAcc e t).st := by
  unfold lodeAcc
  exact Env.keeps_withLode hk (fun _ _ => Env.keeps_lodeApply (.refl _))

theorem keeps_lodeRound {e : Env} : Keeps s (lodeRound e t).st :=
  Env.keeps_withLode hk (fun _ _ => Env.keeps_lodeApply (.refl _))

theorem keeps_lodeBindForm {e : Env} : Keeps s (lodeBindForm e t).st := by
  unfold lodeBindForm
  dsimp only
  split
  · exact Res.keeps_exc (Env.keeps_uniVal hk)
  · split
    · exact keeps_trap (Env.keeps_uniVal hk)
    · split
      · exact Res.keeps_exc (Env.keeps_uniVal hk)
      · exact keeps_done (keeps_modCrew (Env.keeps_putS (Env.keeps_endUses (Env.keeps_uniVal hk))))

theorem keeps_lodeFreeForm {e : Env} : Keeps s (lodeFreeForm e t).st := by
  unfold lodeFreeForm
  split
  · exact Res.keeps_exc hk
  · split
    · exact Res.keeps_exc hk
    · split
      · exact keeps_trap hk
      · exact keeps_done (keeps_modCrew hk)

theorem Outer.keeps_raise {o : Outer} {ts : Nat} : Keeps s (o.raise t ts) := keeps_update hk

theorem Outer.keeps_refuse {o : Outer} {pa reason : Nat} : Keeps s (o.refuse t pa reason) :=
  keeps_update (keeps_refuseOther hk)

theorem Outer.keeps_refuseRead {o : Outer} {pa n reason : Nat} : Keeps s (o.refuseRead t pa n reason) :=
  Outer.keeps_refuse (keeps_unconsumed hk)

theorem Outer.keeps_loadHbm {o : Outer} {pa n : Nat} {host : Bool} {w : Option Who} :
    Keeps s (o.loadHbm t pa n host w).2 :=
    keeps_foldl_of (f := fun a : (List Byte × Bool) × State => a.2) hk (fun _ _ => keeps_countPoisonRead (keeps_ite
      (keeps_setLine (Outer.keeps_raise (keeps_ownerLoad (keeps_detect (.refl _))))) (Outer.keeps_raise
      (keeps_ownerLoad (keeps_detect (.refl _))))))

theorem Outer.keeps_storeHbm {o : Outer} {pa : Nat} {bs : List Byte} {w : Option Who} :
    Keeps s (o.storeHbm t pa bs w) :=
    keeps_queueHook (keeps_clearCovered (keeps_foldl hk (fun _ _ => Outer.keeps_raise (keeps_ownerStore (.refl _)))))

theorem Outer.keeps_atomic {o : Outer} {pa ty : Nat} {f : Nat → Option Nat} {w : Option Who} :
    Keeps s (o.atomic t pa ty f w) :=
    keeps_ite (keeps_update hk) (keeps_ite (Outer.keeps_refuseRead hk) (keeps_ite (Outer.keeps_refuseRead hk)
      (keeps_ite (Outer.keeps_refuseRead hk) (keeps_queueHook (keeps_update (keeps_countPoisonRead (Outer.keeps_raise
      (keeps_ownerAtomic (keeps_detect hk)))))))))

theorem Outer.keeps_access {o : Outer} {pa : Nat} {op : ExtOp} {host : Bool} {w : Option Who} :
    Keeps s (o.access t pa op host w) := by
  unfold Outer.access
  dsimp only
  split
  · exact keeps_ite (keeps_ite (Outer.keeps_refuseRead hk) (keeps_update (Outer.keeps_loadHbm hk))) (keeps_ite
      (keeps_update (keeps_countPoisonRead (keeps_detect hk))) (Outer.keeps_refuseRead hk))
  · exact keeps_ite (keeps_ite (Outer.keeps_refuse hk) (keeps_ite (Outer.keeps_refuse hk) (keeps_update
      (Outer.keeps_storeHbm hk)))) (keeps_ite (keeps_ite (Outer.keeps_refuse hk) (keeps_ite (Outer.keeps_refuse hk)
      (keeps_update (keeps_clearCovered (keeps_setMem hk (memWrite_wf _ _ _)))))) (Outer.keeps_refuse hk))
  · exact keeps_ite (Outer.keeps_atomic hk) hk
  · exact keeps_ite (Outer.keeps_atomic hk) hk
  · exact hk

theorem keeps_readStatus : Keeps s (readStatus t) := keeps_update hk

theorem keepsO_execHostAccess {port addr : Nat} {op : ExtOp} : KeepsO s (execHostAccess port addr op t) := by
  unfold execHostAccess
  split
  · exact keepsO_next (keeps_readStatus hk)
  · split
    · exact keepsO_next hk
    · split
      · exact keepsO_next (Outer.keeps_access hk)
      · exact keepsO_next (Outer.keeps_access hk)
      · exact keepsO_next (keeps_ite (Outer.keeps_access hk) (Outer.keeps_refuseRead hk))
      · exact keepsO_next hk

theorem keepsO_execIoDeviceWrite {port addr : Nat} {data : List Byte} :
    KeepsO s (execIoDeviceWrite port addr data t) := by
  unfold execIoDeviceWrite
  dsimp only
  split
  · exact keepsO_next hk
  · split
    · exact keepsO_next (Outer.keeps_refuse hk)
    · exact keepsO_next (keeps_foldl hk (fun _ _ => keeps_ite (keeps_errCount (.refl _)) (keeps_ite
        (Outer.keeps_refuse (.refl _)) (Outer.keeps_storeHbm (.refl _)))))

theorem keeps_noteReply {source number : Nat} : Keeps s (noteReply t source number) := keeps_update hk

theorem keepsO_execPeerRequest {source : PeerPort} {number addr : Nat} {op : ExtOp} :
    KeepsO s (execPeerRequest source number addr op t) := by
  unfold execPeerRequest
  dsimp only
  split
  · exact keepsO_next hk
  · split
    · exact keepsO_next (keeps_update hk)
    · split
      · exact keepsO_next (keeps_noteReply (keeps_ite (Outer.keeps_refuseRead hk) (Outer.keeps_access hk)))
      · exact keepsO_next (keeps_noteReply (keeps_ite (Outer.keeps_refuseRead hk) (Outer.keeps_access hk)))
      · exact keepsO_next (keeps_noteReply (keeps_ite (Outer.keeps_refuseRead hk) (Outer.keeps_access hk)))
      · exact keepsO_next (keeps_noteReply (keeps_ite (Outer.keeps_refuseRead hk) (Outer.keeps_access hk)))
      · exact keepsO_next hk

theorem keeps_outerCopy {n pa : Nat} {w : Option Who} : Keeps s (outerCopy t n pa w).2 := by
  unfold outerCopy
  dsimp only
  split
  · exact hk
  · exact keeps_homeRead (keeps_detectLine hk)

theorem keeps_keepOuter {n pa : Nat} {c : Copy} : Keeps s (keepOuter t n pa c) := keeps_update hk

theorem keeps_cleanOuter {n pa : Nat} : Keeps s (cleanOuter t n pa) := by
  unfold cleanOuter
  dsimp only
  split
  · exact hk
  · exact keeps_ite hk (keeps_ite (keeps_errRecord (keeps_ite (keeps_errCount (keeps_keepOuter hk)) (keeps_keepOuter
      hk))) (keeps_queueHook (keeps_writeBackBytes (keeps_keepOuter hk))))

theorem keeps_dropOuter {n pa : Nat} : Keeps s (dropOuter t n pa) := keeps_update hk

theorem keepsO_execManagedCopyEviction {core line : Nat} : KeepsO s (execManagedCopyEviction core line t) := by
  unfold execManagedCopyEviction
  dsimp only
  split
  · exact keepsO_next (keeps_dropOuter (keeps_cleanOuter hk))
  · split
    · exact keepsO_next hk
    · exact keepsO_next (keeps_modCore (keeps_ite (keeps_writeBackCopy hk) hk))

theorem keeps_outerLoad {n pa size : Nat} {w : Option Who} : Keeps s (outerLoad t n pa size w) :=
  keeps_update (keeps_countPoisonRead (keeps_foldl_of (f := fun a : (List Byte × Bool) × State => a.2) hk (fun _ _ =>
    Outer.keeps_raise (keeps_keepOuter (keeps_outerCopy (keeps_asMode (.refl _)))))))

theorem keeps_outerStore {n pa : Nat} {bs : List Byte} {w : Option Who} : Keeps s (outerStore t n pa bs w) :=
  keeps_update (keeps_foldl hk (fun _ _ => keeps_keepOuter (keeps_outerCopy (keeps_asMode (.refl _)))))

theorem keeps_outerAway {n ctx va addr : Nat} {op : ExtOp} : Keeps s (outerAway t n ctx va addr op) := by
  unfold outerAway
  dsimp only
  split
  · exact Outer.keeps_refuse hk
  · exact keeps_update (keeps_sendExt hk)
  · exact keeps_update (keeps_sendExt hk)
  · exact keeps_update (keeps_extMonitors (keeps_sendExt hk))
  · exact keeps_update (keeps_extMonitors (keeps_sendExt hk))
  · exact keeps_update (keeps_sendExt hk)
  · exact keeps_update (keeps_sendExt hk)
  · exact keeps_update hk

theorem keeps_outerHouse {n addr : Nat} {op : ExtOp} : Keeps s (outerHouse t n addr op) := by
  unfold outerHouse
  dsimp only
  split
  · split
    · exact keeps_update hk
    · exact Outer.keeps_refuse hk
  · exact keeps_ite (keeps_update (keeps_writeHouse hk)) (Outer.keeps_refuse hk)
  · exact Outer.keeps_refuse hk

theorem keeps_outerPhysical {n addr : Nat} {op : ExtOp} {w : Option Who} : Keeps s (outerPhysical t n addr op w) := by
  unfold outerPhysical
  refine keeps_ite (keeps_outerAway hk) ?_
  split
  · exact keeps_ite (Outer.keeps_refuseRead hk) (keeps_ite (Outer.keeps_refuseRead hk) (keeps_outerLoad hk))
  · exact keeps_ite (Outer.keeps_refuse hk) (keeps_ite (Outer.keeps_refuse hk) (keeps_outerStore hk))
  · exact keeps_cleanOuter hk
  · exact keeps_dropOuter (keeps_cleanOuter hk)
  · exact keeps_dropOuter (keeps_cleanOuter hk)
  · exact Outer.keeps_access hk

theorem keeps_guestAccess {n ctx : Nat} {user : Bool} {va : Nat} {op : ExtOp} :
    Keeps s (guestAccess t n ctx user va op) := by
  unfold guestAccess
  refine keeps_ite (keeps_update hk) ?_
  dsimp only
  split
  · exact keeps_update (keeps_walkPoison (keeps_noteWalk hk))
  · exact keeps_update (keeps_refuseOther (keeps_noteWalk hk))
  · exact keeps_ite (Outer.keeps_refuse (keeps_noteWalk hk)) (keeps_outerPhysical (keeps_ite (keeps_asMode
      (keeps_noteWalk hk)) (keeps_noteWalk hk)))

theorem keepsO_execApplicationCoreAccess {appCore : AppHart} {addr : Nat} {op : ExtOp} :
    KeepsO s (execApplicationCoreAccess appCore addr op t) := by
  unfold execApplicationCoreAccess
  dsimp only
  split
  · exact keepsO_next hk
  · split
    · exact keepsO_next (keeps_ite (keeps_readStatus hk) (Outer.keeps_refuse hk))
    · split
      · exact keepsO_next (keeps_guestAccess hk)
      · exact keepsO_next (keeps_ite (keeps_outerHouse hk) (keeps_outerPhysical hk))

theorem keepsO_execAmsgReply {request : Nat} : KeepsO s (execAmsgReply request t) := by
  unfold execAmsgReply
  dsimp only
  split
  · exact keepsO_next hk
  · split
    · exact keepsO_next hk
    · exact keepsO_next (keeps_discharge (keeps_raiseEngTs (keeps_ite (keeps_orSticky (keeps_pokeUniform (keeps_update
        (keeps_acceptMsg hk)))) (keeps_pokeUniform (keeps_update (keeps_acceptMsg hk))))))

theorem keeps_armMonitor {l crew entry ctx : Nat} {w : Wait} : Keeps s (armMonitor t l crew entry ctx w) :=
  keeps_modSlice hk

theorem keeps_checkWordAt {c : Crew} {crew entry : Nat} {w : Wait} : Keeps s (checkWordAt t c crew entry w).2 := by
  unfold checkWordAt
  extract_lets who u r
  have hu : Keeps s u := keeps_mergeLine (keeps_joinBy (keeps_touchHome hk))
  clear_value u
  exact keeps_homeRead hu

theorem keeps_checkedWait {l crew entry : Nat} {c : Crew} {w : Wait} {v : Word × Bool} :
    Keeps s (checkedWait t l crew entry c w v) :=
    keeps_ite (keeps_observeLine (keeps_completeWait (keeps_modSlice hk))) (keeps_modCrew (keeps_ite hk (keeps_ite
      (keeps_armMonitor hk) hk)))

theorem keeps_checkFailed {crew entry : Nat} {w : Wait} : Keeps s (checkFailed t crew entry w) := by
  unfold checkFailed
  refine keeps_takeException (keeps_completeWait ?_)
  split
  · exact keeps_modSlice hk
  · exact hk

theorem keeps_sendCheck {l crew entry : Nat} {c : Crew} {w : Wait} : Keeps s (sendCheck t l crew entry c w) :=
  keeps_ite hk (keeps_ite (keeps_checkFailed hk) (keeps_modCrew (keeps_sendExt (keeps_ite (keeps_armMonitor hk) hk))))

theorem keeps_checkWait {crew entry : Nat} : Keeps s (checkWait t crew entry) := by
  unfold checkWait
  dsimp only
  split
  · exact hk
  · split
    · exact hk
    · exact keeps_ite (keeps_checkedWait (keeps_countPoisonRead (keeps_checkWordAt hk))) (keeps_sendCheck hk)

theorem keepsO_execWaitcReply {crew entry : Nat} : KeepsO s (execWaitcReply crew entry t) := by
  unfold execWaitcReply
  split
  · exact keepsO_next (keeps_ite (keeps_checkWait hk) hk)
  · exact keepsO_next hk

theorem keepsO_execMonitorRecheck {crew entry : Nat} : KeepsO s (execMonitorRecheck crew entry t) := by
  unfold execMonitorRecheck
  split
  · exact keepsO_next (keeps_ite (keeps_checkWait hk) hk)
  · exact keepsO_next hk

theorem keepsO_execMonitorAudit {slice : Nat} : KeepsO s (execMonitorAudit slice t) :=
  keepsO_next (keeps_foldl hk (fun _ _ => keeps_ite (keeps_evalMonitors (keeps_mergeLine (.refl _))) (keeps_checkWait
    (.refl _))))

theorem keeps_poisonArrived {e : Ext} : Keeps s (poisonArrived t e) := keeps_errRecord hk

theorem keeps_deliverExt {e : Ext} {bs : List Byte} {bad : Bool} : Keeps s (deliverExt t e bs bad) :=
  keeps_ite (keeps_ite (keeps_countPoisonRead (keeps_orSticky (keeps_modCrew hk))) (keeps_poisonArrived
    (keeps_orSticky (keeps_modCrew hk)))) (keeps_modCrew hk)

theorem keeps_giveAway {e : Ext} {d : Option (List Byte × Bool)} {reason : Nat} : Keeps s (giveAway t e d reason) := by
  unfold giveAway
  split
  · refine keeps_modCore_of hk fun x hx => ?_
    split <;> exact hx
  · exact keeps_modCrew hk
  · exact keeps_modSlice hk
  · exact keeps_update hk
  · exact keeps_update hk
  · exact hk

theorem keeps_deliverAway {e : Ext} {bs : List Byte} {bad : Bool} : Keeps s (deliverAway t e bs bad) :=
  keeps_giveAway (keeps_ite (keeps_poisonArrived hk) hk)

theorem keeps_settleFor {crew : Nat} : Keeps s (settleFor t crew) := by
  unfold settleFor
  split
  · exact keeps_settleLaunch hk
  · exact hk

theorem keeps_dropExt {request : Nat} {e : Ext} : Keeps s (dropExt t request e) :=
  keeps_settleFor (keeps_settleHalt (keeps_update hk))

theorem keeps_deliverCheck {e : Ext} {bs : List Byte} {bad : Bool} : Keeps s (deliverCheck t e bs bad) := by
  unfold deliverCheck
  dsimp only
  split
  · refine keeps_ite (keeps_ite (keeps_poisonArrived hk) hk) ?_
    split
    · exact keeps_checkedWait (keeps_ite (keeps_poisonArrived hk) hk)
    · exact keeps_ite (keeps_poisonArrived hk) hk
  · exact keeps_ite (keeps_poisonArrived hk) hk

theorem keepsO_execLoadReturn {request : Nat} {data : List Byte} {bad : Bool} :
    KeepsO s (execLoadReturn request data bad t) := by
  unfold execLoadReturn
  dsimp only
  split
  · exact keepsO_next hk
  · split
    · exact keepsO_next hk
    · refine keepsO_next (keeps_dropExt (keeps_ite ?_ (keeps_ite (keeps_deliverAway hk) (keeps_ite (keeps_deliverCheck
        hk) (keeps_deliverExt hk)))))
      split
      · exact keeps_extMonitors (keeps_ite (keeps_deliverAway hk) (keeps_ite (keeps_deliverCheck hk) (keeps_deliverExt
          hk)))
      · exact keeps_ite (keeps_deliverAway hk) (keeps_ite (keeps_deliverCheck hk) (keeps_deliverExt hk))

theorem keepsO_execWriteAcknowledgement {request : Nat} : KeepsO s (execWriteAcknowledgement request t) := by
  unfold execWriteAcknowledgement
  split
  · exact keepsO_next hk
  · exact keepsO_next (keeps_ite hk (keeps_dropExt hk))

theorem keeps_unitErrorRecord {reason : Nat} {e : Ext} : Keeps s (unitErrorRecord t reason e) :=
  keeps_unitFlags (keeps_unitRecord hk)

theorem keeps_unitError {request reason : Nat} {e : Ext} : Keeps s (unitError t request reason e) := by
  unfold unitError
  refine keeps_ite ?_ ?_
  · split
    · exact keeps_failCommand (keeps_unitErrorRecord hk)
    · exact keeps_unitErrorRecord hk
  · dsimp only
    split
    · exact keeps_setEng (keeps_ite (keeps_unitFlags hk) (keeps_unitErrorRecord hk))
    · exact keeps_unitErrorRecord hk

theorem keeps_crewError {e : Ext} : Keeps s (crewError t e) :=
  keeps_ite (keeps_settleFor (keeps_settleHalt hk)) (keeps_ite (keeps_settlePreempt (keeps_closeRing
    (keeps_takeException (keeps_settleFor (keeps_tellExts hk))))) (keeps_takeException (keeps_settleFor
    (keeps_tellExts hk))))

theorem keeps_otherError {reason : Nat} {e : Ext} : Keeps s (otherError t reason e) :=
  keeps_ite (keeps_giveAway hk) (keeps_refuseOther (keeps_giveAway hk))

theorem keeps_errorResponse {request reason : Nat} {e : Ext} : Keeps s (errorResponse t request reason e) := by
  unfold errorResponse
  dsimp only
  split
  · exact keeps_settleFor (keeps_unitError (keeps_update hk))
  · exact keeps_settleFor (keeps_unitError (keeps_update hk))
  · exact keeps_crewError (keeps_deliverExt (keeps_update hk))
  · exact keeps_crewError (keeps_deliverExt (keeps_update hk))
  · exact keeps_crewError (keeps_deliverExt (keeps_update hk))
  · exact keeps_crewError (keeps_deliverExt (keeps_update hk))
  · exact keeps_crewError (keeps_update hk)
  · split
    · exact keeps_checkFailed (keeps_update hk)
    · exact keeps_otherError (keeps_update hk)
  · exact keeps_otherError (keeps_update hk)

theorem keepsO_execRemoteErrorResponse {request reason : Nat} :
    KeepsO s (execRemoteErrorResponse request reason t) := by
  unfold execRemoteErrorResponse
  split
  · exact keepsO_next hk
  · exact keepsO_next (keeps_ite (keeps_errorResponse hk) hk)

theorem keepsO_execPageWalkDone {die ctx : Nat} {va : Word} {write : Bool} :
    KeepsO s (execPageWalkDone die ctx va write t) := by
  unfold execPageWalkDone
  dsimp only
  split
  · exact keepsO_next hk
  · split
    · exact keepsO_next (keeps_noteFail hk)
    · split
      · exact keepsO_next hk
      · exact keepsO_next (keeps_noteXlate hk)

theorem keeps_refreshDone {die group : Nat} : Keeps s (refreshDone t die group) :=
  keeps_foldl hk (fun _ _ => keeps_dropExt (keeps_deliverExt (keeps_detect (.refl _))))

theorem keepsO_execLineFill {line : Nat} {victim : Option Nat} : KeepsO s (execLineFill line victim t) := by
  unfold execLineFill
  dsimp only
  split
  · refine keepsO_next ?_
    split
    · exact keeps_ite (keeps_evictLine hk) hk
    · exact hk
  · refine keepsO_next (keeps_mapSlices (keeps_touchQuiet ?_))
    split
    · exact keeps_ite (keeps_evictLine hk) hk
    · exact hk

theorem keeps_poisonDirty {l : MLine} : Keeps s (poisonDirty t l) :=
  keeps_foldl hk (fun _ _ => keeps_ite (.refl _) (keeps_poisonRange (.refl _)))

theorem keeps_recoverLine {core entry : Nat} {l : MLine} : Keeps s (recoverLine t core entry l) :=
  keeps_ite hk (keeps_poisonDirty (keeps_setLine (keeps_makeLineRoom hk)))

theorem keeps_harvestCore {core : Nat} : Keeps s (harvestCore t core) := by
  unfold harvestCore
  refine keeps_foldl (keeps_update (keeps_setCore_of (keeps_foldl hk fun _ _ => ?_) fun _ => rfl))
    fun _ _ => keeps_settleFor (.refl _)
  exact keeps_foldl (.refl _) fun _ _ => keeps_recoverLine (.refl _)

theorem keeps_strandCrews {die : Nat} {cores : List Nat} : Keeps s (strandCrews t die cores) :=
  keeps_foldl (keeps_foldl hk (fun _ _ => keeps_modCrew (.refl _))) (fun _ _ => keeps_errRecord (.refl _))

theorem keeps_partialRecord {base : Nat} {p : Partial} {cls : Nat} : Keeps s (partialRecord t base p cls) :=
  keeps_errRecord (keeps_poisonRange hk)

theorem keeps_losePartials {l : Nat} : Keeps s (losePartials t l) :=
  keeps_foldl hk (fun _ _ => keeps_ite (.refl _) (keeps_foldl (keeps_setLine (.refl _)) (fun _ _ =>
    keeps_partialRecord (.refl _))))

theorem keeps_adoptLine {line : Nat} : Keeps s (adoptLine t line) := by
  unfold adoptLine
  dsimp only
  split
  · exact hk
  · exact keeps_ite hk (keeps_foldl (keeps_setLine hk) (fun _ _ => keeps_ite (keeps_poisonRange (.refl _)) (.refl _)))

theorem keeps_loseMonitors {die l : Nat} : Keeps s (loseMonitors t die l) :=
  keeps_foldl (keeps_modSlice hk) (fun _ _ => keeps_errCount (keeps_modCrew (.refl _)))

theorem keeps_loseAssayer {l : Nat} : Keeps s (loseAssayer t l) := by
  unfold loseAssayer
  refine keeps_foldl (keeps_modSlice ?_) (fun _ _ => keeps_removeInstall (keeps_dropEvents (.refl _)))
  split
  · exact keeps_ite (keeps_replyTo hk) hk
  · exact hk

theorem keeps_harvestSlice {l g : Nat} {sub : Option Nat} : Keeps s (harvestSlice t l g sub) := by
  unfold harvestSlice
  dsimp only
  split <;> exact keeps_modSlice (keeps_foldl (keeps_loseAssayer (keeps_loseMonitors (keeps_foldl (keeps_losePartials
    hk) (fun _ _ => keeps_adoptLine (.refl _))))) (fun _ _ => keeps_modSlice (.refl _)))

theorem keeps_harvestRouters {routers : List Nat} : Keeps s (harvestRouters t routers) :=
  keeps_strandCrews (keeps_foldl (keeps_foldl (keeps_update hk) (fun _ _ => keeps_harvestCore (.refl _))) (fun _ _ =>
    keeps_harvestSlice (.refl _)))

theorem keepsO_execRouterFail {router : Nat} : KeepsO s (execRouterFail router t) := by
  unfold execRouterFail
  dsimp only
  split
  · exact keepsO_next hk
  · exact keepsO_next (keeps_errRecord (keeps_harvestRouters hk))

theorem keeps_cutUnits {die : Nat} : Keeps s (cutUnits t die) := keeps_update hk

theorem keepsO_execUcieLinkDown {link : Nat} : KeepsO s (execUcieLinkDown link t) := by
  unfold execUcieLinkDown
  dsimp only
  split
  · exact keepsO_next hk
  · exact keepsO_next (keeps_foldl (keeps_errRecord (keeps_update hk)) (fun _ _ => keeps_cutUnits
      (keeps_harvestRouters (.refl _))))

theorem keepsO_execAditResend {request : Nat} : KeepsO s (execAditResend request t) := by
  unfold execAditResend
  split
  · exact keepsO_next hk
  · split
    · exact keepsO_next hk
    · split
      · exact keepsO_next (keeps_errCount (keeps_update hk))
      · exact keepsO_next (keeps_errorResponse hk)

theorem keepsO_execAditPortDown {port : Nat} : KeepsO s (execAditPortDown port t) := by
  unfold execAditPortDown
  split
  · exact keepsO_next hk
  · exact keepsO_next (keeps_errRecord (keeps_update hk))

theorem keepsO_execCxlCompletionTimeout {request : Nat} : KeepsO s (execCxlCompletionTimeout request t) := by
  unfold execCxlCompletionTimeout
  split
  · exact keepsO_next hk
  · split
    · exact keepsO_next (keeps_errorResponse hk)
    · exact keepsO_next hk

theorem keepsO_execIoCoreFail {ioCore : Nat} : KeepsO s (execIoCoreFail ioCore t) := by
  unfold execIoCoreFail
  dsimp only
  split
  · exact keepsO_next hk
  · exact keepsO_next (keeps_errRecord (keeps_update hk))

theorem keeps_scrubFound {die cls ukind unit pa : Nat} : Keeps s (scrubFound t die cls ukind unit pa) :=
  keeps_errRecord (keeps_poisonRange hk)

theorem keepsO_execStockpileScrub {die group : Nat} {found : List (Nat × Bool)} :
    KeepsO s (execStockpileScrub die group found t) := by
  unfold execStockpileScrub
  dsimp only
  split
  · exact keepsO_next hk
  · exact keepsO_next (keeps_foldl hk (fun _ _ => keeps_ite (.refl _) (keeps_ite (keeps_scrubFound (.refl _))
      (keeps_errCount (.refl _)))))

theorem keeps_fenceChannel {die pc : Nat} : Keeps s (fenceChannel t die pc) :=
  keeps_ite hk (keeps_errRecord (keeps_update hk))

theorem keeps_noteHit {die pc : Nat} : Keeps s (noteHit t die pc) :=
  keeps_ite (keeps_fenceChannel (keeps_update hk)) (keeps_update hk)

theorem keepsO_execHbmPatrolScrub {found : List (Nat × Bool)} : KeepsO s (execHbmPatrolScrub found t) :=
  keepsO_next (keeps_foldl hk (fun _ _ => keeps_ite (.refl _) (keeps_ite (keeps_noteHit (keeps_scrubFound (.refl _)))
    (keeps_errCount (.refl _)))))

theorem keeps_sramRecord {die ukind unit info : Nat} {pa : Option Nat} :
    Keeps s (sramRecord t die ukind unit info pa) := keeps_errRecord hk

theorem keeps_strikeReg {crew : Nat} {f : Crew → Crew} : Keeps s (strikeReg t crew f) := keeps_modCrew hk

theorem keeps_strikeMonitor {l index : Nat} : Keeps s (strikeMonitor t l index) := by
  unfold strikeMonitor
  dsimp only
  split
  · exact hk
  · exact keeps_sramRecord (keeps_modCrew (keeps_modSlice hk))

theorem keeps_strikeEvent {l ctx index : Nat} : Keeps s (strikeEvent t l ctx index) := by
  unfold strikeEvent
  dsimp only
  split
  · exact hk
  · exact keeps_sramRecord (keeps_admitWaiting (keeps_ite (keeps_replyTo (keeps_modInstall hk)) (keeps_modInstall hk)))

theorem keeps_strikePartial {pa index : Nat} : Keeps s (strikePartial t pa index) := by
  unfold strikePartial
  dsimp only
  split
  · exact hk
  · exact keeps_partialRecord (State.keeps_count (keeps_setLine hk))

theorem keeps_strikeDirectory {pa : Nat} {data : Bool} : Keeps s (strikeDirectory t pa data) := by
  unfold strikeDirectory
  dsimp only
  split
  · exact hk
  · exact keeps_ite hk (keeps_sramRecord (keeps_ite (keeps_poisonRange (keeps_ite hk (keeps_setLine hk))) (keeps_ite
      hk (keeps_setLine hk))))

theorem keeps_strikeHoist {core slot : Nat} : Keeps s (strikeHoist t core slot) := by
  unfold strikeHoist
  split
  · exact hk
  · exact keeps_ite (keeps_failCommand hk) hk

theorem keeps_strikeEngine {core : Nat} : Keeps s (strikeEngine t core) := by
  unfold strikeEngine
  split
  · exact hk
  · exact keeps_finishEngine (keeps_unitFlags (keeps_unitRecord hk))

theorem keeps_strikeStash {core g : Nat} : Keeps s (strikeStash t core g) := by
  unfold strikeStash
  dsimp only
  split
  · exact keeps_sramRecord (keeps_modCore hk)
  · exact keeps_update hk

theorem keeps_fenceGroup {die group : Nat} : Keeps s (fenceGroup t die group) :=
  keeps_ite hk (keeps_errRecord (keeps_update hk))

theorem keeps_strikeCache {n line granule : Nat} : Keeps s (strikeCache t n line granule) := by
  unfold strikeCache
  dsimp only
  split
  · exact hk
  · exact keeps_ite hk (keeps_errRecord (keeps_update hk))

theorem keeps_strikeUnit {f : HwFault} : Keeps s (strikeUnit t f) := by
  unfold strikeUnit
  dsimp only
  split
  · exact keeps_ite (keeps_errCount hk) hk
  · exact keeps_strikeReg hk
  · exact keeps_strikeReg hk
  · exact keeps_strikeReg hk
  · exact keeps_ite hk (keeps_modCore hk)
  · exact keeps_ite hk (keeps_modCore hk)
  · exact keeps_ite hk (keeps_strikeStash hk)
  · exact keeps_ite hk (keeps_sramRecord (keeps_poisonRange hk))
  · exact keeps_ite hk (keeps_sramRecord (keeps_modInstall hk))
  · exact keeps_strikeHoist hk
  · exact keeps_strikeEngine hk
  · exact keeps_strikeMonitor hk
  · exact keeps_strikeEvent hk
  · exact keeps_strikePartial hk
  · exact keeps_strikeDirectory hk
  · exact keeps_ite (keeps_fenceChannel hk) hk
  · exact keeps_fenceGroup hk
  · exact keeps_modSlice hk
  · exact keeps_strikeCache hk
  · exact hk
  · exact hk
  · exact hk

theorem keeps_zeroResult {u : State} {crew entry word : Nat} : Keeps s (zeroResult u t crew entry word) := by
  unfold zeroResult
  split
  · exact keeps_ite hk (keeps_ite hk (keeps_errRecord (keeps_orSticky (keeps_setCrew hk))))
  · exact hk

theorem keeps_dropAccess {u : State} (hu : Keeps s u) {crew entry : Nat} : Keeps s (dropAccess u t crew entry) := by
  unfold dropAccess
  split
  · exact keeps_ite hk (keeps_errRecord (keeps_orSticky (keeps_setCrew hu)))
  · exact hk

theorem keeps_zeroStep {u : State} {core : Nat} : Keeps s (zeroStep u t core) := by
  unfold zeroStep
  split
  · exact hk
  · exact keeps_ite hk (keeps_unitFlags (keeps_unitRecord (keeps_poisonTiles (keeps_modCore hk))))

theorem Env.keeps_arrive {e : Env} {l n : Nat} {g : GangName} {bar : Bool} : Keeps s (e.arrive t l n g bar) :=
  keeps_checkGang (keeps_modCrew (keeps_gangTs (Env.keeps_fenced hk)))

theorem keeps_gbarArrForm {e : Env} : Keeps s (gbarArrForm e t).st := by
  unfold gbarArrForm
  split
  · exact Res.keeps_exc hk
  · split
    · exact Res.keeps_exc hk
    · split
      · exact Res.keeps_exc hk
      · exact keeps_done (Env.keeps_arrive hk)

theorem Env.keeps_waitGang {e : Env} {table : Nat} : Keeps s (e.waitGang t table).st := keeps_wait (keeps_modCrew hk)

theorem Env.keeps_nextPhase {e : Env} {l n : Nat} {g : GangName} : Keeps s (e.nextPhase t l n g) := keeps_modCrew hk

theorem keeps_gbarWaitForm {e : Env} : Keeps s (gbarWaitForm e t).st := by
  unfold gbarWaitForm
  split
  · exact Res.keeps_exc hk
  · split
    · exact Res.keeps_exc hk
    · split
      · exact Res.keeps_exc hk
      · split
        · exact keeps_done (Env.keeps_putS (Env.keeps_nextPhase hk))
        · split
          · exact keeps_done (Env.keeps_putS (Env.keeps_nextPhase hk))
          · exact Env.keeps_waitGang hk

theorem keeps_setIssues {l table : Nat} {is : List CollIssue} : Keeps s (setIssues t l table is) := keeps_modLaunch hk

end

end Sys2Proof.Machine
end

section
/-! Gangs, stash instructions, the turns and the step keep the memories canonical (O8). -/

-- One theorem after the other: side by side, the many short ones would ask for more threads than memory allows.
set_option Elab.async false

namespace Sys2Proof.Machine

section
variable {s t : State} (hk : Keeps s t)
include hk

theorem keeps_passColl {i : CollIssue} {table : Nat} : Keeps s (passColl t i table) := by
  unfold passColl
  dsimp only
  split
  · exact hk
  · split
    · exact hk
    · exact keeps_setCrew hk

theorem keeps_collMismatch {l table : Nat} : Keeps s (collMismatch t l table) := by
  unfold collMismatch
  dsimp only
  split
  · exact keeps_foldl (keeps_setIssues hk) (fun _ _ => keeps_passColl (.refl _))
  · split
    · exact keeps_foldl (keeps_setIssues hk) (fun _ _ => keeps_passColl (.refl _))
    · exact keeps_errRecord (keeps_endCrew (keeps_foldl (keeps_setIssues hk) (fun _ _ => keeps_passColl (.refl _))))

theorem Env.keeps_issueColl {e : Env} {l : Nat} {g : GangName} {t' : GangEntry} {form src dst chunk : Nat} :
    Keeps s (e.issueColl t l g t' form src dst chunk).st := by
  unfold Env.issueColl
  dsimp only
  split
  · exact keeps_jump (keeps_collMismatch (keeps_modCrew (keeps_setIssues hk)))
  · exact keeps_jump (keeps_modCrew (keeps_setIssues hk))

theorem keeps_collForm {form : Nat} {e : Env} : Keeps s (collForm form e t).st := by
  unfold collForm
  dsimp only
  split
  · exact Res.keeps_exc hk
  · split
    · exact Res.keeps_exc hk
    · split
      · exact Res.keeps_exc hk
      · split
        · split
          · split
            · exact Res.keeps_exc (Env.keeps_uniVal (Env.keeps_uniVal (Env.keeps_uniVal hk)))
            · split
              · exact Env.keeps_laneTrap (Env.keeps_uniVal (Env.keeps_uniVal (Env.keeps_uniVal hk)))
              · split
                · exact Env.keeps_laneTrap (Env.keeps_uniVal (Env.keeps_uniVal (Env.keeps_uniVal hk)))
                · split
                  · exact Env.keeps_laneTrap (Env.keeps_uniVal (Env.keeps_uniVal (Env.keeps_uniVal hk)))
                  · split
                    · exact keeps_done (Env.keeps_endUses (keeps_foldl (Env.keeps_uniVal (Env.keeps_uniVal
                        (Env.keeps_uniVal hk))) (fun _ _ => keeps_noteXlate (.refl _))))
                    · split
                      · exact keeps_wait (keeps_foldl (Env.keeps_uniVal (Env.keeps_uniVal (Env.keeps_uniVal hk))) (fun
                          _ _ => keeps_noteXlate (.refl _)))
                      · exact Env.keeps_issueColl (Env.keeps_fenced (keeps_foldl (Env.keeps_uniVal (Env.keeps_uniVal
                          (Env.keeps_uniVal hk))) (fun _ _ => keeps_noteXlate (.refl _))))
          · split
            · split
              · exact Res.keeps_exc (Env.keeps_uniVal (Env.keeps_uniVal (Env.keeps_uniVal hk)))
              · split
                · exact Env.keeps_laneTrap (Env.keeps_uniVal (Env.keeps_uniVal (Env.keeps_uniVal hk)))
                · split
                  · exact Env.keeps_laneTrap (Env.keeps_uniVal (Env.keeps_uniVal (Env.keeps_uniVal hk)))
                  · split
                    · exact Env.keeps_laneTrap (Env.keeps_uniVal (Env.keeps_uniVal (Env.keeps_uniVal hk)))
                    · split
                      · exact keeps_done (Env.keeps_endUses (keeps_foldl (Env.keeps_uniVal (Env.keeps_uniVal
                          (Env.keeps_uniVal hk))) (fun _ _ => keeps_noteXlate (.refl _))))
                      · split
                        · exact keeps_wait (keeps_foldl (Env.keeps_uniVal (Env.keeps_uniVal (Env.keeps_uniVal hk)))
                            (fun _ _ => keeps_noteXlate (.refl _)))
                        · exact Env.keeps_issueColl (Env.keeps_fenced (keeps_foldl (Env.keeps_uniVal (Env.keeps_uniVal
                            (Env.keeps_uniVal hk))) (fun _ _ => keeps_noteXlate (.refl _))))
            · split
              · exact Res.keeps_exc (Env.keeps_uniVal (Env.keeps_uniVal (Env.keeps_uniVal hk)))
              · split
                · exact Env.keeps_laneTrap (Env.keeps_uniVal (Env.keeps_uniVal (Env.keeps_uniVal hk)))
                · split
                  · exact Env.keeps_laneTrap (Env.keeps_uniVal (Env.keeps_uniVal (Env.keeps_uniVal hk)))
                  · split
                    · exact Env.keeps_laneTrap (Env.keeps_uniVal (Env.keeps_uniVal (Env.keeps_uniVal hk)))
                    · split
                      · exact keeps_done (Env.keeps_endUses (keeps_foldl (Env.keeps_uniVal (Env.keeps_uniVal
                          (Env.keeps_uniVal hk))) (fun _ _ => keeps_noteXlate (.refl _))))
                      · split
                        · exact keeps_wait (keeps_foldl (Env.keeps_uniVal (Env.keeps_uniVal (Env.keeps_uniVal hk)))
                            (fun _ _ => keeps_noteXlate (.refl _)))
                        · exact Env.keeps_issueColl (Env.keeps_fenced (keeps_foldl (Env.keeps_uniVal (Env.keeps_uniVal
                            (Env.keeps_uniVal hk))) (fun _ _ => keeps_noteXlate (.refl _))))
        · split
          · split
            · split
              · exact Res.keeps_exc (Env.keeps_uniVal (Env.keeps_uniVal (Env.keeps_uniVal hk)))
              · split
                · exact Env.keeps_laneTrap (Env.keeps_uniVal (Env.keeps_uniVal (Env.keeps_uniVal hk)))
                · split
                  · exact Env.keeps_laneTrap (Env.keeps_uniVal (Env.keeps_uniVal (Env.keeps_uniVal hk)))
                  · split
                    · exact Env.keeps_laneTrap (Env.keeps_uniVal (Env.keeps_uniVal (Env.keeps_uniVal hk)))
                    · split
                      · exact keeps_done (Env.keeps_endUses (keeps_foldl (Env.keeps_uniVal (Env.keeps_uniVal
                          (Env.keeps_uniVal hk))) (fun _ _ => keeps_noteXlate (.refl _))))
                      · split
                        · exact keeps_wait (keeps_foldl (Env.keeps_uniVal (Env.keeps_uniVal (Env.keeps_uniVal hk)))
                            (fun _ _ => keeps_noteXlate (.refl _)))
                        · exact Env.keeps_issueColl (Env.keeps_fenced (keeps_foldl (Env.keeps_uniVal (Env.keeps_uniVal
                            (Env.keeps_uniVal hk))) (fun _ _ => keeps_noteXlate (.refl _))))
            · split
              · exact Res.keeps_exc (Env.keeps_uniVal (Env.keeps_uniVal (Env.keeps_uniVal hk)))
              · split
                · exact Env.keeps_laneTrap (Env.keeps_uniVal (Env.keeps_uniVal (Env.keeps_uniVal hk)))
                · split
                  · exact Env.keeps_laneTrap (Env.keeps_uniVal (Env.keeps_uniVal (Env.keeps_uniVal hk)))
                  · split
                    · exact Env.keeps_laneTrap (Env.keeps_uniVal (Env.keeps_uniVal (Env.keeps_uniVal hk)))
                    · split
                      · exact keeps_done (Env.keeps_endUses (keeps_foldl (Env.keeps_uniVal (Env.keeps_uniVal
                          (Env.keeps_uniVal hk))) (fun _ _ => keeps_noteXlate (.refl _))))
                      · split
                        · exact keeps_wait (keeps_foldl (Env.keeps_uniVal (Env.keeps_uniVal (Env.keeps_uniVal hk)))
                            (fun _ _ => keeps_noteXlate (.refl _)))
                        · exact Env.keeps_issueColl (Env.keeps_fenced (keeps_foldl (Env.keeps_uniVal (Env.keeps_uniVal
                            (Env.keeps_uniVal hk))) (fun _ _ => keeps_noteXlate (.refl _))))
          · split
            · split
              · exact Res.keeps_exc (Env.keeps_uniVal (Env.keeps_uniVal (Env.keeps_uniVal hk)))
              · split
                · exact Env.keeps_laneTrap (Env.keeps_uniVal (Env.keeps_uniVal (Env.keeps_uniVal hk)))
                · split
                  · exact Env.keeps_laneTrap (Env.keeps_uniVal (Env.keeps_uniVal (Env.keeps_uniVal hk)))
                  · split
                    · exact Env.keeps_laneTrap (Env.keeps_uniVal (Env.keeps_uniVal (Env.keeps_uniVal hk)))
                    · split
                      · exact keeps_done (Env.keeps_endUses (keeps_foldl (Env.keeps_uniVal (Env.keeps_uniVal
                          (Env.keeps_uniVal hk))) (fun _ _ => keeps_noteXlate (.refl _))))
                      · split
                        · exact keeps_wait (keeps_foldl (Env.keeps_uniVal (Env.keeps_uniVal (Env.keeps_uniVal hk)))
                            (fun _ _ => keeps_noteXlate (.refl _)))
                        · exact Env.keeps_issueColl (Env.keeps_fenced (keeps_foldl (Env.keeps_uniVal (Env.keeps_uniVal
                            (Env.keeps_uniVal hk))) (fun _ _ => keeps_noteXlate (.refl _))))
            · split
              · exact Res.keeps_exc (Env.keeps_uniVal (Env.keeps_uniVal (Env.keeps_uniVal hk)))
              · split
                · exact Env.keeps_laneTrap (Env.keeps_uniVal (Env.keeps_uniVal (Env.keeps_uniVal hk)))
                · split
                  · exact Env.keeps_laneTrap (Env.keeps_uniVal (Env.keeps_uniVal (Env.keeps_uniVal hk)))
                  · split
                    · exact Env.keeps_laneTrap (Env.keeps_uniVal (Env.keeps_uniVal (Env.keeps_uniVal hk)))
                    · split
                      · exact keeps_done (Env.keeps_endUses (keeps_foldl (Env.keeps_uniVal (Env.keeps_uniVal
                          (Env.keeps_uniVal hk))) (fun _ _ => keeps_noteXlate (.refl _))))
                      · split
                        · exact keeps_wait (keeps_foldl (Env.keeps_uniVal (Env.keeps_uniVal (Env.keeps_uniVal hk)))
                            (fun _ _ => keeps_noteXlate (.refl _)))
                        · exact Env.keeps_issueColl (Env.keeps_fenced (keeps_foldl (Env.keeps_uniVal (Env.keeps_uniVal
                            (Env.keeps_uniVal hk))) (fun _ _ => keeps_noteXlate (.refl _))))

theorem Env.keeps_leaveBar {e : Env} {l n : Nat} {g : GangName} : Keeps s (e.leaveBar t l n g) :=
  keeps_modCrew (Env.keeps_nextPhase (keeps_ite (keeps_setIssues hk) hk))

theorem keeps_collBarForm {e : Env} : Keeps s (collBarForm e t).st := by
  unfold collBarForm
  dsimp only
  split
  · exact Res.keeps_exc hk
  · split
    · exact Res.keeps_exc hk
    · split
      · exact Res.keeps_exc hk
      · split
        · split
          · exact keeps_done hk
          · split
            · exact keeps_wait hk
            · exact Env.keeps_issueColl (Env.keeps_fenced hk)
        · split
          · split
            · exact keeps_done (Env.keeps_leaveBar hk)
            · exact Env.keeps_issueColl hk
          · split
            · exact keeps_done (Env.keeps_leaveBar (Env.keeps_arrive hk))
            · exact Env.keeps_issueColl (Env.keeps_arrive hk)

theorem keeps_collRead {fuel : Nat} {i : CollIssue} {c : Crew} {pts va n : Nat} :
    Keeps s (collRead fuel t i c pts va n).2.2 := by
  induction fuel generalizing t i c pts va n with
  | zero =>
    unfold collRead
    exact hk
  | succ n ih =>
    unfold collRead
    dsimp only
    split
    · exact hk
    · split
      · exact ih hk
      · exact ih (keeps_ownerLoad hk)

theorem keeps_sourceChunk {is : List CollIssue} {base before m pts rank j n : Nat} :
    Keeps s (sourceChunk t is base before m pts rank j n).2.2 := by
  unfold sourceChunk
  split
  · exact hk
  · split
    · exact hk
    · exact keeps_collRead hk

theorem keeps_collResult {is : List CollIssue} {base before m pts form op ty n r : Nat} :
    Keeps s (collResult t is base before m pts form op ty n r).2.2 := by
  unfold collResult
  dsimp only
  split <;> exact keeps_foldl_of (f := fun a : List (List Byte × Bool) × Nat × State => a.2.2) hk (fun _ _ =>
    keeps_sourceChunk (.refl _))

theorem keeps_collWrite {fuel : Nat} {c : Crew} {pts va : Nat} {bs : List Byte} :
    Keeps s (collWrite fuel t c pts va bs).2.1 := by
  induction fuel generalizing t c pts va bs with
  | zero =>
    unfold collWrite
    exact hk
  | succ n ih =>
    unfold collWrite
    dsimp only
    split
    · exact hk
    · split
      · exact ih hk
      · split
        · exact ih hk
        · exact ih (keeps_settle (keeps_ownerStore hk))

theorem keeps_levelPts {is : List CollIssue} {ts : Nat} : Keeps s (levelPts t is ts) :=
  keeps_foldl hk (fun _ _ => keeps_modCrew (.refl _))

theorem keeps_moveColl {is : List CollIssue} {before m : Nat} : Keeps s (moveColl t is before m).1 := by
  unfold moveColl
  refine keeps_levelPts (keeps_foldl_of (f := fun a : Nat × State × List (Nat × Nat × Nat) => a.2.1) (keeps_foldl_of
    (f := fun a : List (CollIssue × List Byte × Bool) × Nat × State => a.2.2) (keeps_update hk) (fun _ _ =>
    keeps_collResult (.refl _))) ?_)
  intro u a
  dsimp only
  split
  · exact .refl _
  · exact keeps_ite (keeps_orSticky (keeps_countPoisonRead (keeps_collWrite (.refl _)))) (keeps_collWrite (.refl _))

theorem keepsO_execCollectiveComplete {launch gang : Nat} : KeepsO s (execCollectiveComplete launch gang t) := by
  unfold execCollectiveComplete
  dsimp only
  split
  · exact keepsO_next hk
  · split
    · exact keepsO_next hk
    · split
      · exact keepsO_next hk
      · refine keepsO_next (keeps_foldl (keeps_foldl ?_ (fun _ _ => keeps_passColl (.refl _))) (fun _ _ =>
          keeps_takeException (.refl _)))
        split
        · exact keeps_levelPts (keeps_setIssues hk)
        · exact keeps_moveColl (keeps_setIssues hk)

theorem Env.keeps_descBytes {e : Env} {t' : Target} : Keeps s (e.descBytes t t').2.2 := by
  unfold Env.descBytes
  dsimp only
  split
  · split
    · exact Env.keeps_loadLane hk
    · split
      · split
        · split
          · exact hk
          · split
            · exact State.keeps_caughtIf hk
            · exact hk
        · exact keeps_modCrew (keeps_sendExt (keeps_noteXlate hk))
      · split
        · exact hk
        · exact Env.keeps_loadLane hk
  · exact Env.keeps_loadLane hk

theorem Env.keeps_mapWith {e : Env} {d : MapDesc} {pts : Nat} : Keeps s (e.mapWith t d pts).st := by
  unfold Env.mapWith
  dsimp only
  split
  · exact Env.keeps_laneTrap hk
  · split
    · exact keeps_late (Env.keeps_putS (Env.keeps_endUses (Env.keeps_noteRefused (keeps_noteXlate hk))))
    · exact keeps_done (Env.keeps_putS (Env.keeps_raisePts (keeps_ite (keeps_foldl (keeps_doSmap (keeps_foldl
        (Env.keeps_endUses hk) (fun _ _ => keeps_noteXlate (.refl _)))) (fun _ _ => keeps_claimPriv (.refl _)))
        (keeps_doSmap (keeps_foldl (Env.keeps_endUses hk) (fun _ _ => keeps_noteXlate (.refl _)))))))

omit hk in
theorem keeps_of_snd_snd {α β : Type} {u : State} {p : α × β × State} {a : α} {b : β} (h : Keeps s p.2.2)
    (e : p = (a, b, u)) : Keeps s u := by
  subst e
  exact h

theorem keeps_smapForm {e : Env} : Keeps s (smapForm e t).st := by
  unfold smapForm
  dsimp only
  split
  · exact keeps_exc hk
  · split
    · exact keeps_wait (Env.keeps_keepRequest hk)
    · refine Env.keeps_withLanes hk fun u a => ?_
      split
      · exact keeps_exc (.refl _)
      · have hbytes {v : State} {x : Target} := Env.keeps_descBytes (e := e) (t' := x) (Keeps.refl v)
        split
        · next he => exact keeps_wait (Env.keeps_keepRequest (keeps_of_snd_snd hbytes he))
        · next he =>
          exact keeps_late (Env.keeps_putS (Env.keeps_endUses (Env.keeps_dropRequest (keeps_of_snd_snd hbytes he))))
        · next he =>
          have hu := keeps_of_snd_snd hbytes he
          split
          · exact keeps_exc (keeps_countPoisonRead hu)
          · split
            · exact keeps_exc hu
            · exact Env.keeps_mapWith (Env.keeps_dropRequest hu)

theorem keeps_capture {core : Nat} {r : StashReq} : Keeps s (capture t core r) :=
  keeps_discharge (keeps_ite (keeps_endMap hk) (keeps_flushMap hk))

theorem keeps_unmapForm {kind : Nat} {e : Env} : Keeps s (unmapForm kind e t).st := by
  unfold unmapForm
  dsimp only
  split
  · exact keeps_done (keeps_dischargeBoth (Env.keeps_obligeFlags (Env.keeps_endUses (Env.keeps_dropRequest
      (Env.keeps_uniVal hk)))))
  · split
    · exact keeps_done (keeps_capture (keeps_modCore (Env.keeps_obligeFlags (Env.keeps_endUses (Env.keeps_dropRequest
        (Env.keeps_uniVal hk))))))
    · exact keeps_wait (Env.keeps_keepRequest (Env.keeps_uniVal hk))

theorem keeps_stashWritebackDone {core index : Nat} : Keeps s (stashWritebackDone t core index) := by
  unfold stashWritebackDone
  dsimp only
  split
  · exact hk
  · exact keeps_ite (keeps_discharge (keeps_modCore hk)) hk

theorem keepsO_exec {i : Instr} : KeepsO s (exec i t) := by
  unfold exec
  split
  · exact keepsO_issue hk (fun _ _ => keeps_nopForm (.refl _))
  · exact keepsO_issue hk (fun _ _ => keeps_brkForm (.refl _))
  · exact keepsO_issue hk (fun _ _ => keeps_brForm (.refl _))
  · exact keepsO_issue hk (fun _ _ => keeps_brDivForm (.refl _))
  · exact keepsO_issue hk (fun _ _ => keeps_joinForm (.refl _))
  · exact keepsO_issue hk (fun _ _ => keeps_callForm (.refl _))
  · exact keepsO_issue hk (fun _ _ => keeps_retForm (.refl _))
  · exact keepsO_issue hk (fun _ _ => keeps_exitForm (.refl _))
  · exact keepsO_execDrainEnd hk
  · exact keepsO_issue hk (fun _ _ => keeps_yieldContForm (.refl _))
  · exact keepsO_issue hk (fun _ _ => keeps_flgRdForm (.refl _))
  · exact keepsO_issue hk (fun _ _ => keeps_flgClrForm (.refl _))
  · exact keepsO_issue hk (fun _ _ => keeps_lampJoinForm (.refl _))
  · exact keepsO_issue hk (fun _ _ => keeps_lampTakeForm (.refl _))
  · exact keepsO_issue hk (fun _ _ => keeps_lampPassForm (.refl _))
  · exact keepsO_issue hk (fun _ _ => keeps_csrrForm (.refl _))
  · exact keepsO_issue hk (fun _ _ => keeps_csrwForm (.refl _))
  · exact keepsO_issue hk (fun _ _ => keeps_uintPostForm (.refl _))
  · exact keepsO_issue hk (fun _ _ => keeps_uintRetForm (.refl _))
  · exact keepsO_issue hk (fun _ _ => keeps_svcForm (.refl _))
  · exact keepsO_issue hk (fun _ _ => keeps_waitcForm (.refl _))
  · exact keepsO_issue hk (fun _ _ => keeps_spawnForm (.refl _))
  · exact keepsO_issue hk (fun _ _ => keeps_nsigForm (.refl _))
  · exact keepsO_issue hk (fun _ _ => keeps_npubForm (.refl _))
  · exact keepsO_execClauseHeader hk
  · exact keepsO_issue hk (fun _ _ => keeps_intForm (.refl _))
  · exact keepsO_issue hk (fun _ _ => keeps_intForm (.refl _))
  · exact keepsO_issue hk (fun _ _ => keeps_intForm (.refl _))
  · exact keepsO_issue hk (fun _ _ => keeps_intForm (.refl _))
  · exact keepsO_issue hk (fun _ _ => keeps_intForm (.refl _))
  · exact keepsO_issue hk (fun _ _ => keeps_divForm (.refl _))
  · exact keepsO_issue hk (fun _ _ => keeps_intForm (.refl _))
  · exact keepsO_issue hk (fun _ _ => keeps_intForm (.refl _))
  · exact keepsO_issue hk (fun _ _ => keeps_intForm (.refl _))
  · exact keepsO_issue hk (fun _ _ => keeps_intForm (.refl _))
  · exact keepsO_issue hk (fun _ _ => keeps_intForm (.refl _))
  · exact keepsO_issue hk (fun _ _ => keeps_intForm (.refl _))
  · exact keepsO_issue hk (fun _ _ => keeps_intForm (.refl _))
  · exact keepsO_issue hk (fun _ _ => keeps_intForm (.refl _))
  · exact keepsO_issue hk (fun _ _ => keeps_intForm (.refl _))
  · exact keepsO_issue hk (fun _ _ => keeps_scmpForm (.refl _))
  · exact keepsO_issue hk (fun _ _ => keeps_intForm (.refl _))
  · exact keepsO_issue hk (fun _ _ => keeps_intForm (.refl _))
  · exact keepsO_issue hk (fun _ _ => keeps_intForm (.refl _))
  · exact keepsO_issue hk (fun _ _ => keeps_intForm (.refl _))
  · exact keepsO_issue hk (fun _ _ => keeps_intForm (.refl _))
  · exact keepsO_issue hk (fun _ _ => keeps_intForm (.refl _))
  · exact keepsO_issue hk (fun _ _ => keeps_intForm (.refl _))
  · exact keepsO_issue hk (fun _ _ => keeps_intForm (.refl _))
  · exact keepsO_issue hk (fun _ _ => keeps_intForm (.refl _))
  · exact keepsO_issue hk (fun _ _ => keeps_intForm (.refl _))
  · exact keepsO_issue hk (fun _ _ => keeps_intForm (.refl _))
  · exact keepsO_issue hk (fun _ _ => keeps_intForm (.refl _))
  · exact keepsO_issue hk (fun _ _ => keeps_intForm (.refl _))
  · exact keepsO_issue hk (fun _ _ => keeps_intForm (.refl _))
  · exact keepsO_issue hk (fun _ _ => keeps_intForm (.refl _))
  · exact keepsO_issue hk (fun _ _ => keeps_divForm (.refl _))
  · exact keepsO_issue hk (fun _ _ => keeps_intForm (.refl _))
  · exact keepsO_issue hk (fun _ _ => keeps_intForm (.refl _))
  · exact keepsO_issue hk (fun _ _ => keeps_intForm (.refl _))
  · exact keepsO_issue hk (fun _ _ => keeps_intForm (.refl _))
  · exact keepsO_issue hk (fun _ _ => keeps_intForm (.refl _))
  · exact keepsO_issue hk (fun _ _ => keeps_intForm (.refl _))
  · exact keepsO_issue hk (fun _ _ => keeps_intForm (.refl _))
  · exact keepsO_issue hk (fun _ _ => keeps_intForm (.refl _))
  · exact keepsO_issue hk (fun _ _ => keeps_intForm (.refl _))
  · exact keepsO_issue hk (fun _ _ => keeps_intForm (.refl _))
  · exact keepsO_issue hk (fun _ _ => keeps_intForm (.refl _))
  · exact keepsO_issue hk (fun _ _ => keeps_intForm (.refl _))
  · exact keepsO_issue hk (fun _ _ => keeps_intForm (.refl _))
  · exact keepsO_issue hk (fun _ _ => keeps_intForm (.refl _))
  · exact keepsO_issue hk (fun _ _ => keeps_intForm (.refl _))
  · exact keepsO_issue hk (fun _ _ => keeps_intForm (.refl _))
  · exact keepsO_issue hk (fun _ _ => keeps_intForm (.refl _))
  · exact keepsO_issue hk (fun _ _ => keeps_intForm (.refl _))
  · exact keepsO_issue hk (fun _ _ => keeps_vselForm (.refl _))
  · exact keepsO_issue hk (fun _ _ => keeps_vcmpForm (.refl _))
  · exact keepsO_issue hk (fun _ _ => keeps_vplogForm (.refl _))
  · exact keepsO_issue hk (fun _ _ => keeps_pack2 (.refl _))
  · exact keepsO_issue hk (fun _ _ => keeps_pack2 (.refl _))
  · exact keepsO_issue hk (fun _ _ => keeps_pack2 (.refl _))
  · exact keepsO_issue hk (fun _ _ => keeps_pack2 (.refl _))
  · exact keepsO_issue hk (fun _ _ => keeps_pack2 (.refl _))
  · exact keepsO_issue hk (fun _ _ => keeps_pack2 (.refl _))
  · exact keepsO_issue hk (fun _ _ => keeps_packForm (.refl _))
  · exact keepsO_issue hk (fun _ _ => keeps_packForm (.refl _))
  · exact keepsO_issue hk (fun _ _ => keeps_packForm (.refl _))
  · exact keepsO_issue hk (fun _ _ => keeps_packForm (.refl _))
  · exact keepsO_issue hk (fun _ _ => keeps_packForm (.refl _))
  · exact keepsO_issue hk (fun _ _ => keeps_packForm (.refl _))
  · exact keepsO_issue hk (fun _ _ => keeps_adrtForm (.refl _))
  · exact keepsO_issue hk (fun _ _ => keeps_sshprForm (.refl _))
  · exact keepsO_issue hk (fun _ _ => keeps_shapeWrite (.refl _))
  · exact keepsO_issue hk (fun _ _ => keeps_shapeWrite (.refl _))
  · exact keepsO_issue hk (fun _ _ => keeps_adrtForm (.refl _))
  · exact keepsO_issue hk (fun _ _ => keeps_vinrtForm (.refl _))
  · exact keepsO_issue hk (fun _ _ => keeps_roundForm (.refl _))
  · exact keepsO_issue hk (fun _ _ => keeps_roundForm (.refl _))
  · exact keepsO_issue hk (fun _ _ => keeps_roundForm (.refl _))
  · exact keepsO_issue hk (fun _ _ => keeps_roundForm (.refl _))
  · exact keepsO_issue hk (fun _ _ => keeps_roundForm (.refl _))
  · exact keepsO_issue hk (fun _ _ => keeps_roundForm (.refl _))
  · exact keepsO_issue hk (fun _ _ => keeps_roundForm (.refl _))
  · exact keepsO_issue hk (fun _ _ => keeps_minMaxForm (.refl _))
  · exact keepsO_issue hk (fun _ _ => keeps_minMaxForm (.refl _))
  · exact keepsO_issue hk (fun _ _ => keeps_bitForm (.refl _))
  · exact keepsO_issue hk (fun _ _ => keeps_bitForm (.refl _))
  · exact keepsO_issue hk (fun _ _ => keeps_bitForm (.refl _))
  · exact keepsO_issue hk (fun _ _ => keeps_dotForm (.refl _))
  · exact keepsO_issue hk (fun _ _ => keeps_rndForm (.refl _))
  · exact keepsO_issue hk (fun _ _ => keeps_roundForm (.refl _))
  · exact keepsO_issue hk (fun _ _ => keeps_roundForm (.refl _))
  · exact keepsO_issue hk (fun _ _ => keeps_roundForm (.refl _))
  · exact keepsO_issue hk (fun _ _ => keeps_roundForm (.refl _))
  · exact keepsO_issue hk (fun _ _ => keeps_minMaxForm (.refl _))
  · exact keepsO_issue hk (fun _ _ => keeps_minMaxForm (.refl _))
  · exact keepsO_issue hk (fun _ _ => keeps_vfcmpForm (.refl _))
  · exact keepsO_issue hk (fun _ _ => keeps_sfcmpForm (.refl _))
  · exact keepsO_issue hk (fun _ _ => keeps_fcmpmForm (.refl _))
  · exact keepsO_issue hk (fun _ _ => keeps_bitForm (.refl _))
  · exact keepsO_issue hk (fun _ _ => keeps_estForm (.refl _))
  · exact keepsO_issue hk (fun _ _ => keeps_estForm (.refl _))
  · exact keepsO_issue hk (fun _ _ => keeps_roundForm (.refl _))
  · exact keepsO_issue hk (fun _ _ => keeps_roundForm (.refl _))
  · exact keepsO_issue hk (fun _ _ => keeps_estForm (.refl _))
  · exact keepsO_issue hk (fun _ _ => keeps_estForm (.refl _))
  · exact keepsO_issue hk (fun _ _ => keeps_estForm (.refl _))
  · exact keepsO_issue hk (fun _ _ => keeps_estForm (.refl _))
  · exact keepsO_issue hk (fun _ _ => keeps_estForm (.refl _))
  · exact keepsO_issue hk (fun _ _ => keeps_cvtForm (.refl _))
  · exact keepsO_issue hk (fun _ _ => keeps_cvtForm (.refl _))
  · exact keepsO_issue hk (fun _ _ => keeps_vpermForm (.refl _))
  · exact keepsO_issue hk (fun _ _ => keeps_vmatchForm (.refl _))
  · exact keepsO_issue hk (fun _ _ => keeps_vvoteForm (.refl _))
  · exact keepsO_issue hk (fun _ _ => keeps_vredForm (.refl _))
  · exact keepsO_issue hk (fun _ _ => keeps_vscanForm (.refl _))
  · exact keepsO_issue hk (fun _ _ => keeps_vrdlForm (.refl _))
  · exact keepsO_issue hk (fun _ _ => keeps_loadForm (.refl _))
  · exact keepsO_issue hk (fun _ _ => keeps_storeForm (.refl _))
  · exact keepsO_issue hk (fun _ _ => keeps_loadForm (.refl _))
  · exact keepsO_issue hk (fun _ _ => keeps_storeForm (.refl _))
  · exact keepsO_issue hk (fun _ _ => keeps_loadForm (.refl _))
  · exact keepsO_issue hk (fun _ _ => keeps_storeForm (.refl _))
  · exact keepsO_issue hk (fun _ _ => keeps_loadForm (.refl _))
  · exact keepsO_issue hk (fun _ _ => keeps_storeForm (.refl _))
  · exact keepsO_issue hk (fun _ _ => keeps_smapForm (.refl _))
  · exact keepsO_issue hk (fun _ _ => keeps_unmapForm (.refl _))
  · exact keepsO_issue hk (fun _ _ => keeps_unmapForm (.refl _))
  · exact keepsO_next (keeps_stashWritebackDone hk)
  · exact keepsO_issue hk (fun _ _ => keeps_cleanForm (.refl _))
  · exact keepsO_issue hk (fun _ _ => keeps_cleanForm (.refl _))
  · exact keepsO_issue hk (fun _ _ => keeps_atomOp (.refl _))
  · exact keepsO_issue hk (fun _ _ => keeps_casOp (.refl _))
  · exact keepsO_issue hk (fun _ _ => keeps_atomOp (.refl _))
  · exact keepsO_issue hk (fun _ _ => keeps_casOp (.refl _))
  · exact keepsO_issue hk (fun _ _ => keeps_redForm (.refl _))
  · exact keepsO_issue hk (fun _ _ => keeps_redForm (.refl _))
  · exact keepsO_issue hk (fun _ _ => keeps_fenceForm (.refl _))
  · exact keepsO_issue hk (fun _ _ => keeps_amsgForm (.refl _))
  · exact keepsO_execAmsgReply hk
  · exact keepsO_issue hk (fun _ _ => keeps_gbarArrForm (.refl _))
  · exact keepsO_issue hk (fun _ _ => keeps_gbarWaitForm (.refl _))
  · exact keepsO_issue hk (fun _ _ => keeps_collForm (.refl _))
  · exact keepsO_issue hk (fun _ _ => keeps_collForm (.refl _))
  · exact keepsO_issue hk (fun _ _ => keeps_collForm (.refl _))
  · exact keepsO_issue hk (fun _ _ => keeps_collBarForm (.refl _))
  · exact keepsO_issue hk (fun _ _ => keeps_hoistForm (.refl _))
  · exact keepsO_issue hk (fun _ _ => keeps_hoistForm (.refl _))
  · exact keepsO_issue hk (fun _ _ => keeps_hoistForm (.refl _))
  · exact keepsO_issue hk (fun _ _ => keeps_hcmpForm (.refl _))
  · exact keepsO_issue hk (fun _ _ => keeps_hpubForm (.refl _))
  · exact keepsO_execHpubExchange hk
  · exact keepsO_issue hk (fun _ _ => keeps_cwaitForm (.refl _))
  · exact keepsO_next (keeps_hoistRowDone hk)
  · exact keepsO_execHoistWatchdogExpire hk
  · exact keepsO_issue hk (fun _ _ => keeps_mldForm (.refl _))
  · exact keepsO_issue hk (fun _ _ => keeps_mmulForm (.refl _))
  · exact keepsO_issue hk (fun _ _ => keeps_mzeroForm (.refl _))
  · exact keepsO_issue hk (fun _ _ => keeps_mrdForm (.refl _))
  · exact keepsO_issue hk (fun _ _ => keeps_mredForm (.refl _))
  · exact keepsO_issue hk (fun _ _ => keeps_mwaitForm (.refl _))
  · exact keepsO_issue hk (fun _ _ => keeps_mkwForm (.refl _))
  · exact keepsO_issue hk (fun _ _ => keeps_mkrForm (.refl _))
  · exact keepsO_issue hk (fun _ _ => keeps_bselTopkForm (.refl _))
  · exact keepsO_execMmulRowCommit hk
  · exact keepsO_execEngineInsnDone hk
  · exact keepsO_issue hk (fun _ _ => keeps_lodeBindForm (.refl _))
  · exact keepsO_issue hk (fun _ _ => keeps_lodeFreeForm (.refl _))
  · exact keepsO_issue hk (fun _ _ => keeps_lodeSum (.refl _))
  · exact keepsO_issue hk (fun _ _ => keeps_lodeSum (.refl _))
  · exact keepsO_issue hk (fun _ _ => keeps_lodeNeg (.refl _))
  · exact keepsO_issue hk (fun _ _ => keeps_lodeShift (.refl _))
  · exact keepsO_issue hk (fun _ _ => keeps_lodeShift (.refl _))
  · exact keepsO_issue hk (fun _ _ => keeps_lodeCmp (.refl _))
  · exact keepsO_issue hk (fun _ _ => keeps_lodeClz (.refl _))
  · exact keepsO_issue hk (fun _ _ => keeps_lodeMul (.refl _))
  · exact keepsO_issue hk (fun _ _ => keeps_lodeMul (.refl _))
  · exact keepsO_issue hk (fun _ _ => keeps_lodeAcc (.refl _))
  · exact keepsO_issue hk (fun _ _ => keeps_lodeRound (.refl _))
  · exact keepsO_onHandler hk (fun _ _ _ _ => keepsH_asEvtForm (.refl _))
  · exact keepsO_onHandler hk (fun _ _ _ _ => keepsH_asLdForm (.refl _))
  · exact keepsO_onHandler hk (fun _ _ _ _ => keepsH_asStForm (.refl _))
  · exact keepsO_onHandler hk (fun _ _ _ _ => keepsH_asCasForm (.refl _))
  · exact keepsO_onHandler hk (fun _ _ _ _ => keepsH_asPfForm (.refl _))
  · exact keepsO_onHandler hk (fun _ _ _ _ => keepsH_asWakeForm (.refl _))
  · exact keepsO_onHandler hk (fun _ _ _ _ => keepsH_asMsgForm (.refl _))
  · exact keepsO_onHandler hk (fun _ _ _ _ => keepsH_asTlbForm (.refl _))
  · exact keepsO_onHandler hk (fun _ _ _ _ => keepsH_asLeftForm (.refl _))
  · exact keepsO_onHandler hk (fun _ _ _ _ => keepsH_asDoneForm (.refl _))
  · exact keepsO_next (keeps_dispatch hk)
  · exact keepsO_execHandlerBudgetExpire hk
  · exact keepsO_next (keeps_acceptLaunch hk)
  · exact keepsO_execClaimCrews hk
  · exact keepsO_execPlaceCrew hk
  · exact keepsO_next (keeps_placeClosure hk)
  · exact keepsO_next (keeps_modCrew hk)
  · exact keepsO_execReservationStart hk
  · exact keepsO_execBinTimerExpire hk
  · exact keepsO_execBinStallTimer hk
  · exact keepsO_execSwapOut hk
  · exact keepsO_execSwapIn hk
  · exact keepsO_execMonitorRecheck hk
  · exact keepsO_execMonitorAudit hk
  · exact keepsO_execWaitcReply hk
  · exact keepsO_next (keeps_refreshDone hk)
  · exact keepsO_next (keeps_ite (keeps_haltCrews hk) hk)
  · exact keepsO_next (keeps_saveCore hk)
  · exact keepsO_execSaveDelayTimer hk
  · exact keepsO_next (keeps_ite (keeps_restoreContext hk) hk)
  · exact keepsO_execCrewWatchdogExpire hk
  · exact keepsO_next (keeps_ite (keeps_serveRing (keeps_modRing hk)) hk)
  · exact keepsO_execCompletionRecord hk
  · exact keepsO_execNoOperation hk
  · exact keepsO_execSeal hk
  · exact keepsO_execUnseal hk
  · exact keepsO_withCommand hk (fun _ _ _ => keeps_preemptStart (.refl _)) (fun _ _ _ => keeps_preemptGo (.refl _))
  · exact keepsO_withCommand hk (fun _ _ _ => keeps_resumeStart (.refl _)) (fun _ _ _ => keeps_resumeGo (.refl _))
  · exact keepsO_execInvalidateTranslations hk
  · exact keepsO_withCommand hk (fun _ _ _ => keeps_installStart (.refl _)) (fun _ _ _ => keeps_installStart (.refl _))
  · exact keepsO_withCommand hk (fun _ _ _ => keeps_removeStart (.refl _)) (fun _ _ _ => keeps_removeGo (.refl _))
  · exact keepsO_withCommand hk (fun _ _ _ => keeps_debugStart (.refl _)) (fun _ _ _ => keeps_debugStart (.refl _))
  · exact keepsO_withCommand hk (fun _ _ _ => keeps_joinStart (.refl _)) (fun _ _ _ => keeps_joinStart (.refl _))
  · exact keepsO_execPowerEvaluation hk
  · exact keepsO_execCollectiveComplete hk
  · exact keepsO_execMacroSelfTest hk
  · exact keepsO_execLoadReturn hk
  · exact keepsO_execPageWalkDone hk
  · exact keepsO_execRemoteErrorResponse hk
  · exact keepsO_next (keeps_ite (keeps_dropDesc hk) hk)
  · exact keepsO_next (keeps_ite (keeps_storeState hk) hk)
  · exact keepsO_execSupervisorDone hk
  · exact keepsO_next (keeps_ite hk (keeps_writeCeil hk))
  · exact keepsO_next (keeps_writeHouse hk)
  · exact keepsO_execHostAccess hk
  · exact keepsO_execPeerRequest hk
  · exact keepsO_execIoDeviceWrite hk
  · exact keepsO_execCxlCompletionTimeout hk
  · exact keepsO_next (keeps_ite hk (keeps_update hk))
  · exact keepsO_execRouterFail hk
  · exact keepsO_next (keeps_ite (keeps_errCount hk) hk)
  · exact keepsO_execUcieLinkDown hk
  · exact keepsO_execAditResend hk
  · exact keepsO_execAditPortDown hk
  · exact keepsO_execIoCoreFail hk
  · exact keepsO_execStockpileScrub hk
  · exact keepsO_execHbmPatrolScrub hk
  · exact keepsO_execPowerUp hk
  · exact keepsO_next (keeps_update hk)
  · exact keepsO_execWriteAcknowledgement hk
  · exact keepsO_next (keeps_modCrew hk)
  · exact keepsO_execManagedCopyEviction hk
  · exact keepsO_execLineFill hk
  · exact keepsO_execEngineWatchdogExpire hk
  · exact keepsO_next (keeps_ite hk (keeps_update hk))
  · exact keepsO_execPowerLoss
  · exact keepsO_execApplicationCoreAccess hk

theorem keeps_noteFetch {crew entry : Nat} {c : Crew} {pc n : Nat} : Keeps s (noteFetch t crew entry c pc n) := by
  unfold noteFetch
  dsimp only
  split
  · exact keeps_noteFail hk
  · split
    · exact keeps_orSticky (keeps_countPoisonRead (State.keeps_caughtIf (keeps_ite (keeps_homeRead (keeps_noteXlate
        hk)) (keeps_detectBy (keeps_noteXlate hk)))))
    · exact keeps_ite (keeps_homeRead (keeps_noteXlate hk)) (keeps_detectBy (keeps_noteXlate hk))

theorem keeps_atInstr {crew entry pc : Nat} {clause : Option Clause} : Keeps s (atInstr t crew entry pc clause) :=
  keeps_update (keeps_modCrew hk)

theorem keeps_pullCode {crew entry : Nat} {c : Crew} {p : Nat × Nat × Nat} : Keeps s (pullCode t crew entry c p) := by
  unfold pullCode
  dsimp only
  split
  · exact keeps_modCrew hk
  · exact keeps_modCrew (keeps_sendExt hk)

theorem keepsOpt_fetchBeyond {crew entry : Nat} {c : Crew} {x : Split} :
    KeepsOpt (fun x => x) s (fetchBeyond t crew entry c x) := by
  unfold fetchBeyond
  dsimp only
  split
  · exact keepsOpt_some (keeps_takeException hk)
  · split
    · exact keepsOpt_none
    · exact keepsOpt_some (keeps_waitHere (keeps_foldl hk (fun _ _ => keeps_pullCode (.refl _))))

theorem keeps_issued {crew entry : Nat} {x : Split} {i : Instr} : Keeps s (issued t crew entry x i) := by
  unfold issued
  dsimp only
  split
  · exact hk
  · exact keeps_ite (keeps_ite hk (keeps_modCrew hk)) (keeps_modCrew (keeps_ite hk (keeps_modCrew hk)))

theorem keepsO_splitTurn {crew entry : Nat} : KeepsO s (splitTurn t crew entry) := by
  unfold splitTurn
  split
  · exact keepsO_next hk
  · split
    · exact keepsO_next hk
    · split
      · exact keepsO_next (keeps_modCrew hk)
      · split
        · exact keepsO_next hk
        · split
          · next he => exact keepsO_next (keepsOpt_fetchBeyond hk _ he)
          · split
            · split
              · exact keepsO_next (keeps_waitHere hk)
              · split
                · next he =>
                  exact keepsO_next (keeps_issued (keepsO_exec (keeps_atInstr (keeps_noteFetch hk)) _ he))
                · exact keepsO_exec (keeps_atInstr (keeps_noteFetch hk))
            · exact keepsO_next (keeps_takeException (keeps_noteFetch hk))

theorem keepsO_handlerStep {slice stall : Nat} : KeepsO s (handlerStep t slice stall) := by
  unfold handlerStep
  split
  · exact keepsO_next hk
  · next he =>
      exact keepsO_next (HStep.keeps_of_ends (keepsStep_handlerTurn hk) he)
  · next he =>
      exact keepsO_exec (keeps_update (HStep.keeps_of_run (keepsStep_handlerTurn hk) he))

omit hk in
theorem Slice.dataOk_passes {x : Slice} {n : Nat} (h : x.dataOk) : (x.passes n).dataOk := by
  unfold Slice.passes
  split
  · exact h
  · split
    · exact h
    · next i hi => exact dataOk_tabPut h _ (h _ (mem_of_tabGet hi))

theorem keeps_passTime {n : Nat} : Keeps s (passTime t n) := by
  intro hs
  obtain ⟨hmem, hcores, hslices⟩ := hk hs
  refine ⟨hmem, fun c hc => ?_, fun l hl => ?_⟩
  · obtain ⟨x, hx, rfl⟩ := List.mem_map.mp hc
    exact hcores x hx
  · obtain ⟨x, hx, rfl⟩ := List.mem_map.mp hl
    exact Slice.dataOk_stalls (Slice.dataOk_passes (hslices x hx))

theorem keeps_recordFind {f : Find} : Keeps s (recordFind t f) :=
  keeps_ite (keeps_errRecord hk) (keeps_ite (keeps_noteHit (keeps_errRecord hk)) (keeps_errRecord hk))

theorem keeps_flushFinds : Keeps s (flushFinds t) :=
  keeps_foldl (keeps_foldl (keeps_foldl (keeps_update hk) (fun _ _ => keeps_recordFind (.refl _))) (fun _ _ =>
    keeps_errRecord (.refl _))) (fun _ _ => keeps_errCounts (.refl _))

theorem keeps_strikeGranule {pa : Nat} : Keeps s (strikeGranule t pa) := keeps_ite (keeps_update hk) hk

theorem keepsO_turnOf {turn : Turn} : KeepsO s (turnOf t turn) := by
  unfold turnOf
  split
  · exact keepsO_splitTurn hk
  · exact keepsO_handlerStep hk
  · exact keepsO_next (keeps_bootOn (keeps_passTime hk))
  · exact keepsO_next (keeps_strikeGranule hk)
  · split
    · exact keepsO_next hk
    · exact keepsO_exec (keeps_update hk)
  · split
    · next he => exact keepsO_next (keeps_zeroResult (keepsO_splitTurn hk _ he))
    · exact keepsO_splitTurn hk
  · split
    · next he => exact keepsO_next (keeps_dropAccess (keepsO_splitTurn hk _ he) hk)
    · exact keepsO_splitTurn hk
  · split
    · next he => exact keepsO_next (keeps_zeroStep (keepsO_exec (keeps_update hk) _ he))
    · exact keepsO_exec (keeps_update hk)
  · exact keepsO_next (keeps_strikeUnit hk)

theorem keeps_heldBack {turn : Turn} : Keeps s (heldBack t turn) := by
  unfold heldBack
  dsimp only
  split
  · exact keeps_waitHere (keeps_update hk)
  · exact keeps_update hk

theorem keeps_releaseHeld {u : State} {turn : Turn} : Keeps s (releaseHeld u t turn) := keeps_ite (keeps_update hk) hk

theorem keeps_relook : Keeps s (relook t) := keeps_update hk

theorem keeps_settleTurn {u : State} {turn : Turn} : Keeps s (settleTurn u t turn) :=
  keeps_relook (keeps_releaseHeld (keeps_flushFinds hk))

theorem keepsO_underLocks {turn : Turn} {o : Host.Outcome State Fault Refusal} (ho : KeepsO s o) :
    KeepsO s (underLocks t turn o) := by
  unfold underLocks
  split
  · exact keepsO_next (keeps_ite (keeps_heldBack hk) (keeps_settleTurn (ho _ rfl)))
  · exact keepsO_fault
  · exact keepsO_refused

theorem keepsO_runTurn : KeepsO s (runTurn t) := by
  unfold runTurn
  dsimp only
  split
  · split
    · exact keepsO_next (keeps_update hk)
    · exact keepsO_fault
  · split
    · exact keepsO_underLocks (keeps_update hk) (keepsO_turnOf (keeps_update hk))
    · split
      · exact keepsO_execPowerUp (keeps_update hk)
      · exact keepsO_next (keeps_update hk)

theorem keepsO_step : KeepsO s (step t) := keepsO_runTurn hk

end

end Sys2Proof.Machine
end

section
/-! The obligation. -/

namespace Sys2Proof.Machine

/-- Settles O8: every function that a step runs keeps the memories canonical (`Keeps`), and so does the step. -/
theorem memoriesStayCanonical : Obligations.MemoriesStayCanonical :=
  fun s t hs ht => keepsO_step (.refl s) t ht hs

end Sys2Proof.Machine
end
